-- ==== Sys2Proof/Word.lean ====
section
/-! DEFINITION. The word types of the machine (spec/01 R8, R22; spec/04 R74). -/

namespace Sys2Proof

/-- A 64-bit register value (R8). -/
abbrev Word := BitVec 64
/-- One byte of memory (R3). -/
abbrev Byte := BitVec 8
/-- A 512-bit route register or 64-byte line (R8, R232). -/
abbrev Line := BitVec 512
/-- A vector register (R8). -/
abbrev VReg := BitVec 2048
/-- A mask register (R8). -/
abbrev MReg := BitVec 4096
/-- A 5-bit register field (R30). -/
abbrev Reg := BitVec 5

/-- sext(v, w): sign extension to 64 bits (R22). -/
abbrev sext64 {w : Nat} (v : BitVec w) : Word := v.signExtend 64
/-- zext(v, w): zero extension to 64 bits (R22). -/
abbrev zext64 {w : Nat} (v : BitVec w) : Word := v.setWidth 64

end Sys2Proof
end

