-- ==== Sys2Proof/Machine/Operands.lean ====
section
/-! DEFINITION. Operand forms and integer results: immediates of the formats (spec/02 R31), and the operations that the
scalar, compact, word, vector and atomic instructions share (spec/05 R97-R100). -/

namespace Sys2Proof.Machine

/-! Immediates (R31). -/

/-- imm14, sign-extended. -/
def imm14 (i : BitVec 14) : Word := i.signExtend 64
/-- The XM offset: sext(imm10, 10) × 2^size. -/
def immXm (i : BitVec 10) (size : Nat) : Word := (i.signExtend 64) <<< size
/-- The XB displacement: sext(off14, 14) × 2. -/
def offXb (i : BitVec 14) : Word := (i.signExtend 64) <<< 1
/-- The XJ displacement: sext(off19, 19) × 2. -/
def offXj (i : BitVec 19) : Word := (i.signExtend 64) <<< 1
/-- The XL immediate: sext(imm19, 19) << 13. -/
def immXl (i : BitVec 19) : Word := (i.signExtend 64) <<< 13

/-! Integer operations on any width (R97-R99). -/

/-- Number of leading zero bits. -/
def clzN {w : Nat} (a : BitVec w) : Nat := ((List.range w).find? fun i => a.getMsbD i).getD w
/-- Number of trailing zero bits. -/
def ctzN {w : Nat} (a : BitVec w) : Nat := ((List.range w).find? fun i => a.getLsbD i).getD w
/-- Number of one bits. -/
def cpopN {w : Nat} (a : BitVec w) : Nat := ((List.range w).filter fun i => a.getLsbD i).length
/-- The eight bytes of a in reverse order. -/
def bswap8 (a : BitVec 64) : BitVec 64 :=
  a.extractLsb' 0 8 ++ a.extractLsb' 8 8 ++ a.extractLsb' 16 8 ++ a.extractLsb' 24 8 ++
  a.extractLsb' 32 8 ++ a.extractLsb' 40 8 ++ a.extractLsb' 48 8 ++ a.extractLsb' 56 8
/-- The four bytes of a in reverse order. -/
def bswap4 (a : BitVec 32) : BitVec 32 :=
  a.extractLsb' 0 8 ++ a.extractLsb' 8 8 ++ a.extractLsb' 16 8 ++ a.extractLsb' 24 8
/-- 1 or 0. -/
def b2w {w : Nat} (b : Bool) : BitVec w := if b then 1 else 0
/-- Signed quotient toward zero; all ones for a zero divisor (R99). -/
def divS {w : Nat} (a b : BitVec w) : BitVec w := if b = 0 then BitVec.allOnes w else a.sdiv b
/-- Natural quotient; all ones for a zero divisor (R99). -/
def divU {w : Nat} (a b : BitVec w) : BitVec w := if b = 0 then BitVec.allOnes w else a / b
/-- Signed remainder with the dividend's sign; the dividend for a zero divisor (R99). -/
def remS {w : Nat} (a b : BitVec w) : BitVec w := if b = 0 then a else a.srem b
/-- Natural remainder; the dividend for a zero divisor (R99). -/
def remU {w : Nat} (a b : BitVec w) : BitVec w := if b = 0 then a else a % b
/-- High half of the product, both signed. -/
def mulHS {w : Nat} (a b : BitVec w) : BitVec w := BitVec.ofInt w (a.toInt * b.toInt / 2 ^ w)
/-- High half of the product, both natural. -/
def mulHU {w : Nat} (a b : BitVec w) : BitVec w := BitVec.ofNat w (a.toNat * b.toNat / 2 ^ w)
/-- High half of the product, a signed and b natural. -/
def mulHSU {w : Nat} (a b : BitVec w) : BitVec w := BitVec.ofInt w (a.toInt * (b.toNat : Int) / 2 ^ w)
/-- Smaller, signed. -/
def minS {w : Nat} (a b : BitVec w) : BitVec w := if a.slt b then a else b
/-- Larger, signed. -/
def maxS {w : Nat} (a b : BitVec w) : BitVec w := if a.slt b then b else a
/-- Smaller, natural. -/
def minU {w : Nat} (a b : BitVec w) : BitVec w := if a.ult b then a else b
/-- Larger, natural. -/
def maxU {w : Nat} (a b : BitVec w) : BitVec w := if a.ult b then b else a
/-- Rotation left by less than the width. -/
def rotL {w : Nat} (a : BitVec w) (n : Nat) : BitVec w := a.rotateLeft n
/-- Rotation right by less than the width. -/
def rotR {w : Nat} (a : BitVec w) (n : Nat) : BitVec w := a.rotateRight n

/-- A word form (R98): the operation on the low words, sign-extended. -/
def wordForm (f : BitVec 32 → BitVec 32 → BitVec 32) (a b : Word) : Word :=
  (f (a.setWidth 32) (b.setWidth 32)).signExtend 64
/-- The shift amount of a 64-bit shift, b[5:0] (R97). -/
def sh6 (b : Word) : Nat := b.toNat % 64
/-- The shift amount of a word shift, b[4:0] (R98). -/
def sh5 (b : BitVec 32) : Nat := b.toNat % 32

/-! Fields of tables and control blocks. -/

/-- Bits [hi:lo] of a number. -/
def field (v hi lo : Nat) : Nat := v / 2 ^ lo % 2 ^ (hi + 1 - lo)
/-- Replaces bits [hi:lo] of a number. -/
def setField (v hi lo x : Nat) : Nat := v - field v hi lo * 2 ^ lo + (x % 2 ^ (hi + 1 - lo)) * 2 ^ lo

end Sys2Proof.Machine
end

