-- ==== Sys2Proof/Config.lean ====
section
/-! DEFINITION. What an SV9 fixes outside the manual's words: free values, named and never evaluated. Each is a constant
without a body, applied to what it may depend on and, where a fresh value is meant each time, to `State.freeCtr`. -/

namespace Sys2Proof

/-- Bytes read under a key other than the one they were written with (R275, R333): location and draw (log 7). -/
opaque Config.undefByte : Nat → Nat → Byte
/-- The 128-bit fabric key number n (R232, R323, log 8). -/
opaque Config.fabricKey : Nat → BitVec 128
/-- The 256-bit key that a key slot of a device holds: device, and on this device the key mark, else the slot number (R331,
R334, log 8). -/
opaque Config.slotKey : Nat → Nat → BitVec 256
/-- The wiring of the fabric: the device or switch to which port 64 × node + port leads (R322, log 132). -/
opaque Config.cable : Nat → Nat
/-- The port by which the RKC lets a replica's channel to another leave: their coordinates (R362, log 18). -/
opaque Config.replicaPort : Nat → Nat → Nat
/-- 64 bits from the RKC's entropy source (R266, log 9). -/
opaque Config.entropy : Nat → Word
/-- The firmware images that bring-up measures: 1 boot ROM, 2 RKC, 3 Dispatch Unit and management (R408, log 10). -/
opaque Config.image : Nat → List Byte
/-- The RKC's signature over a message under the identity of a certificate chain (R407, log 10). -/
opaque Config.sign : List Byte → List Byte → List Byte
/-- Whether host policy permits a request of a supervisor, by its fields (R321, log 24). -/
opaque Config.policy : List Nat → Bool
/-- The session secret of a KEY_EXCHANGE (R407, log 10). -/
opaque Config.session : Nat → BitVec 256
/-- The bytes of a rotation notice, whose layout the manual does not give (R323, log 22): fabric key number and offset. -/
opaque Config.rotationNotice : Nat → Nat → Byte
/-- Which entry a full TLB or instruction cache gives up (R387, R271, log 139). -/
opaque Config.victim : Nat → Nat

end Sys2Proof
end

