-- ==== Sys2Proof/Syntax.lean ====
section
/-! DEFINITION. The syntax: one constructor of `Instr` per row of spec/opcode_table.json (instructions, convoy members
and the events of the device), in the table's order but
for this: the encoded rows with operands come first, then those without, then the rest (Lean's compiler numbers the
constructors that compiled code builds up to 243). Register numbers and immediates stand as the fields of the
encoding; an event row carries what the event brings with it from outside (a reply's value, a chosen placement). -/

namespace Sys2Proof

/-- The 64-bit vector and matrix word without its vop (spec/02 R42). -/
structure VWord where
  imm : BitVec 14
  scal : BitVec 1
  satf : BitVec 1
  rnd : BitVec 2
  k : BitVec 6
  mod2 : BitVec 4
  mod1 : BitVec 4
  men : BitVec 1
  msk : BitVec 3
  vs3 : Reg
  vs2 : Reg
  vs1 : Reg
  vd : Reg
deriving DecidableEq, Repr

/-- The operation of a convoy member: the vop map of spec/02 R47, split where the table of operations splits a vop. -/
inductive Vop where
  | vadd
  | vsub
  | vrsub
  | vmul
  | vmulh
  | vmulhn
  | vmacc
  | vnmsac
  | vdiv
  | vdivn
  | vrem
  | vremn
  | vmin
  | vmax
  | vminn
  | vmaxn
  | vsadd
  | vsaddn
  | vssub
  | vssubn
  | vavg
  | vabsd
  | vsll
  | vsrl
  | vsra
  | vnsrl
  | vnsra
  | vwadd
  | vwmul
  | vclz
  | vcpop
  | vsext
  | vzext
  | vand
  | vor
  | vxor
  | vnot
  | vmerge
  | vmv
  | vmsEq
  | vmsNe
  | vmsLt
  | vmsLtn
  | vmsLe
  | vmsLen
  | vmsGt
  | vmsGtn
  | vmand
  | vmor
  | vmxor
  | vmandn
  | vmnot
  | vmset
  | vmclr
  | vmsbf
  | vmsif
  | vmsof
  | viota
  | vid
  | vfadd
  | vfsub
  | vfmul
  | vfdiv
  | vfsqrt
  | vfma
  | vfms
  | vfnma
  | vfnms
  | vfmin
  | vfmax
  | vfsgnj
  | vfsgnjn
  | vfsgnjx
  | vfclass
  | vmfEq
  | vmfNe
  | vmfLt
  | vmfLe
  | vmfGt
  | vmfGe
  | vfcvtFtoi
  | vfcvtItof
  | vfwcvtFtof
  | vfwcvtFtoi
  | vfwcvtItof
  | vfncvtFtof
  | vfncvtFtoi
  | vfncvtItof
  | vfwma
  | vsxpack
  | vsxunpk
  | vexp2
  | vlog2
  | vrcp
  | vrsq
  | vsin
  | vcos
  | vtanh
  | vsigm
  | verf
  | vle
  | vse
  | vlse
  | vsse
  | vlxe
  | vsxe
  | vlgl
  | vssc
  | vlseg
  | vsseg
  | vleff
  | vlwr
  | vswr
  | vsxadd
  | vlst
  | vredSum
  | vredMax
  | vredMin
  | vredAnd
  | vredOr
  | vredXor
  | vfredsum
  | vfredosum
  | vfredmax
  | vfredmin
  | vslideup
  | vslidedn
  | vperm
  | vcompress
  | vexpand
  | vmvsx
  | vzip
  | vunzip
  | vtrn
  | mbld
  | mbinv
  | mma
  | mmas
  | mzero
  | mxtr
  | mxtrz
  | mcens
  | mscl
  | cpv
  | cpvs
  | cprrSend
  | cprrArm
  | vrsend
  | vrredAdd
  | vrredMin
  | vrredMax
  | venq
  | vrld
deriving DecidableEq, Repr

/-- Who sent a management element: the host, or the supervisor of a context (spec/25 R410). -/
abbrev Issuer := Option Nat

/-- The TDISP states of a function (spec/25 R404). -/
inductive TdiState where
  | configUnlocked | configLocked | run | error
deriving DecidableEq, Repr

/-- What another module answers to a packet that this device sent to it (spec/17 R325-R327, R337). -/
inductive RemoteAnswer where
  /-- The target is this device: the model computes the answer. -/
  | here
  /-- Performed there, with the value returned (zero for a store). -/
  | performed (value : Word)
  /-- Performed there, with the bytes returned. -/
  | bytes (data : List Byte)
  /-- Rejected with a cause code. -/
  | rejected (cause : BitVec 8)
  /-- Answered "moved", with the new line address. -/
  | moved (line : Nat)
  /-- The RKC re-mints for a context of a device, on a path of ports that it chose (spec/10 R238). -/
  | path (device : Nat) (ports : List Nat)
deriving DecidableEq, Repr

/-- A queue that the RKC initialises: where its control block lies, and what the block holds (spec/15 R308, R313, R318). -/
structure QueueSpec where
  qcb : Nat
  base : Word
  log2cap : Nat
deriving DecidableEq, Repr

/-- What CREATE fixes for a context (spec/17 R335, spec/23 R386, R394, R396, spec/12 R274), with its launch queues, its
mailbox, the page-request and page-reply queues of its function, and the images declared for attestation (spec/25
R408). -/
structure CreateSpec where
  ctx : Nat
  cores : List Nat
  asids : List (Nat × Nat)
  keyid : Nat
  queues : List QueueSpec
  mailbox : QueueSpec
  requests : Option QueueSpec
  replies : Option QueueSpec
  images : List Byte
  consent : Bool
  tvec : Word
  function : Option Nat
  onDemand : Bool
  notice : Bool
  share : Nat
  tick : Nat
  lspBase : Nat
  lspSize : Nat
  done : Word
deriving DecidableEq, Repr

/-- What MINT and REMINT fix for a token (spec/17 R322, spec/10 R232): the holder's device and context, and the window. The path is
the RKC's choice; `agreed` is what the RKC of another target device answers, which installs the entry there. -/
structure MintSpec where
  issuer : Issuer
  src : Nat
  agreed : Bool
  cls : Nat
  node : Nat
  wbase : Nat
  wlen : Nat
  rights : Nat
  keyid : Nat
  c : Bool
  ctx : Nat
  tctx : Nat
  stripe : Nat
  path : List Nat
  echo : Word
  done : Word
deriving DecidableEq, Repr

/-- A queue-port handle's target: the control block and its function's context (spec/25 R403). -/
structure PortTarget where
  qcb : Nat
  ctx : Nat
deriving DecidableEq, Repr

/-- One instruction of a hart, one convoy member, or one event of the device. -/
inductive Instr where
  /-- ADD_C (R28): Compact add: X[r] := X[LDST] + X[r], and LDST := r. -/
  | addC (r : BitVec 5)
  /-- SUB_C (R28): Compact subtract: X[r] := X[LDST] - X[r]. -/
  | subC (r : BitVec 5)
  /-- AND_C (R28): Compact AND of the last destination with X[r]. -/
  | andC (r : BitVec 5)
  /-- OR_C (R28): Compact OR of the last destination with X[r]. -/
  | orC (r : BitVec 5)
  /-- XOR_C (R28): Compact XOR of the last destination with X[r]. -/
  | xorC (r : BitVec 5)
  /-- SLL_C (R28): Compact left shift of the last destination by X[r][5:0]. -/
  | sllC (r : BitVec 5)
  /-- SRL_C (R28): Compact logical right shift of the last destination by X[r][5:0]. -/
  | srlC (r : BitVec 5)
  /-- SRA_C (R28): Compact arithmetic right shift of the last destination by X[r][5:0]. -/
  | sraC (r : BitVec 5)
  /-- MUL_C (R28): Compact multiply: the low 64 bits of the last destination times X[r]. -/
  | mulC (r : BitVec 5)
  /-- SLT_C (R28): Compact signed set-less-than of the last destination against X[r]. -/
  | sltC (r : BitVec 5)
  /-- SLTN_C (R28): Compact natural set-less-than of the last destination against X[r]. -/
  | sltnC (r : BitVec 5)
  /-- MV_C (R28): Compact move of the last destination into X[r]. -/
  | mvC (r : BitVec 5)
  /-- ADDI_C (R28): Compact add of the sign-extended imm4 to the last destination. -/
  | addiC (r : BitVec 5) (imm : BitVec 4)
  /-- ANDI_C (R28): Compact AND of the last destination with the sign-extended imm4. -/
  | andiC (r : BitVec 5) (imm : BitVec 4)
  /-- SLLI_C (R28): Compact left shift of the last destination by imm4. -/
  | slliC (r : BitVec 5) (imm : BitVec 4)
  /-- SRLI_C (R28): Compact logical right shift of the last destination by imm4. -/
  | srliC (r : BitVec 5) (imm : BitVec 4)
  /-- SRAI_C (R28): Compact arithmetic right shift of the last destination by imm4. -/
  | sraiC (r : BitVec 5) (imm : BitVec 4)
  /-- LI_C (R28): Compact load of the sign-extended imm4 into X[r]. -/
  | liC (r : BitVec 5) (imm : BitVec 4)
  /-- LD_C (R28): Compact doubleword load at the last destination plus imm4 x 8. -/
  | ldC (r : BitVec 5) (imm : BitVec 4)
  /-- LDW_C (R28): Compact sign-extended word load at the last destination plus imm4 x 4. -/
  | ldwC (r : BitVec 5) (imm : BitVec 4)
  /-- ST_C (R28): Compact doubleword store of X[r] at the last destination plus imm4 x 8. -/
  | stC (r : BitVec 5) (imm : BitVec 4)
  /-- ADD (R97): 64-bit add. -/
  | add (rd : BitVec 5) (rs1 : BitVec 5) (rs2 : BitVec 5)
  /-- SUB (R97): 64-bit subtract. -/
  | sub (rd : BitVec 5) (rs1 : BitVec 5) (rs2 : BitVec 5)
  /-- AND (R97): Bitwise AND. -/
  | and (rd : BitVec 5) (rs1 : BitVec 5) (rs2 : BitVec 5)
  /-- OR (R97): Bitwise OR. -/
  | or (rd : BitVec 5) (rs1 : BitVec 5) (rs2 : BitVec 5)
  /-- XOR (R97): Bitwise XOR. -/
  | xor (rd : BitVec 5) (rs1 : BitVec 5) (rs2 : BitVec 5)
  /-- ANDN (R97): a AND NOT b. -/
  | andn (rd : BitVec 5) (rs1 : BitVec 5) (rs2 : BitVec 5)
  /-- ORN (R97): a OR NOT b. -/
  | orn (rd : BitVec 5) (rs1 : BitVec 5) (rs2 : BitVec 5)
  /-- XNOR (R97): NOT (a XOR b). -/
  | xnor (rd : BitVec 5) (rs1 : BitVec 5) (rs2 : BitVec 5)
  /-- SLL (R97): Left shift by b[5:0]. -/
  | sll (rd : BitVec 5) (rs1 : BitVec 5) (rs2 : BitVec 5)
  /-- SRL (R97): Logical right shift by b[5:0]. -/
  | srl (rd : BitVec 5) (rs1 : BitVec 5) (rs2 : BitVec 5)
  /-- SRA (R97): Arithmetic right shift by b[5:0]. -/
  | sra (rd : BitVec 5) (rs1 : BitVec 5) (rs2 : BitVec 5)
  /-- ROL (R97): Rotate left by b[5:0]. -/
  | rol (rd : BitVec 5) (rs1 : BitVec 5) (rs2 : BitVec 5)
  /-- ROR (R97): Rotate right by b[5:0]. -/
  | ror (rd : BitVec 5) (rs1 : BitVec 5) (rs2 : BitVec 5)
  /-- SLT (R97): Signed set-less-than. -/
  | slt (rd : BitVec 5) (rs1 : BitVec 5) (rs2 : BitVec 5)
  /-- SLTN (R97): Natural set-less-than. -/
  | sltn (rd : BitVec 5) (rs1 : BitVec 5) (rs2 : BitVec 5)
  /-- MIN (R97): Signed minimum. -/
  | min (rd : BitVec 5) (rs1 : BitVec 5) (rs2 : BitVec 5)
  /-- MAX (R97): Signed maximum. -/
  | max (rd : BitVec 5) (rs1 : BitVec 5) (rs2 : BitVec 5)
  /-- MINN (R97): Natural minimum. -/
  | minn (rd : BitVec 5) (rs1 : BitVec 5) (rs2 : BitVec 5)
  /-- MAXN (R97): Natural maximum. -/
  | maxn (rd : BitVec 5) (rs1 : BitVec 5) (rs2 : BitVec 5)
  /-- MUL (R97): Low 64 bits of the product. -/
  | mul (rd : BitVec 5) (rs1 : BitVec 5) (rs2 : BitVec 5)
  /-- MULH (R97): High 64 bits of the signed product. -/
  | mulh (rd : BitVec 5) (rs1 : BitVec 5) (rs2 : BitVec 5)
  /-- MULHN (R97): High 64 bits of the natural product. -/
  | mulhn (rd : BitVec 5) (rs1 : BitVec 5) (rs2 : BitVec 5)
  /-- MULHSN (R97): High 64 bits of the signed-by-natural product. -/
  | mulhsn (rd : BitVec 5) (rs1 : BitVec 5) (rs2 : BitVec 5)
  /-- DIV (R99): Signed quotient, with the division edge cases. -/
  | div (rd : BitVec 5) (rs1 : BitVec 5) (rs2 : BitVec 5)
  /-- DIVN (R99): Natural quotient, with the division edge cases. -/
  | divn (rd : BitVec 5) (rs1 : BitVec 5) (rs2 : BitVec 5)
  /-- REM (R99): Signed remainder, with the division edge cases. -/
  | rem (rd : BitVec 5) (rs1 : BitVec 5) (rs2 : BitVec 5)
  /-- REMN (R99): Natural remainder, with the division edge cases. -/
  | remn (rd : BitVec 5) (rs1 : BitVec 5) (rs2 : BitVec 5)
  /-- CLZ (R97): Count of leading zero bits. -/
  | clz (rd : BitVec 5) (rs1 : BitVec 5)
  /-- CTZ (R97): Count of trailing zero bits. -/
  | ctz (rd : BitVec 5) (rs1 : BitVec 5)
  /-- CPOP (R97): Population count. -/
  | cpop (rd : BitVec 5) (rs1 : BitVec 5)
  /-- SEXT_B (R97): Sign-extends byte 0. -/
  | sextB (rd : BitVec 5) (rs1 : BitVec 5)
  /-- SEXT_H (R97): Sign-extends the low halfword. -/
  | sextH (rd : BitVec 5) (rs1 : BitVec 5)
  /-- SEXT_W (R97): Sign-extends the low word. -/
  | sextW (rd : BitVec 5) (rs1 : BitVec 5)
  /-- ZEXT_B (R97): Zero-extends byte 0. -/
  | zextB (rd : BitVec 5) (rs1 : BitVec 5)
  /-- ZEXT_H (R97): Zero-extends the low halfword. -/
  | zextH (rd : BitVec 5) (rs1 : BitVec 5)
  /-- ZEXT_W (R97): Zero-extends the low word. -/
  | zextW (rd : BitVec 5) (rs1 : BitVec 5)
  /-- CMOVZ (R97): Writes a to rd if b = 0, else rewrites the old rd. -/
  | cmovz (rd : BitVec 5) (rs1 : BitVec 5) (rs2 : BitVec 5)
  /-- CMOVN (R97): Writes a to rd if b != 0, else rewrites the old rd. -/
  | cmovn (rd : BitVec 5) (rs1 : BitVec 5) (rs2 : BitVec 5)
  /-- BSWAP (R97): Reverses the eight bytes. -/
  | bswap (rd : BitVec 5) (rs1 : BitVec 5)
  /-- ADD_W (R98): 32-bit add, sign-extended. -/
  | addW (rd : BitVec 5) (rs1 : BitVec 5) (rs2 : BitVec 5)
  /-- SUB_W (R98): 32-bit subtract, sign-extended. -/
  | subW (rd : BitVec 5) (rs1 : BitVec 5) (rs2 : BitVec 5)
  /-- SLL_W (R98): 32-bit left shift. -/
  | sllW (rd : BitVec 5) (rs1 : BitVec 5) (rs2 : BitVec 5)
  /-- SRL_W (R98): 32-bit logical right shift. -/
  | srlW (rd : BitVec 5) (rs1 : BitVec 5) (rs2 : BitVec 5)
  /-- SRA_W (R98): 32-bit arithmetic right shift. -/
  | sraW (rd : BitVec 5) (rs1 : BitVec 5) (rs2 : BitVec 5)
  /-- ROL_W (R98): 32-bit rotate left. -/
  | rolW (rd : BitVec 5) (rs1 : BitVec 5) (rs2 : BitVec 5)
  /-- ROR_W (R98): 32-bit rotate right. -/
  | rorW (rd : BitVec 5) (rs1 : BitVec 5) (rs2 : BitVec 5)
  /-- MUL_W (R98): 32-bit multiply. -/
  | mulW (rd : BitVec 5) (rs1 : BitVec 5) (rs2 : BitVec 5)
  /-- DIV_W (R99): 32-bit signed quotient. -/
  | divW (rd : BitVec 5) (rs1 : BitVec 5) (rs2 : BitVec 5)
  /-- DIVN_W (R99): 32-bit natural quotient. -/
  | divnW (rd : BitVec 5) (rs1 : BitVec 5) (rs2 : BitVec 5)
  /-- REM_W (R99): 32-bit signed remainder. -/
  | remW (rd : BitVec 5) (rs1 : BitVec 5) (rs2 : BitVec 5)
  /-- REMN_W (R99): 32-bit natural remainder. -/
  | remnW (rd : BitVec 5) (rs1 : BitVec 5) (rs2 : BitVec 5)
  /-- CLZ_W (R98): Leading zero bits of the low word. -/
  | clzW (rd : BitVec 5) (rs1 : BitVec 5)
  /-- CTZ_W (R98): Trailing zero bits of the low word. -/
  | ctzW (rd : BitVec 5) (rs1 : BitVec 5)
  /-- CPOP_W (R98): One bits of the low word. -/
  | cpopW (rd : BitVec 5) (rs1 : BitVec 5)
  /-- BSWAP_W (R98): Reverses the four bytes of the low word. -/
  | bswapW (rd : BitVec 5) (rs1 : BitVec 5)
  /-- ADDI (R100): Adds the sign-extended imm14. -/
  | addi (rd : BitVec 5) (rs1 : BitVec 5) (imm : BitVec 14)
  /-- ANDI (R100): ANDs with the sign-extended imm14. -/
  | andi (rd : BitVec 5) (rs1 : BitVec 5) (imm : BitVec 14)
  /-- ORI (R100): ORs with the sign-extended imm14. -/
  | ori (rd : BitVec 5) (rs1 : BitVec 5) (imm : BitVec 14)
  /-- XORI (R100): XORs with the sign-extended imm14. -/
  | xori (rd : BitVec 5) (rs1 : BitVec 5) (imm : BitVec 14)
  /-- SLTI (R100): Signed compare with the immediate. -/
  | slti (rd : BitVec 5) (rs1 : BitVec 5) (imm : BitVec 14)
  /-- SLTNI (R100): Natural compare with the sign-extended immediate. -/
  | sltni (rd : BitVec 5) (rs1 : BitVec 5) (imm : BitVec 14)
  /-- SLLI (R100): Left shift by an immediate amount. -/
  | slli (rd : BitVec 5) (rs1 : BitVec 5) (sh : BitVec 6)
  /-- SRLI (R100): Logical right shift by an immediate amount. -/
  | srli (rd : BitVec 5) (rs1 : BitVec 5) (sh : BitVec 6)
  /-- SRAI (R100): Arithmetic right shift by an immediate amount. -/
  | srai (rd : BitVec 5) (rs1 : BitVec 5) (sh : BitVec 6)
  /-- RORI (R100): Rotate right by an immediate amount. -/
  | rori (rd : BitVec 5) (rs1 : BitVec 5) (sh : BitVec 6)
  /-- LIU (R31): X[rd] := sext(imm19) << 13. -/
  | liu (rd : BitVec 5) (imm : BitVec 19)
  /-- ADDPC (R31): X[rd] := PC + (sext(imm19) << 13). -/
  | addpc (rd : BitVec 5) (imm : BitVec 19)
  /-- LD_B (R108): Sign-extended byte load. -/
  | ldB (rd : BitVec 5) (base : BitVec 5) (imm : BitVec 10)
  /-- LD_H (R108): Sign-extended halfword load. -/
  | ldH (rd : BitVec 5) (base : BitVec 5) (imm : BitVec 10)
  /-- LD_W (R108): Sign-extended word load. -/
  | ldW (rd : BitVec 5) (base : BitVec 5) (imm : BitVec 10)
  /-- LD_D (R108): Doubleword load. -/
  | ldD (rd : BitVec 5) (base : BitVec 5) (imm : BitVec 10)
  /-- LDN_B (R108): Zero-extended byte load. -/
  | ldnB (rd : BitVec 5) (base : BitVec 5) (imm : BitVec 10)
  /-- LDN_H (R108): Zero-extended halfword load. -/
  | ldnH (rd : BitVec 5) (base : BitVec 5) (imm : BitVec 10)
  /-- LDN_W (R108): Zero-extended word load. -/
  | ldnW (rd : BitVec 5) (base : BitVec 5) (imm : BitVec 10)
  /-- LDACQ_W (R110): Device-scope acquiring word load, which ends the chunk. -/
  | ldacqW (rd : BitVec 5) (base : BitVec 5) (imm : BitVec 10)
  /-- LDACQ_D (R110): Device-scope acquiring doubleword load, which ends the chunk. -/
  | ldacqD (rd : BitVec 5) (base : BitVec 5) (imm : BitVec 10)
  /-- LD_V_B (R111): Byte load whose value the lead replica supplies. -/
  | ldVB (rd : BitVec 5) (base : BitVec 5) (imm : BitVec 10)
  /-- LD_V_H (R111): Halfword load whose value the lead replica supplies. -/
  | ldVH (rd : BitVec 5) (base : BitVec 5) (imm : BitVec 10)
  /-- LD_V_W (R111): Word load whose value the lead replica supplies. -/
  | ldVW (rd : BitVec 5) (base : BitVec 5) (imm : BitVec 10)
  /-- LD_V_D (R111): Doubleword load whose value the lead replica supplies. -/
  | ldVD (rd : BitVec 5) (base : BitVec 5) (imm : BitVec 10)
  /-- ST_B (R108): Byte store into the chunk buffer. -/
  | stB (rd : BitVec 5) (base : BitVec 5) (imm : BitVec 10)
  /-- ST_H (R108): Halfword store. -/
  | stH (rd : BitVec 5) (base : BitVec 5) (imm : BitVec 10)
  /-- ST_W (R108): Word store. -/
  | stW (rd : BitVec 5) (base : BitVec 5) (imm : BitVec 10)
  /-- ST_D (R108): Doubleword store. -/
  | stD (rd : BitVec 5) (base : BitVec 5) (imm : BitVec 10)
  /-- STREL_W (R110): Device-scope releasing word store. -/
  | strelW (rd : BitVec 5) (base : BitVec 5) (imm : BitVec 10)
  /-- STREL_D (R110): Device-scope releasing doubleword store. -/
  | strelD (rd : BitVec 5) (base : BitVec 5) (imm : BitVec 10)
  /-- FLD_H (R112): 16-bit floating load (also written fld.bf), clearing the upper bits. -/
  | fldH (rd : BitVec 5) (base : BitVec 5) (imm : BitVec 10)
  /-- FLD_S (R112): Binary32 floating load. -/
  | fldS (rd : BitVec 5) (base : BitVec 5) (imm : BitVec 10)
  /-- FLD_D (R112): Binary64 floating load. -/
  | fldD (rd : BitVec 5) (base : BitVec 5) (imm : BitVec 10)
  /-- FST_H (R112): 16-bit floating store (also written fst.bf). -/
  | fstH (rd : BitVec 5) (base : BitVec 5) (imm : BitVec 10)
  /-- FST_S (R112): Binary32 floating store. -/
  | fstS (rd : BitVec 5) (base : BitVec 5) (imm : BitVec 10)
  /-- FST_D (R112): Binary64 floating store. -/
  | fstD (rd : BitVec 5) (base : BitVec 5) (imm : BitVec 10)
  /-- AMO_ADD (R197): Atomic add at the home, returning the old value. -/
  | amoAdd (ord : BitVec 2) (scope : BitVec 2) (size : BitVec 1) (rd : BitVec 5) (rs1 : BitVec 5) (rs2 : BitVec 5)
  /-- AMO_SWAP (R197): Atomic swap. -/
  | amoSwap (ord : BitVec 2) (scope : BitVec 2) (size : BitVec 1) (rd : BitVec 5) (rs1 : BitVec 5) (rs2 : BitVec 5)
  /-- AMO_AND (R197): Atomic AND. -/
  | amoAnd (ord : BitVec 2) (scope : BitVec 2) (size : BitVec 1) (rd : BitVec 5) (rs1 : BitVec 5) (rs2 : BitVec 5)
  /-- AMO_OR (R197): Atomic OR. -/
  | amoOr (ord : BitVec 2) (scope : BitVec 2) (size : BitVec 1) (rd : BitVec 5) (rs1 : BitVec 5) (rs2 : BitVec 5)
  /-- AMO_XOR (R197): Atomic XOR. -/
  | amoXor (ord : BitVec 2) (scope : BitVec 2) (size : BitVec 1) (rd : BitVec 5) (rs1 : BitVec 5) (rs2 : BitVec 5)
  /-- AMO_MIN (R197): Atomic signed minimum. -/
  | amoMin (ord : BitVec 2) (scope : BitVec 2) (size : BitVec 1) (rd : BitVec 5) (rs1 : BitVec 5) (rs2 : BitVec 5)
  /-- AMO_MAX (R197): Atomic signed maximum. -/
  | amoMax (ord : BitVec 2) (scope : BitVec 2) (size : BitVec 1) (rd : BitVec 5) (rs1 : BitVec 5) (rs2 : BitVec 5)
  /-- AMO_MINN (R197): Atomic natural minimum. -/
  | amoMinn (ord : BitVec 2) (scope : BitVec 2) (size : BitVec 1) (rd : BitVec 5) (rs1 : BitVec 5) (rs2 : BitVec 5)
  /-- AMO_MAXN (R197): Atomic natural maximum. -/
  | amoMaxn (ord : BitVec 2) (scope : BitVec 2) (size : BitVec 1) (rd : BitVec 5) (rs1 : BitVec 5) (rs2 : BitVec 5)
  /-- CAS (R197): Atomic compare-and-swap against X[rd]. -/
  | cas (ord : BitVec 2) (scope : BitVec 2) (size : BitVec 1) (rd : BitVec 5) (rs1 : BitVec 5) (rs2 : BitVec 5)
  /-- AMO_FADD (R198): Atomic floating add with RNE; an enabled flag traps after the operation. -/
  | amoFadd (ord : BitVec 2) (scope : BitVec 2) (size : BitVec 1) (rd : BitVec 5) (rs1 : BitVec 5) (rs2 : BitVec 5)
  /-- AMO_FMIN (R198): Atomic floating minimumNumber. -/
  | amoFmin (ord : BitVec 2) (scope : BitVec 2) (size : BitVec 1) (rd : BitVec 5) (rs1 : BitVec 5) (rs2 : BitVec 5)
  /-- AMO_FMAX (R198): Atomic floating maximumNumber. -/
  | amoFmax (ord : BitVec 2) (scope : BitVec 2) (size : BitVec 1) (rd : BitVec 5) (rs1 : BitVec 5) (rs2 : BitVec 5)
  /-- BEQ (R101): Branches if the registers are equal. -/
  | beq (rs1 : BitVec 5) (rs2 : BitVec 5) (off : BitVec 14)
  /-- BNE (R101): Branches if the registers are not equal. -/
  | bne (rs1 : BitVec 5) (rs2 : BitVec 5) (off : BitVec 14)
  /-- BLT (R101): Branches if less than, signed. -/
  | blt (rs1 : BitVec 5) (rs2 : BitVec 5) (off : BitVec 14)
  /-- BGE (R101): Branches if greater or equal, signed. -/
  | bge (rs1 : BitVec 5) (rs2 : BitVec 5) (off : BitVec 14)
  /-- BLTN (R101): Branches if less than, natural. -/
  | bltn (rs1 : BitVec 5) (rs2 : BitVec 5) (off : BitVec 14)
  /-- BGEN (R101): Branches if greater or equal, natural. -/
  | bgen (rs1 : BitVec 5) (rs2 : BitVec 5) (off : BitVec 14)
  /-- JAL (R102): PC-relative jump that writes PC + 4 to rd. -/
  | jal (rd : BitVec 5) (off : BitVec 19)
  /-- JALR (R102): Register-indirect jump that writes PC + 4 to rd. -/
  | jalr (rd : BitVec 5) (rs1 : BitVec 5) (imm : BitVec 14)
  /-- BQ (R105): Dequeues an element and branches if its low doubleword differs from X[rs2]. -/
  | bq (rs1 : BitVec 5) (rs2 : BitVec 5) (off : BitVec 14)
  /-- FADD (R114): Floating add, rounded by FRM. -/
  | fadd (fmt : BitVec 2) (rd : BitVec 5) (rs1 : BitVec 5) (rs2 : BitVec 5)
  /-- FSUB (R114): Floating subtract. -/
  | fsub (fmt : BitVec 2) (rd : BitVec 5) (rs1 : BitVec 5) (rs2 : BitVec 5)
  /-- FMUL (R114): Floating multiply. -/
  | fmul (fmt : BitVec 2) (rd : BitVec 5) (rs1 : BitVec 5) (rs2 : BitVec 5)
  /-- FDIV (R114): Floating divide. -/
  | fdiv (fmt : BitVec 2) (rd : BitVec 5) (rs1 : BitVec 5) (rs2 : BitVec 5)
  /-- FSQRT (R114): Floating square root. -/
  | fsqrt (fmt : BitVec 2) (rd : BitVec 5) (rs1 : BitVec 5)
  /-- FMIN (R113): Floating minimumNumber. -/
  | fmin (fmt : BitVec 2) (rd : BitVec 5) (rs1 : BitVec 5) (rs2 : BitVec 5)
  /-- FMAX (R113): Floating maximumNumber. -/
  | fmax (fmt : BitVec 2) (rd : BitVec 5) (rs1 : BitVec 5) (rs2 : BitVec 5)
  /-- FSGNJ (R113): Sign injection. -/
  | fsgnj (fmt : BitVec 2) (rd : BitVec 5) (rs1 : BitVec 5) (rs2 : BitVec 5)
  /-- FSGNJN (R113): Negated sign injection. -/
  | fsgnjn (fmt : BitVec 2) (rd : BitVec 5) (rs1 : BitVec 5) (rs2 : BitVec 5)
  /-- FSGNJX (R113): XOR sign injection. -/
  | fsgnjx (fmt : BitVec 2) (rd : BitVec 5) (rs1 : BitVec 5) (rs2 : BitVec 5)
  /-- FCLASS (R115): Writes a one-hot class mask to X[rd]. -/
  | fclass (fmt : BitVec 2) (rd : BitVec 5) (rs1 : BitVec 5)
  /-- FCMP_EQ (R115): Quiet floating equality compare. -/
  | fcmpEq (fmt : BitVec 2) (rd : BitVec 5) (rs1 : BitVec 5) (rs2 : BitVec 5)
  /-- FCMP_NE (R115): Quiet floating inequality compare. -/
  | fcmpNe (fmt : BitVec 2) (rd : BitVec 5) (rs1 : BitVec 5) (rs2 : BitVec 5)
  /-- FCMP_LT (R115): Signaling less-than compare. -/
  | fcmpLt (fmt : BitVec 2) (rd : BitVec 5) (rs1 : BitVec 5) (rs2 : BitVec 5)
  /-- FCMP_LE (R115): Signaling less-or-equal compare. -/
  | fcmpLe (fmt : BitVec 2) (rd : BitVec 5) (rs1 : BitVec 5) (rs2 : BitVec 5)
  /-- FCMP_GT (R115): Signaling greater-than compare. -/
  | fcmpGt (fmt : BitVec 2) (rd : BitVec 5) (rs1 : BitVec 5) (rs2 : BitVec 5)
  /-- FCMP_GE (R115): Signaling greater-or-equal compare. -/
  | fcmpGe (fmt : BitVec 2) (rd : BitVec 5) (rs1 : BitVec 5) (rs2 : BitVec 5)
  /-- FCVT_FF (R116): Floating-to-floating conversion. -/
  | fcvtFf (fmt : BitVec 2) (rd : BitVec 5) (rs1 : BitVec 5) (ctl : BitVec 5)
  /-- FCVT_FI (R116): Floating-to-integer conversion. -/
  | fcvtFi (fmt : BitVec 2) (rd : BitVec 5) (rs1 : BitVec 5) (ctl : BitVec 5)
  /-- FCVT_IF (R116): Integer-to-floating conversion. -/
  | fcvtIf (fmt : BitVec 2) (rd : BitVec 5) (rs1 : BitVec 5) (ctl : BitVec 5)
  /-- FMVXF (R113): Moves floating bits to an integer register. -/
  | fmvxf (fmt : BitVec 2) (rd : BitVec 5) (rs1 : BitVec 5)
  /-- FMVFX (R113): Moves integer bits to a floating register. -/
  | fmvfx (fmt : BitVec 2) (rd : BitVec 5) (rs1 : BitVec 5)
  /-- FMA (R117): Fused rs1 x rs2 + rs3. -/
  | fma (fmt : BitVec 2) (rd : BitVec 5) (rs1 : BitVec 5) (rs2 : BitVec 5) (rs3 : BitVec 5)
  /-- FMS (R117): Fused rs1 x rs2 - rs3. -/
  | fms (fmt : BitVec 2) (rd : BitVec 5) (rs1 : BitVec 5) (rs2 : BitVec 5) (rs3 : BitVec 5)
  /-- FNMA (R117): Fused -(rs1 x rs2) - rs3. -/
  | fnma (fmt : BitVec 2) (rd : BitVec 5) (rs1 : BitVec 5) (rs2 : BitVec 5) (rs3 : BitVec 5)
  /-- FNMS (R117): Fused -(rs1 x rs2) + rs3. -/
  | fnms (fmt : BitVec 2) (rd : BitVec 5) (rs1 : BitVec 5) (rs2 : BitVec 5) (rs3 : BitVec 5)
  /-- FENCE_ACQ (R199): Acquire fence at a scope; ends the chunk. -/
  | fenceAcq (scope : BitVec 3)
  /-- FENCE_REL (R199): Release fence at a scope; .fab also parks for remote acknowledgements. -/
  | fenceRel (scope : BitVec 3)
  /-- FENCE_FULL (R199): Full fence at a scope. -/
  | fenceFull (scope : BitVec 3)
  /-- MON_W (R201): Reads a word at its home and arms the monitor on its line, in one action. -/
  | monW (rd : BitVec 5) (rs1 : BitVec 5)
  /-- MON_D (R201): Reads a doubleword at its home and arms the monitor. -/
  | monD (rd : BitVec 5) (rs1 : BitVec 5)
  /-- WAIT (R202): Parks until the monitor fires or the timeout elapses, then writes the outcome. -/
  | wait (rd : BitVec 5) (rs1 : BitVec 5)
  /-- BSET (R204): Checks a barrier object and binds a bb register to it for the core. -/
  | bset (rd : BitVec 5) (rs1 : BitVec 5)
  /-- ARRIVE (R205): Releases, counts an arrival at the object's home and records the phase. -/
  | arrive (rd : BitVec 5)
  /-- BWAIT (R205): Parks until the barrier phase leaves the recorded value. -/
  | bwait (rd : BitVec 5)
  /-- QINIT (R210): Initialises a queue control block at its home. -/
  | qinit (rd : BitVec 5) (rs1 : BitVec 5)
  /-- ENQ (R211): Enqueues an element, handing it to a parked dequeuer or parking when the queue is full. -/
  | enq (rs1 : BitVec 5) (rs2 : BitVec 5)
  /-- ENQNB (R211): Non-blocking enqueue that returns OK or FULL. -/
  | enqnb (rd : BitVec 5) (rs1 : BitVec 5) (rs2 : BitVec 5)
  /-- DEQ (R212): Dequeues an element, parking while the queue is empty. -/
  | deq (rd : BitVec 5) (rs1 : BitVec 5) (rs2 : BitVec 5)
  /-- DEQNB (R212): Non-blocking dequeue that returns OK or EMPTY. -/
  | deqnb (rd : BitVec 5) (rs1 : BitVec 5) (rs2 : BitVec 5)
  /-- ENQM (R213): Enqueues up to 64 elements in order, stopping at the first that would park. -/
  | enqm (rd : BitVec 5) (rs1 : BitVec 5) (rs2 : BitVec 5)
  /-- QSTAT (R214): Takes a snapshot of the queue state at its home. -/
  | qstat (rd : BitVec 5) (rs1 : BitVec 5)
  /-- QGATH (R211): Enqueues the element at a table base plus index x ESIZE. -/
  | qgath (rd : BitVec 5) (rs1 : BitVec 5) (rs2 : BitVec 5)
  /-- RTLD (R237): Loads a 64-byte route token into a route register. -/
  | rtld (rd : BitVec 5) (rs1 : BitVec 5)
  /-- RTST (R237): Stores a route register to memory. -/
  | rtst (rd : BitVec 5) (rs1 : BitVec 5)
  /-- RTNAR (R237): Copies a route register and narrows its window and rights. -/
  | rtnar (rd : BitVec 5) (rs1 : BitVec 5) (rs2 : BitVec 5)
  /-- RTDLG (R238): Asks the RKC to re-mint a token for another context, parking for the answer. -/
  | rtdlg (rd : BitVec 5) (rs1 : BitVec 5) (rs2 : BitVec 5)
  /-- RTSET (R239): Defines a route set from four member entries and clears its failure marks. -/
  | rtset (rd : BitVec 5) (rs1 : BitVec 5)
  /-- RTINFO (R239): Reads a selected field of a route register. -/
  | rtinfo (rd : BitVec 5) (rs1 : BitVec 5) (rs2 : BitVec 5)
  /-- RLD_W (R240): Remote word load through a route. -/
  | rldW (rd : BitVec 5) (rs1 : BitVec 5) (rs2 : BitVec 5)
  /-- RLD_D (R240): Remote doubleword load through a route. -/
  | rldD (rd : BitVec 5) (rs1 : BitVec 5) (rs2 : BitVec 5)
  /-- RST_W (R240): Posted remote word store. -/
  | rstW (rd : BitVec 5) (rs1 : BitVec 5) (rs2 : BitVec 5)
  /-- RST_D (R240): Posted remote doubleword store. -/
  | rstD (rd : BitVec 5) (rs1 : BitVec 5) (rs2 : BitVec 5)
  /-- RENQ (R240): Remote enqueue that never parks and returns OK or FULL. -/
  | renq (rd : BitVec 5) (rs1 : BitVec 5) (rs2 : BitVec 5)
  /-- RENQM (R287): Remote enqueue of up to 64 elements as one request, returning the count accepted. -/
  | renqm (rd : BitVec 5) (rs1 : BitVec 5) (rs2 : BitVec 5)
  /-- RFENCE (R243): Parks until the remote operations through the named routes are acknowledged. -/
  | rfence (rs1 : BitVec 5)
  /-- RAMO_ADD (R240): Remote atomic add. -/
  | ramoAdd (size : BitVec 1) (rd : BitVec 5) (rs1 : BitVec 5) (rs2 : BitVec 5)
  /-- RAMO_SWAP (R240): Remote atomic swap. -/
  | ramoSwap (size : BitVec 1) (rd : BitVec 5) (rs1 : BitVec 5) (rs2 : BitVec 5)
  /-- RAMO_AND (R240): Remote atomic AND. -/
  | ramoAnd (size : BitVec 1) (rd : BitVec 5) (rs1 : BitVec 5) (rs2 : BitVec 5)
  /-- RAMO_OR (R240): Remote atomic OR. -/
  | ramoOr (size : BitVec 1) (rd : BitVec 5) (rs1 : BitVec 5) (rs2 : BitVec 5)
  /-- RAMO_XOR (R240): Remote atomic XOR. -/
  | ramoXor (size : BitVec 1) (rd : BitVec 5) (rs1 : BitVec 5) (rs2 : BitVec 5)
  /-- RAMO_MIN (R240): Remote atomic signed minimum. -/
  | ramoMin (size : BitVec 1) (rd : BitVec 5) (rs1 : BitVec 5) (rs2 : BitVec 5)
  /-- RAMO_MAX (R240): Remote atomic signed maximum. -/
  | ramoMax (size : BitVec 1) (rd : BitVec 5) (rs1 : BitVec 5) (rs2 : BitVec 5)
  /-- RAMO_MINN (R240): Remote atomic natural minimum. -/
  | ramoMinn (size : BitVec 1) (rd : BitVec 5) (rs1 : BitVec 5) (rs2 : BitVec 5)
  /-- RAMO_MAXN (R240): Remote atomic natural maximum. -/
  | ramoMaxn (size : BitVec 1) (rd : BitVec 5) (rs1 : BitVec 5) (rs2 : BitVec 5)
  /-- RAMO_CAS (R240): Remote compare-and-swap. -/
  | ramoCas (size : BitVec 1) (rd : BitVec 5) (rs1 : BitVec 5) (rs2 : BitVec 5)
  /-- RAMO_FADD (R240): Remote atomic floating add. -/
  | ramoFadd (size : BitVec 1) (rd : BitVec 5) (rs1 : BitVec 5) (rs2 : BitVec 5)
  /-- RAMO_FMIN (R240): Remote atomic floating minimum. -/
  | ramoFmin (size : BitVec 1) (rd : BitVec 5) (rs1 : BitVec 5) (rs2 : BitVec 5)
  /-- RAMO_FMAX (R240): Remote atomic floating maximum. -/
  | ramoFmax (size : BitVec 1) (rd : BitVec 5) (rs1 : BitVec 5) (rs2 : BitVec 5)
  /-- SBIND (R217): Binds a stream register to a descriptor, as the active or the pending binding. -/
  | sbind (rd : BitVec 5) (rs1 : BitVec 5)
  /-- SSTOP (R218): Stops a stream and drops both of its bindings. -/
  | sstop (rd : BitVec 5)
  /-- SMV (R219): Pops one inbound stream element into X[rd], parking until it arrives. -/
  | smv (rd : BitVec 5) (rs1 : BitVec 5)
  /-- SWR (R219): Supplies one outbound stream element, parking while the buffer is full. -/
  | swr (rd : BitVec 5) (rs2 : BitVec 5)
  /-- WMBIND (R224): Binds a watermark register to a cell, or unbinds it. -/
  | wmbind (rd : BitVec 5) (rs1 : BitVec 5)
  /-- WMPUB (R224): Releases, then advances MARK at the cell's home. -/
  | wmpub (rs1 : BitVec 5) (rs2 : BitVec 5)
  /-- WMWAIT (R224): Parks until MARK reaches the threshold, then acquires. -/
  | wmwait (rd : BitVec 5) (rs1 : BitVec 5) (rs2 : BitVec 5)
  /-- WMGET (R224): Reads the MARK that a register holds. -/
  | wmget (rd : BitVec 5) (rs1 : BitVec 5)
  /-- TLOOK (R228): Looks up a granule in the LSP tag table. -/
  | tlook (rd : BitVec 5) (rs1 : BitVec 5)
  /-- TSET (R228): Installs a granule-to-slot entry in the tag table. -/
  | tset (rd : BitVec 5) (rs1 : BitVec 5) (rs2 : BitVec 5)
  /-- TINV (R228): Removes a granule's tag-table entry. -/
  | tinv (rd : BitVec 5) (rs1 : BitVec 5)
  /-- L2PIN (R229): Binds an address-range retention register with reserved ways. -/
  | l2pin (rd : BitVec 5) (rs1 : BitVec 5) (rs2 : BitVec 5)
  /-- L2UNPIN (R230): Returns an ARR's counters and unbinds it. -/
  | l2unpin (rd : BitVec 5) (rs1 : BitVec 5)
  /-- PHASE (R256): Reads PHASE and writes new phase fields, holding timed changes for DSYNC. -/
  | phase (rd : BitVec 5) (rs1 : BitVec 5)
  /-- TSEND (R258): Sends bytes through a route, checked against the slot table in timed phases. -/
  | tsend (rd : BitVec 5) (rs1 : BitVec 5) (rs2 : BitVec 5)
  /-- TRECV (R259): Parks until the bytes delivered this period reach a threshold. -/
  | trecv (rd : BitVec 5) (rs1 : BitVec 5)
  /-- DOMSET (R255): Defines domain membership at a level. -/
  | domset (rd : BitVec 5) (rs1 : BitVec 5) (rs2 : BitVec 5)
  /-- DSYNC (R257): Domain barrier that toggles the phase and applies held phase changes. -/
  | dsync (rd : BitVec 5)
  /-- CSRRW (R267): Swaps a CSR with a register. -/
  | csrrw (rd : BitVec 5) (rs1 : BitVec 5) (num : BitVec 12)
  /-- CSRRS (R267): Reads a CSR and sets bits from a register. -/
  | csrrs (rd : BitVec 5) (rs1 : BitVec 5) (num : BitVec 12)
  /-- CSRRC (R267): Reads a CSR and clears bits from a register. -/
  | csrrc (rd : BitVec 5) (rs1 : BitVec 5) (num : BitVec 12)
  /-- CSRRWI (R267): Writes a CSR from an immediate. -/
  | csrrwi (rd : BitVec 5) (imm : BitVec 5) (num : BitVec 10)
  /-- CSRRSI (R267): Reads a CSR and sets immediate bits. -/
  | csrrsi (rd : BitVec 5) (imm : BitVec 5) (num : BitVec 10)
  /-- CSRRCI (R267): Reads a CSR and clears immediate bits. -/
  | csrrci (rd : BitVec 5) (imm : BitVec 5) (num : BitVec 10)
  /-- PAIR (R262): Parks until the partner executes PAIR, then exchanges a register value. -/
  | pair (rd : BitVec 5) (rs1 : BitVec 5)
  /-- SYSC (R265): Traps SYSCALL. -/
  | sysc (rs1 : BitVec 5)
  /-- BRK (R265): Traps BREAKPOINT. -/
  | brk (rs1 : BitVec 5)
  /-- RNDV_S0 (R266): Reads the stochastic state s0. -/
  | rndvS0 (rd : BitVec 5)
  /-- RNDV_S1 (R266): Reads the stochastic state s1. -/
  | rndvS1 (rd : BitVec 5)
  /-- RNDV_WS0 (R266): Writes s0 and returns its old value. -/
  | rndvWs0 (rd : BitVec 5) (rs1 : BitVec 5)
  /-- RNDV_WS1 (R266): Writes s1 and returns its old value. -/
  | rndvWs1 (rd : BitVec 5) (rs1 : BitVec 5)
  /-- RNDV_ENT (R266): Reads 64 bits from the RKC entropy source. -/
  | rndvEnt (rd : BitVec 5)
  /-- RNDV_TIME (R266): Reads TIME as a forwarded value. -/
  | rndvTime (rd : BitVec 5)
  /-- VSETL (R123): Sets VTYPE and grants a vector length from X[rs1]. -/
  | vsetl (rd : BitVec 5) (rs1 : BitVec 5) (imm : BitVec 14)
  /-- VSETLI (R123): Sets VTYPE and grants a vector length from an immediate AVL. -/
  | vsetli (rd : BitVec 5) (rs1 : BitVec 5) (imm : BitVec 14)
  /-- VMVXS (R149): Reads a vector element into X[rd] after the older vector work. -/
  | vmvxs (rd : BitVec 5) (rs1 : BitVec 5) (rs2 : BitVec 5)
  /-- VMPOPC (R149): Counts the set mask bits below VL - VPAD. -/
  | vmpopc (rd : BitVec 5) (rs1 : BitVec 5)
  /-- VMFIRST (R149): Finds the lowest set mask bit below VL - VPAD. -/
  | vmfirst (rd : BitVec 5) (rs1 : BitVec 5)
  /-- VRDSUB (R149): Reads the substitute value for the current type. -/
  | vrdsub (rd : BitVec 5)
  /-- VRDSC (R149): Reads a scale register's bit pattern. -/
  | vrdsc (rd : BitVec 5) (rs1 : BitVec 5)
  /-- NOP_C (R28): Compact no-operation. -/
  | nopC
  /-- FENCE_CODE (R200): Acquires and discards the instruction cache and prefetched instructions. -/
  | fenceCode
  /-- GANG (R261): Parks until every gang member has executed GANG, then resumes lockstep. -/
  | gang
  /-- SPLIT (R261): Leaves lockstep; each member fetches alone. -/
  | split
  /-- UNPAIR (R262): Sets PAIRROLE to 0. -/
  | unpair
  /-- VACQ (R263): Takes the vector file, or parks first-come first-served until it is free. -/
  | vacq
  /-- VREL (R263): Drains vector work, drops B residency and releases the vector file. -/
  | vrel
  /-- END (R264): Drains, releases, contributes the flags, completes the instance and frees the hart. -/
  | endHart
  /-- YIELD (R265): Ends the chunk and offers a pre-emption point. -/
  | yield
  /-- TRET (R19): Returns from a trap, restoring the mode and the interrupt enable. -/
  | tret
  /-- HALT (R265): Stops the hart's issue and reports the halt on the management queue. -/
  | halt
  /-- L2HINT_FETCH (R231): L2HINT op 0: fetches a range into the cluster L2 at high priority. -/
  | l2hintFetch (rd : BitVec 5) (rs1 : BitVec 5) (rs2 : BitVec 5)
  /-- L2HINT_DEMOTE (R231): L2HINT op 1: moves a range's lines to the lowest priority. -/
  | l2hintDemote (rd : BitVec 5) (rs1 : BitVec 5) (rs2 : BitVec 5)
  /-- L2HINT_COUNTERS (R231): L2HINT op 2: reads an ARR's counters without unbinding it. -/
  | l2hintCounters (rd : BitVec 5) (rs1 : BitVec 5) (rs2 : BitVec 5)
  /-- CONVOY (R50): A convoy header and its members, checked and executed as one element loop. -/
  | convoy (header : BitVec 32) (words : List (BitVec 64))
  /-- VADD (R135): Element-wise integer add. -/
  | vadd (w : VWord)
  /-- VSUB (R135): Element-wise integer subtract. -/
  | vsub (w : VWord)
  /-- VRSUB (R135): Element-wise reverse subtract, b - a. -/
  | vrsub (w : VWord)
  /-- VMUL (R135): Low part of the element product. -/
  | vmul (w : VWord)
  /-- VMULH (R135): High part of the signed element product. -/
  | vmulh (w : VWord)
  /-- VMULHN (R135): High part of the natural element product. -/
  | vmulhn (w : VWord)
  /-- VMACC (R135): d + a x b. -/
  | vmacc (w : VWord)
  /-- VNMSAC (R135): d - a x b. -/
  | vnmsac (w : VWord)
  /-- VDIV (R135): Element signed division. -/
  | vdiv (w : VWord)
  /-- VDIVN (R135): Element natural division. -/
  | vdivn (w : VWord)
  /-- VREM (R135): Element signed remainder. -/
  | vrem (w : VWord)
  /-- VREMN (R135): Element natural remainder. -/
  | vremn (w : VWord)
  /-- VMIN (R135): Element signed minimum. -/
  | vmin (w : VWord)
  /-- VMAX (R135): Element signed maximum. -/
  | vmax (w : VWord)
  /-- VMINN (R135): Element natural minimum. -/
  | vminn (w : VWord)
  /-- VMAXN (R135): Element natural maximum. -/
  | vmaxn (w : VWord)
  /-- VSADD (R135): Signed saturating add. -/
  | vsadd (w : VWord)
  /-- VSADDN (R135): Natural saturating add. -/
  | vsaddn (w : VWord)
  /-- VSSUB (R135): Signed saturating subtract. -/
  | vssub (w : VWord)
  /-- VSSUBN (R135): Natural saturating subtract. -/
  | vssubn (w : VWord)
  /-- VAVG (R135): Rounded average. -/
  | vavg (w : VWord)
  /-- VABSD (R135): Absolute difference. -/
  | vabsd (w : VWord)
  /-- VSLL (R136): Element left shift. -/
  | vsll (w : VWord)
  /-- VSRL (R136): Element logical right shift. -/
  | vsrl (w : VWord)
  /-- VSRA (R136): Element arithmetic right shift. -/
  | vsra (w : VWord)
  /-- VNSRL (R137): Narrowing logical right shift with rounding. -/
  | vnsrl (w : VWord)
  /-- VNSRA (R137): Narrowing arithmetic right shift with rounding. -/
  | vnsra (w : VWord)
  /-- VWADD (R138): Widening add. -/
  | vwadd (w : VWord)
  /-- VWMUL (R138): Widening multiply. -/
  | vwmul (w : VWord)
  /-- VCLZ (R135): Leading zero count per element. -/
  | vclz (w : VWord)
  /-- VCPOP (R135): Population count per element. -/
  | vcpop (w : VWord)
  /-- VSEXT (R138): Sign extension from a narrower source group. -/
  | vsext (w : VWord)
  /-- VZEXT (R138): Zero extension from a narrower source group. -/
  | vzext (w : VWord)
  /-- VAND (R139): Bitwise AND of elements. -/
  | vand (w : VWord)
  /-- VOR (R139): Bitwise OR of elements. -/
  | vor (w : VWord)
  /-- VXOR (R139): Bitwise XOR of elements. -/
  | vxor (w : VWord)
  /-- VNOT (R139): Bitwise NOT of elements. -/
  | vnot (w : VWord)
  /-- VMERGE (R139): Selects b or a by the mask. -/
  | vmerge (w : VWord)
  /-- VMV (R139): Element move, including whole SX blocks. -/
  | vmv (w : VWord)
  /-- VMS_EQ (R139): Integer equal compare into a mask. -/
  | vmsEq (w : VWord)
  /-- VMS_NE (R139): Integer not-equal compare into a mask. -/
  | vmsNe (w : VWord)
  /-- VMS_LT (R139): Signed less-than compare into a mask. -/
  | vmsLt (w : VWord)
  /-- VMS_LTN (R139): Natural less-than compare into a mask. -/
  | vmsLtn (w : VWord)
  /-- VMS_LE (R139): Signed less-or-equal compare into a mask. -/
  | vmsLe (w : VWord)
  /-- VMS_LEN (R139): Natural less-or-equal compare into a mask. -/
  | vmsLen (w : VWord)
  /-- VMS_GT (R139): Signed greater-than compare into a mask. -/
  | vmsGt (w : VWord)
  /-- VMS_GTN (R139): Natural greater-than compare into a mask. -/
  | vmsGtn (w : VWord)
  /-- VMAND (R139): Mask AND. -/
  | vmand (w : VWord)
  /-- VMOR (R139): Mask OR. -/
  | vmor (w : VWord)
  /-- VMXOR (R139): Mask XOR. -/
  | vmxor (w : VWord)
  /-- VMANDN (R139): Mask AND NOT. -/
  | vmandn (w : VWord)
  /-- VMNOT (R139): Mask NOT. -/
  | vmnot (w : VWord)
  /-- VMSET (R139): Sets the mask bits. -/
  | vmset (w : VWord)
  /-- VMCLR (R139): Clears the mask bits. -/
  | vmclr (w : VWord)
  /-- VMSBF (R141): Sets the mask bits before the first set source bit. -/
  | vmsbf (w : VWord)
  /-- VMSIF (R141): Sets the mask bits up to and including the first set source bit. -/
  | vmsif (w : VWord)
  /-- VMSOF (R141): Sets only the mask bit of the first set source bit. -/
  | vmsof (w : VWord)
  /-- VIOTA (R141): Writes the prefix count of set mask bits per element. -/
  | viota (w : VWord)
  /-- VID (R139): Writes each element's index. -/
  | vid (w : VWord)
  /-- VFADD (R142): Floating add of elements. -/
  | vfadd (w : VWord)
  /-- VFSUB (R142): Floating subtract of elements. -/
  | vfsub (w : VWord)
  /-- VFMUL (R142): Floating multiply of elements. -/
  | vfmul (w : VWord)
  /-- VFDIV (R142): Floating divide of elements. -/
  | vfdiv (w : VWord)
  /-- VFSQRT (R142): Floating square root of elements. -/
  | vfsqrt (w : VWord)
  /-- VFMA (R142): Fused a x b + c per element. -/
  | vfma (w : VWord)
  /-- VFMS (R142): Fused a x b - c per element. -/
  | vfms (w : VWord)
  /-- VFNMA (R142): Fused -(a x b) - c per element. -/
  | vfnma (w : VWord)
  /-- VFNMS (R142): Fused -(a x b) + c per element. -/
  | vfnms (w : VWord)
  /-- VFMIN (R142): Element minimumNumber. -/
  | vfmin (w : VWord)
  /-- VFMAX (R142): Element maximumNumber. -/
  | vfmax (w : VWord)
  /-- VFSGNJ (R142): Element sign injection. -/
  | vfsgnj (w : VWord)
  /-- VFSGNJN (R142): Element negated sign injection. -/
  | vfsgnjn (w : VWord)
  /-- VFSGNJX (R142): Element XOR sign injection. -/
  | vfsgnjx (w : VWord)
  /-- VFCLASS (R142): Class number of each element. -/
  | vfclass (w : VWord)
  /-- VMF_EQ (R142): Floating equal compare into a mask. -/
  | vmfEq (w : VWord)
  /-- VMF_NE (R142): Floating not-equal compare into a mask. -/
  | vmfNe (w : VWord)
  /-- VMF_LT (R142): Floating less-than compare into a mask. -/
  | vmfLt (w : VWord)
  /-- VMF_LE (R142): Floating less-or-equal compare into a mask. -/
  | vmfLe (w : VWord)
  /-- VMF_GT (R142): Floating greater-than compare into a mask. -/
  | vmfGt (w : VWord)
  /-- VMF_GE (R142): Floating greater-or-equal compare into a mask. -/
  | vmfGe (w : VWord)
  /-- VFCVT_FTOI (R143): Same-width conversion from floating to integer. -/
  | vfcvtFtoi (w : VWord)
  /-- VFCVT_ITOF (R143): Same-width conversion from integer to floating. -/
  | vfcvtItof (w : VWord)
  /-- VFWCVT_FTOF (R143): Widening floating-to-floating conversion. -/
  | vfwcvtFtof (w : VWord)
  /-- VFWCVT_FTOI (R143): Widening floating-to-integer conversion. -/
  | vfwcvtFtoi (w : VWord)
  /-- VFWCVT_ITOF (R143): Widening integer-to-floating conversion. -/
  | vfwcvtItof (w : VWord)
  /-- VFNCVT_FTOF (R143): Narrowing floating-to-floating conversion. -/
  | vfncvtFtof (w : VWord)
  /-- VFNCVT_FTOI (R143): Narrowing floating-to-integer conversion. -/
  | vfncvtFtoi (w : VWord)
  /-- VFNCVT_ITOF (R143): Narrowing integer-to-floating conversion. -/
  | vfncvtItof (w : VWord)
  /-- VFWMA (R144): Widening fused multiply-add into the wide group. -/
  | vfwma (w : VWord)
  /-- VSXPACK (R145): Packs binary values into SX blocks. -/
  | vsxpack (w : VWord)
  /-- VSXUNPK (R146): Unpacks SX blocks to binary values. -/
  | vsxunpk (w : VWord)
  /-- VEXP2 (R147): Correctly rounded 2^a. -/
  | vexp2 (w : VWord)
  /-- VLOG2 (R147): Correctly rounded log2 a. -/
  | vlog2 (w : VWord)
  /-- VRCP (R147): Correctly rounded reciprocal. -/
  | vrcp (w : VWord)
  /-- VRSQ (R147): Correctly rounded reciprocal square root. -/
  | vrsq (w : VWord)
  /-- VSIN (R147): Correctly rounded sine. -/
  | vsin (w : VWord)
  /-- VCOS (R147): Correctly rounded cosine. -/
  | vcos (w : VWord)
  /-- VTANH (R147): Correctly rounded tanh. -/
  | vtanh (w : VWord)
  /-- VSIGM (R147): Correctly rounded logistic sigmoid. -/
  | vsigm (w : VWord)
  /-- VERF (R147): Correctly rounded erf. -/
  | verf (w : VWord)
  /-- VLE (R157): Unit-stride vector load. -/
  | vle (w : VWord)
  /-- VSE (R157): Unit-stride vector store. -/
  | vse (w : VWord)
  /-- VLSE (R154): Strided vector load. -/
  | vlse (w : VWord)
  /-- VSSE (R154): Strided vector store. -/
  | vsse (w : VWord)
  /-- VLXE (R154): Indexed vector gather. -/
  | vlxe (w : VWord)
  /-- VSXE (R154): Indexed vector scatter. -/
  | vsxe (w : VWord)
  /-- VLGL (R167): Gather that also sets links in the hart's link set. -/
  | vlgl (w : VWord)
  /-- VSSC (R168): Scatter-conditional on the links, writing a success mask. -/
  | vssc (w : VWord)
  /-- VLSEG (R156): Segment load of nf fields per record. -/
  | vlseg (w : VWord)
  /-- VSSEG (R156): Segment store of nf fields per record. -/
  | vsseg (w : VWord)
  /-- VLEFF (R165): Fault-only-first load that shortens VL at a later fault. -/
  | vleff (w : VWord)
  /-- VLWR (R166): Whole-register load. -/
  | vlwr (w : VWord)
  /-- VSWR (R166): Whole-register store. -/
  | vswr (w : VWord)
  /-- VSXADD (R169): Scatter-add of elements as device-scope atomics at the memory ports. -/
  | vsxadd (w : VWord)
  /-- VLST (R170): Pops stream elements into a vector group. -/
  | vlst (w : VWord)
  /-- VRED_SUM (R173): Integer sum reduction. -/
  | vredSum (w : VWord)
  /-- VRED_MAX (R173): Integer maximum reduction. -/
  | vredMax (w : VWord)
  /-- VRED_MIN (R173): Integer minimum reduction. -/
  | vredMin (w : VWord)
  /-- VRED_AND (R173): AND reduction. -/
  | vredAnd (w : VWord)
  /-- VRED_OR (R173): OR reduction. -/
  | vredOr (w : VWord)
  /-- VRED_XOR (R173): XOR reduction. -/
  | vredXor (w : VWord)
  /-- VFREDSUM (R96): Floating tree-sum reduction. -/
  | vfredsum (w : VWord)
  /-- VFREDOSUM (R96): Floating ordered-sum reduction. -/
  | vfredosum (w : VWord)
  /-- VFREDMAX (R173): Floating maximum reduction. -/
  | vfredmax (w : VWord)
  /-- VFREDMIN (R173): Floating minimum reduction. -/
  | vfredmin (w : VWord)
  /-- VSLIDEUP (R172): Slides elements up by k. -/
  | vslideup (w : VWord)
  /-- VSLIDEDN (R172): Slides elements down by k. -/
  | vslidedn (w : VWord)
  /-- VPERM (R172): Permutes elements by an index group. -/
  | vperm (w : VWord)
  /-- VCOMPRESS (R174): Packs the selected elements to the front. -/
  | vcompress (w : VWord)
  /-- VEXPAND (R174): Spreads packed elements to the selected positions. -/
  | vexpand (w : VWord)
  /-- VMVSX (R172): Moves a scalar into element 0. -/
  | vmvsx (w : VWord)
  /-- VZIP (R172): Interleaves two groups into a wide group. -/
  | vzip (w : VWord)
  /-- VUNZIP (R172): Takes the even or the odd elements of a wide group. -/
  | vunzip (w : VWord)
  /-- VTRN (R172): Transposes element pairs. -/
  | vtrn (w : VWord)
  /-- MBLD (R179): Registers a B tile and starts its load into the CIM banks. -/
  | mbld (w : VWord)
  /-- MBINV (R181): Drops the tile that holds a bank. -/
  | mbinv (w : VWord)
  /-- MMA (R185): Accumulates A rows times the resident B, row by row. -/
  | mma (w : VWord)
  /-- MMAS (R185): Scaled matrix accumulate using two scale registers. -/
  | mmas (w : VWord)
  /-- MZERO (R189): Zeroes an accumulator. -/
  | mzero (w : VWord)
  /-- MXTR (R191): Extracts and narrows an accumulator row segment. -/
  | mxtr (w : VWord)
  /-- MXTRZ (R192): Extracts and zeroes an accumulator row segment. -/
  | mxtrz (w : VWord)
  /-- MCENS (R195): Reads the census table into eight registers, optionally clearing it. -/
  | mcens (w : VWord)
  /-- MSCL (R190): Writes a scale register from a scalar. -/
  | mscl (w : VWord)
  /-- CPV (R221): Starts a background copy from memory into registers. -/
  | cpv (w : VWord)
  /-- CPVS (R221): Starts a background copy from registers to memory. -/
  | cpvs (w : VWord)
  /-- CPRR_SEND (R251): Sends registers to another vector file through a CLASS 6 route. -/
  | cprrSend (w : VWord)
  /-- CPRR_ARM (R251): Marks registers as receiving a CPRR transfer. -/
  | cprrArm (w : VWord)
  /-- VRSEND (R246): Sends a vector group striped across a route set, in the background. -/
  | vrsend (w : VWord)
  /-- VRRED_ADD (R248): Remote scatter-add of elements into a reduce sink. -/
  | vrredAdd (w : VWord)
  /-- VRRED_MIN (R248): Remote minimum of elements into a reduce sink. -/
  | vrredMin (w : VWord)
  /-- VRRED_MAX (R248): Remote maximum of elements into a reduce sink. -/
  | vrredMax (w : VWord)
  /-- VENQ (R249): Enqueues a vector group as queue elements. -/
  | venq (w : VWord)
  /-- VRLD (R250): Remote load of whole registers through a route. -/
  | vrld (w : VWord)
  /-- CSR_WRITE (R267): Write to a CSR that has no row of its own. -/
  | csrWrite (num : BitVec 12) (v : Word)
  /-- FRM_WRITE (R16): A write to FRM that would place 6 or 7 leaves FRM unchanged. -/
  | frmWrite (v : Word)
  /-- VDIRTY_WRITE (R399): An S-mode write to VDIRTY clears bits and discards their registers; set bits are ignored. -/
  | vdirtyWrite (v : Word)
  /-- LSP_SEGMENT_WRITE (R274): An S-mode write to LSPBASE or LSPSEG, ignored if it leaves the grant. -/
  | lspSegmentWrite (size : Bool) (v : Word)
  /-- RSETSTAT_CLEAR (R247): Writing 1 to VALID clears the whole of RSETSTAT. -/
  | rsetstatClear
  /-- RFINJ_WRITE (R359): A write to RFINJ that arms signature fault injection in test mode. -/
  | rfinjWrite (v : Word)
  /-- CHUNK_COMMIT (R290): A completed chunk reaches the commit arbiter and commits or is squashed. -/
  | chunkCommit (hart : Nat) (falseMatch : Bool)
  /-- MBLD_LOAD_COMPLETE (R179): The background bank load finishes and sets LOADED. -/
  | mbldLoadComplete (core bank : Nat)
  /-- COPY_GROUP_TRANSFER (R221): A background copy moves one 128-byte element group. -/
  | copyGroupTransfer (core idx : Nat)
  /-- STREAM_ELEMENT_FETCH (R218): An inbound stream port reads the next element into its buffer. -/
  | streamElementFetch (core port : Nat)
  /-- STREAM_ELEMENT_WRITE (R218): An outbound stream port writes a supplied element. -/
  | streamElementWrite (core port : Nat)
  /-- WATERMARK_ADVANCE (R225): An engine write advances MARK at the cell's home once the bytes below are published. -/
  | watermarkAdvance (idx : Nat)
  /-- WATERMARK_NOTIFY (R282): A MARK advance arrives at a bound watermark register. -/
  | watermarkNotify (core wm : Nat)
  /-- SCATTER_ADD_PERFORM (R301): A memory port's scatter-add unit performs one element addition. -/
  | scatterAddPerform (idx : Nat)
  /-- READ_RETURN_ERROR (R373): A read return with an uncorrectable error squashes the vector queue and refetches. -/
  | readReturnError (hart line : Nat) (check : Bool) (flip : Line)
  /-- REFETCH_RETURN (R373): Refetched data returns; the instructions reissue or the consumer traps. -/
  | refetchReturn (line : Nat) (good : Bool)
  /-- SWITCH_FORWARD (R325): A packet arrives at a switch and is checked and forwarded, or rejected. -/
  | switchForward (tag : Nat)
  /-- TARGET_PERFORM (R327): A packet arrives at its target, is checked and is performed. -/
  | targetPerform (tag : Nat) (answer : RemoteAnswer)
  /-- REPLY_HOP (R325): A reply or acknowledgement crosses a switch on the reverse path, or is dropped as stale. -/
  | replyHop (tag : Nat)
  /-- REMOTE_REPLY_ARRIVAL (R241): A reply reaches the sending interface and completes the waiting instruction. -/
  | remoteReplyArrival (tag : Nat)
  /-- REMOTE_ACK_ARRIVAL (R243): An acknowledgement of a posted operation reaches the sender. -/
  | remoteAckArrival (tag : Nat)
  /-- NEGATIVE_ACK_ARRIVAL (R246): A rejection reaches the sender and fills the deferred error record or marks a set member failed. -/
  | negativeAckArrival (tag : Nat)
  /-- MOVED_RESEND (R337): A moved answer makes the interface resend with RELOC. -/
  | movedResend (tag : Nat)
  /-- CPRR_GROUP_ARRIVAL (R251): A CPRR element group arrives at an armed register. -/
  | cprrGroupArrival (core reg grp ctx : Nat) (data : BitVec 1024)
  /-- CPRR_RESEND_TIMER (R251): Every 1 us a group to a non-resident target is re-sent. -/
  | cprrResendTimer (tag : Nat)
  /-- VRLD_GROUP_ARRIVAL (R250): A VRLD element group arrives and fills its registers. -/
  | vrldGroupArrival (tag grp : Nat)
  /-- REMOTE_TIMEOUT (R339): After 2 ms without a reply, the operation completes with ROUTE_REVOKED. -/
  | remoteTimeout (tag : Nat)
  /-- LINK_FLIT_REPLAY (R330): A flit CRC failure causes a replay from that flit. -/
  | linkFlitReplay (port : Nat) (good : Bool)
  /-- LINK_DOWN (R330): After 16 failed replays the link goes down and its generations advance. -/
  | linkDown (portA portB : Nat)
  /-- CIPHER_REKEY (R332): After CIPHER_SYNC the RKC re-keys the stream with a new epoch. -/
  | cipherRekey (stream : Nat)
  /-- PEER_REJOIN (R339): A reset device rejoins and the generations of its ports advance. -/
  | peerRejoin (device : Nat) (ports : List Nat)
  /-- FORWARD_VALUE_ARRIVAL (R364): A forwarded value reaches a parked replica. -/
  | forwardValueArrival (hart : Nat)
  /-- SIGNATURE_ARRIVAL (R368): The cupping unit compares a chunk's replica signatures. -/
  | signatureArrival (group replica : Nat)
  /-- REPLICA_TIMEOUT (R371): After 100 us a late replica is stopped. -/
  | replicaTimeout (group : Nat)
  /-- REPLICA_EVENT_DELIVERY (R366): The cupping unit names the chunk boundary at which every replica takes an event. -/
  | replicaEventDelivery (group : Nat)
  /-- LAUNCH_RECORD_TAKE (R347): The DU takes and checks a launch record from the head of its queue. -/
  | launchRecordTake (ctx queue : Nat)
  /-- INSTANCE_PLACE (R352): A free placement binds an instance's harts under selection and placement. -/
  | instancePlace (launch : Nat) (harts : List (List Nat))
  /-- DEFICIT_TICK (R351): Each running hart spends 1 of its context's deficit per us. -/
  | deficitTick (die : Nat)
  /-- PREEMPTION_REQUEST (R396): The DU requests pre-emption of a context's harts. -/
  | preemptionRequest (ctx core : Nat)
  /-- PREEMPT_NOTICE_EXPIRY (R396): 50 us after a notice, the harts are swapped at their next point. -/
  | preemptNoticeExpiry (ctx core : Nat)
  /-- TIMED_DEFERRAL_EXPIRY (R257): Deferred pre-emption becomes possible PERIOD cycles after T. -/
  | timedDeferralExpiry (hart : Nat)
  /-- INTERRUPT_TAKE (R394): A pending interrupt is taken at a pre-emption point. -/
  | interruptTake (hart : Nat)
  /-- TIMER_TICK (R394): The supervisor tick makes TIMER pending in the context's harts. -/
  | timerTick (ctx : Nat)
  /-- WAIT_TIMEOUT (R202): WAIT's timeout elapses and it returns outcome 1. -/
  | waitTimeout (hart : Nat)
  /-- SWAP_OUT (R397): Once the harts halt, their state is exchanged into shadow storage. -/
  | swapOut (ctx core : Nat)
  /-- SWAP_IN (R398): A context resumes with lazy restoration of its state. -/
  | swapIn (ctx core : Nat)
  /-- SELFTEST_VISIT (R357): At each interval the next cluster is drained and decanted for scan test. -/
  | selftestVisit (cluster : Nat)
  /-- SELFTEST_RESULT (R376): The scan test ends, and the cluster returns or is fenced. -/
  | selftestResult (cluster : Nat) (pass : Bool) (unit : Nat)
  /-- PAGE_REQUEST_ENQUEUE (R380): A waiting page request is enqueued when room frees in the queue. -/
  | pageRequestEnqueue (function : Nat)
  /-- PAGE_REPLY_RECEIVE (R381): The translation hardware dequeues and records a page reply. -/
  | pageReplyReceive (function : Nat)
  /-- HOST_PAGE_REQUEST_ANSWER (R390): The host answers a PCI Express page request. -/
  | hostPageRequestAnswer (idx : Nat) (success : Bool)
  /-- ATS_INVALIDATION (R390): The host invalidates hub translation cache entries. -/
  | atsInvalidation (lo len : Nat)
  /-- QUEUE_PORT_ENQUEUE (R403): A 64-byte posted write to an enqueue handle performs ENQ. -/
  | queuePortEnqueue (function handle : Nat) (data : Line)
  /-- QUEUE_PORT_QSTAT_READ (R403): A read of an enqueue handle returns a QSTAT snapshot. -/
  | queuePortQstatRead (function handle : Nat)
  /-- QUEUE_PORT_DEQUEUE_READ (R403): A 128-byte read of a dequeue handle performs DEQNB. -/
  | queuePortDequeueRead (function handle : Nat)
  /-- QUEUE_PORT_BAD_ACCESS (R403): Any other port access is dropped and counted. -/
  | queuePortBadAccess (function offset : Nat)
  /-- WINDOW_WRITE (R406): A posted write to an inbound peer window is performed as an engine write. -/
  | windowWrite (window offset : Nat) (data : List Byte) (relaxed : Bool)
  /-- TDI_ERROR (R404): A VF enters the TDISP ERROR state and its context's harts halt. -/
  | tdiError (function : Nat)
  /-- SPDM_GET_VERSION (R407): SPDM version request. -/
  | spdmGetVersion (function : Nat)
  /-- SPDM_GET_CAPABILITIES (R407): SPDM capabilities request. -/
  | spdmGetCapabilities (function : Nat)
  /-- SPDM_NEGOTIATE_ALGORITHMS (R407): SPDM algorithm negotiation. -/
  | spdmNegotiateAlgorithms (function : Nat)
  /-- SPDM_GET_DIGESTS (R407): Returns the certificate chain digests. -/
  | spdmGetDigests (function : Nat)
  /-- SPDM_GET_CERTIFICATE (R409): Returns a portion of a certificate chain. -/
  | spdmGetCertificate (function slot offset length : Nat)
  /-- SPDM_CHALLENGE (R409): Signed challenge under a slot's chain. -/
  | spdmChallenge (function slot : Nat) (nonce : BitVec 256)
  /-- SPDM_GET_MEASUREMENTS (R408): Returns the measurement blocks. -/
  | spdmGetMeasurements (function index : Nat)
  /-- SPDM_KEY_EXCHANGE (R407): Starts a session key exchange. -/
  | spdmKeyExchange (function slot : Nat) (nonce : BitVec 256)
  /-- SPDM_FINISH (R407): Completes a session key exchange. -/
  | spdmFinish (function : Nat)
  /-- SPDM_SET_CERTIFICATE (R409): Requests a rewrite of a certificate slot. -/
  | spdmSetCertificate (function slot : Nat) (chain : List Byte)
  /-- SPDM_UNSUPPORTED (R407): Any other request is answered ERROR UnsupportedRequest. -/
  | spdmUnsupported (function code : Nat)
  /-- CERTIFICATE_REWRITE_APPLY (R409): A held slot rewrite takes effect once the earlier requests are answered. -/
  | certificateRewriteApply (slot : Nat)
  /-- INVALIDATE_VA_RANGE (R388): Invalidation OP 1: a VA range in an ASID. -/
  | invalidateVaRange (issuer : Issuer) (ctx asid : Nat) (start length done : Word)
  /-- INVALIDATE_ASID (R388): Invalidation OP 2: all of an ASID. -/
  | invalidateAsid (issuer : Issuer) (ctx asid : Nat) (done : Word)
  /-- INVALIDATE_CONTEXT (R388): Invalidation OP 3: all of the context, stage 2 included. -/
  | invalidateContext (issuer : Issuer) (ctx : Nat) (done : Word)
  /-- INVALIDATE_GPA_RANGE (R388): Invalidation OP 4: a GPA range of a function. -/
  | invalidateGpaRange (issuer : Issuer) (function : Nat) (start length done : Word)
  /-- INVALIDATE_FUNCTION (R388): Invalidation OP 5: all stage-2 entries of a function. -/
  | invalidateFunction (issuer : Issuer) (function : Nat) (done : Word)
  /-- INVALIDATION_DONE (R388): After the matching accesses drain, DONE is stored as a release. -/
  | invalidationDone (idx : Nat)
  /-- CREATE (R335): Creates a context with its KEYID, cores, ASIDs and launch queues. -/
  | create (issuer : Issuer) (spec : CreateSpec)
  /-- DESTROY (R335): Destroys a context in order. -/
  | destroy (issuer : Issuer) (ctx : Nat) (done : Word)
  /-- MINT (R322): The RKC chooses a path, installs access and seals a token. -/
  | mint (spec : MintSpec)
  /-- REMINT (R321): Issues a fresh token for a grant that still stands. -/
  | remint (spec : MintSpec)
  /-- DROPGRANT (R324): Removes one access-table entry. -/
  | dropgrant (issuer : Issuer) (device ctx entry : Nat) (done : Word)
  /-- ADVANCE (R324): Advances a port's generation, revoking the routes through it. -/
  | advance (issuer : Issuer) (port : Nat) (done : Word)
  /-- REVOCATION_DRAIN_ANSWER (R324): The RKC answers once the drain marker shows earlier packets performed or rejected. -/
  | revocationDrainAnswer (idx : Nat)
  /-- KILLKEY (R334): Moves a key slot to RETIRING and broadcasts a kill. -/
  | killkey (slot : Nat)
  /-- KEY_KILL_RECEIVE (R334): A cipher engine writes back, erases the key and acknowledges. -/
  | keyKillReceive (slot : Nat)
  /-- KEY_RETIRE_STUCK (R334): A slot still RETIRING after 10 ms is reported. -/
  | keyRetireStuck (slot : Nat)
  /-- MIGRATE (R337): Copies a page for retirement while writes continue. -/
  | migrate (issuer : Issuer) (oldPage newPage : Nat) (done : Word)
  /-- MIGRATE_CUTOVER (R337): After the copy, PTEs are rewritten, relocation is installed and the old home answers moved. -/
  | migrateCutover (idx : Nat) (ptes : List Nat)
  /-- SET_AGE_LIMIT (R350): Sets AGE_LIMIT. -/
  | setAgeLimit (issuer : Issuer) (micros : Nat) (done : Word)
  /-- SET_SELFTEST_INTERVAL (R357): Sets the self-test interval. -/
  | setSelftestInterval (issuer : Issuer) (millis : Nat) (done : Word)
  /-- SET_TEST_MODE (R359): Sets test mode. -/
  | setTestMode (issuer : Issuer) (on : Bool) (done : Word)
  /-- SET_POWER_CAP (R417): Sets the power cap. -/
  | setPowerCap (issuer : Issuer) (watts : Nat) (done : Word)
  /-- SET_ASID_ROOT (R386): Fixes an ASID's page-table root. -/
  | setAsidRoot (issuer : Issuer) (ctx asid root : Nat) (done : Word)
  /-- SET_STAGE2_ROOT (R386): Fixes a function's stage-2 root. -/
  | setStage2Root (issuer : Issuer) (function root : Nat) (done : Word)
  /-- WINDOW_BINDING (R405): Binds an inbound peer window to a context range and a watermark cell. -/
  | windowBinding (issuer : Issuer) (window function offset ctx asid : Nat) (cell : Word) (done : Word)
  /-- READ_COUNTER (R415): Reads a performance or drop counter. -/
  | readCounter (issuer : Issuer) (counter index : Nat) (echo done : Word)
  /-- DEBUG_HALT (R414): Halts a hart at its next pre-emption point. -/
  | debugHalt (token : Line) (hart : Nat) (done : Word)
  /-- DEBUG_RESUME (R414): Restarts a halted hart at its saved PC. -/
  | debugResume (token : Line) (hart : Nat) (done : Word)
  /-- DEBUG_READ_STATE (R414): Reads a halted hart's saved image. -/
  | debugReadState (token : Line) (hart item index : Nat) (echo done : Word)
  /-- DEBUG_WRITE_STATE (R414): Writes a halted hart's saved image. -/
  | debugWriteState (token : Line) (hart item index : Nat) (v : Word) (done : Word)
  /-- MGMT_UNKNOWN_OP (R410): An unlisted management OP is answered DONE = 2. -/
  | mgmtUnknownOp (issuer : Issuer) (op : BitVec 8) (done : Word)
  /-- HART_RESTART (R265): The host restarts a halted hart, which traps SUPERVISOR_CALL_IN. -/
  | hartRestart (hart : Nat) (v : Word)
  /-- HOST_SUPERVISOR_CALL (R394): The host makes SUPERVISOR_CALL_IN pending in a named hart. -/
  | hostSupervisorCall (hart : Nat) (v : Word)
  /-- THERMAL_EVENT (R417): Exceeding the power cap or a junction limit steps the clock down or halts the harts. -/
  | thermalEvent (celsius : Nat)
  /-- DEVICE_RESET (R416): Reset and ordered bring-up: secure boot, HBM and link training, enumeration, self-test. -/
  | deviceReset (secureBoot : Bool) (links : List Nat)
  /-- ILLEGAL_INSTRUCTION (R38): Fetch of an encoding that no entry assigns (compact 0x0000, majors 37-62, unassigned minors, nonzero reserved fields) traps ILLEGAL_INSTRUCTION. -/
  | illegalInstruction (bits : Word)
  /-- TDISP_REQUEST (R404): A TDISP request from the host moves a VF's TDI between CONFIG_UNLOCKED, CONFIG_LOCKED and RUN. -/
  | tdispRequest (function : Nat) (dest : TdiState)
  /-- QUEUE_PORT_HANDLE_BINDING (R403): A management command binds a queue-port handle other than the fixed ones to a QCB, or leaves it unbound. -/
  | queuePortHandleBinding (issuer : Issuer) (function handle : Nat) (target : Option PortTarget) (done : Word)
  /-- MGMT_CERTIFICATE_REWRITE (R409): A management request to rewrite a certificate slot, held like SET_CERTIFICATE until earlier requests are answered. -/
  | mgmtCertificateRewrite (issuer : Issuer) (slot : Nat) (chain : List Byte) (done : Word)
  /-- RECOVERY_WRITE (R416): A management OP 0x20 recovery write from the PF to a device whose secure-boot check failed. -/
  | recoveryWrite (data : List Byte) (done : Word)
deriving DecidableEq, Repr

end Sys2Proof
end

