-- ==== Sys2Proof/WellFormed.lean ====
section
/-! DEFINITION. Static well-formedness: the field values that make a word an instruction (spec/02 R29, R32, R33, R40, R43;
the register-number ranges of spec/09 and spec/10). What depends on the machine's state is checked where it runs. -/

namespace Sys2Proof

/-- R29: a compact form other than NOP.C and ST.C names a register other than x0. -/
abbrev wfCompact (r : Reg) : Bool := decide (r ≠ 0)
/-- R199: fence scopes are 0 to 4. -/
abbrev wfScope (s : BitVec 3) : Bool := decide (s.toNat ≤ 4)
/-- A field that numbers one of n registers of a file (spec/09, spec/10). -/
abbrev wfBelow (n : Nat) (r : Reg) : Bool := decide (r.toNat < n)
/-- R236: a register pair starts at an even register other than x0. -/
abbrev wfPair (r : Reg) : Bool := decide (r.toNat % 2 = 0) && decide (r ≠ 0)
/-- R116: rounding codes are 0 to 6. -/
abbrev wfCtl (ctl : BitVec 5) : Bool := decide (ctl.toNat / 4 ≠ 7)
/-- R116: a conversion between two floating formats names two formats. -/
abbrev wfCvt (fmt : BitVec 2) (ctl : BitVec 5) : Bool := decide (ctl.toNat % 4 ≠ fmt.toNat)
/-- R43, R44: bit combinations that no vector word may hold, whatever its operation. -/
def wfVWord (w : VWord) : Bool :=
  (decide (w.men = 1) || decide (w.msk = 0)) && (decide (w.scal = 0) || decide (w.mod2 = 0)) &&
  decide (w.mod1.toNat < 12) && decide (w.mod2.toNat < 12)
/-- R40: header byte, COUNT 0 to 5, and as many words as COUNT says. -/
def wfConvoy (h : BitVec 32) (ws : List (BitVec 64)) : Bool :=
  decide (h.toNat % 256 = 255) && decide (h.toNat / 256 % 8 ≤ 5) && decide (ws.length = h.toNat / 256 % 8 + 1)
/-- A hart of the device (R1): four dies of twelve clusters. -/
def wfHart (h : Nat) : Bool := decide (h < 4096) && decide (h / 64 % 16 < 12)
/-- A core of the device. -/
def wfCore (c : Nat) : Bool := wfHart (c * 4)

/-- Every static field rule. -/
def wellFormed : Instr → Bool
  | .addC r => wfCompact r
  | .subC r => wfCompact r
  | .andC r => wfCompact r
  | .orC r => wfCompact r
  | .xorC r => wfCompact r
  | .sllC r => wfCompact r
  | .srlC r => wfCompact r
  | .sraC r => wfCompact r
  | .mulC r => wfCompact r
  | .sltC r => wfCompact r
  | .sltnC r => wfCompact r
  | .mvC r => wfCompact r
  | .nopC => true
  | .addiC r _ => wfCompact r
  | .andiC r _ => wfCompact r
  | .slliC r _ => wfCompact r
  | .srliC r _ => wfCompact r
  | .sraiC r _ => wfCompact r
  | .liC r _ => wfCompact r
  | .ldC r _ => wfCompact r
  | .ldwC r _ => wfCompact r
  | .stC _ _ => true
  | .add _ _ _ => true
  | .sub _ _ _ => true
  | .and _ _ _ => true
  | .or _ _ _ => true
  | .xor _ _ _ => true
  | .andn _ _ _ => true
  | .orn _ _ _ => true
  | .xnor _ _ _ => true
  | .sll _ _ _ => true
  | .srl _ _ _ => true
  | .sra _ _ _ => true
  | .rol _ _ _ => true
  | .ror _ _ _ => true
  | .slt _ _ _ => true
  | .sltn _ _ _ => true
  | .min _ _ _ => true
  | .max _ _ _ => true
  | .minn _ _ _ => true
  | .maxn _ _ _ => true
  | .mul _ _ _ => true
  | .mulh _ _ _ => true
  | .mulhn _ _ _ => true
  | .mulhsn _ _ _ => true
  | .div _ _ _ => true
  | .divn _ _ _ => true
  | .rem _ _ _ => true
  | .remn _ _ _ => true
  | .clz _ _ => true
  | .ctz _ _ => true
  | .cpop _ _ => true
  | .sextB _ _ => true
  | .sextH _ _ => true
  | .sextW _ _ => true
  | .zextB _ _ => true
  | .zextH _ _ => true
  | .zextW _ _ => true
  | .cmovz _ _ _ => true
  | .cmovn _ _ _ => true
  | .bswap _ _ => true
  | .addW _ _ _ => true
  | .subW _ _ _ => true
  | .sllW _ _ _ => true
  | .srlW _ _ _ => true
  | .sraW _ _ _ => true
  | .rolW _ _ _ => true
  | .rorW _ _ _ => true
  | .mulW _ _ _ => true
  | .divW _ _ _ => true
  | .divnW _ _ _ => true
  | .remW _ _ _ => true
  | .remnW _ _ _ => true
  | .clzW _ _ => true
  | .ctzW _ _ => true
  | .cpopW _ _ => true
  | .bswapW _ _ => true
  | .addi _ _ _ => true
  | .andi _ _ _ => true
  | .ori _ _ _ => true
  | .xori _ _ _ => true
  | .slti _ _ _ => true
  | .sltni _ _ _ => true
  | .slli _ _ _ => true
  | .srli _ _ _ => true
  | .srai _ _ _ => true
  | .rori _ _ _ => true
  | .liu _ _ => true
  | .addpc _ _ => true
  | .ldB _ _ _ => true
  | .ldH _ _ _ => true
  | .ldW _ _ _ => true
  | .ldD _ _ _ => true
  | .ldnB _ _ _ => true
  | .ldnH _ _ _ => true
  | .ldnW _ _ _ => true
  | .ldacqW _ _ _ => true
  | .ldacqD _ _ _ => true
  | .ldVB _ _ _ => true
  | .ldVH _ _ _ => true
  | .ldVW _ _ _ => true
  | .ldVD _ _ _ => true
  | .stB _ _ _ => true
  | .stH _ _ _ => true
  | .stW _ _ _ => true
  | .stD _ _ _ => true
  | .strelW _ _ _ => true
  | .strelD _ _ _ => true
  | .fldH _ _ _ => true
  | .fldS _ _ _ => true
  | .fldD _ _ _ => true
  | .fstH _ _ _ => true
  | .fstS _ _ _ => true
  | .fstD _ _ _ => true
  | .amoAdd _ _ _ _ _ _ => true
  | .amoSwap _ _ _ _ _ _ => true
  | .amoAnd _ _ _ _ _ _ => true
  | .amoOr _ _ _ _ _ _ => true
  | .amoXor _ _ _ _ _ _ => true
  | .amoMin _ _ _ _ _ _ => true
  | .amoMax _ _ _ _ _ _ => true
  | .amoMinn _ _ _ _ _ _ => true
  | .amoMaxn _ _ _ _ _ _ => true
  | .cas _ _ _ _ _ _ => true
  | .amoFadd _ _ _ _ _ _ => true
  | .amoFmin _ _ _ _ _ _ => true
  | .amoFmax _ _ _ _ _ _ => true
  | .beq _ _ _ => true
  | .bne _ _ _ => true
  | .blt _ _ _ => true
  | .bge _ _ _ => true
  | .bltn _ _ _ => true
  | .bgen _ _ _ => true
  | .jal _ _ => true
  | .jalr _ _ _ => true
  | .bq _ _ _ => true
  | .fadd _ _ _ _ => true
  | .fsub _ _ _ _ => true
  | .fmul _ _ _ _ => true
  | .fdiv _ _ _ _ => true
  | .fsqrt _ _ _ => true
  | .fmin _ _ _ _ => true
  | .fmax _ _ _ _ => true
  | .fsgnj _ _ _ _ => true
  | .fsgnjn _ _ _ _ => true
  | .fsgnjx _ _ _ _ => true
  | .fclass _ _ _ => true
  | .fcmpEq _ _ _ _ => true
  | .fcmpNe _ _ _ _ => true
  | .fcmpLt _ _ _ _ => true
  | .fcmpLe _ _ _ _ => true
  | .fcmpGt _ _ _ _ => true
  | .fcmpGe _ _ _ _ => true
  | .fcvtFf fmt _ _ ctl => wfCtl ctl && wfCvt fmt ctl
  | .fcvtFi _ _ _ ctl => wfCtl ctl
  | .fcvtIf _ _ _ ctl => wfCtl ctl
  | .fmvxf _ _ _ => true
  | .fmvfx _ _ _ => true
  | .fma _ _ _ _ _ => true
  | .fms _ _ _ _ _ => true
  | .fnma _ _ _ _ _ => true
  | .fnms _ _ _ _ _ => true
  | .fenceAcq scope => wfScope scope
  | .fenceRel scope => wfScope scope
  | .fenceFull scope => wfScope scope
  | .fenceCode => true
  | .monW _ _ => true
  | .monD _ _ => true
  | .wait _ _ => true
  | .bset rd _ => wfBelow 8 rd
  | .arrive rd => wfBelow 8 rd
  | .bwait rd => wfBelow 8 rd
  | .qinit _ _ => true
  | .enq _ _ => true
  | .enqnb _ _ _ => true
  | .deq _ _ _ => true
  | .deqnb _ _ _ => true
  | .enqm _ _ _ => true
  | .qstat _ _ => true
  | .qgath _ _ _ => true
  | .rtld rd _ => wfBelow 16 rd
  | .rtst rd _ => wfBelow 16 rd
  | .rtnar rd rs1 rs2 => wfBelow 16 rd && wfBelow 16 rs1 && wfPair rs2
  | .rtdlg rd rs1 _ => wfBelow 16 rd && wfBelow 16 rs1
  | .rtset rd _ => wfBelow 4 rd
  | .rtinfo _ rs1 rs2 => wfBelow 16 rs1 && wfBelow 6 rs2
  | .rldW _ rs1 _ => wfBelow 16 rs1
  | .rldD _ rs1 _ => wfBelow 16 rs1
  | .rstW _ rs1 _ => wfBelow 16 rs1
  | .rstD _ rs1 _ => wfBelow 16 rs1
  | .renq _ rs1 _ => wfBelow 16 rs1
  | .renqm _ rs1 _ => wfBelow 16 rs1
  | .rfence _ => true
  | .ramoAdd _ _ rs1 rs2 => wfBelow 16 rs1 && wfPair rs2
  | .ramoSwap _ _ rs1 rs2 => wfBelow 16 rs1 && wfPair rs2
  | .ramoAnd _ _ rs1 rs2 => wfBelow 16 rs1 && wfPair rs2
  | .ramoOr _ _ rs1 rs2 => wfBelow 16 rs1 && wfPair rs2
  | .ramoXor _ _ rs1 rs2 => wfBelow 16 rs1 && wfPair rs2
  | .ramoMin _ _ rs1 rs2 => wfBelow 16 rs1 && wfPair rs2
  | .ramoMax _ _ rs1 rs2 => wfBelow 16 rs1 && wfPair rs2
  | .ramoMinn _ _ rs1 rs2 => wfBelow 16 rs1 && wfPair rs2
  | .ramoMaxn _ _ rs1 rs2 => wfBelow 16 rs1 && wfPair rs2
  | .ramoCas _ _ rs1 rs2 => wfBelow 16 rs1 && wfPair rs2
  | .ramoFadd _ _ rs1 rs2 => wfBelow 16 rs1 && wfPair rs2
  | .ramoFmin _ _ rs1 rs2 => wfBelow 16 rs1 && wfPair rs2
  | .ramoFmax _ _ rs1 rs2 => wfBelow 16 rs1 && wfPair rs2
  | .sbind rd _ => wfBelow 8 rd
  | .sstop rd => wfBelow 8 rd
  | .smv _ rs1 => wfBelow 8 rs1
  | .swr rd _ => wfBelow 8 rd
  | .wmbind rd _ => wfBelow 16 rd
  | .wmpub _ _ => true
  | .wmwait _ rs1 _ => wfBelow 16 rs1
  | .wmget _ rs1 => wfBelow 16 rs1
  | .tlook _ _ => true
  | .tset _ _ _ => true
  | .tinv _ _ => true
  | .l2pin _ _ _ => true
  | .l2unpin _ rs1 => wfBelow 4 rs1
  | .l2hintFetch _ _ _ => true
  | .l2hintDemote _ _ _ => true
  | .l2hintCounters _ _ _ => true
  | .phase _ _ => true
  | .tsend rd _ _ => wfBelow 16 rd
  | .trecv _ _ => true
  | .domset rd _ rs2 => wfBelow 4 rd && wfBelow 8 rs2
  | .dsync rd => wfBelow 4 rd
  | .csrrw _ _ _ => true
  | .csrrs _ _ _ => true
  | .csrrc _ _ _ => true
  | .csrrwi _ _ _ => true
  | .csrrsi _ _ _ => true
  | .csrrci _ _ _ => true
  | .gang => true
  | .split => true
  | .pair _ _ => true
  | .unpair => true
  | .vacq => true
  | .vrel => true
  | .endHart => true
  | .yield => true
  | .tret => true
  | .sysc _ => true
  | .brk _ => true
  | .halt => true
  | .rndvS0 _ => true
  | .rndvS1 _ => true
  | .rndvWs0 _ _ => true
  | .rndvWs1 _ _ => true
  | .rndvEnt _ => true
  | .rndvTime _ => true
  | .vsetl _ _ _ => true
  | .vsetli _ _ _ => true
  | .vmvxs _ _ _ => true
  | .vmpopc _ rs1 => wfBelow 8 rs1
  | .vmfirst _ rs1 => wfBelow 8 rs1
  | .vrdsub _ => true
  | .vrdsc _ rs1 => wfBelow 8 rs1
  | .convoy header words => wfConvoy header words
  | .vadd w => wfVWord w
  | .vsub w => wfVWord w
  | .vrsub w => wfVWord w
  | .vmul w => wfVWord w
  | .vmulh w => wfVWord w
  | .vmulhn w => wfVWord w
  | .vmacc w => wfVWord w
  | .vnmsac w => wfVWord w
  | .vdiv w => wfVWord w
  | .vdivn w => wfVWord w
  | .vrem w => wfVWord w
  | .vremn w => wfVWord w
  | .vmin w => wfVWord w
  | .vmax w => wfVWord w
  | .vminn w => wfVWord w
  | .vmaxn w => wfVWord w
  | .vsadd w => wfVWord w
  | .vsaddn w => wfVWord w
  | .vssub w => wfVWord w
  | .vssubn w => wfVWord w
  | .vavg w => wfVWord w
  | .vabsd w => wfVWord w
  | .vsll w => wfVWord w
  | .vsrl w => wfVWord w
  | .vsra w => wfVWord w
  | .vnsrl w => wfVWord w
  | .vnsra w => wfVWord w
  | .vwadd w => wfVWord w
  | .vwmul w => wfVWord w
  | .vclz w => wfVWord w
  | .vcpop w => wfVWord w
  | .vsext w => wfVWord w
  | .vzext w => wfVWord w
  | .vand w => wfVWord w
  | .vor w => wfVWord w
  | .vxor w => wfVWord w
  | .vnot w => wfVWord w
  | .vmerge w => wfVWord w
  | .vmv w => wfVWord w
  | .vmsEq w => wfVWord w
  | .vmsNe w => wfVWord w
  | .vmsLt w => wfVWord w
  | .vmsLtn w => wfVWord w
  | .vmsLe w => wfVWord w
  | .vmsLen w => wfVWord w
  | .vmsGt w => wfVWord w
  | .vmsGtn w => wfVWord w
  | .vmand w => wfVWord w
  | .vmor w => wfVWord w
  | .vmxor w => wfVWord w
  | .vmandn w => wfVWord w
  | .vmnot w => wfVWord w
  | .vmset w => wfVWord w
  | .vmclr w => wfVWord w
  | .vmsbf w => wfVWord w
  | .vmsif w => wfVWord w
  | .vmsof w => wfVWord w
  | .viota w => wfVWord w
  | .vid w => wfVWord w
  | .vfadd w => wfVWord w
  | .vfsub w => wfVWord w
  | .vfmul w => wfVWord w
  | .vfdiv w => wfVWord w
  | .vfsqrt w => wfVWord w
  | .vfma w => wfVWord w
  | .vfms w => wfVWord w
  | .vfnma w => wfVWord w
  | .vfnms w => wfVWord w
  | .vfmin w => wfVWord w
  | .vfmax w => wfVWord w
  | .vfsgnj w => wfVWord w
  | .vfsgnjn w => wfVWord w
  | .vfsgnjx w => wfVWord w
  | .vfclass w => wfVWord w
  | .vmfEq w => wfVWord w
  | .vmfNe w => wfVWord w
  | .vmfLt w => wfVWord w
  | .vmfLe w => wfVWord w
  | .vmfGt w => wfVWord w
  | .vmfGe w => wfVWord w
  | .vfcvtFtoi w => wfVWord w
  | .vfcvtItof w => wfVWord w
  | .vfwcvtFtof w => wfVWord w
  | .vfwcvtFtoi w => wfVWord w
  | .vfwcvtItof w => wfVWord w
  | .vfncvtFtof w => wfVWord w
  | .vfncvtFtoi w => wfVWord w
  | .vfncvtItof w => wfVWord w
  | .vfwma w => wfVWord w
  | .vsxpack w => wfVWord w
  | .vsxunpk w => wfVWord w
  | .vexp2 w => wfVWord w
  | .vlog2 w => wfVWord w
  | .vrcp w => wfVWord w
  | .vrsq w => wfVWord w
  | .vsin w => wfVWord w
  | .vcos w => wfVWord w
  | .vtanh w => wfVWord w
  | .vsigm w => wfVWord w
  | .verf w => wfVWord w
  | .vle w => wfVWord w
  | .vse w => wfVWord w
  | .vlse w => wfVWord w
  | .vsse w => wfVWord w
  | .vlxe w => wfVWord w
  | .vsxe w => wfVWord w
  | .vlgl w => wfVWord w
  | .vssc w => wfVWord w
  | .vlseg w => wfVWord w
  | .vsseg w => wfVWord w
  | .vleff w => wfVWord w
  | .vlwr w => wfVWord w
  | .vswr w => wfVWord w
  | .vsxadd w => wfVWord w
  | .vlst w => wfVWord w
  | .vredSum w => wfVWord w
  | .vredMax w => wfVWord w
  | .vredMin w => wfVWord w
  | .vredAnd w => wfVWord w
  | .vredOr w => wfVWord w
  | .vredXor w => wfVWord w
  | .vfredsum w => wfVWord w
  | .vfredosum w => wfVWord w
  | .vfredmax w => wfVWord w
  | .vfredmin w => wfVWord w
  | .vslideup w => wfVWord w
  | .vslidedn w => wfVWord w
  | .vperm w => wfVWord w
  | .vcompress w => wfVWord w
  | .vexpand w => wfVWord w
  | .vmvsx w => wfVWord w
  | .vzip w => wfVWord w
  | .vunzip w => wfVWord w
  | .vtrn w => wfVWord w
  | .mbld w => wfVWord w
  | .mbinv w => wfVWord w
  | .mma w => wfVWord w
  | .mmas w => wfVWord w
  | .mzero w => wfVWord w
  | .mxtr w => wfVWord w
  | .mxtrz w => wfVWord w
  | .mcens w => wfVWord w
  | .mscl w => wfVWord w
  | .cpv w => wfVWord w
  | .cpvs w => wfVWord w
  | .cprrSend w => wfVWord w
  | .cprrArm w => wfVWord w
  | .vrsend w => wfVWord w
  | .vrredAdd w => wfVWord w
  | .vrredMin w => wfVWord w
  | .vrredMax w => wfVWord w
  | .venq w => wfVWord w
  | .vrld w => wfVWord w
  | .csrWrite _ _ => true
  | .frmWrite _ => true
  | .vdirtyWrite _ => true
  | .lspSegmentWrite _ _ => true
  | .rsetstatClear => true
  | .rfinjWrite _ => true
  | .chunkCommit hart _ => wfHart hart
  | .mbldLoadComplete core _ => wfCore core
  | .copyGroupTransfer core _ => wfCore core
  | .streamElementFetch core _ => wfCore core
  | .streamElementWrite core _ => wfCore core
  | .watermarkAdvance _ => true
  | .watermarkNotify core _ => wfCore core
  | .scatterAddPerform _ => true
  | .readReturnError hart _ _ _ => wfHart hart
  | .refetchReturn _ _ => true
  | .switchForward _ => true
  | .targetPerform _ _ => true
  | .replyHop _ => true
  | .remoteReplyArrival _ => true
  | .remoteAckArrival _ => true
  | .negativeAckArrival _ => true
  | .movedResend _ => true
  | .cprrGroupArrival core _ _ _ _ => wfCore core
  | .cprrResendTimer _ => true
  | .vrldGroupArrival _ _ => true
  | .remoteTimeout _ => true
  | .linkFlitReplay _ _ => true
  | .linkDown _ _ => true
  | .cipherRekey _ => true
  | .peerRejoin _ _ => true
  | .forwardValueArrival hart => wfHart hart
  | .signatureArrival _ _ => true
  | .replicaTimeout _ => true
  | .replicaEventDelivery _ => true
  | .launchRecordTake _ _ => true
  | .instancePlace _ _ => true
  | .deficitTick _ => true
  | .preemptionRequest _ core => wfCore core
  | .preemptNoticeExpiry _ core => wfCore core
  | .timedDeferralExpiry hart => wfHart hart
  | .interruptTake hart => wfHart hart
  | .timerTick _ => true
  | .waitTimeout hart => wfHart hart
  | .swapOut _ core => wfCore core
  | .swapIn _ core => wfCore core
  | .selftestVisit _ => true
  | .selftestResult _ _ _ => true
  | .pageRequestEnqueue _ => true
  | .pageReplyReceive _ => true
  | .hostPageRequestAnswer _ _ => true
  | .atsInvalidation _ _ => true
  | .queuePortEnqueue _ _ _ => true
  | .queuePortQstatRead _ _ => true
  | .queuePortDequeueRead _ _ => true
  | .queuePortBadAccess _ _ => true
  | .windowWrite _ _ _ _ => true
  | .tdiError _ => true
  | .spdmGetVersion _ => true
  | .spdmGetCapabilities _ => true
  | .spdmNegotiateAlgorithms _ => true
  | .spdmGetDigests _ => true
  | .spdmGetCertificate _ _ _ _ => true
  | .spdmChallenge _ _ _ => true
  | .spdmGetMeasurements _ _ => true
  | .spdmKeyExchange _ _ _ => true
  | .spdmFinish _ => true
  | .spdmSetCertificate _ _ _ => true
  | .spdmUnsupported _ _ => true
  | .certificateRewriteApply _ => true
  | .invalidateVaRange _ _ _ _ _ _ => true
  | .invalidateAsid _ _ _ _ => true
  | .invalidateContext _ _ _ => true
  | .invalidateGpaRange _ _ _ _ _ => true
  | .invalidateFunction _ _ _ => true
  | .invalidationDone _ => true
  | .create _ _ => true
  | .destroy _ _ _ => true
  | .mint _ => true
  | .remint _ => true
  | .dropgrant _ _ _ _ _ => true
  | .advance _ _ _ => true
  | .revocationDrainAnswer _ => true
  | .killkey _ => true
  | .keyKillReceive _ => true
  | .keyRetireStuck _ => true
  | .migrate _ _ _ _ => true
  | .migrateCutover _ _ => true
  | .setAgeLimit _ _ _ => true
  | .setSelftestInterval _ _ _ => true
  | .setTestMode _ _ _ => true
  | .setPowerCap _ _ _ => true
  | .setAsidRoot _ _ _ _ _ => true
  | .setStage2Root _ _ _ _ => true
  | .windowBinding _ _ _ _ _ _ _ _ => true
  | .readCounter _ _ _ _ _ => true
  | .debugHalt _ hart _ => wfHart hart
  | .debugResume _ hart _ => wfHart hart
  | .debugReadState _ hart _ _ _ _ => wfHart hart
  | .debugWriteState _ hart _ _ _ _ => wfHart hart
  | .mgmtUnknownOp _ _ _ => true
  | .hartRestart hart _ => wfHart hart
  | .hostSupervisorCall hart _ => wfHart hart
  | .thermalEvent _ => true
  | .deviceReset _ _ => true
  | .illegalInstruction _ => true
  | .tdispRequest _ _ => true
  | .queuePortHandleBinding _ _ _ _ _ => true
  | .mgmtCertificateRewrite _ _ _ _ => true
  | .recoveryWrite _ _ => true

end Sys2Proof
end

