-- ==== Sys2Proof/Decode.lean ====
section
/-! DEFINITION. Decoding, total on any bytes and rejecting by name, and after it the encoder, both written from the
encoding tables of spec/02 and the func9 tables of the instruction chapters. A word decodes only to a well-formed
instruction whose encoding is that word, so a nonzero unused field is refused (R32). -/

namespace Sys2Proof

/-- Why bytes are no instruction. `step` turns each into the trap ILLEGAL_INSTRUCTION (R38, R39). -/
inductive DecodeError where
  /-- A compact (quadrant, op5) pair that R28 does not list. -/
  | unassignedCompact
  /-- A major or minor that no entry assigns (R38). -/
  | unassignedMinor
  /-- An assigned operation with a field value its entry does not allow (R29, R32). -/
  | reservedField
  /-- A convoy header with COUNT 6 or 7 (R40). -/
  | reservedCount
  /-- Fewer bytes than the instruction has. -/
  | truncated
deriving DecidableEq, Repr

/-! Formats (R26, R30, R42). -/

/-- Format XA. -/
def xa (f : BitVec 9) (rs2 rs1 rd : Reg) (major : BitVec 6) : BitVec 32 := f ++ rs2 ++ rs1 ++ rd ++ major ++ 3#2
/-- Format XI. -/
def xi (imm : BitVec 14) (rs1 rd : Reg) (major : BitVec 6) : BitVec 32 := imm ++ rs1 ++ rd ++ major ++ 3#2
/-- Format XM. -/
def xm (imm : BitVec 10) (flags size : BitVec 2) (base rd : Reg) (major : BitVec 6) : BitVec 32 :=
  imm ++ flags ++ size ++ base ++ rd ++ major ++ 3#2
/-- Format XB. -/
def xb (off : BitVec 14) (rs2 rs1 : Reg) (major : BitVec 6) : BitVec 32 := off ++ rs2 ++ rs1 ++ major ++ 3#2
/-- Formats XL and XJ. -/
def xl (imm : BitVec 19) (rd : Reg) (major : BitVec 6) : BitVec 32 := imm ++ rd ++ major ++ 3#2
/-- Format XF4. -/
def xf4 (op fmt : BitVec 2) (rs3 rs2 rs1 rd : Reg) (major : BitVec 6) : BitVec 32 :=
  op ++ fmt ++ rs3 ++ rs2 ++ rs1 ++ rd ++ major ++ 3#2
/-- The compact format. -/
def cw (imm : BitVec 4) (reg op5 : BitVec 5) (quadrant : BitVec 2) : BitVec 16 := imm ++ reg ++ op5 ++ quadrant

/-! Fields of a 32-bit word. -/

/-- [12:8], rd. -/
def fRd (w : BitVec 32) : Reg := w.extractLsb' 8 5
/-- [17:13], rs1 or base. -/
def fRs1 (w : BitVec 32) : Reg := w.extractLsb' 13 5
/-- [22:18], rs2. -/
def fRs2 (w : BitVec 32) : Reg := w.extractLsb' 18 5
/-- [27:23], rs3 of XF4. -/
def fRs3 (w : BitVec 32) : Reg := w.extractLsb' 23 5
/-- [7:2], the major. -/
def fMajor (w : BitVec 32) : Nat := (w.extractLsb' 2 6).toNat
/-- [31:23], func9. -/
def fFunc9 (w : BitVec 32) : Nat := (w.extractLsb' 23 9).toNat
/-- imm14 of XI and off14 of XB. -/
def fImm14 (w : BitVec 32) : BitVec 14 := w.extractLsb' 18 14
/-- imm10 of XM. -/
def fImm10 (w : BitVec 32) : BitVec 10 := w.extractLsb' 22 10
/-- imm19 of XL and off19 of XJ. -/
def fImm19 (w : BitVec 32) : BitVec 19 := w.extractLsb' 13 19
/-- flags and size of XM. -/
def fXmForm (w : BitVec 32) : Nat := (w.extractLsb' 18 4).toNat
/-- Shift amount (R31). -/
def fSh (w : BitVec 32) : BitVec 6 := w.extractLsb' 18 6
/-- Shift operation (R31). -/
def fShiftOp (w : BitVec 32) : Nat := (w.extractLsb' 30 2).toNat
/-- AMO ORD (R196). -/
def fOrd (w : BitVec 32) : BitVec 2 := w.extractLsb' 30 2
/-- AMO SCOPE (R196). -/
def fScope (w : BitVec 32) : BitVec 2 := w.extractLsb' 28 2
/-- AMO and RAMO SIZE (R196, R236). -/
def fSize (w : BitVec 32) : BitVec 1 := w.extractLsb' 27 1
/-- AMO OP (R196). -/
def fAmoOp (w : BitVec 32) : Nat := (w.extractLsb' 23 4).toNat
/-- FOP operation (R113). -/
def fFopOp (w : BitVec 32) : Nat := (w.extractLsb' 25 7).toNat
/-- FOP format (R113). -/
def fFmtA (w : BitVec 32) : BitVec 2 := w.extractLsb' 23 2
/-- XF4 op (R34). -/
def fXf4Op (w : BitVec 32) : Nat := (w.extractLsb' 30 2).toNat
/-- XF4 fmt (R34). -/
def fFmt4 (w : BitVec 32) : BitVec 2 := w.extractLsb' 28 2
/-- FENCE kind, func9[8:3] (R199). -/
def fFenceKind (w : BitVec 32) : Nat := (w.extractLsb' 26 6).toNat
/-- FENCE scope, func9[2:0] (R199). -/
def fScope3 (w : BitVec 32) : BitVec 3 := w.extractLsb' 23 3
/-- RAMO: func9[8:5] and OP; 32 + OP for func9[8:5] = 2 (R236). -/
def fRamoKey (w : BitVec 32) : Nat := (w.extractLsb' 28 4).toNat * 16 + (w.extractLsb' 23 4).toNat
/-- CSR form, imm14[13:12] (R35). -/
def fCsrForm (w : BitVec 32) : Nat := (w.extractLsb' 30 2).toNat
/-- CSR immediate operation, imm14[11:10] (R35). -/
def fCsrOp (w : BitVec 32) : Nat := (w.extractLsb' 28 2).toNat
/-- CSR number of the register forms. -/
def fNum12 (w : BitVec 32) : BitVec 12 := w.extractLsb' 18 12
/-- CSR number of the immediate forms. -/
def fNum10 (w : BitVec 32) : BitVec 10 := w.extractLsb' 18 10
/-- Compact register. -/
def cReg (w : BitVec 16) : Reg := w.extractLsb' 7 5
/-- Compact immediate. -/
def cImm (w : BitVec 16) : BitVec 4 := w.extractLsb' 12 4

/-- Major 0: OP (R37, R97). -/
def decodeOp (w : BitVec 32) : Option Instr :=
  match fFunc9 w with
  | 0x0 => some (.add (fRd w) (fRs1 w) (fRs2 w))
  | 0x1 => some (.sub (fRd w) (fRs1 w) (fRs2 w))
  | 0x2 => some (.and (fRd w) (fRs1 w) (fRs2 w))
  | 0x3 => some (.or (fRd w) (fRs1 w) (fRs2 w))
  | 0x4 => some (.xor (fRd w) (fRs1 w) (fRs2 w))
  | 0x5 => some (.andn (fRd w) (fRs1 w) (fRs2 w))
  | 0x6 => some (.orn (fRd w) (fRs1 w) (fRs2 w))
  | 0x7 => some (.xnor (fRd w) (fRs1 w) (fRs2 w))
  | 0x8 => some (.sll (fRd w) (fRs1 w) (fRs2 w))
  | 0x9 => some (.srl (fRd w) (fRs1 w) (fRs2 w))
  | 0xa => some (.sra (fRd w) (fRs1 w) (fRs2 w))
  | 0xb => some (.rol (fRd w) (fRs1 w) (fRs2 w))
  | 0xc => some (.ror (fRd w) (fRs1 w) (fRs2 w))
  | 0xd => some (.slt (fRd w) (fRs1 w) (fRs2 w))
  | 0xe => some (.sltn (fRd w) (fRs1 w) (fRs2 w))
  | 0x10 => some (.min (fRd w) (fRs1 w) (fRs2 w))
  | 0x11 => some (.max (fRd w) (fRs1 w) (fRs2 w))
  | 0x12 => some (.minn (fRd w) (fRs1 w) (fRs2 w))
  | 0x13 => some (.maxn (fRd w) (fRs1 w) (fRs2 w))
  | 0x18 => some (.mul (fRd w) (fRs1 w) (fRs2 w))
  | 0x19 => some (.mulh (fRd w) (fRs1 w) (fRs2 w))
  | 0x1a => some (.mulhn (fRd w) (fRs1 w) (fRs2 w))
  | 0x1b => some (.mulhsn (fRd w) (fRs1 w) (fRs2 w))
  | 0x1c => some (.div (fRd w) (fRs1 w) (fRs2 w))
  | 0x1d => some (.divn (fRd w) (fRs1 w) (fRs2 w))
  | 0x1e => some (.rem (fRd w) (fRs1 w) (fRs2 w))
  | 0x1f => some (.remn (fRd w) (fRs1 w) (fRs2 w))
  | 0x20 => some (.clz (fRd w) (fRs1 w))
  | 0x21 => some (.ctz (fRd w) (fRs1 w))
  | 0x22 => some (.cpop (fRd w) (fRs1 w))
  | 0x24 => some (.sextB (fRd w) (fRs1 w))
  | 0x25 => some (.sextH (fRd w) (fRs1 w))
  | 0x26 => some (.sextW (fRd w) (fRs1 w))
  | 0x28 => some (.zextB (fRd w) (fRs1 w))
  | 0x29 => some (.zextH (fRd w) (fRs1 w))
  | 0x2a => some (.zextW (fRd w) (fRs1 w))
  | 0x2c => some (.cmovz (fRd w) (fRs1 w) (fRs2 w))
  | 0x2d => some (.cmovn (fRd w) (fRs1 w) (fRs2 w))
  | 0x2e => some (.bswap (fRd w) (fRs1 w))
  | _ => none

/-- Major 1: OPW (R37). -/
def decodeOpw (w : BitVec 32) : Option Instr :=
  match fFunc9 w with
  | 0x0 => some (.addW (fRd w) (fRs1 w) (fRs2 w))
  | 0x1 => some (.subW (fRd w) (fRs1 w) (fRs2 w))
  | 0x8 => some (.sllW (fRd w) (fRs1 w) (fRs2 w))
  | 0x9 => some (.srlW (fRd w) (fRs1 w) (fRs2 w))
  | 0xa => some (.sraW (fRd w) (fRs1 w) (fRs2 w))
  | 0xb => some (.rolW (fRd w) (fRs1 w) (fRs2 w))
  | 0xc => some (.rorW (fRd w) (fRs1 w) (fRs2 w))
  | 0x18 => some (.mulW (fRd w) (fRs1 w) (fRs2 w))
  | 0x1c => some (.divW (fRd w) (fRs1 w) (fRs2 w))
  | 0x1d => some (.divnW (fRd w) (fRs1 w) (fRs2 w))
  | 0x1e => some (.remW (fRd w) (fRs1 w) (fRs2 w))
  | 0x1f => some (.remnW (fRd w) (fRs1 w) (fRs2 w))
  | 0x20 => some (.clzW (fRd w) (fRs1 w))
  | 0x21 => some (.ctzW (fRd w) (fRs1 w))
  | 0x22 => some (.cpopW (fRd w) (fRs1 w))
  | 0x2e => some (.bswapW (fRd w) (fRs1 w))
  | _ => none

/-- Major 8: SHIFTI (R31). -/
def decodeShift (w : BitVec 32) : Option Instr :=
  match fShiftOp w with
  | 0 => some (.slli (fRd w) (fRs1 w) (fSh w))
  | 1 => some (.srli (fRd w) (fRs1 w) (fSh w))
  | 2 => some (.srai (fRd w) (fRs1 w) (fSh w))
  | 3 => some (.rori (fRd w) (fRs1 w) (fSh w))
  | _ => none

/-- Major 11: LD (R33). -/
def decodeLd (w : BitVec 32) : Option Instr :=
  match fXmForm w with
  | 0 => some (.ldB (fRd w) (fRs1 w) (fImm10 w))
  | 1 => some (.ldH (fRd w) (fRs1 w) (fImm10 w))
  | 2 => some (.ldW (fRd w) (fRs1 w) (fImm10 w))
  | 3 => some (.ldD (fRd w) (fRs1 w) (fImm10 w))
  | 4 => some (.ldnB (fRd w) (fRs1 w) (fImm10 w))
  | 5 => some (.ldnH (fRd w) (fRs1 w) (fImm10 w))
  | 6 => some (.ldnW (fRd w) (fRs1 w) (fImm10 w))
  | 10 => some (.ldacqW (fRd w) (fRs1 w) (fImm10 w))
  | 11 => some (.ldacqD (fRd w) (fRs1 w) (fImm10 w))
  | 12 => some (.ldVB (fRd w) (fRs1 w) (fImm10 w))
  | 13 => some (.ldVH (fRd w) (fRs1 w) (fImm10 w))
  | 14 => some (.ldVW (fRd w) (fRs1 w) (fImm10 w))
  | 15 => some (.ldVD (fRd w) (fRs1 w) (fImm10 w))
  | _ => none

/-- Major 12: ST (R33). -/
def decodeSt (w : BitVec 32) : Option Instr :=
  match fXmForm w with
  | 0 => some (.stB (fRd w) (fRs1 w) (fImm10 w))
  | 1 => some (.stH (fRd w) (fRs1 w) (fImm10 w))
  | 2 => some (.stW (fRd w) (fRs1 w) (fImm10 w))
  | 3 => some (.stD (fRd w) (fRs1 w) (fImm10 w))
  | 6 => some (.strelW (fRd w) (fRs1 w) (fImm10 w))
  | 7 => some (.strelD (fRd w) (fRs1 w) (fImm10 w))
  | _ => none

/-- Major 13: FLD (R33). -/
def decodeFld (w : BitVec 32) : Option Instr :=
  match fXmForm w with
  | 1 => some (.fldH (fRd w) (fRs1 w) (fImm10 w))
  | 2 => some (.fldS (fRd w) (fRs1 w) (fImm10 w))
  | 3 => some (.fldD (fRd w) (fRs1 w) (fImm10 w))
  | _ => none

/-- Major 14: FST (R33). -/
def decodeFst (w : BitVec 32) : Option Instr :=
  match fXmForm w with
  | 1 => some (.fstH (fRd w) (fRs1 w) (fImm10 w))
  | 2 => some (.fstS (fRd w) (fRs1 w) (fImm10 w))
  | 3 => some (.fstD (fRd w) (fRs1 w) (fImm10 w))
  | _ => none

/-- Major 15: AMO (R196). -/
def decodeAmo (w : BitVec 32) : Option Instr :=
  match fAmoOp w with
  | 0 => some (.amoAdd (fOrd w) (fScope w) (fSize w) (fRd w) (fRs1 w) (fRs2 w))
  | 1 => some (.amoSwap (fOrd w) (fScope w) (fSize w) (fRd w) (fRs1 w) (fRs2 w))
  | 2 => some (.amoAnd (fOrd w) (fScope w) (fSize w) (fRd w) (fRs1 w) (fRs2 w))
  | 3 => some (.amoOr (fOrd w) (fScope w) (fSize w) (fRd w) (fRs1 w) (fRs2 w))
  | 4 => some (.amoXor (fOrd w) (fScope w) (fSize w) (fRd w) (fRs1 w) (fRs2 w))
  | 5 => some (.amoMin (fOrd w) (fScope w) (fSize w) (fRd w) (fRs1 w) (fRs2 w))
  | 6 => some (.amoMax (fOrd w) (fScope w) (fSize w) (fRd w) (fRs1 w) (fRs2 w))
  | 7 => some (.amoMinn (fOrd w) (fScope w) (fSize w) (fRd w) (fRs1 w) (fRs2 w))
  | 8 => some (.amoMaxn (fOrd w) (fScope w) (fSize w) (fRd w) (fRs1 w) (fRs2 w))
  | 9 => some (.cas (fOrd w) (fScope w) (fSize w) (fRd w) (fRs1 w) (fRs2 w))
  | 10 => some (.amoFadd (fOrd w) (fScope w) (fSize w) (fRd w) (fRs1 w) (fRs2 w))
  | 11 => some (.amoFmin (fOrd w) (fScope w) (fSize w) (fRd w) (fRs1 w) (fRs2 w))
  | 12 => some (.amoFmax (fOrd w) (fScope w) (fSize w) (fRd w) (fRs1 w) (fRs2 w))
  | _ => none

/-- Major 24: FOP (R113). -/
def decodeFop (w : BitVec 32) : Option Instr :=
  match fFopOp w with
  | 0 => some (.fadd (fFmtA w) (fRd w) (fRs1 w) (fRs2 w))
  | 1 => some (.fsub (fFmtA w) (fRd w) (fRs1 w) (fRs2 w))
  | 2 => some (.fmul (fFmtA w) (fRd w) (fRs1 w) (fRs2 w))
  | 3 => some (.fdiv (fFmtA w) (fRd w) (fRs1 w) (fRs2 w))
  | 4 => some (.fsqrt (fFmtA w) (fRd w) (fRs1 w))
  | 5 => some (.fmin (fFmtA w) (fRd w) (fRs1 w) (fRs2 w))
  | 6 => some (.fmax (fFmtA w) (fRd w) (fRs1 w) (fRs2 w))
  | 7 => some (.fsgnj (fFmtA w) (fRd w) (fRs1 w) (fRs2 w))
  | 8 => some (.fsgnjn (fFmtA w) (fRd w) (fRs1 w) (fRs2 w))
  | 9 => some (.fsgnjx (fFmtA w) (fRd w) (fRs1 w) (fRs2 w))
  | 10 => some (.fclass (fFmtA w) (fRd w) (fRs1 w))
  | 11 => some (.fcmpEq (fFmtA w) (fRd w) (fRs1 w) (fRs2 w))
  | 12 => some (.fcmpNe (fFmtA w) (fRd w) (fRs1 w) (fRs2 w))
  | 13 => some (.fcmpLt (fFmtA w) (fRd w) (fRs1 w) (fRs2 w))
  | 14 => some (.fcmpLe (fFmtA w) (fRd w) (fRs1 w) (fRs2 w))
  | 15 => some (.fcmpGt (fFmtA w) (fRd w) (fRs1 w) (fRs2 w))
  | 16 => some (.fcmpGe (fFmtA w) (fRd w) (fRs1 w) (fRs2 w))
  | 17 => some (.fcvtFf (fFmtA w) (fRd w) (fRs1 w) (fRs2 w))
  | 18 => some (.fcvtFi (fFmtA w) (fRd w) (fRs1 w) (fRs2 w))
  | 19 => some (.fcvtIf (fFmtA w) (fRd w) (fRs1 w) (fRs2 w))
  | 20 => some (.fmvxf (fFmtA w) (fRd w) (fRs1 w))
  | 21 => some (.fmvfx (fFmtA w) (fRd w) (fRs1 w))
  | _ => none

/-- Major 25: FMA group (R34). -/
def decodeFma (w : BitVec 32) : Option Instr :=
  match fXf4Op w with
  | 0 => some (.fma (fFmt4 w) (fRd w) (fRs1 w) (fRs2 w) (fRs3 w))
  | 1 => some (.fms (fFmt4 w) (fRd w) (fRs1 w) (fRs2 w) (fRs3 w))
  | 2 => some (.fnma (fFmt4 w) (fRd w) (fRs1 w) (fRs2 w) (fRs3 w))
  | 3 => some (.fnms (fFmt4 w) (fRd w) (fRs1 w) (fRs2 w) (fRs3 w))
  | _ => none

/-- Major 26: SYNC (R199-R204). -/
def decodeSync (w : BitVec 32) : Option Instr :=
  match fFenceKind w with
  | 1 => some (.fenceAcq (fScope3 w))
  | 2 => some (.fenceRel (fScope3 w))
  | 3 => some (.fenceFull (fScope3 w))
  | _ =>
    match fFunc9 w with
    | 0x38 => some (.fenceCode)
    | 0x20 => some (.monW (fRd w) (fRs1 w))
    | 0x21 => some (.monD (fRd w) (fRs1 w))
    | 0x22 => some (.wait (fRd w) (fRs1 w))
    | 0x30 => some (.bset (fRd w) (fRs1 w))
    | 0x31 => some (.arrive (fRd w))
    | 0x32 => some (.bwait (fRd w))
    | _ => none

/-- Major 27: QUEUE (R207). -/
def decodeQueue (w : BitVec 32) : Option Instr :=
  match fFunc9 w with
  | 0x0 => some (.qinit (fRd w) (fRs1 w))
  | 0x1 => some (.enq (fRs1 w) (fRs2 w))
  | 0x2 => some (.enqnb (fRd w) (fRs1 w) (fRs2 w))
  | 0x3 => some (.deq (fRd w) (fRs1 w) (fRs2 w))
  | 0x4 => some (.deqnb (fRd w) (fRs1 w) (fRs2 w))
  | 0x5 => some (.enqm (fRd w) (fRs1 w) (fRs2 w))
  | 0x6 => some (.qstat (fRd w) (fRs1 w))
  | 0x7 => some (.qgath (fRd w) (fRs1 w) (fRs2 w))
  | _ => none

/-- Major 29: ROUTE (R236). -/
def decodeRoute (w : BitVec 32) : Option Instr :=
  match fRamoKey w with
  | 32 => some (.ramoAdd (fSize w) (fRd w) (fRs1 w) (fRs2 w))
  | 33 => some (.ramoSwap (fSize w) (fRd w) (fRs1 w) (fRs2 w))
  | 34 => some (.ramoAnd (fSize w) (fRd w) (fRs1 w) (fRs2 w))
  | 35 => some (.ramoOr (fSize w) (fRd w) (fRs1 w) (fRs2 w))
  | 36 => some (.ramoXor (fSize w) (fRd w) (fRs1 w) (fRs2 w))
  | 37 => some (.ramoMin (fSize w) (fRd w) (fRs1 w) (fRs2 w))
  | 38 => some (.ramoMax (fSize w) (fRd w) (fRs1 w) (fRs2 w))
  | 39 => some (.ramoMinn (fSize w) (fRd w) (fRs1 w) (fRs2 w))
  | 40 => some (.ramoMaxn (fSize w) (fRd w) (fRs1 w) (fRs2 w))
  | 41 => some (.ramoCas (fSize w) (fRd w) (fRs1 w) (fRs2 w))
  | 42 => some (.ramoFadd (fSize w) (fRd w) (fRs1 w) (fRs2 w))
  | 43 => some (.ramoFmin (fSize w) (fRd w) (fRs1 w) (fRs2 w))
  | 44 => some (.ramoFmax (fSize w) (fRd w) (fRs1 w) (fRs2 w))
  | _ =>
    match fFunc9 w with
    | 0x0 => some (.rtld (fRd w) (fRs1 w))
    | 0x1 => some (.rtst (fRd w) (fRs1 w))
    | 0x2 => some (.rtnar (fRd w) (fRs1 w) (fRs2 w))
    | 0x3 => some (.rtdlg (fRd w) (fRs1 w) (fRs2 w))
    | 0x4 => some (.rtset (fRd w) (fRs1 w))
    | 0x5 => some (.rtinfo (fRd w) (fRs1 w) (fRs2 w))
    | 0x8 => some (.rldW (fRd w) (fRs1 w) (fRs2 w))
    | 0x9 => some (.rldD (fRd w) (fRs1 w) (fRs2 w))
    | 0xa => some (.rstW (fRd w) (fRs1 w) (fRs2 w))
    | 0xb => some (.rstD (fRd w) (fRs1 w) (fRs2 w))
    | 0x10 => some (.renq (fRd w) (fRs1 w) (fRs2 w))
    | 0x11 => some (.renqm (fRd w) (fRs1 w) (fRs2 w))
    | 0x12 => some (.rfence (fRs1 w))
    | _ => none

/-- Major 30: STREAM (R217, R224, R228, R229). -/
def decodeStream (w : BitVec 32) : Option Instr :=
  match fFunc9 w with
  | 0x0 => some (.sbind (fRd w) (fRs1 w))
  | 0x1 => some (.sstop (fRd w))
  | 0x2 => some (.smv (fRd w) (fRs1 w))
  | 0x3 => some (.swr (fRd w) (fRs2 w))
  | 0x8 => some (.wmbind (fRd w) (fRs1 w))
  | 0x9 => some (.wmpub (fRs1 w) (fRs2 w))
  | 0xa => some (.wmwait (fRd w) (fRs1 w) (fRs2 w))
  | 0xb => some (.wmget (fRd w) (fRs1 w))
  | 0x10 => some (.tlook (fRd w) (fRs1 w))
  | 0x11 => some (.tset (fRd w) (fRs1 w) (fRs2 w))
  | 0x12 => some (.tinv (fRd w) (fRs1 w))
  | 0x18 => some (.l2pin (fRd w) (fRs1 w) (fRs2 w))
  | 0x19 => some (.l2unpin (fRd w) (fRs1 w))
  | _ => none

/-- Major 31: TIMED (R254). -/
def decodeTimed (w : BitVec 32) : Option Instr :=
  match fFunc9 w with
  | 0x0 => some (.phase (fRd w) (fRs1 w))
  | 0x1 => some (.tsend (fRd w) (fRs1 w) (fRs2 w))
  | 0x2 => some (.trecv (fRd w) (fRs1 w))
  | 0x3 => some (.domset (fRd w) (fRs1 w) (fRs2 w))
  | 0x4 => some (.dsync (fRd w))
  | _ => none

/-- Major 32: CSR (R35). -/
def decodeCsr (w : BitVec 32) : Option Instr :=
  match fCsrForm w with
  | 0 => some (.csrrw (fRd w) (fRs1 w) (fNum12 w))
  | 1 => some (.csrrs (fRd w) (fRs1 w) (fNum12 w))
  | 2 => some (.csrrc (fRd w) (fRs1 w) (fNum12 w))
  | _ =>
    match fCsrOp w with
    | 0 => some (.csrrwi (fRd w) (fRs1 w) (fNum10 w))
    | 1 => some (.csrrsi (fRd w) (fRs1 w) (fNum10 w))
    | 2 => some (.csrrci (fRd w) (fRs1 w) (fNum10 w))
    | _ => none

/-- Major 33: HART (R260). -/
def decodeHart (w : BitVec 32) : Option Instr :=
  match fFunc9 w with
  | 0x0 => some (.gang)
  | 0x1 => some (.split)
  | 0x2 => some (.pair (fRd w) (fRs1 w))
  | 0x3 => some (.unpair)
  | 0x4 => some (.vacq)
  | 0x5 => some (.vrel)
  | 0x6 => some (.endHart)
  | 0x7 => some (.yield)
  | 0x8 => some (.tret)
  | 0x9 => some (.sysc (fRs1 w))
  | 0xa => some (.brk (fRs1 w))
  | 0xb => some (.halt)
  | 0x10 => some (.rndvS0 (fRd w))
  | 0x11 => some (.rndvS1 (fRd w))
  | 0x12 => some (.rndvWs0 (fRd w) (fRs1 w))
  | 0x13 => some (.rndvWs1 (fRd w) (fRs1 w))
  | 0x14 => some (.rndvEnt (fRd w))
  | 0x15 => some (.rndvTime (fRd w))
  | _ => none

/-- Major 36: VX (R149). -/
def decodeVx (w : BitVec 32) : Option Instr :=
  match fFunc9 w with
  | 0x0 => some (.vmvxs (fRd w) (fRs1 w) (fRs2 w))
  | 0x1 => some (.vmpopc (fRd w) (fRs1 w))
  | 0x2 => some (.vmfirst (fRd w) (fRs1 w))
  | 0x3 => some (.vrdsub (fRd w))
  | 0x4 => some (.vrdsc (fRd w) (fRs1 w))
  | _ => none

/-- The candidate instruction of a 32-bit word: the major map (R37). -/
def decodeMajor (w : BitVec 32) : Option Instr :=
  match fMajor w with
  | 0 => decodeOp w
  | 1 => decodeOpw w
  | 2 => some (.addi (fRd w) (fRs1 w) (fImm14 w))
  | 3 => some (.andi (fRd w) (fRs1 w) (fImm14 w))
  | 4 => some (.ori (fRd w) (fRs1 w) (fImm14 w))
  | 5 => some (.xori (fRd w) (fRs1 w) (fImm14 w))
  | 6 => some (.slti (fRd w) (fRs1 w) (fImm14 w))
  | 7 => some (.sltni (fRd w) (fRs1 w) (fImm14 w))
  | 8 => decodeShift w
  | 9 => some (.liu (fRd w) (fImm19 w))
  | 10 => some (.addpc (fRd w) (fImm19 w))
  | 11 => decodeLd w
  | 12 => decodeSt w
  | 13 => decodeFld w
  | 14 => decodeFst w
  | 15 => decodeAmo w
  | 16 => some (.beq (fRd w) (fRs1 w) (fImm14 w))
  | 17 => some (.bne (fRd w) (fRs1 w) (fImm14 w))
  | 18 => some (.blt (fRd w) (fRs1 w) (fImm14 w))
  | 19 => some (.bge (fRd w) (fRs1 w) (fImm14 w))
  | 20 => some (.bltn (fRd w) (fRs1 w) (fImm14 w))
  | 21 => some (.bgen (fRd w) (fRs1 w) (fImm14 w))
  | 22 => some (.jal (fRd w) (fImm19 w))
  | 23 => some (.jalr (fRd w) (fRs1 w) (fImm14 w))
  | 24 => decodeFop w
  | 25 => decodeFma w
  | 26 => decodeSync w
  | 27 => decodeQueue w
  | 28 => some (.bq (fRd w) (fRs1 w) (fImm14 w))
  | 29 => decodeRoute w
  | 30 => decodeStream w
  | 31 => decodeTimed w
  | 32 => decodeCsr w
  | 33 => decodeHart w
  | 34 => some (.vsetl (fRd w) (fRs1 w) (fImm14 w))
  | 35 => some (.vsetli (fRd w) (fRs1 w) (fImm14 w))
  | 36 => decodeVx w
  | _ => none

/-- The candidate instruction of a compact halfword (R28). -/
def decodeQuadrant (w : BitVec 16) : Option Instr :=
  match (w.extractLsb' 0 2).toNat, (w.extractLsb' 2 5).toNat with
  | 0, 1 => some (.addC (cReg w))
  | 0, 2 => some (.subC (cReg w))
  | 0, 3 => some (.andC (cReg w))
  | 0, 4 => some (.orC (cReg w))
  | 0, 5 => some (.xorC (cReg w))
  | 0, 6 => some (.sllC (cReg w))
  | 0, 7 => some (.srlC (cReg w))
  | 0, 8 => some (.sraC (cReg w))
  | 0, 9 => some (.mulC (cReg w))
  | 0, 10 => some (.sltC (cReg w))
  | 0, 11 => some (.sltnC (cReg w))
  | 0, 12 => some (.mvC (cReg w))
  | 1, 0 => some (.nopC)
  | 1, 1 => some (.addiC (cReg w) (cImm w))
  | 1, 2 => some (.andiC (cReg w) (cImm w))
  | 1, 3 => some (.slliC (cReg w) (cImm w))
  | 1, 4 => some (.srliC (cReg w) (cImm w))
  | 1, 5 => some (.sraiC (cReg w) (cImm w))
  | 1, 6 => some (.liC (cReg w) (cImm w))
  | 2, 0 => some (.ldC (cReg w) (cImm w))
  | 2, 1 => some (.ldwC (cReg w) (cImm w))
  | 2, 2 => some (.stC (cReg w) (cImm w))
  | _, _ => none
/-! The encoder. -/

/-- The halfword of a compact instruction (R26, R28). -/
def encodeC : Instr → Option (BitVec 16)
  | .addC r => some (cw 0 r 1 0)
  | .subC r => some (cw 0 r 2 0)
  | .andC r => some (cw 0 r 3 0)
  | .orC r => some (cw 0 r 4 0)
  | .xorC r => some (cw 0 r 5 0)
  | .sllC r => some (cw 0 r 6 0)
  | .srlC r => some (cw 0 r 7 0)
  | .sraC r => some (cw 0 r 8 0)
  | .mulC r => some (cw 0 r 9 0)
  | .sltC r => some (cw 0 r 10 0)
  | .sltnC r => some (cw 0 r 11 0)
  | .mvC r => some (cw 0 r 12 0)
  | .nopC => some (cw 0 0 0 1)
  | .addiC r imm => some (cw imm r 1 1)
  | .andiC r imm => some (cw imm r 2 1)
  | .slliC r imm => some (cw imm r 3 1)
  | .srliC r imm => some (cw imm r 4 1)
  | .sraiC r imm => some (cw imm r 5 1)
  | .liC r imm => some (cw imm r 6 1)
  | .ldC r imm => some (cw imm r 0 2)
  | .ldwC r imm => some (cw imm r 1 2)
  | .stC r imm => some (cw imm r 2 2)
  | _ => none

/-- The word of a 32-bit instruction (R30-R37 and the func9 tables of the instruction chapters). The three L2HINT rows
share one word (R229, R231). -/
def encode32 : Instr → Option (BitVec 32)
  | .add rd rs1 rs2 => some (xa 0x0 rs2 rs1 rd 0)
  | .sub rd rs1 rs2 => some (xa 0x1 rs2 rs1 rd 0)
  | .and rd rs1 rs2 => some (xa 0x2 rs2 rs1 rd 0)
  | .or rd rs1 rs2 => some (xa 0x3 rs2 rs1 rd 0)
  | .xor rd rs1 rs2 => some (xa 0x4 rs2 rs1 rd 0)
  | .andn rd rs1 rs2 => some (xa 0x5 rs2 rs1 rd 0)
  | .orn rd rs1 rs2 => some (xa 0x6 rs2 rs1 rd 0)
  | .xnor rd rs1 rs2 => some (xa 0x7 rs2 rs1 rd 0)
  | .sll rd rs1 rs2 => some (xa 0x8 rs2 rs1 rd 0)
  | .srl rd rs1 rs2 => some (xa 0x9 rs2 rs1 rd 0)
  | .sra rd rs1 rs2 => some (xa 0xa rs2 rs1 rd 0)
  | .rol rd rs1 rs2 => some (xa 0xb rs2 rs1 rd 0)
  | .ror rd rs1 rs2 => some (xa 0xc rs2 rs1 rd 0)
  | .slt rd rs1 rs2 => some (xa 0xd rs2 rs1 rd 0)
  | .sltn rd rs1 rs2 => some (xa 0xe rs2 rs1 rd 0)
  | .min rd rs1 rs2 => some (xa 0x10 rs2 rs1 rd 0)
  | .max rd rs1 rs2 => some (xa 0x11 rs2 rs1 rd 0)
  | .minn rd rs1 rs2 => some (xa 0x12 rs2 rs1 rd 0)
  | .maxn rd rs1 rs2 => some (xa 0x13 rs2 rs1 rd 0)
  | .mul rd rs1 rs2 => some (xa 0x18 rs2 rs1 rd 0)
  | .mulh rd rs1 rs2 => some (xa 0x19 rs2 rs1 rd 0)
  | .mulhn rd rs1 rs2 => some (xa 0x1a rs2 rs1 rd 0)
  | .mulhsn rd rs1 rs2 => some (xa 0x1b rs2 rs1 rd 0)
  | .div rd rs1 rs2 => some (xa 0x1c rs2 rs1 rd 0)
  | .divn rd rs1 rs2 => some (xa 0x1d rs2 rs1 rd 0)
  | .rem rd rs1 rs2 => some (xa 0x1e rs2 rs1 rd 0)
  | .remn rd rs1 rs2 => some (xa 0x1f rs2 rs1 rd 0)
  | .clz rd rs1 => some (xa 0x20 0 rs1 rd 0)
  | .ctz rd rs1 => some (xa 0x21 0 rs1 rd 0)
  | .cpop rd rs1 => some (xa 0x22 0 rs1 rd 0)
  | .sextB rd rs1 => some (xa 0x24 0 rs1 rd 0)
  | .sextH rd rs1 => some (xa 0x25 0 rs1 rd 0)
  | .sextW rd rs1 => some (xa 0x26 0 rs1 rd 0)
  | .zextB rd rs1 => some (xa 0x28 0 rs1 rd 0)
  | .zextH rd rs1 => some (xa 0x29 0 rs1 rd 0)
  | .zextW rd rs1 => some (xa 0x2a 0 rs1 rd 0)
  | .cmovz rd rs1 rs2 => some (xa 0x2c rs2 rs1 rd 0)
  | .cmovn rd rs1 rs2 => some (xa 0x2d rs2 rs1 rd 0)
  | .bswap rd rs1 => some (xa 0x2e 0 rs1 rd 0)
  | .addW rd rs1 rs2 => some (xa 0x0 rs2 rs1 rd 1)
  | .subW rd rs1 rs2 => some (xa 0x1 rs2 rs1 rd 1)
  | .sllW rd rs1 rs2 => some (xa 0x8 rs2 rs1 rd 1)
  | .srlW rd rs1 rs2 => some (xa 0x9 rs2 rs1 rd 1)
  | .sraW rd rs1 rs2 => some (xa 0xa rs2 rs1 rd 1)
  | .rolW rd rs1 rs2 => some (xa 0xb rs2 rs1 rd 1)
  | .rorW rd rs1 rs2 => some (xa 0xc rs2 rs1 rd 1)
  | .mulW rd rs1 rs2 => some (xa 0x18 rs2 rs1 rd 1)
  | .divW rd rs1 rs2 => some (xa 0x1c rs2 rs1 rd 1)
  | .divnW rd rs1 rs2 => some (xa 0x1d rs2 rs1 rd 1)
  | .remW rd rs1 rs2 => some (xa 0x1e rs2 rs1 rd 1)
  | .remnW rd rs1 rs2 => some (xa 0x1f rs2 rs1 rd 1)
  | .clzW rd rs1 => some (xa 0x20 0 rs1 rd 1)
  | .ctzW rd rs1 => some (xa 0x21 0 rs1 rd 1)
  | .cpopW rd rs1 => some (xa 0x22 0 rs1 rd 1)
  | .bswapW rd rs1 => some (xa 0x2e 0 rs1 rd 1)
  | .addi rd rs1 imm => some (xi imm rs1 rd 2)
  | .andi rd rs1 imm => some (xi imm rs1 rd 3)
  | .ori rd rs1 imm => some (xi imm rs1 rd 4)
  | .xori rd rs1 imm => some (xi imm rs1 rd 5)
  | .slti rd rs1 imm => some (xi imm rs1 rd 6)
  | .sltni rd rs1 imm => some (xi imm rs1 rd 7)
  | .slli rd rs1 sh => some (xi (0#2 ++ 0#6 ++ sh) rs1 rd 8)
  | .srli rd rs1 sh => some (xi (1#2 ++ 0#6 ++ sh) rs1 rd 8)
  | .srai rd rs1 sh => some (xi (2#2 ++ 0#6 ++ sh) rs1 rd 8)
  | .rori rd rs1 sh => some (xi (3#2 ++ 0#6 ++ sh) rs1 rd 8)
  | .liu rd imm => some (xl imm rd 9)
  | .addpc rd imm => some (xl imm rd 10)
  | .ldB rd base imm => some (xm imm 0 0 base rd 11)
  | .ldH rd base imm => some (xm imm 0 1 base rd 11)
  | .ldW rd base imm => some (xm imm 0 2 base rd 11)
  | .ldD rd base imm => some (xm imm 0 3 base rd 11)
  | .ldnB rd base imm => some (xm imm 1 0 base rd 11)
  | .ldnH rd base imm => some (xm imm 1 1 base rd 11)
  | .ldnW rd base imm => some (xm imm 1 2 base rd 11)
  | .ldacqW rd base imm => some (xm imm 2 2 base rd 11)
  | .ldacqD rd base imm => some (xm imm 2 3 base rd 11)
  | .ldVB rd base imm => some (xm imm 3 0 base rd 11)
  | .ldVH rd base imm => some (xm imm 3 1 base rd 11)
  | .ldVW rd base imm => some (xm imm 3 2 base rd 11)
  | .ldVD rd base imm => some (xm imm 3 3 base rd 11)
  | .stB rd base imm => some (xm imm 0 0 base rd 12)
  | .stH rd base imm => some (xm imm 0 1 base rd 12)
  | .stW rd base imm => some (xm imm 0 2 base rd 12)
  | .stD rd base imm => some (xm imm 0 3 base rd 12)
  | .strelW rd base imm => some (xm imm 1 2 base rd 12)
  | .strelD rd base imm => some (xm imm 1 3 base rd 12)
  | .fldH rd base imm => some (xm imm 0 1 base rd 13)
  | .fldS rd base imm => some (xm imm 0 2 base rd 13)
  | .fldD rd base imm => some (xm imm 0 3 base rd 13)
  | .fstH rd base imm => some (xm imm 0 1 base rd 14)
  | .fstS rd base imm => some (xm imm 0 2 base rd 14)
  | .fstD rd base imm => some (xm imm 0 3 base rd 14)
  | .amoAdd ord scope size rd rs1 rs2 => some (xa (ord ++ scope ++ size ++ 0#4) rs2 rs1 rd 15)
  | .amoSwap ord scope size rd rs1 rs2 => some (xa (ord ++ scope ++ size ++ 1#4) rs2 rs1 rd 15)
  | .amoAnd ord scope size rd rs1 rs2 => some (xa (ord ++ scope ++ size ++ 2#4) rs2 rs1 rd 15)
  | .amoOr ord scope size rd rs1 rs2 => some (xa (ord ++ scope ++ size ++ 3#4) rs2 rs1 rd 15)
  | .amoXor ord scope size rd rs1 rs2 => some (xa (ord ++ scope ++ size ++ 4#4) rs2 rs1 rd 15)
  | .amoMin ord scope size rd rs1 rs2 => some (xa (ord ++ scope ++ size ++ 5#4) rs2 rs1 rd 15)
  | .amoMax ord scope size rd rs1 rs2 => some (xa (ord ++ scope ++ size ++ 6#4) rs2 rs1 rd 15)
  | .amoMinn ord scope size rd rs1 rs2 => some (xa (ord ++ scope ++ size ++ 7#4) rs2 rs1 rd 15)
  | .amoMaxn ord scope size rd rs1 rs2 => some (xa (ord ++ scope ++ size ++ 8#4) rs2 rs1 rd 15)
  | .cas ord scope size rd rs1 rs2 => some (xa (ord ++ scope ++ size ++ 9#4) rs2 rs1 rd 15)
  | .amoFadd ord scope size rd rs1 rs2 => some (xa (ord ++ scope ++ size ++ 10#4) rs2 rs1 rd 15)
  | .amoFmin ord scope size rd rs1 rs2 => some (xa (ord ++ scope ++ size ++ 11#4) rs2 rs1 rd 15)
  | .amoFmax ord scope size rd rs1 rs2 => some (xa (ord ++ scope ++ size ++ 12#4) rs2 rs1 rd 15)
  | .beq rs1 rs2 off => some (xb off rs2 rs1 16)
  | .bne rs1 rs2 off => some (xb off rs2 rs1 17)
  | .blt rs1 rs2 off => some (xb off rs2 rs1 18)
  | .bge rs1 rs2 off => some (xb off rs2 rs1 19)
  | .bltn rs1 rs2 off => some (xb off rs2 rs1 20)
  | .bgen rs1 rs2 off => some (xb off rs2 rs1 21)
  | .jal rd off => some (xl off rd 22)
  | .jalr rd rs1 imm => some (xi imm rs1 rd 23)
  | .bq rs1 rs2 off => some (xb off rs2 rs1 28)
  | .fadd fmt rd rs1 rs2 => some (xa (0#7 ++ fmt) rs2 rs1 rd 24)
  | .fsub fmt rd rs1 rs2 => some (xa (1#7 ++ fmt) rs2 rs1 rd 24)
  | .fmul fmt rd rs1 rs2 => some (xa (2#7 ++ fmt) rs2 rs1 rd 24)
  | .fdiv fmt rd rs1 rs2 => some (xa (3#7 ++ fmt) rs2 rs1 rd 24)
  | .fsqrt fmt rd rs1 => some (xa (4#7 ++ fmt) 0 rs1 rd 24)
  | .fmin fmt rd rs1 rs2 => some (xa (5#7 ++ fmt) rs2 rs1 rd 24)
  | .fmax fmt rd rs1 rs2 => some (xa (6#7 ++ fmt) rs2 rs1 rd 24)
  | .fsgnj fmt rd rs1 rs2 => some (xa (7#7 ++ fmt) rs2 rs1 rd 24)
  | .fsgnjn fmt rd rs1 rs2 => some (xa (8#7 ++ fmt) rs2 rs1 rd 24)
  | .fsgnjx fmt rd rs1 rs2 => some (xa (9#7 ++ fmt) rs2 rs1 rd 24)
  | .fclass fmt rd rs1 => some (xa (10#7 ++ fmt) 0 rs1 rd 24)
  | .fcmpEq fmt rd rs1 rs2 => some (xa (11#7 ++ fmt) rs2 rs1 rd 24)
  | .fcmpNe fmt rd rs1 rs2 => some (xa (12#7 ++ fmt) rs2 rs1 rd 24)
  | .fcmpLt fmt rd rs1 rs2 => some (xa (13#7 ++ fmt) rs2 rs1 rd 24)
  | .fcmpLe fmt rd rs1 rs2 => some (xa (14#7 ++ fmt) rs2 rs1 rd 24)
  | .fcmpGt fmt rd rs1 rs2 => some (xa (15#7 ++ fmt) rs2 rs1 rd 24)
  | .fcmpGe fmt rd rs1 rs2 => some (xa (16#7 ++ fmt) rs2 rs1 rd 24)
  | .fcvtFf fmt rd rs1 ctl => some (xa (17#7 ++ fmt) ctl rs1 rd 24)
  | .fcvtFi fmt rd rs1 ctl => some (xa (18#7 ++ fmt) ctl rs1 rd 24)
  | .fcvtIf fmt rd rs1 ctl => some (xa (19#7 ++ fmt) ctl rs1 rd 24)
  | .fmvxf fmt rd rs1 => some (xa (20#7 ++ fmt) 0 rs1 rd 24)
  | .fmvfx fmt rd rs1 => some (xa (21#7 ++ fmt) 0 rs1 rd 24)
  | .fma fmt rd rs1 rs2 rs3 => some (xf4 0 fmt rs3 rs2 rs1 rd 25)
  | .fms fmt rd rs1 rs2 rs3 => some (xf4 1 fmt rs3 rs2 rs1 rd 25)
  | .fnma fmt rd rs1 rs2 rs3 => some (xf4 2 fmt rs3 rs2 rs1 rd 25)
  | .fnms fmt rd rs1 rs2 rs3 => some (xf4 3 fmt rs3 rs2 rs1 rd 25)
  | .fenceAcq scope => some (xa (1#6 ++ scope) 0 0 0 26)
  | .fenceRel scope => some (xa (2#6 ++ scope) 0 0 0 26)
  | .fenceFull scope => some (xa (3#6 ++ scope) 0 0 0 26)
  | .fenceCode => some (xa 0x38 0 0 0 26)
  | .monW rd rs1 => some (xa 0x20 0 rs1 rd 26)
  | .monD rd rs1 => some (xa 0x21 0 rs1 rd 26)
  | .wait rd rs1 => some (xa 0x22 0 rs1 rd 26)
  | .bset rd rs1 => some (xa 0x30 0 rs1 rd 26)
  | .arrive rd => some (xa 0x31 0 0 rd 26)
  | .bwait rd => some (xa 0x32 0 0 rd 26)
  | .qinit rd rs1 => some (xa 0x0 0 rs1 rd 27)
  | .enq rs1 rs2 => some (xa 0x1 rs2 rs1 0 27)
  | .enqnb rd rs1 rs2 => some (xa 0x2 rs2 rs1 rd 27)
  | .deq rd rs1 rs2 => some (xa 0x3 rs2 rs1 rd 27)
  | .deqnb rd rs1 rs2 => some (xa 0x4 rs2 rs1 rd 27)
  | .enqm rd rs1 rs2 => some (xa 0x5 rs2 rs1 rd 27)
  | .qstat rd rs1 => some (xa 0x6 0 rs1 rd 27)
  | .qgath rd rs1 rs2 => some (xa 0x7 rs2 rs1 rd 27)
  | .rtld rd rs1 => some (xa 0x0 0 rs1 rd 29)
  | .rtst rd rs1 => some (xa 0x1 0 rs1 rd 29)
  | .rtnar rd rs1 rs2 => some (xa 0x2 rs2 rs1 rd 29)
  | .rtdlg rd rs1 rs2 => some (xa 0x3 rs2 rs1 rd 29)
  | .rtset rd rs1 => some (xa 0x4 0 rs1 rd 29)
  | .rtinfo rd rs1 rs2 => some (xa 0x5 rs2 rs1 rd 29)
  | .rldW rd rs1 rs2 => some (xa 0x8 rs2 rs1 rd 29)
  | .rldD rd rs1 rs2 => some (xa 0x9 rs2 rs1 rd 29)
  | .rstW rd rs1 rs2 => some (xa 0xa rs2 rs1 rd 29)
  | .rstD rd rs1 rs2 => some (xa 0xb rs2 rs1 rd 29)
  | .renq rd rs1 rs2 => some (xa 0x10 rs2 rs1 rd 29)
  | .renqm rd rs1 rs2 => some (xa 0x11 rs2 rs1 rd 29)
  | .rfence rs1 => some (xa 0x12 0 rs1 0 29)
  | .ramoAdd size rd rs1 rs2 => some (xa (2#4 ++ size ++ 0#4) rs2 rs1 rd 29)
  | .ramoSwap size rd rs1 rs2 => some (xa (2#4 ++ size ++ 1#4) rs2 rs1 rd 29)
  | .ramoAnd size rd rs1 rs2 => some (xa (2#4 ++ size ++ 2#4) rs2 rs1 rd 29)
  | .ramoOr size rd rs1 rs2 => some (xa (2#4 ++ size ++ 3#4) rs2 rs1 rd 29)
  | .ramoXor size rd rs1 rs2 => some (xa (2#4 ++ size ++ 4#4) rs2 rs1 rd 29)
  | .ramoMin size rd rs1 rs2 => some (xa (2#4 ++ size ++ 5#4) rs2 rs1 rd 29)
  | .ramoMax size rd rs1 rs2 => some (xa (2#4 ++ size ++ 6#4) rs2 rs1 rd 29)
  | .ramoMinn size rd rs1 rs2 => some (xa (2#4 ++ size ++ 7#4) rs2 rs1 rd 29)
  | .ramoMaxn size rd rs1 rs2 => some (xa (2#4 ++ size ++ 8#4) rs2 rs1 rd 29)
  | .ramoCas size rd rs1 rs2 => some (xa (2#4 ++ size ++ 9#4) rs2 rs1 rd 29)
  | .ramoFadd size rd rs1 rs2 => some (xa (2#4 ++ size ++ 10#4) rs2 rs1 rd 29)
  | .ramoFmin size rd rs1 rs2 => some (xa (2#4 ++ size ++ 11#4) rs2 rs1 rd 29)
  | .ramoFmax size rd rs1 rs2 => some (xa (2#4 ++ size ++ 12#4) rs2 rs1 rd 29)
  | .sbind rd rs1 => some (xa 0x0 0 rs1 rd 30)
  | .sstop rd => some (xa 0x1 0 0 rd 30)
  | .smv rd rs1 => some (xa 0x2 0 rs1 rd 30)
  | .swr rd rs2 => some (xa 0x3 rs2 0 rd 30)
  | .wmbind rd rs1 => some (xa 0x8 0 rs1 rd 30)
  | .wmpub rs1 rs2 => some (xa 0x9 rs2 rs1 0 30)
  | .wmwait rd rs1 rs2 => some (xa 0xa rs2 rs1 rd 30)
  | .wmget rd rs1 => some (xa 0xb 0 rs1 rd 30)
  | .tlook rd rs1 => some (xa 0x10 0 rs1 rd 30)
  | .tset rd rs1 rs2 => some (xa 0x11 rs2 rs1 rd 30)
  | .tinv rd rs1 => some (xa 0x12 0 rs1 rd 30)
  | .l2pin rd rs1 rs2 => some (xa 0x18 rs2 rs1 rd 30)
  | .l2unpin rd rs1 => some (xa 0x19 0 rs1 rd 30)
  | .l2hintFetch rd rs1 rs2 => some (xa 0x1a rs2 rs1 rd 30)
  | .l2hintDemote rd rs1 rs2 => some (xa 0x1a rs2 rs1 rd 30)
  | .l2hintCounters rd rs1 rs2 => some (xa 0x1a rs2 rs1 rd 30)
  | .phase rd rs1 => some (xa 0x0 0 rs1 rd 31)
  | .tsend rd rs1 rs2 => some (xa 0x1 rs2 rs1 rd 31)
  | .trecv rd rs1 => some (xa 0x2 0 rs1 rd 31)
  | .domset rd rs1 rs2 => some (xa 0x3 rs2 rs1 rd 31)
  | .dsync rd => some (xa 0x4 0 0 rd 31)
  | .csrrw rd rs1 num => some (xi (0#2 ++ num) rs1 rd 32)
  | .csrrs rd rs1 num => some (xi (1#2 ++ num) rs1 rd 32)
  | .csrrc rd rs1 num => some (xi (2#2 ++ num) rs1 rd 32)
  | .csrrwi rd imm num => some (xi (3#2 ++ 0#2 ++ num) imm rd 32)
  | .csrrsi rd imm num => some (xi (3#2 ++ 1#2 ++ num) imm rd 32)
  | .csrrci rd imm num => some (xi (3#2 ++ 2#2 ++ num) imm rd 32)
  | .gang => some (xa 0x0 0 0 0 33)
  | .split => some (xa 0x1 0 0 0 33)
  | .pair rd rs1 => some (xa 0x2 0 rs1 rd 33)
  | .unpair => some (xa 0x3 0 0 0 33)
  | .vacq => some (xa 0x4 0 0 0 33)
  | .vrel => some (xa 0x5 0 0 0 33)
  | .endHart => some (xa 0x6 0 0 0 33)
  | .yield => some (xa 0x7 0 0 0 33)
  | .tret => some (xa 0x8 0 0 0 33)
  | .sysc rs1 => some (xa 0x9 0 rs1 0 33)
  | .brk rs1 => some (xa 0xa 0 rs1 0 33)
  | .halt => some (xa 0xb 0 0 0 33)
  | .rndvS0 rd => some (xa 0x10 0 0 rd 33)
  | .rndvS1 rd => some (xa 0x11 0 0 rd 33)
  | .rndvWs0 rd rs1 => some (xa 0x12 0 rs1 rd 33)
  | .rndvWs1 rd rs1 => some (xa 0x13 0 rs1 rd 33)
  | .rndvEnt rd => some (xa 0x14 0 0 rd 33)
  | .rndvTime rd => some (xa 0x15 0 0 rd 33)
  | .vsetl rd rs1 imm => some (xi imm rs1 rd 34)
  | .vsetli rd rs1 imm => some (xi imm rs1 rd 35)
  | .vmvxs rd rs1 rs2 => some (xa 0x0 rs2 rs1 rd 36)
  | .vmpopc rd rs1 => some (xa 0x1 0 rs1 rd 36)
  | .vmfirst rd rs1 => some (xa 0x2 0 rs1 rd 36)
  | .vrdsub rd => some (xa 0x3 0 0 rd 36)
  | .vrdsc rd rs1 => some (xa 0x4 0 rs1 rd 36)
  | _ => none

/-- The instruction of a compact halfword (R28, R29). -/
def decodeC (w : BitVec 16) : Except DecodeError Instr :=
  match decodeQuadrant w with
  | none => .error .unassignedCompact
  | some i => if wellFormed i && decide (encodeC i = some w) then .ok i else .error .reservedField

/-- The instruction of a 32-bit word other than a convoy header (R32, R37, R38). -/
def decode32 (w : BitVec 32) : Except DecodeError Instr :=
  match decodeMajor w with
  | none => .error .unassignedMinor
  | some i => if wellFormed i && decide (encode32 i = some w) then .ok i else .error .reservedField

/-- Little-endian bytes as a number (R2). -/
def leNat : List Byte → Nat
  | [] => 0
  | b :: bs => b.toNat + 256 * leNat bs

/-- The n low bytes of a number, lowest first. -/
def leBytes : Nat → Nat → List Byte
  | 0, _ => []
  | n + 1, v => BitVec.ofNat 8 v :: leBytes n (v / 256)

/-- The length in bytes that the first bytes of an instruction announce (R23); a header with a reserved COUNT counts
for itself alone. -/
def lengthOf (first : BitVec 32) : Nat :=
  if first.toNat % 4 ≠ 3 then 2
  else if first.toNat % 256 ≠ 255 then 4
  else if first.toNat / 256 % 8 ≤ 5 then 4 + 8 * (first.toNat / 256 % 8 + 1)
  else 4

/-- n 64-bit words from bytes. -/
def words64 : Nat → List Byte → List (BitVec 64)
  | 0, _ => []
  | n + 1, bs => BitVec.ofNat 64 (leNat (bs.take 8)) :: words64 n (bs.drop 8)

/-- What stands at an address: an instruction, an L2HINT, or a convoy with its header and members (R23, R40). -/
inductive Decoded where
  | instr (i : Instr)
  /-- L2HINT: which of the three rows it is stands in X[rs2][63:60] (R229, R231). -/
  | l2hint (rd rs1 rs2 : Reg)
  | convoy (header : BitVec 32) (words : List (BitVec 64))
deriving DecidableEq, Repr

/-- The word of L2HINT (R229): major 30, func9 0x01A. -/
def isL2hint (w : BitVec 32) : Bool :=
  decide (w.toNat % 4 = 3) && decide (fMajor w = 30) && decide (fFunc9 w = 0x01A)

/-- Decodes the instruction at the head of a list of bytes: what it is and its length (R23). -/
def decode (bs : List Byte) : Except DecodeError (Decoded × Nat) :=
  let first := BitVec.ofNat 32 (leNat (bs.take 4))
  let n := lengthOf first
  if bs.length < n ∨ bs.length < 2 then .error .truncated
  else if n = 2 then (decodeC (first.setWidth 16)).map fun i => (.instr i, 2)
  else if isL2hint first then .ok (.l2hint (fRd first) (fRs1 first) (fRs2 first), 4)
  else if first.toNat % 256 ≠ 255 then (decode32 first).map fun i => (.instr i, 4)
  else if first.toNat / 256 % 8 ≤ 5 then
    .ok (.convoy first (words64 (first.toNat / 256 % 8 + 1) (bs.drop 4)), n)
  else .error .reservedCount

/-- The bytes of a list of 64-bit words. -/
def bytes64 : List (BitVec 64) → List Byte
  | [] => []
  | w :: ws => leBytes 8 w.toNat ++ bytes64 ws

/-- The bytes of an instruction that stands in an instruction stream; events and bare convoy members have none. -/
def encode (i : Instr) : Option (List Byte) :=
  match i with
  | .convoy h ws => some (leBytes 4 h.toNat ++ bytes64 ws)
  | i =>
    match encodeC i with
    | some w => some (leBytes 2 w.toNat)
    | none => (encode32 i).map fun w => leBytes 4 w.toNat

/-- The instruction that decoded bytes stand for; an L2HINT counts as its op 0. Not compiled: it builds constructors
beyond the compiler's limit. -/
noncomputable def Decoded.toInstr : Decoded → Instr
  | .instr i => i
  | .l2hint rd rs1 rs2 => .l2hintFetch rd rs1 rs2
  | .convoy h ws => .convoy h ws

/-- What the decoder reads from an instruction whose bits are w; the bits above nbits, up to the longest instruction
(52 bytes), are zero. -/
noncomputable def decodeTableWord (nbits w : Nat) : Option Instr :=
  match decode (leBytes 52 (w % 2 ^ nbits)) with
  | .ok (d, _) => some d.toInstr
  | .error _ => none

end Sys2Proof
end

