-- ==== Sys2Proof/Machine/Crypto.lean ====
section
/-! DEFINITION. The codes and ciphers that the manual names: CRC-8 and CRC-32C (spec/12 R283), AES, CMAC and GCM with the key
derivation of a cipher stream (spec/10 R232; spec/17 R331), and SHA-384 (spec/25 R408, R416). Byte strings are lists, the first
byte first. -/

namespace Sys2Proof.Machine

/-- The bytes of a list as one number, the first byte the most significant. -/
def beNat (bs : List Byte) : Nat := bs.foldl (fun n b => n * 256 + b.toNat) 0
/-- n bytes of a value, the most significant first. -/
def beBytes (n v : Nat) : List Byte := (leBytes n v).reverse

/-! Check codes (R283). -/

/-- CRC-8 of some bytes: x^8 + x^2 + x + 1, initial value 0. -/
def crc8 (bs : List Byte) : Byte :=
  bs.foldl (fun c b => (List.range 8).foldl (fun (c : Byte) _ => (c <<< 1) ^^^ (if c.getLsbD 7 then 0x07#8 else 0)) (c ^^^ b)) 0

/-- CRC-32C of some bytes: 0x1EDC6F41, reflected, initial value and final XOR all ones. -/
def crc32c (bs : List Byte) : BitVec 32 :=
  ~~~(bs.foldl (fun c b => (List.range 8).foldl
    (fun (c : BitVec 32) _ => (c >>> 1) ^^^ (if c.getLsbD 0 then 0x82F63B78#32 else 0)) (c ^^^ b.setWidth 32)) (BitVec.allOnes 32))

/-- The codes of the aligned words of a 64-byte line. -/
def wordCodes (line : List Byte) : List Byte := (List.range 16).map fun i => crc8 ((line.drop (4 * i)).take 4)

/-! AES (FIPS 197). -/

/-- Multiplication by x modulo x^8 + x^4 + x^3 + x + 1. -/
def xtime (a : Byte) : Byte := (a <<< 1) ^^^ (if a.getLsbD 7 then 0x1B#8 else 0)
/-- Multiplication modulo the same polynomial. -/
def gf8Mul (a b : Byte) : Byte :=
  ((List.range 8).foldl (fun (p : Byte × Byte) i => (if b.getLsbD i then p.1 ^^^ p.2 else p.1, xtime p.2)) (0, a)).1
/-- The inverse, a^254; 0 for 0. -/
def gf8Inv (a : Byte) : Byte := (List.range 253).foldl (fun p _ => gf8Mul p a) a
/-- SubBytes of one byte. -/
def aesSub (b : Byte) : Byte :=
  let x := gf8Inv b
  x ^^^ x.rotateLeft 1 ^^^ x.rotateLeft 2 ^^^ x.rotateLeft 3 ^^^ x.rotateLeft 4 ^^^ 0x63
/-- Two byte strings added bit by bit. -/
def xorBytes (a b : List Byte) : List Byte := a.zipWith (· ^^^ ·) b

/-- The key schedule: 4-byte words, for a key of nk words. -/
def aesExpand (nk : Nat) (key : List Byte) : List (List Byte) :=
  (List.range (3 * nk + 28)).foldl (fun (ws : List (List Byte)) k =>
    let i := k + nk
    let t := ws.getD (i - 1) []
    let t := if i % nk = 0 then
        xorBytes ((t.rotateLeft 1).map aesSub) [(List.range (i / nk - 1)).foldl (fun c _ => xtime c) 1, 0, 0, 0]
      else if nk = 8 ∧ i % 8 = 4 then t.map aesSub else t
    ws ++ [xorBytes (ws.getD (i - nk) []) t]) ((List.range nk).map fun i => (key.drop (4 * i)).take 4)

/-- Round key r. -/
def roundKey (ws : List (List Byte)) (r : Nat) : List Byte := ((ws.drop (4 * r)).take 4).flatten
/-- ShiftRows, column by column. -/
def shiftRows (s : List Byte) : List Byte := (List.range 16).map fun i => s.getD (i % 4 + 4 * ((i / 4 + i % 4) % 4)) 0
/-- MixColumns. -/
def mixColumns (s : List Byte) : List Byte :=
  (List.range 16).map fun i =>
    let a (j : Nat) : Byte := s.getD (i / 4 * 4 + (i + j) % 4) 0
    xtime (a 0) ^^^ xtime (a 1) ^^^ a 1 ^^^ a 2 ^^^ a 3

/-- AES of one block under a key of nk words: 4 for AES-128, 8 for AES-256. -/
def aes (nk : Nat) (key block : List Byte) : List Byte :=
  let ws := aesExpand nk key
  let s := (List.range (nk + 5)).foldl (fun s r => xorBytes (mixColumns (shiftRows (s.map aesSub))) (roundKey ws (r + 1)))
    (xorBytes block (roundKey ws 0))
  xorBytes (shiftRows (s.map aesSub)) (roundKey ws (nk + 6))

/-! CMAC (NIST SP 800-38B). -/

/-- Doubling in GF(2^128): the subkeys. -/
def dbl128 (b : List Byte) : List Byte :=
  let v := beNat b
  beBytes 16 (Nat.xor (v * 2 % 2 ^ 128) (if v / 2 ^ 127 = 1 then 0x87 else 0))

/-- CMAC of a string of `bits` bits: the last byte, where partial, holds its bits at the top. -/
def cmac (nk : Nat) (key msg : List Byte) (bits : Nat) : List Byte :=
  let k1 := dbl128 (aes nk key (List.replicate 16 0))
  let n := Nat.max 1 ((bits + 127) / 128)
  let last := msg.drop (16 * (n - 1))
  let whole := decide (0 < bits) && decide (bits % 128 = 0)
  let padded : List Byte :=
    if bits % 8 = 0 then last ++ [0x80]
    else last.dropLast ++ [last.getLastD 0 ||| BitVec.ofNat 8 (2 ^ (7 - bits % 8))]
  let final := if whole then xorBytes last k1 else xorBytes ((padded ++ List.replicate 16 0).take 16) (dbl128 k1)
  let c := (List.range (n - 1)).foldl (fun c i => aes nk key (xorBytes c ((msg.drop (16 * i)).take 16))) (List.replicate 16 0)
  aes nk key (xorBytes c final)

/-! GCM (NIST SP 800-38D). -/

/-- Multiplication in GF(2^128), the first bit the coefficient of 1. -/
def ghashMul (x y : BitVec 128) : BitVec 128 :=
  ((List.range 128).foldl (fun (p : BitVec 128 × BitVec 128) i =>
    (if x.getLsbD (127 - i) then p.1 ^^^ p.2 else p.1,
     (p.2 >>> 1) ^^^ (if p.2.getLsbD 0 then (0xE1#128) <<< 120 else 0))) (0, y)).1

/-- A string cut into blocks of 16 bytes, the last one filled with zeros. -/
def blocksOf (bs : List Byte) : List (List Byte) :=
  (List.range ((bs.length + 15) / 16)).map fun i => ((bs.drop (16 * i)).take 16 ++ List.replicate 16 0).take 16

/-- GHASH of the additional data and the ciphertext. -/
def ghash (h : BitVec 128) (aad c : List Byte) : BitVec 128 :=
  (blocksOf aad ++ blocksOf c ++ [beBytes 8 (8 * aad.length) ++ beBytes 8 (8 * c.length)]).foldl
    (fun y b => ghashMul (y ^^^ BitVec.ofNat 128 (beNat b)) h) 0

/-- The counter mode of GCM under a 96-bit nonce, from block 2 on: encrypts and decrypts. -/
def gcmCrypt (key : List Byte) (nonce : BitVec 96) (data : List Byte) : List Byte :=
  (data.zipIdx 0).map fun e =>
    e.1 ^^^ (aes 8 key (beBytes 12 nonce.toNat ++ beBytes 4 (e.2 / 16 + 2))).getD (e.2 % 16) 0

/-- The tag of a ciphertext. -/
def gcmTag (key : List Byte) (nonce : BitVec 96) (aad c : List Byte) : BitVec 128 :=
  let h := BitVec.ofNat 128 (beNat (aes 8 key (List.replicate 16 0)))
  ghash h aad c ^^^ BitVec.ofNat 128 (beNat (aes 8 key (beBytes 12 nonce.toNat ++ beBytes 4 1)))

/-- NIST SP 800-108 counter mode with AES-CMAC: 256 bits from a 256-bit key and a context; no label (log 122). -/
def deriveKey (key context : List Byte) : List Byte :=
  let block (i : Nat) : List Byte :=
    let m := beBytes 4 i ++ [0] ++ context ++ beBytes 4 256
    cmac 8 key m (8 * m.length)
  block 1 ++ block 2

/-! SHA-384 (FIPS 180-4). -/

/-- The largest r with r^k ≤ n, below 2^bits. -/
def natRoot (k n : Nat) : Nat → Nat → Nat
  | 0, r => r
  | b + 1, r => if (r + 2 ^ b) ^ k ≤ n then natRoot k n b (r + 2 ^ b) else natRoot k n b r
/-- The first 80 primes. -/
def primes80 : List Nat := ((List.range 410).filter fun n => decide (2 ≤ n) && (List.range n).all fun d => decide (d < 2) || decide (n % d ≠ 0)).take 80
/-- The first 64 fraction bits of the k-th root of p. -/
def rootBits (k p : Nat) : Word := BitVec.ofNat 64 (natRoot k (p * 2 ^ (64 * k)) 70 0)

/-- One round's working variables and message schedule. -/
def shaRound (v : List Word) (k w : Word) : List Word :=
  match v with
  | [a, b, c, d, e, f, g, h] =>
    let s1 := e.rotateRight 14 ^^^ e.rotateRight 18 ^^^ e.rotateRight 41
    let t1 := h + s1 + ((e &&& f) ^^^ (~~~e &&& g)) + k + w
    let s0 := a.rotateRight 28 ^^^ a.rotateRight 34 ^^^ a.rotateRight 39
    [t1 + s0 + ((a &&& b) ^^^ (a &&& c) ^^^ (b &&& c)), a, b, c, d + t1, e, f, g]
  | _ => v
/-- The message schedule of a block of 128 bytes. -/
def shaSchedule (blk : List Byte) : List Word :=
  (List.range 64).foldl (fun (ws : List Word) t =>
    let w (i : Nat) : Word := ws.getD (t + 16 - i) 0
    let s1 := (w 2).rotateRight 19 ^^^ (w 2).rotateRight 61 ^^^ (w 2 >>> 6)
    let s0 := (w 15).rotateRight 1 ^^^ (w 15).rotateRight 8 ^^^ (w 15 >>> 7)
    ws ++ [s1 + w 7 + s0 + w 16]) ((List.range 16).map fun i => BitVec.ofNat 64 (beNat ((blk.drop (8 * i)).take 8)))

/-- SHA-384. -/
@[irreducible] def sha384 (msg : List Byte) : BitVec 384 :=
  let n := msg.length
  let pad := (128 - (n + 17) % 128) % 128
  let m := msg ++ [0x80] ++ List.replicate pad 0 ++ beBytes 16 (8 * n)
  let ks := primes80.map (rootBits 3)
  let h0 := ((primes80.drop 8).take 8).map (rootBits 2)
  let h := (List.range (m.length / 128)).foldl (fun h i =>
    let ws := shaSchedule ((m.drop (128 * i)).take 128)
    (h.zip ((ks.zip ws).foldl (fun v e => shaRound v e.1 e.2) h)).map fun e => e.1 + e.2) h0
  BitVec.ofNat 384 ((h.take 6).foldl (fun v w => v * 2 ^ 64 + w.toNat) 0)

end Sys2Proof.Machine
end

