-- ==== Sys2Proof/Machine/Map.lean ====
section
/-! DEFINITION. Sparse data by key, in one canonical form: keys strictly rising and no entry equal to the value an
absent key reads as. Register files, memories and tables of the machine are held this way, so that equal contents are
equal data. -/

namespace Sys2Proof

/-- A finite map from Nat keys, sorted by key. -/
abbrev FMap (α : Type) := List (Nat × α)

namespace Machine

/-- The entry of key `k`, if one is listed. -/
def mapFind? {α : Type} : FMap α → Nat → Option α
  | [], _ => none
  | (j, v) :: m, k => if k = j then some v else if k < j then none else mapFind? m k

/-- What key `k` reads as: its entry, or `d`. -/
def mapGet {α : Type} (d : α) (m : FMap α) (k : Nat) : α := (mapFind? m k).getD d

/-- Lists `v` at key `k`, whatever `v` is (tables of records). -/
def mapPut {α : Type} : FMap α → Nat → α → FMap α
  | [], k, v => [(k, v)]
  | (j, u) :: m, k, v =>
    if k = j then (k, v) :: m else if k < j then (k, v) :: (j, u) :: m else (j, u) :: mapPut m k v

/-- Removes key `k`. -/
def mapErase {α : Type} : FMap α → Nat → FMap α
  | [], _ => []
  | (j, u) :: m, k => if k = j then m else if k < j then (j, u) :: m else (j, u) :: mapErase m k

/-- Writes `v` at key `k`, keeping the canonical form: the value an absent key reads as is not listed. -/
def mapSet {α : Type} [DecidableEq α] (d : α) (m : FMap α) (k : Nat) (v : α) : FMap α :=
  if v = d then mapErase m k else mapPut m k v

/-- Keys strictly rise. -/
def mapSorted {α : Type} : FMap α → Bool
  | [] => true
  | [_] => true
  | (j, _) :: (k, v) :: m => decide (j < k) && mapSorted ((k, v) :: m)

/-- The canonical form: keys strictly rising and no entry equal to `d`. -/
def mapWf {α : Type} [DecidableEq α] (d : α) (m : FMap α) : Bool :=
  mapSorted m && m.all (fun e => decide (e.2 ≠ d))

end Machine
end Sys2Proof
end

