-- ==== Sys2Proof/Machine/State.lean ====
section
/-! DEFINITION. The state of one SV9 module as plain data (spec/01 R8 and the chapters that give each structure), and
the state after reset. Tables and register files are `FMap`s: sorted lists of key and value. A hart is named by
HARTID[12:0], a core by that number / 4, a cluster by it / 64. A location (`Nat`) is a 48-bit device physical address,
or, from 2^48 on, a byte of some core's scratchpad: 2^48 + core × 2^19 + physical offset (log 1). -/

namespace Sys2Proof.Machine

/-- T-mode (task) or S-mode (context supervisor) (R18). -/
inductive Mode where
  | t | s
deriving DecidableEq, Repr

/-- A route set: its members in order and the failure marks (R239, R246). -/
structure RSet where
  members : List Nat
  failed : List Nat
deriving DecidableEq, Repr

/-- The registers of one hart that a squash restores (R8, R293). CSRs are held by number. -/
structure HartArch where
  pc : Word
  mode : Mode
  x : FMap Word
  f : FMap Word
  rt : FMap Line
  csr : FMap Word
  rsets : FMap RSet
  s0 : Word
  s1 : Word
  /-- A change that PHASE holds for the next DSYNC, in the layout of PHASE (R256). -/
  heldPhase : Option Word
  /-- Results of timed scratchpad loads on their way: due cycle, F register or X register, number, value (R277). -/
  delayed : List (Nat × Bool × Nat × Word)
  /-- The gang runs in lockstep; and how many instructions the hart has issued in lockstep (R343). -/
  lock : Bool
  seq : Nat
  /-- The done mask, and the address of the instruction it belongs to (R164). -/
  doneMask : BitVec 4096
  doneAt : Word
  /-- Fields of its record VSTART that a segment instruction with host-shared elements has performed (R161). -/
  doneField : Nat
deriving DecidableEq, Repr

/-- The vector file of a core and its configuration CSRs (R8, R10, R14). Accumulator row r of acc a is key 16a + r. -/
structure VecFile where
  v : FMap VReg
  m : FMap MReg
  sc : FMap (BitVec 32)
  acc : FMap (BitVec 12288)
  vtype : Word
  vl : Word
  vstart : Word
  vpad : Word
  vsub : Word
  vdirty : Word
  /-- Registers with an uncorrectable error, in whatever they hold: n for Vn, 32 + n for accn (R374). -/
  upset : List Nat
deriving DecidableEq, Repr

/-- One binding of a stream port (R216-R218). `done` counts the elements fetched (inbound) or written (outbound);
`taken` those popped by the hart (inbound) or supplied by it (outbound). -/
structure Binding where
  hart : Nat
  esize : Nat
  outbound : Bool
  base : Word
  c0 : Nat
  c1 : Nat
  c2 : Nat
  s0 : Word
  s1 : Word
  s2 : Word
  wm : Option Nat
  rlt : Nat
  /-- The translations taken at SBIND: address, location and length of each piece, and whether its page is evict-first (log 15). -/
  pieces : List (Nat × Nat × Nat × Bool)
  done : Nat
  taken : Nat
  /-- Lines touched so far (R268). -/
  seen : List Nat
deriving DecidableEq, Repr

/-- A stream port: the active binding, those behind it, the last of which may not have started, and the buffer of up to 64
elements, oldest first (R217-R219). -/
structure Stream where
  active : Option Binding
  rest : List Binding
  buf : List (BitVec 144)
deriving DecidableEq, Repr

/-- Scopes of R288. -/
inductive Scope where
  | core | cluster | die | device
deriving DecidableEq, Repr

/-- A pending change of the tag table, made visible at commit (R228). -/
inductive TagOp where
  | set (granule slot : Nat)
  | inv (granule : Nat)
deriving DecidableEq, Repr

/-- What the lead of a replica group forwards for one action: values, or the fault it took (R364). -/
inductive FwdVal where
  | val (v : List Word)
  | trap (cause : Nat) (tval tval2 : Word)
deriving DecidableEq, Repr

/-- The hart's state at the start of its chunk (R293). -/
structure Snapshot where
  arch : HartArch
  sync : Option Word
  vf : Option VecFile
deriving DecidableEq, Repr

/-- An engine registration of the open chunk, which starts once the chunk is over and which a squash withdraws: a copy; a
binding with what the port held before; register groups that became unfilled (R293, R302). -/
inductive Engine where
  | copy (idx : Nat)
  | bind (port rlt : Nat) (old : Stream)
  | fill
deriving DecidableEq, Repr

/-- An open chunk (R289-R293; R367 for the signature). `buf` holds the buffered bytes by location, `ext` the lines the
arbiter recorded as changed by others since the chunk began, `own` marks a chunk that is never squashed (R419). -/
structure Chunk where
  count : Nat
  buf : FMap Byte
  reads : List Nat
  writes : List Nat
  ext : List Nat
  /-- The bits of a buffered byte that its stores left as they stand (R157); absent, none. -/
  keep : FMap Byte
  /-- The chunk was opened under the cluster's priority grant (R294). -/
  prio : Bool
  /-- The commit discards the core's instruction cache (R200). -/
  code : Bool
  doomed : Bool
  own : Bool
  snap : Snapshot
  vwr : List Nat
  mwr : List Nat
  sig : BitVec 128
  fwdPos : Nat
  /-- Words that each member of the open convoy has taken from its entry of the forwarding log, the entries in member order
  from `fwdPos` on (R364). -/
  fwdSubs : FMap Nat
  popped : FMap Nat
  pushes : FMap (List (BitVec 144))
  tags : List TagOp
  /-- The chunk ends with the current instruction, and its commit performs the hart's stores at this scope (R109, R110,
  R199). -/
  close : Option Scope
  census : List (Nat × Nat)
  trace : List (List Byte)
  engines : List Engine
deriving DecidableEq, Repr

/-- The armed line of a hart's monitor (R201). -/
structure Monitor where
  line : Nat
  fired : Bool
deriving DecidableEq, Repr

/-- The pending-operation record: the parked instruction's address, and whether it is a WAIT (R202, R215). -/
structure Pending where
  pc : Word
  isWait : Bool
  /-- A WAIT whose timeout elapsed (R202). -/
  timedOut : Bool
deriving DecidableEq, Repr

/-- The deferred route error record (R242). -/
structure RouteErr where
  cause : Nat
  rt : Nat
  off : Word
deriving DecidableEq, Repr

/-- The parks of Table: Parks (R355). A parked queue operation is completed by the hand-off from `State.waiters`; the
others are re-issued when their event has come about. -/
inductive Park where
  | queue (qcb : Nat)
  | wait (rd : Reg) (deadline : Option Nat)
  | bwait (bb : Nat)
  | wmwait (wm : Nat) (thr : Word)
  | stream (port : Nat)
  | vacq
  | gang
  | pair (rd : Reg) (v : Word)
  | reply (tag : Nat)
  | acks (mask : Nat)
  | page
  | hostPage (idx : Nat)
  | trecv (thr : Word)
  | forward
deriving DecidableEq, Repr

/-- What a hart is doing (R343, R355, R361, R264, R265, R397). -/
inductive Status where
  /-- No instance is bound to the hart. -/
  | free
  | running
  /-- Held before an instruction by a stall: watermark, RLT, interlock (R395). -/
  | stalled
  | parked (p : Park)
  /-- Its finished chunk waits at the commit arbiter: priority grant (R294) or the cupping unit (R306, R368). -/
  | arbiter
  | halted
  /-- Held in lockstep while another member takes a trap (R343). -/
  | held
  /-- Stopped as the minority of a replica group (R361). -/
  | stopped
  /-- Halted at a pre-emption point for a swap. -/
  | yielded
deriving DecidableEq, Repr

/-- One outstanding page request of a hart (R379-R382). -/
structure PageReq where
  hart : Nat
  /-- The instruction that made it. -/
  pc : Word
  func : Nat
  num : Nat
  gpa : Nat
  gva : Word
  asid : Nat
  ctx : Nat
  write : Bool
  /-- Lowest element that missed in the granule, the convoy member of its access, and whether the instruction is a vector
  one (R164). -/
  elem : Nat
  member : Nat
  vec : Bool
  queued : Bool
  answer : Option Bool
deriving DecidableEq, Repr

/-- What a home handed to a parked queue operation: the element, and where its bytes go (R211, R212). -/
structure Handoff where
  elem : List Byte
  dest : List Nat
  qcb : Nat
deriving DecidableEq, Repr

/-- State of one hart outside `HartArch`. -/
structure Hart where
  a : HartArch
  ctx : Nat
  asid : Nat
  inst : Option Nat
  status : Status
  monitor : Option Monitor
  links : List Nat
  deferred : Option RouteErr
  arrivals : FMap Nat
  slotPtr : Nat
  recvBytes : Nat
  pending : Option Pending
  /-- The release cycle T of the last DSYNC, and the bytes received by then (R257, R259). -/
  releaseT : Nat
  recvAtT : Nat
  /-- PERIOD cycles have passed since T: pre-emption is no longer deferred (R257). -/
  deferOver : Bool
  /-- A DSYNC at this address has arrived and waits for its phase; and the leader's held change at the release (R257). -/
  dsync : Option Word
  leadHeld : Option Word
  /-- The address of the instruction that follows a timed DSYNC, until it completes (R340). -/
  afterSync : Option Word
  chunk : Option Chunk
  squashRun : Nat
  ordinal : Nat
  reexec : Bool
  irqTimer : Bool
  irqCall : Option Word
  irqPreempt : Bool
  preempt : Bool
  /-- The hart is to halt at its next pre-emption point, as HALT does (R404, R417). -/
  haltReq : Bool
  noticeUntil : Option Nat
  atVec : Bool
  resumeTrap : Option (Nat × Word × Word)
  /-- Members of the hart's gang in position order, the hart among them (R342). -/
  gang : List Nat
  /-- The lockstep instruction that a trap of this member interrupted (R343). -/
  trapAt : Option Word
  group : Option Nat
  /-- Number of the next page request of this execution (R380). -/
  reqNext : Nat
  /-- The result of a parked queue operation, until the hart takes it (R211, R316). -/
  handoff : Option Handoff
  /-- Lines whose stores of this hart are not yet performed at device scope (R295, R298). -/
  wlines : List Nat
  /-- Scratchpad bytes whose later values this hart has not taken notice of yet, as it still sees them (R109, log 12). -/
  lspOld : FMap Byte
  /-- First instruction of the chunk a mismatch re-executes, and signatures already compared (R369). -/
  tries : Nat
  /-- Entries of the forwarding log that traps of this hart have used up since the last agreed chunk (R364). -/
  fwdBase : Nat
  /-- The signature this hart sent to the cupping unit for its finished chunk (R368). -/
  sent : Option (BitVec 128)
  /-- The row before which a ganged MMA stops in every member, while it executes (R188). -/
  rowStop : Option Nat
  /-- The element or row before which the next convoy stops for an event that waits (R51, R186, R395). -/
  stopAt : Option Nat
  /-- An instruction that waits to overwrite unfilled register groups: its address and the groups (R222, R250). -/
  fillWait : Option (Word × List Nat)
  /-- A VSXADD whose additions are not all performed: how many are left, and the flags raised by element (R169). -/
  scatter : Option (Nat × List (Nat × BitVec 6))
deriving DecidableEq, Repr

/-- A copy in progress (R221). `locs` are the translations of its 8-byte words, taken at issue. -/
structure Copy where
  idx : Nat
  hart : Nat
  store : Bool
  vd : Nat
  regs : Nat
  ea : Word
  locs : List Nat
  /-- The evict-first pages among them (R280). -/
  efs : List Nat
  done : Nat
  rlt : Nat
  wm : Option Nat
  /-- Lines touched so far (R268). -/
  seen : List Nat
deriving DecidableEq, Repr

/-- Why a register group is not filled yet: a remote load (R250) or an armed receive (R251). -/
inductive FillBy where
  | vrld (tag : Nat) (rt : Nat) (off : Nat)
  | arm
  /-- Rejected: the next reader traps with the cause (R250). -/
  | failed (cause : Nat) (rt : Nat) (off : Nat)
deriving DecidableEq, Repr

/-- A bank load in progress (R179, R180). -/
structure BankLoad where
  hart : Nat
  locs : List Nat
  efs : List Nat
  failed : Option Word
deriving DecidableEq, Repr

/-- A watermark register: location and address of the bound cell, and the last MARK received (R224, R282). -/
structure WmReg where
  cell : Nat
  va : Word
  lo : Word
  hi : Word
  mark : Word
  ctx : Nat
deriving DecidableEq, Repr

/-- A barrier register: location and address of the object, the context that bound it, and the harts for which it is bound:
those of the core, but for one that has started a task since (R204). -/
structure BbReg where
  obj : Nat
  va : Word
  ctx : Nat
  harts : List Nat
deriving DecidableEq, Repr

/-- One range-lock entry (R226). -/
structure RltEntry where
  lo : Nat
  hi : Nat
  source : Bool
  ctx : Nat
deriving DecidableEq, Repr

/-- A context's scratchpad segment on a core and its grant (R274). -/
structure Seg where
  base : Nat
  size : Nat
  grantBase : Nat
  grantSize : Nat
deriving DecidableEq, Repr

/-- A cached translation (R387): the smallest unit cached is the leaf's page. -/
structure TlbEntry where
  ctx : Nat
  asid : Nat
  global : Bool
  va : Nat
  size : Nat
  pa : Nat
  pte : Word
  gpa : Nat
  gsize : Nat
  pte2 : Word
deriving DecidableEq, Repr

/-- What an access of a timed phase does when it occupies its bank (R277, R278). -/
inductive BankOp where
  /-- Nothing more: its effect is made, or it only counts against others. -/
  | done
  /-- Writes the bits of `mask` under a key. -/
  | write (data mask : Word) (mark : Nat)
  /-- Reads for an F or X register that is written in cycle `due`: n bytes from byte `off` of the word. -/
  | scalar (isF : Bool) (reg due off n : Nat) (sx : Bool)
  /-- Reads for element k of `unit` bits of the register group at `base`: bytes of the word as bytes of the element's image
  in memory, of which `width` bits from bit `sh` on are the element. -/
  | vec (base unit k sh width : Nat) (bytes : List (Nat × Nat))
deriving DecidableEq, Repr

/-- One access of a timed phase to a bank: its cycle, bank and port, the hart for which it is made, and the location of its
8-byte word (R277, R278). -/
structure BankUse where
  cycle : Nat
  bank : Nat
  port : Nat
  hart : Nat
  loc : Nat
  op : BankOp
deriving DecidableEq, Repr

/-- State of one core. -/
structure Core where
  owner : Option Nat
  vf : VecFile
  vacqWait : List Nat
  census : FMap Nat
  cim : FMap Byte
  brec : FMap (BitVec 256)
  loads : FMap BankLoad
  streams : FMap Stream
  wm : FMap WmReg
  bb : FMap BbReg
  rlt : FMap RltEntry
  copies : List Copy
  /-- Unfilled element groups by register × 2 + group (R250, R251). -/
  fills : FMap FillBy
  seg : FMap Seg
  /-- Tag tables: context × 2^53 + granule ↦ slot (R228). -/
  tags : FMap Nat
  tlb : List TlbEntry
  icache : FMap Line
  shadow : Option Nat
  timedConf : Nat
  banks : List BankUse
deriving DecidableEq, Repr

/-- One line held in a cluster L2 (R280, R281): `dirty` marks the bits not yet performed at the home. -/
structure L2Line where
  way : Nat
  age : Nat
  arr : Option Nat
  data : Line
  dirty : Line
  evictFirst : Bool
  /-- A store of this die has reached the home since the copy was taken (R298). -/
  stale : Bool
deriving DecidableEq, Repr

/-- A bound address-range retention register (R229, R230). -/
structure Arr where
  ctx : Nat
  lo : Nat
  hi : Nat
  ways : List Nat
  hits : Nat
  misses : Nat
deriving DecidableEq, Repr

/-- State of one cluster. -/
structure Cluster where
  l2 : FMap L2Line
  arr : FMap Arr
  grant : Option Nat
  grantWait : List Nat
  /-- Lines whose update waits for the priority chunk (R294). -/
  delayed : List Nat
  /-- The cluster's TLB (R387). -/
  tlb : List TlbEntry
  decanted : Bool
  fenced : Bool
  /-- A self-test visit in progress: when it started (R357). -/
  visitAt : Option Nat
deriving DecidableEq, Repr

/-- What a parked queue operation does when it completes (R211, R212, R105, R318, R403). -/
inductive QKind where
  | deq (rd : Reg) (dest : List Nat)
  | bq (cmp : Word) (off : BitVec 14)
  | enq
  | endToken
  | port (function : Nat)
  | device
deriving DecidableEq, Repr

/-- One waiter of a queue, in the order it reached the home (R311). -/
structure QWaiter where
  hart : Nat
  kind : QKind
  elem : List Byte
deriving DecidableEq, Repr

/-- The two waiter lists of a queue (R311). -/
structure Waiters where
  enq : List QWaiter
  deq : List QWaiter
deriving DecidableEq, Repr

/-- A launch record taken by the Dispatch Unit (R345-R353). -/
structure Launch where
  ctx : Nat
  queue : Nat
  entry : Word
  args : Word
  count : Nat
  shape : BitVec 32
  doneVa : Word
  wmVa : Word
  /-- The dependence cell's location, once the cell is bound (R349). -/
  wmCell : Option Nat
  wmThr : Word
  cqVa : Word
  /-- The address of the record's slot (R411). -/
  slotVa : Word
  readyAt : Option Nat
  next : Nat
deriving DecidableEq, Repr

/-- One instance of a launch (R342, R348, R354): its harts by replica, and those that have not ended. -/
structure Instance where
  launch : Nat
  idx : Nat
  harts : List (List Nat)
  live : List Nat
  flags : BitVec 6
  level : Nat
  startedAt : Nat
  /-- Since when it is swapped out (R354). -/
  swappedAt : Option Nat
  /-- The completion word has been updated; the token may still wait (R348). -/
  counted : Bool
  /-- Harts that have ended with PAIRROLE 0 (R262). -/
  unpaired : List Nat
deriving DecidableEq, Repr

/-- A data error that one of two live replicas reported (R375): where the other traps too: chunks committed, and
instructions of the open chunk, before it. `left` are the harts that have yet to trap. -/
structure Cut where
  ordinal : Nat
  count : Nat
  cause : Nat
  tval : Word
  left : List Nat
deriving DecidableEq, Repr

/-- A replica group: one hart of each replica at one gang position (R362-R371). `timer` counts nanoseconds since the first
signature of the chunk; `eventAt` is the chunk after which an event is taken (R366); `vote` is a replica that a data
error stopped (R375). -/
structure Group where
  harts : FMap Nat
  live : List Nat
  lead : Nat
  log : List FwdVal
  /-- A follower whose channel rejected a forwarded value: the entry of the log, and how many of its words came before (R371). -/
  lost : FMap (Nat × Nat)
  sigs : FMap (BitVec 128)
  tries : Nat
  timer : Option Nat
  eventAt : Option Nat
  vote : Option Nat
  cut : Option Cut
  /-- The CLASS 4 routes between the replicas: from, to, and the token (R362). -/
  routes : List (Nat × Nat × Line)
deriving DecidableEq, Repr

/-- Paging mode and identity of a context (R335, R386, R394-R396). -/
structure Ctx where
  cores : List Nat
  asids : List (Nat × Nat)
  keyid : Nat
  queues : List Nat
  mailbox : Nat
  consent : Bool
  tvec : Word
  function : Option Nat
  notice : Bool
  share : Nat
  tick : Nat
  nextTick : Nat
  deficits : FMap Int
  lspBase : Nat
  lspSize : Nat
  exited : Bool
  dying : Option Word
  /-- SHA-384 of the images declared at CREATE (R408). -/
  measured : BitVec 384
deriving DecidableEq, Repr

/-- The states of a key slot (R334). -/
inductive KeyState where
  | empty | live | retiring
deriving DecidableEq, Repr

/-- A key slot: its state, how many keys it has held, the engines that have acknowledged a kill, and when the kill was
broadcast (R334). -/
structure KeySlot where
  state : KeyState
  serial : Nat
  acks : Nat
  killedAt : Nat
  reported : Bool
deriving DecidableEq, Repr

/-- An access-table entry (R326). -/
structure AccessEntry where
  device : Nat
  ctx : Nat
  base : Nat
  len : Nat
  rights : Nat
  keyid : Nat
  c : Bool
  tctx : Nat
  tcore : Nat
  /-- What BASE counts in: 0 memory, 1 a scratchpad, 6 a vector file (log 17). -/
  space : Nat
  /-- What the RKC keeps beside the entry: the ports by which its routes reach the target (R315, R322). -/
  via : List Nat
deriving DecidableEq, Repr

/-- What a packet asks of its target (R240, R246-R251, R258). -/
inductive PktOp where
  | load (n : Nat) (rd : Reg)
  | store
  | amo (op : Nat) (n : Nat) (rd : Reg) (cmp : Word)
  | enq (rd : Reg)
  | enqm (rd : Reg) (k : Nat)
  | stripe (job : Nat) (idx : Nat)
  | reduce (op : Nat) (fmt : Nat) (w : Nat)
  | vload (reg grp : Nat)
  | cprr (reg : Nat) (grp : Nat)
  | tsend
  | delegate (rd : Reg) (target : Nat) (again : Bool)
deriving DecidableEq, Repr

/-- Where a packet is on its way (R325, R327, R328). -/
inductive PktAt where
  | going (hop : Nat)
  | target
  /-- Past the target's ingress, which admitted it to a window of context `tctx`, on its way to its home there (R337). -/
  | home (tctx : Nat)
  | reply (hop : Nat)
  | back
  | lost
  /-- Held at the sender while its stream is re-keyed (R332). -/
  | held
  /-- A CPRR group whose target is not resident waits to be sent again (R251). -/
  | wait
deriving DecidableEq, Repr

/-- A packet in flight (R328). -/
structure Packet where
  tag : Nat
  /-- The request tag in its command flit: the tag under which its sender first sent it (R328). -/
  wire : Nat
  /-- The device that sent it; `hart` is its hart there. -/
  src : Nat
  hart : Nat
  route : Nat
  token : Line
  op : PktOp
  sctx : Nat
  off : Nat
  len : Nat
  /-- The payload as it travels, encrypted where C = 1; and as the sender holds it (R328, R331). -/
  payload : List Byte
  plain : List Byte
  /-- The new line address of a request sent again, or 0 (R337). -/
  reloc : Nat
  /-- Counter and epoch of its stream, and the GCM tag; 0 where C = 0 (R331). -/
  counter : Nat
  epoch : Nat
  gcmTag : BitVec 128
  at_ : PktAt
  /-- Ports that it crossed before their generation was advanced: its answer crosses them too (R319). -/
  grace : List Nat
  answer : Option RemoteAnswer
  flags : BitVec 6
  sentAt : Nat
  /-- Its sender has given it up (R339). -/
  orphan : Bool
deriving DecidableEq, Repr

/-- A striped send in the background (R246): Q, the next stripe that has not left, the stripes there are, the members
that failed, the re-send list and its next place in Q', and the tokens at issue. -/
structure SendJob where
  id : Nat
  hart : Nat
  ctx : Nat
  set : Nat
  off : Nat
  data : List Byte
  q : List Nat
  sent : Nat
  stripes : Nat
  failed : List Nat
  resend : List Nat
  resendPos : Nat
  tokens : FMap Line
deriving DecidableEq, Repr

/-- A GCM stream: epoch and counter at the sender, highest counter accepted and the map at the target (R331, R332). -/
structure GcmStream where
  core : Nat
  node : Nat
  keyid : Nat
  epoch : Nat
  counter : Nat
  high : Nat
  seen : List Nat
  rekeying : Bool
  /-- Tag failures reported to the RKC (R332). -/
  tagFails : Nat
deriving DecidableEq, Repr

/-- One element addition of VSXADD on its way to its port (R169). -/
structure Scatter where
  hart : Nat
  elem : Nat
  loc : Nat
  mark : Nat
  /-- The page is host-shared: the addition waits for every earlier one of the instruction, and later ones wait for it (R161). -/
  host : Bool
  /-- Type code (R36) and rounding mode of the addition. -/
  ty : Nat
  rm : Nat
  /-- The draw of a stochastic rounding, taken at issue in element order (R83). -/
  q : Nat
  v : Word
deriving DecidableEq, Repr

/-- A watermark advance of [lo, hi) that waits for the bytes below (R225). -/
structure Advance where
  cell : Nat
  lo : Word
  hi : Word
deriving DecidableEq, Repr

/-- An invalidation, revocation drain or migration in progress (R324, R337, R388). -/
inductive Job where
  /-- The contexts, the range (of guest-physical addresses where `guest`), and the harts whose open chunk, named by its
  ordinal, may hold accesses translated before. -/
  | invalidate (ctxs : List Nat) (guest : Bool) (lo hi : Nat) (chunks : List (Nat × Nat)) (done : Word) (issuer : Issuer)
  /-- `tags` are the packets that passed the changed point before its change. -/
  | drain (done : Word) (ctx : Option Nat) (tags : List Nat)
  | migrate (oldPage newPage : Nat) (done : Word)
deriving DecidableEq, Repr

/-- A function of the host link (R402-R404, R389). -/
structure Func where
  tdi : TdiState
  stage2 : Option Nat
  onDemand : Bool
  portErrors : Nat
  staleReplies : Nat
  resets : Nat
deriving DecidableEq, Repr

/-- An inbound window (R405, R406): `lines` are the written lines above MARK, `waiting` the writes it holds. -/
structure Window where
  function : Nat
  offset : Nat
  ctx : Nat
  asid : Nat
  cell : Nat
  lo : Word
  hi : Word
  lines : List Nat
  waiting : List (Nat × List Byte)
  drops : Nat
deriving DecidableEq, Repr

/-- An accepted SPDM request that is not answered yet (R409). -/
structure SpdmReq where
  function : Nat
  slot : Nat
  kind : Nat
  /-- The response, under the chain that was current when the request was accepted. -/
  reply : List Byte
deriving DecidableEq, Repr

/-- A held rewrite of a certificate slot, and who waits for it (R409). -/
structure Rewrite where
  chain : List Byte
  function : Option Nat
  done : Option Word
deriving DecidableEq, Repr

/-- The SPDM responder (R407-R409): certificate chains, held rewrites, the sequence of GET_CERTIFICATE in progress, and
the responses sent, newest last. -/
structure Spdm where
  chains : FMap (List Byte)
  heldRewrite : FMap Rewrite
  reading : FMap (List Byte)
  open_ : List SpdmReq
  version : FMap Nat
  session : FMap (BitVec 256)
  ideKeyed : List Nat
  out : List (Nat × List Byte)
deriving DecidableEq, Repr

/-- A host page request of the hub (R390). -/
structure HostReq where
  idx : Nat
  function : Nat
  addr : Nat
  hart : Nat
  ctx : Nat
  va : Word
  store : Bool
  answer : Option Bool
deriving DecidableEq, Repr

/-- A spilled scratchpad segment with its tag table: bytes by location, key marks by line, tags (R279, R397). -/
structure Spill where
  bytes : FMap Byte
  keys : FMap Nat
  tags : FMap Nat
deriving DecidableEq, Repr

/-- A context swapped out of a core: what shadow storage or the save area holds (R20, R397). -/
structure Image where
  harts : FMap Hart
  owner : Option Nat
  vf : VecFile
  census : FMap Nat
  brec : FMap (BitVec 256)
  streams : FMap Stream
  wm : FMap WmReg
  bb : FMap BbReg
  rlt : FMap RltEntry
  fills : FMap FillBy
  inShadow : Bool
deriving DecidableEq, Repr

/-- Device-wide parameters and bring-up (R350, R357, R403, R416, R417). -/
structure Dev where
  id : Nat
  ageLimit : Nat
  selftestMs : Nat
  testMode : Bool
  powerCap : Nat
  clockSteps : Nat
  tooHot : Bool
  booted : Bool
  /-- The secure-boot check failed (R416). -/
  bootFailed : Bool
  failed : Bool
  /-- TIME and CYCLE when the core clock last changed (R417). -/
  timeBase : Nat
  cycleBase : Nat
  links : List Nat
  portsOpen : Bool
  nextVisit : Nat
  /-- Self-test visits started (R357), and the last deficit tick of each die, in µs (R351). -/
  visits : Nat
  ticks : FMap Nat
  measurements : FMap (BitVec 384)
  recovery : List Byte
  epoch : Nat
deriving DecidableEq, Repr

/-- What moves next: an event with what it brings, a hart's turn, the passing of time, or a replacement choice of a
cache (log 1, log 6). -/
inductive Move where
  | event (i : Instr)
  | run (hart : Nat)
  | elapse (cycles : Nat)
  | evictL2 (cluster line : Nat)
  | evictTlb (core idx : Nat)
  | evictClusterTlb (cluster idx : Nat)
  | evictCode (core line : Nat)
  /-- A packet of another device arrives at this one. -/
  | ingress (p : Packet)
  /-- The next stripe of a striped send leaves. -/
  | stripe (job : Nat)
  /-- The oldest open SPDM request is answered (R409). -/
  | spdmAnswer
  /-- A scratchpad byte keeps its present value in the hart's sight until an acquire of the hart (R109, log 12). -/
  | lag (hart loc : Nat)
  /-- A packet passes the target's ingress (R337). -/
  | enter (tag : Nat)
  /-- No grant stands for an old page any more, and its relocation entry goes (R337). -/
  | dropReloc (page : Nat)
  /-- The hart's turn, whose convoy stops at an element or row for an event that waits (R395). -/
  | stop (hart elem : Nat)
  /-- An uncorrectable error of a vector register (n) or an accumulator (32 + n) of a core, or of a CIM bank (R374). -/
  | upset (core reg : Nat)
  | upsetBank (core bank : Nat)
deriving DecidableEq, Repr

/-- The whole module. -/
structure State where
  cur : Nat
  agenda : List Move
  cycle : Nat
  mem : FMap Byte
  /-- By location of HBM and of the scratchpads: 0 where the byte has no defined value under any key, else 1 + the key mark
  under which it was last written; absent where nothing has written it (R275, R333, log 7). -/
  memKey : FMap Nat
  harts : FMap Hart
  cores : FMap Core
  clusters : FMap Cluster
  ctxs : FMap Ctx
  keys : FMap KeySlot
  /-- Current generation of each port that was advanced; for the others see `State.gen` (R323, log 5). -/
  gens : FMap Nat
  portsDown : List Nat
  staleDrops : FMap Nat
  /-- How often each device has rejoined under the current fabric key: ports on its hub and ports that lead to it stand that
  many generations higher (R339, log 141). -/
  rejoins : FMap Nat
  /-- Failed replays in a row of the flit that waits at each port (R330). -/
  linkFails : FMap Nat
  fabricKey : Nat
  access : List AccessEntry
  reloc : FMap Nat
  gcm : FMap GcmStream
  packets : List Packet
  jobs : List SendJob
  scatter : List Scatter
  advances : List Advance
  notify : List (Nat × Nat × Word)
  mgmt : FMap Job
  launches : FMap Launch
  instances : FMap Instance
  groups : FMap Group
  waiters : FMap Waiters
  pageReqs : List PageReq
  hostReqs : List HostReq
  /-- Scratchpad segments that made room for another context's, by context and core (R397). -/
  spills : FMap Spill
  atc : List Nat
  funcs : FMap Func
  handles : FMap PortTarget
  windows : FMap Window
  hostOut : List (Nat × List Byte)
  /-- Mailbox elements the device has yet to enqueue: context (0 the PF) and bytes (R411). -/
  outbox : List (Nat × List Byte)
  /-- Trace records of committed chunks on their way to their queue: hart, QCB address, record (R413). -/
  traceOut : List (Nat × Word × List Byte)
  spdm : Spdm
  dev : Dev
  images : FMap Image
  traceDrops : FMap Nat
  /-- Lines whose next read return carries an error: true for a failed check code (R283, R373). -/
  bad : FMap Bool
  /-- Bad lines whose refetch failed as well (R373). -/
  badHard : List Nat
  freeCtr : Nat
  tagCtr : Nat
  /-- Lines that the instruction in execution has touched, each with the member that touched it (R268). -/
  touched : List (Nat × Nat)
  /-- The member of a convoy whose element is performed. -/
  member : Nat
deriving DecidableEq, Repr

/-- Why the machine stops. -/
inductive Fault where
  /-- An event of the agenda that the state does not enable, for example the reply to a request nobody made. Raised by
  `step` and by the meanings of the event rows. Safe: the device has no such event. -/
  | notEnabled (what : String)
deriving DecidableEq, Repr

/-- Why an instruction has no meaning. -/
inductive Refusal where
  /-- Not modelled yet: raised by `exec` only. Safe: nothing is claimed of it. -/
  | notModelled (mnemonic : String)
deriving DecidableEq, Repr

/-- The registers of a hart before any task (R8; DESIGN CHOICE zero, log 2). -/
def HartArch.init : HartArch :=
  { pc := 0, mode := .t, x := [], f := [], rt := [], csr := [], rsets := [], s0 := 0, s1 := 0, heldPhase := none,
    delayed := [], lock := false, seq := 1, doneMask := 0, doneAt := 0, doneField := 0 }

/-- The vector file at VACQ (R10). -/
def VecFile.init : VecFile :=
  { v := [], m := [], sc := [], acc := [], vtype := 0x8000000000000000#64, vl := 0, vstart := 0, vpad := 0, vsub := 0,
    vdirty := 0, upset := [] }

/-- A hart to which nothing is bound. -/
def Hart.init : Hart :=
  { a := HartArch.init, ctx := 0, asid := 0, inst := none, status := .free, monitor := none, links := [],
    deferred := none, arrivals := [], slotPtr := 0, recvBytes := 0, pending := none, releaseT := 0, recvAtT := 0, deferOver := false,
    dsync := none, leadHeld := none, afterSync := none, chunk := none, squashRun := 0, ordinal := 0, reexec := false, irqTimer := false, irqCall := none,
    irqPreempt := false, preempt := false, haltReq := false, noticeUntil := none, atVec := false, resumeTrap := none, gang := [],
    trapAt := none, group := none, reqNext := 0, handoff := none, wlines := [], lspOld := [], tries := 0, fwdBase := 0, sent := none,
    rowStop := none, stopAt := none, fillWait := none, scatter := none }

/-- A core in which nothing is bound. -/
def Core.init : Core :=
  { owner := none, vf := VecFile.init, vacqWait := [], census := [], cim := [], brec := [], loads := [], streams := [],
    wm := [], bb := [], rlt := [], copies := [], fills := [], seg := [], tags := [], tlb := [], icache := [],
    shadow := none, timedConf := 0, banks := [] }

/-- A cluster with an empty L2. -/
def Cluster.init : Cluster :=
  { l2 := [], arr := [], grant := none, grantWait := [], delayed := [], tlb := [], decanted := false, fenced := false, visitAt := none }

/-- A function after reset (log 2). -/
def Func.init : Func :=
  { tdi := .configUnlocked, stage2 := none, onDemand := false, portErrors := 0, staleReplies := 0, resets := 0 }

/-- A key slot after reset: EMPTY (R334). -/
def KeySlot.init : KeySlot := { state := .empty, serial := 0, acks := 0, killedAt := 0, reported := false }

/-- The module right after device reset: nothing bound, CYCLE and TIME 0, AGE_LIMIT 100 µs (R350), self-test interval
10 s (R357), power cap 1,400 W (R417). Values the spec does not give are those of log 2, log 4 and log 5. -/
def State.reset : State :=
  { cur := 0, agenda := [], cycle := 0, mem := [], memKey := [], harts := [], cores := [], clusters := [], ctxs := [],
    keys := [], gens := [], portsDown := [], staleDrops := [], rejoins := [], linkFails := [], fabricKey := 0, access := [], reloc := [], gcm := [],
    packets := [], jobs := [], scatter := [], advances := [], notify := [], mgmt := [], launches := [], instances := [],
    groups := [], waiters := [], pageReqs := [], hostReqs := [], spills := [], atc := [], funcs := [], handles := [], windows := [],
    hostOut := [], outbox := [], traceOut := [],
    spdm := { chains := [], heldRewrite := [], reading := [], open_ := [], version := [], session := [], ideKeyed := [],
              out := [] },
    dev := { id := 0, ageLimit := 100, selftestMs := 10000, testMode := false, powerCap := 1400, clockSteps := 0,
             tooHot := false, booted := false, bootFailed := false, failed := false, timeBase := 0,
             cycleBase := 0, links := [], portsOpen := false, nextVisit := 0, visits := 0, ticks := [],
             measurements := [], recovery := [], epoch := 0 },
    images := [], traceDrops := [], bad := [], badHard := [], freeCtr := 0, tagCtr := 0, touched := [],
    member := 0 }

end Sys2Proof.Machine
end

