-- ==== Sys2Proof/Machine/Regs.lean ====
section
/-! DEFINITION. Names of places: harts, cores and clusters of the state, integer, floating, route and special registers,
and the status fields that trap entry uses (spec/01 R8-R19, spec/02 R27). Every read and write of a register passes
here. -/

namespace Sys2Proof.Machine

/-! Keys. -/

/-- The core of a hart. -/
def coreOf (h : Nat) : Nat := h / 4
/-- The cluster of a hart. -/
def clusterOf (h : Nat) : Nat := h / 64
/-- The die of a hart. -/
def dieOf (h : Nat) : Nat := h / 1024
/-- The harts of a core. -/
def hartsOfCore (c : Nat) : List Nat := [4 * c, 4 * c + 1, 4 * c + 2, 4 * c + 3]

/-! Parts of the state. -/

/-- Hart h. -/
def State.hart (s : State) (h : Nat) : Hart := (mapFind? s.harts h).getD Hart.init
/-- Replaces hart h. -/
def State.setHart (s : State) (h : Nat) (x : Hart) : State := { s with harts := mapPut s.harts h x }
/-- Changes hart h. -/
def State.onHart (s : State) (h : Nat) (f : Hart → Hart) : State := s.setHart h (f (s.hart h))
/-- The state with hart h executing. -/
def State.as (s : State) (h : Nat) : State := { s with cur := h }
/-- The hart that executes. -/
def State.me (s : State) : Hart := s.hart s.cur
/-- Changes the hart that executes. -/
def State.onMe (s : State) (f : Hart → Hart) : State := s.onHart s.cur f
/-- Core c. -/
def State.core (s : State) (c : Nat) : Core := (mapFind? s.cores c).getD Core.init
/-- Replaces core c. -/
def State.setCore (s : State) (c : Nat) (x : Core) : State := { s with cores := mapPut s.cores c x }
/-- Changes core c. -/
def State.onCore (s : State) (c : Nat) (f : Core → Core) : State := s.setCore c (f (s.core c))
/-- The core of the hart that executes. -/
def State.myCore (s : State) : Core := s.core (coreOf s.cur)
/-- Changes the core of the hart that executes. -/
def State.onMyCore (s : State) (f : Core → Core) : State := s.onCore (coreOf s.cur) f
/-- Cluster k. -/
def State.cluster (s : State) (k : Nat) : Cluster := (mapFind? s.clusters k).getD Cluster.init
/-- Changes cluster k. -/
def State.onCluster (s : State) (k : Nat) (f : Cluster → Cluster) : State :=
  { s with clusters := mapPut s.clusters k (f (s.cluster k)) }
/-- Context n. -/
def State.ctx? (s : State) (n : Nat) : Option Ctx := mapFind? s.ctxs n
/-- Changes context n, if it exists. -/
def State.onCtx (s : State) (n : Nat) (f : Ctx → Ctx) : State :=
  match mapFind? s.ctxs n with
  | none => s
  | some c => { s with ctxs := mapPut s.ctxs n (f c) }
/-- Function f of the host link. -/
def State.func (s : State) (f : Nat) : Func := (mapFind? s.funcs f).getD Func.init
/-- Changes function f. -/
def State.onFunc (s : State) (f : Nat) (g : Func → Func) : State :=
  { s with funcs := mapPut s.funcs f (g (s.func f)) }
/-- Key slot n. -/
def State.key (s : State) (n : Nat) : KeySlot := (mapFind? s.keys n).getD KeySlot.init

/-- The replica group of hart h. -/
def State.groupOf (s : State) (h : Nat) : Option Group := (s.hart h).group.bind (mapFind? s.groups)
/-- The hart is a replica other than the lead of its group. -/
def State.follower (s : State) (h : Nat) : Bool :=
  match s.groupOf h with
  | none => false
  | some g => decide (mapFind? g.harts g.lead ≠ some h)
/-- The harts that stand for hart h: the replicas of its group, or the hart alone. -/
def State.replicas (s : State) (h : Nat) : List Nat :=
  match s.groupOf h with
  | some g => g.harts.map Prod.snd
  | none => [h]

/-! CSR numbers (R14). -/

namespace Csr
abbrev hartid := 0x000
abbrev ctxid := 0x001
abbrev instidx := 0x002
abbrev gangpos := 0x003
abbrev pairrole := 0x004
abbrev vtype := 0x010
abbrev vl := 0x011
abbrev vstart := 0x012
abbrev vpad := 0x013
abbrev vsub := 0x014
abbrev vdirty := 0x015
abbrev frm := 0x020
abbrev fflags := 0x021
abbrev ldst := 0x022
abbrev ftrapen := 0x023
abbrev dom := 0x030
abbrev phase := 0x034
abbrev slotbase := 0x035
abbrev slotcnt := 0x036
abbrev superstep := 0x037
abbrev lspbase := 0x040
abbrev lspseg := 0x041
abbrev lspswz := 0x042
abbrev bypth := 0x043
abbrev replstat := 0x050
abbrev siglo := 0x051
abbrev sighi := 0x052
abbrev rfinj := 0x053
abbrev trcctl := 0x060
abbrev stripord := 0x061
abbrev brkpc := 0x062
abbrev brkord := 0x063
abbrev rsetstat := 0x070
abbrev tvec := 0x100
abbrev tcause := 0x101
abbrev tval := 0x102
abbrev tepc := 0x103
abbrev tstat := 0x104
abbrev tscratch := 0x105
abbrev tval2 := 0x106
abbrev cycle := 0xC00
abbrev time := 0xC01
abbrev instret := 0xC02
end Csr

/-! Trap causes (R391). -/

namespace Cause
abbrev illegal := 0x01
abbrev misaligned := 0x02
abbrev pageLoad := 0x03
abbrev pageStore := 0x04
abbrev pageFetch := 0x05
abbrev permission := 0x06
abbrev rangeLock := 0x07
abbrev routeTag := 0x08
abbrev routeRevoked := 0x09
abbrev routeWindow := 0x0A
abbrev queueCorrupt := 0x0B
abbrev slotMissed := 0x0D
abbrev phaseViolation := 0x0E
abbrev gangDivergent := 0x0F
abbrev dataError := 0x10
abbrev checkMismatch := 0x11
abbrev replMismatch := 0x12
abbrev replVote := 0x13
abbrev fpTrap := 0x14
abbrev breakpoint := 0x15
abbrev stripBreak := 0x16
abbrev syscall := 0x17
abbrev cipherSync := 0x18
abbrev guestPage := 0x19
abbrev replTimeout := 0x1C
abbrev preempt := 0x20
abbrev timer := 0x21
abbrev supervisorCall := 0x22
end Cause

/-! Registers of a hart. -/

/-- The stored value of a CSR that the hart holds. -/
def Hart.csr (h : Hart) (n : Nat) : Word := mapGet 0 h.a.csr n
/-- Stores a CSR that the hart holds. -/
def Hart.setCsr (h : Hart) (n : Nat) (v : Word) : Hart := { h with a := { h.a with csr := mapSet 0 h.a.csr n v } }
/-- X[r]; x0 reads zero (R9). -/
def Hart.x (h : Hart) (r : Reg) : Word := if r = 0 then 0 else mapGet 0 h.a.x r.toNat
/-- Writes X[r]: a write to x0 is discarded (R9); any other sets LDST (R27). -/
def Hart.setX (h : Hart) (r : Reg) (v : Word) : Hart :=
  if r = 0 then h
  else { h with a := { h.a with x := mapSet 0 h.a.x r.toNat v,
                                csr := mapSet 0 h.a.csr Csr.ldst (r.setWidth 64) } }
/-- F[r]. -/
def Hart.f (h : Hart) (r : Reg) : Word := mapGet 0 h.a.f r.toNat
/-- Writes F[r]. -/
def Hart.setF (h : Hart) (r : Reg) (v : Word) : Hart := { h with a := { h.a with f := mapSet 0 h.a.f r.toNat v } }
/-- Route register n (R12). -/
def Hart.rt (h : Hart) (n : Nat) : Line := mapGet 0 h.a.rt n
/-- Writes route register n, which removes it from every set that names it (R239). -/
def Hart.setRt (h : Hart) (n : Nat) (v : Line) : Hart :=
  { h with a := { h.a with
      rt := mapSet 0 h.a.rt n v,
      rsets := h.a.rsets.map fun e =>
        (e.1, { members := e.2.members.filter (· ≠ n), failed := e.2.failed.filter (· ≠ n) }) } }
/-- Sets PC. -/
def Hart.setPc (h : Hart) (v : Word) : Hart := { h with a := { h.a with pc := v } }
/-- Sets the run status. -/
def Hart.setStatus (h : Hart) (st : Status) : Hart := { h with status := st }

/-- X[r] of the hart that executes. -/
def State.x (s : State) (r : Reg) : Word := s.me.x r
/-- Writes X[r] of the hart that executes. -/
def State.setX (s : State) (r : Reg) (v : Word) : State := s.onMe (·.setX r v)
/-- F[r] of the hart that executes. -/
def State.f (s : State) (r : Reg) : Word := s.me.f r
/-- Writes F[r] of the hart that executes. -/
def State.setF (s : State) (r : Reg) (v : Word) : State := s.onMe (·.setF r v)
/-- PC of the hart that executes. -/
def State.pc (s : State) : Word := s.me.a.pc
/-- Sets PC of the hart that executes. -/
def State.setPc (s : State) (v : Word) : State := s.onMe (·.setPc v)
/-- A CSR that the executing hart holds. -/
def State.csr (s : State) (n : Nat) : Word := s.me.csr n
/-- Stores a CSR that the executing hart holds. -/
def State.setCsr (s : State) (n : Nat) (v : Word) : State := s.onMe (·.setCsr n v)
/-- Sets the status of the hart that executes. -/
def State.setStatus (s : State) (st : Status) : State := s.onMe (·.setStatus st)

/-- The vector file of the executing hart's core. -/
def State.vf (s : State) : VecFile := s.myCore.vf
/-- Changes the vector file of the executing hart's core. -/
def State.onVf (s : State) (f : VecFile → VecFile) : State := s.onMyCore fun c => { c with vf := f c.vf }
/-- The executing hart owns its core's vector file (R10). -/
def State.owns (s : State) : Bool := decide (s.myCore.owner = some s.cur)

/-- HARTID (R15). -/
def State.hartid (s : State) (h : Nat) : Word := BitVec.ofNat 64 (s.dev.id * 8192 + h)
/-- TIME: nanoseconds, at 1.9 GHz less the steps of 100 MHz taken (R4, R14, R417). -/
def State.time (s : State) : Nat := s.dev.timeBase + (s.cycle - s.dev.cycleBase) * 10 / (19 - s.dev.clockSteps)

/-- Bits [hi:lo] as a number. -/
def bits (v : Word) (hi lo : Nat) : Nat := v.toNat / 2 ^ lo % 2 ^ (hi + 1 - lo)
/-- Bit n. -/
def bit (v : Word) (n : Nat) : Bool := v.getLsbD n

/-- ORs raised flags into FFLAGS (R17). -/
def Hart.orFlags (h : Hart) (f : BitVec 6) : Hart := h.setCsr Csr.fflags (h.csr Csr.fflags ||| f.setWidth 64)
/-- ORs raised flags into FFLAGS of the executing hart (R17). -/
def State.orFlags (s : State) (f : BitVec 6) : State := s.onMe (·.orFlags f)

/-- Number of cores of the hart's gang by GANGPOS (R14). -/
def State.gangCode (s : State) : Nat := bits (s.csr Csr.gangpos) 6 4

end Sys2Proof.Machine
end

