-- ==== Sys2Proof/Machine/Memory.lean ====
section
/-! DEFINITION. Memory below the harts: locations, the memory cipher's keys, the cluster L2s, what is performed at a home
and who sees it (spec/12 R272-R275, R280, R281; spec/14 R288-R300; spec/17 R333; spec/09 R202, R230; spec/11 R268,
R269). -/

namespace Sys2Proof.Machine

/-! Locations. -/

/-- First location of the scratchpads. -/
def lspLoc0 : Nat := 2 ^ 48
/-- First location of the host-memory aperture (R272). -/
def hostLoc0 : Nat := 0x800000000000
/-- End of HBM (R272). -/
def hbmEnd : Nat := 0x6000000000
/-- The location of physical scratchpad offset o of core c. -/
def lspLoc (c o : Nat) : Nat := lspLoc0 + c * 0x80000 + o
/-- The location is scratchpad memory. -/
def isLsp (loc : Nat) : Bool := decide (lspLoc0 ≤ loc)
/-- The location is host memory. -/
def isHostLoc (loc : Nat) : Bool := decide (hostLoc0 ≤ loc) && decide (loc < lspLoc0)
/-- The location is HBM, and so goes through a cluster L2. -/
def isHbm (loc : Nat) : Bool := decide (loc < hbmEnd)
/-- The 64-byte line of a location. -/
def lineOf (loc : Nat) : Nat := loc / 64
/-- The die that owns an HBM location (R272). -/
def homeDie (loc : Nat) : Nat := loc / 0x1800000000
/-- The cluster whose slice is an HBM location's home (R273). -/
def homeCluster (loc : Nat) : Nat := homeDie loc * 16 + (loc / 4096) % 12
/-- The memory port of an HBM location on its die (R273). -/
def homePort (loc : Nat) : Nat := ((loc / 256) % 16) ^^^ ((loc / 4096) % 16)

/-! Bytes at their home, under a key (R275, R333). -/

/-- The key that KEYID n names now: the slot and how often it has been given a key; 0 for KEYID 0 (log 7). -/
def State.keyMark (s : State) (keyid : Nat) : Nat := if keyid = 0 then 0 else keyid + 4096 * (s.key keyid).serial

/-- The byte listed at a location; a byte never written reads 0 (log 4). -/
def State.rawByte (s : State) (loc : Nat) : Byte := mapGet 0 s.mem loc

/-- The byte has a defined value under a key: it was last written under that key, or nothing has written it and it is not
scratchpad memory. Host memory is held under no key (R275, R333). -/
def State.readable (s : State) (mark loc : Nat) : Bool :=
  isHostLoc loc || match mapFind? s.memKey loc with
    | none => !isLsp loc
    | some k => decide (k = mark + 1)

/-- The key mark under which a byte was last written; 0 where nothing has written it (R333). -/
def State.markAt (s : State) (loc : Nat) : Nat := mapGet 0 s.memKey loc - 1

/-- A byte at its home read under a key; a byte without a defined value under the key reads as an undefined value (R275,
R333). -/
def State.homeByte (s : State) (mark loc : Nat) : Byte :=
  if s.readable mark loc then s.rawByte loc else Config.undefByte loc s.freeCtr

/-- n bytes at their home under a key. -/
def State.homeBytes (s : State) (mark loc : Nat) : Nat → List Byte
  | 0 => []
  | n + 1 => s.homeByte mark loc :: s.homeBytes mark (loc + 1) n

/-- The other bytes of the 16-byte cipher block of a location. -/
def blockMates (loc : Nat) : List Nat := ((List.range 16).map fun i => loc / 16 * 16 + i).filter (· ≠ loc)

/-- Gives a byte to a key: the bytes of its cipher block that were written under another key, and the scratchpad bytes of
it that nothing has written, have no defined value any longer (R275, R333, log 7). -/
def State.keyByte (s : State) (mark loc : Nat) : State :=
  if isHostLoc loc then s
  else
    let lost := (blockMates loc).filter fun l => !s.readable mark l
    { s with memKey := mapPut (lost.foldl (fun m l => mapPut m l 0) s.memKey) loc (mark + 1) }

/-- A byte with the bits of `keep` as they stood. -/
def keepBits (keep old new : Byte) : Byte := if keep = 0 then new else (old &&& keep) ||| (new &&& ~~~keep)

/-- Stores a byte at a location, without any further effect. -/
def State.putByte (s : State) (loc : Nat) (b : Byte) : State := { s with mem := mapSet 0 s.mem loc b }

/-! Monitors and the arbiter's record of changed lines. -/

/-- A write performed at a line's home fires every monitor armed on it and wakes the hart's WAIT (R202). -/
def State.fireMonitors (s : State) (line : Nat) : State :=
  { s with harts := s.harts.map fun e =>
      match e.2.monitor with
      | some m =>
        if m.line = line then
          (e.1, { e.2 with monitor := some { m with fired := true },
                           status := match e.2.status with | .parked (.wait _ _) => .running | st => st })
        else e
      | none => e }

/-- Records lines as changed in a cluster: for every open chunk there but hart h's (R290, R291), and as broken links of
VLGL (R167). -/
def State.noteChange (s : State) (k : Nat) (lines : List Nat) (h : Option Nat) : State :=
  { s with harts := s.harts.map fun e =>
      if clusterOf e.1 = k then
        let x := { e.2 with links := e.2.links.filter fun l => decide (l ∉ lines) }
        (e.1, if some e.1 = h then x else { x with chunk := x.chunk.map fun c => { c with ext := lines ++ c.ext } })
      else e }

/-- Breaks the links that harts of cluster k hold on a line (R167). -/
def State.breakLinks (s : State) (k line : Nat) : State :=
  { s with harts := s.harts.map fun e =>
      if clusterOf e.1 = k then (e.1, { e.2 with links := e.2.links.filter (· ≠ line) }) else e }

/-- The chunk of hart h that holds its lines against the others: the priority chunk (R294), or the chunk of a lead that waits for
the cupping unit (R306). -/
def State.holding (s : State) (h : Nat) (x : Hart) : Option Chunk :=
  x.chunk.filter fun c => c.prio || (x.sent.isSome && !s.follower h)
/-- Lines of cluster k that chunks hold against the others, hart h's own chunk apart (R294, R306). -/
def State.heldLines (s : State) (k : Nat) (h : Option Nat) : List Nat :=
  s.harts.flatMap fun e =>
    if clusterOf e.1 = k ∧ some e.1 ≠ h then
      match s.holding e.1 e.2 with
      | some c => c.reads ++ c.writes
      | none => []
    else []
/-- Lines whose update is held back in cluster k (R294, R306). -/
def State.grantLines (s : State) (k : Nat) : List Nat := s.heldLines k none
/-- Lines that a lead's waiting chunk of cluster k is to write (R306). -/
def State.sentWrites (s : State) (k h : Nat) : List Nat :=
  s.harts.flatMap fun e =>
    if clusterOf e.1 = k ∧ e.1 ≠ h ∧ e.2.sent.isSome ∧ s.follower e.1 = false then
      match e.2.chunk with
      | some c => c.writes
      | none => []
    else []

/-! The cluster L2 (R269, R280, R281, R230). -/

/-- Byte i of a line. -/
def lineByte (d : Line) (i : Nat) : Byte := (d >>> (8 * i)).setWidth 8
/-- Replaces byte i of a line. -/
def setLineByte (d : Line) (i : Nat) (b : Byte) : Line :=
  (d &&& ~~~((255#512) <<< (8 * i))) ||| ((b.setWidth 512) <<< (8 * i))
/-- A line's bytes as listed at the home. -/
def State.homeLine (s : State) (line : Nat) : Line :=
  (List.range 64).foldl (fun d i => setLineByte d i (s.rawByte (line * 64 + i))) 0

/-- The copy of a line in cluster k. -/
def State.copy? (s : State) (k line : Nat) : Option L2Line := mapFind? (s.cluster k).l2 line
/-- Replaces the copy of a line in cluster k. -/
def State.setCopy (s : State) (k line : Nat) (c : L2Line) : State :=
  s.onCluster k fun q => { q with l2 := mapPut q.l2 line c }
/-- Drops the copy of a line in cluster k. -/
def State.dropCopy (s : State) (k line : Nat) : State := s.onCluster k fun q => { q with l2 := mapErase q.l2 line }

/-- Merges the home's bits into a copy, keeping its dirty bits. -/
def State.merged (s : State) (line : Nat) (c : L2Line) : L2Line :=
  { c with data := (c.data &&& c.dirty) ||| (s.homeLine line &&& ~~~c.dirty), stale := false }

/-- Brings cluster k's copy of a line up to its home: a clean copy is dropped, a dirty one keeps its dirty bits. The
change is recorded for the cluster's open chunks but hart h's (R291). While a chunk holds the line the update waits, and
so does every load of the line by another hart (R294, R306). With `stay` a clean copy is updated instead. -/
def State.refreshCopy (s : State) (line k : Nat) (h : Option Nat := none) (stay : Bool := false) : State :=
  if line ∈ s.grantLines k then s.onCluster k fun q => { q with delayed := line :: q.delayed }
  else
    let s := match s.copy? k line with
      | none => s
      | some c => if c.dirty = 0 ∧ stay = false then s.dropCopy k line else s.setCopy k line (s.merged line c)
    s.noteChange k [line] h

/-- A store of cluster k has reached the home of a line by itself: copies of its die are older than a store of their die,
and chunks that read the line without a copy saw another value (R295, R298). -/
def State.homeNews (s : State) (k line : Nat) : State :=
  (s.clusters.map Prod.fst).foldl (fun s j =>
    if j = k then s
    else match s.copy? j line with
      | some c => if j / 16 = k / 16 then s.setCopy j line { c with stale := true } else s
      | none => s.noteChange j [line] none) s

/-- Updates every cluster's copy of a line from its home (R291). -/
def State.refreshAll (s : State) (line : Nat) : State :=
  (s.clusters.map Prod.fst).foldl (fun s k => s.refreshCopy line k none true) s

/-- Performs a byte at its home under a key, without touching copies; the bits of `keep` stay (R157). -/
def State.homePut (s : State) (mark loc : Nat) (b : Byte) (keep : Byte := 0) : State :=
  (s.keyByte mark loc).putByte loc (keepBits keep (s.homeByte mark loc) b)

/-- A list without its repeats. -/
def nub : List Nat → List Nat
  | [] => []
  | a :: l => if a ∈ nub l then nub l else a :: nub l

/-- The distinct lines of a list of locations. -/
def linesOf (locs : List Nat) : List Nat := nub (locs.map lineOf)

/-- Writes a copy's dirty bits to the memory port; the copy stays, clean (R281, R295). -/
def State.writeBack (s : State) (k line : Nat) : State :=
  match s.copy? k line with
  | none => s
  | some c =>
    if c.dirty = 0 then s
    else
      let s := (List.range 64).foldl
        (fun s i => if lineByte c.dirty i = 0 then s
          else s.putByte (line * 64 + i) (keepBits (~~~lineByte c.dirty i) (s.rawByte (line * 64 + i)) (lineByte c.data i))) s
      let s := s.setCopy k line { c with dirty := 0 }
      (s.fireMonitors line).homeNews k line

/-- Evicts a line: a dirty victim is written to its port first (R281). A copy that was older than its home counts as a
change for open chunks, since a later read differs. -/
def State.evict (s : State) (k line : Nat) : State :=
  let s := s.writeBack k line
  match s.copy? k line with
  | none => s
  | some c =>
    let s := (s.dropCopy k line).breakLinks k line
    if c.data = s.homeLine line then s else s.noteChange k [line] none

/-- A line that is written whole carries no error any longer (R374). -/
def State.heal (s : State) (locs : List Nat) : State :=
  if s.bad.isEmpty then s
  else
    let whole := (s.bad.map Prod.fst).filter fun l => (List.range 64).all fun i => decide (l * 64 + i ∈ locs)
    { s with bad := s.bad.filter fun e => decide (e.1 ∉ whole), badHard := s.badHard.filter fun l => decide (l ∉ whole) }

/-- Before an action at the home, hart h's cluster writes back its own bytes of the line, so that the action finds the
hart's earlier stores (R296). -/
def State.flushLine (s : State) (h loc : Nat) : State :=
  if isHbm loc then s.writeBack (clusterOf h) (lineOf loc) else s

/-- How an access inserts a line that misses (R280). -/
inductive Insert where
  | scalar
  | evictFirst
  | vector
  /-- A vector access whose footprint exceeds BYPTH: not allocated. -/
  | bypass
deriving DecidableEq, Repr

/-- The lowest-numbered bound ARR of the cluster whose range holds the line (R229). -/
def Cluster.arrOf (q : Cluster) (line : Nat) : Option Nat :=
  (q.arr.find? fun e => decide (e.2.lo ≤ line * 64) && decide (line * 64 < e.2.hi)).map Prod.fst
/-- The ways that bound ARRs reserve. -/
def Cluster.reserved (q : Cluster) : List Nat := q.arr.flatMap fun e => e.2.ways
/-- The lines of a set (R269). -/
def Cluster.setLines (q : Cluster) (line : Nat) : List (Nat × L2Line) :=
  q.l2.filter fun e => decide (e.1 % 8192 = line % 8192)
/-- Counts an access in the ARR that governs the line (R268, R230); the counters saturate. -/
def Cluster.count (q : Cluster) (line : Nat) (hit : Bool) : Cluster :=
  match q.arrOf line with
  | none => q
  | some a => match mapFind? q.arr a with
    | none => q
    | some r =>
      let r := if hit then { r with hits := Nat.min (r.hits + 1) (2 ^ 32 - 1) }
        else { r with misses := Nat.min (r.misses + 1) (2 ^ 32 - 1) }
      { q with arr := mapPut q.arr a r }

/-- The age an access inserts with. -/
def Insert.age : Insert → Nat
  | .scalar => 1
  | .evictFirst => 3
  | .vector => 0
  | .bypass => 0

/-- The way a miss of the line takes, after raising ages where no line of the set has age 3 (R230, R281). -/
def Cluster.choose (q : Cluster) (line : Nat) : Cluster × Nat :=
  let here := q.setLines line
  let a := q.arrOf line
  let mine := match a with
    | some n => match mapFind? q.arr n with
      | some r => r.ways.filter fun w => here.all fun e => decide (e.2.way ≠ w) || decide (q.arrOf e.1 ≠ some n)
      | none => []
    | none => []
  match mine with
  | w :: _ => (q, w)
  | [] =>
    let ways := (List.range 16).filter fun w => decide (w ∉ q.reserved)
    match ways.find? fun w => here.all fun e => decide (e.2.way ≠ w) with
    | some w => (q, w)
    | none =>
      let cand := here.filter fun e => decide (e.2.way ∈ ways)
      let top := cand.foldl (fun m e => Nat.max m e.2.age) 0
      let up := 3 - top
      let l2 := q.l2.map fun e =>
        if e.1 % 8192 = line % 8192 ∧ e.2.way ∈ ways then (e.1, { e.2 with age := e.2.age + up }) else e
      let old := cand.filter fun e => decide (e.2.age = top)
      ({ q with l2 := l2 }, old.foldl (fun m e => Nat.min m e.2.way) 15)

/-- The line that holds a way of the line's set. -/
def Cluster.victim? (q : Cluster) (line way : Nat) : Option Nat :=
  ((q.setLines line).find? fun e => decide (e.2.way = way)).map Prod.fst

/-- An access of cluster k to a line: counts it in the ARR (a table walk counts nothing, R387), ages a hit, and
allocates on a miss (R268, R280, R281). -/
def State.touch (s : State) (k line : Nat) (ins : Insert) (counts : Bool := true) : State :=
  match s.copy? k line with
  | some c =>
    let s := if counts then s.onCluster k (·.count line true) else s
    s.setCopy k line { c with age := if c.evictFirst || decide (ins = .evictFirst) then 3 else 0 }
  | none =>
    let s := if counts then s.onCluster k (·.count line false) else s
    if ins = .bypass ∧ (s.cluster k).arrOf line = none then s
    else
      let (q, w) := (s.cluster k).choose line
      let s := s.onCluster k fun _ => q
      let s := match (s.cluster k).victim? line w with
        | some v => s.evict k v
        | none => s
      s.setCopy k line
        { way := w, age := if (q.arrOf line).isSome then 0 else ins.age, arr := q.arrOf line, data := s.homeLine line,
          dirty := 0, evictFirst := decide (ins = .evictFirst), stale := false }

/-- Touches the lines of HBM among the locations; those that the operation has touched before count no more (R268). `efs` are
evict-first pages of the access (R280). -/
def State.touchNew (s : State) (k : Nat) (seen locs : List Nat) (ins : Insert) (efs : List Nat := []) : State :=
  (linesOf (locs.filter isHbm)).foldl (fun s l =>
    s.touch k l (if l / 64 ∈ efs then .evictFirst else ins) (decide (l ∉ seen))) s

/-- The same for the instruction in execution, which remembers them. -/
def State.touchAll (s : State) (k : Nat) (locs : List Nat) (ins : Insert) : State :=
  let seen := (s.touched.filter fun e => decide (e.2 = s.member)).map Prod.fst
  let new := (linesOf (locs.filter isHbm)).filter (· ∉ seen)
  let s := s.touchNew k seen locs ins
  { s with touched := new.map (fun l => (l, s.member)) ++ s.touched }

/-- Before the home of a line changes, a cluster in which a chunk holds the line takes a copy of it, since the update is to
wait there (R294, R306). -/
def State.keepOld (s : State) (line : Nat) : State :=
  (s.clusters.map Prod.fst).foldl (fun s k =>
    if (s.copy? k line).isNone ∧ line ∈ s.grantLines k ∧ isHbm (line * 64) = true then s.touch k line .scalar false else s) s

/-- A write of bytes performed at the home as one action, seen at device scope: an atomic, a queue operation, an engine,
remote ingress or the host (R291, R301, R302; log 12). Dirty bytes of the line held in other clusters stay. -/
def State.homeWrite (s : State) (mark : Nat) (bytes : List (Nat × Byte)) : State :=
  let lines := linesOf (bytes.map Prod.fst)
  let s := lines.foldl State.keepOld s
  let s := (bytes.foldl (fun s e => s.homePut mark e.1 e.2) s).heal (bytes.map Prod.fst)
  lines.foldl (fun s l => (s.fireMonitors l).refreshAll l) s

/-- A byte as cluster k sees it: its copy, or the home (R295); an undefined value where the byte was written under another
key (R333). -/
def State.clusterByte (s : State) (k mark loc : Nat) : Byte :=
  if isHbm loc then
    match s.copy? k (lineOf loc) with
    | some c => if s.readable mark loc then lineByte c.data (loc % 64) else Config.undefByte loc s.freeCtr
    | none => s.homeByte mark loc
  else s.homeByte mark loc

/-- Performs a committed store of hart h at cluster scope: into its cluster's copy, or to the home where the cluster
holds the home slice or no copy (R288, R290, R202). Scratchpad and host bytes go to their home. The bits of `keep` stay as
they stand there (R157). -/
def State.commitByte (s : State) (h mark loc : Nat) (b : Byte) (keep : Byte := 0) : State :=
  let k := clusterOf h
  if isHbm loc then
    match s.copy? k (lineOf loc) with
    | some c =>
      let v := keepBits keep (s.clusterByte k mark loc) b
      let c' := { c with data := setLineByte c.data (loc % 64) v }
      let t := s.keyByte mark loc
      if homeCluster loc = k then (t.setCopy k (lineOf loc) c').putByte loc v
      else t.setCopy k (lineOf loc) { c' with dirty := setLineByte c.dirty (loc % 64) (lineByte c.dirty (loc % 64) ||| ~~~keep) }
    | none => s.homePut mark loc b keep
  else s.homePut mark loc b keep

/-- Performs a list of committed stores of hart h; lines performed at their home fire monitors (R202). -/
def State.commitBytes (s : State) (h mark : Nat) (bytes keep : FMap Byte) : State :=
  let s' := (bytes.foldl (fun s e => s.commitByte h mark e.1 e.2 (mapGet 0 keep e.1)) s).heal
    ((bytes.filter fun e => decide (mapGet 0 keep e.1 = 0)).map Prod.fst)
  let lines := linesOf (bytes.map Prod.fst)
  let s' := lines.foldl (fun t l =>
    if isHbm (l * 64) then
      if homeCluster (l * 64) ≠ clusterOf h ∧ (s.copy? (clusterOf h) l).isSome then t
      else (t.fireMonitors l).homeNews (clusterOf h) l
    else t.fireMonitors l) s'
  let hbm := lines.filter fun l => isHbm (l * 64)
  let s' := s'.noteChange (clusterOf h) hbm (some h)
  s'.onHart h fun x => { x with wlines := nub (hbm ++ x.wlines) }

/-- Two lists of lines meet. -/
def meets (a b : List Nat) : Bool := a.any fun x => decide (x ∈ b)

/-- The load must wait: an update of a line in hart h's cluster waits for another hart's chunk; or it is the priority chunk's, of a
line that a waiting lead is to write (R294, R306, log 12). -/
def State.waitsUpdate (s : State) (h : Nat) (locs : List Nat) : Bool :=
  let q := s.cluster (clusterOf h)
  (!q.delayed.isEmpty && locs.any fun l => decide (lineOf l ∈ q.delayed) && decide (lineOf l ∈ s.heldLines (clusterOf h) (some h))) ||
  ((match (s.hart h).chunk with | some c => c.prio | none => false) && meets (linesOf (locs.filter isHbm)) (s.sentWrites (clusterOf h) h))

/-! Releases and acquires (R298). -/

/-- Performs hart h's earlier stores at a scope: its lines are written back from its cluster, and the copies that the
scope contains are brought up to their homes (R288, R298). -/
def State.release (s : State) (h : Nat) (sc : Scope) : State :=
  let perform (s : State) (inScope : Nat → Bool) : State :=
    (s.hart h).wlines.foldl (fun s l =>
      let s := (s.keepOld l).writeBack (clusterOf h) l
      ((s.clusters.map Prod.fst).filter fun k => inScope k && decide (k ≠ clusterOf h)).foldl (fun s k => s.refreshCopy l k) s) s
  match sc with
  | .core => s
  | .cluster => s
  | .die => perform s fun k => decide (k / 16 = dieOf h)
  | .device => (perform s fun _ => true).onHart h fun x => { x with wlines := [] }

/-- The copy may be older than its home at a scope: after a store of the die at die scope, and after any at device scope
(R298; decided exactly, log 12). -/
def State.staleAt (s : State) (sc : Scope) (line : Nat) (c : L2Line) : Bool :=
  match sc with
  | .die => c.stale && decide ((s.merged line c).data ≠ c.data)
  | .device => decide ((s.merged line c).data ≠ c.data)
  | _ => false

/-- An acquire of hart h: it takes notice of every scratchpad byte, and the copies of its cluster that may be stale at the scope
are invalidated (R109, R298). -/
def State.acquire (s : State) (h : Nat) (sc : Scope) : State :=
  let s := if (s.hart h).lspOld.isEmpty then s else s.onHart h fun x => { x with lspOld := [] }
  let k := clusterOf h
  match sc with
  | .core => s
  | .cluster => s
  | _ => (s.cluster k).l2.foldl (fun s e => if s.staleAt sc e.1 e.2 then s.refreshCopy e.1 k (some h) else s) s

end Sys2Proof.Machine
end

