-- ==== Sys2Proof/Machine/Token.lean ====
section
/-! DEFINITION. Route tokens: their fields, their seal, the ports of a path and the generations of ports, and the channels
between replicas (spec/10 R232, R233; spec/17 R321-R323, R339; spec/21 R362, R371). -/

namespace Sys2Proof.Machine

/-! Tokens (R232, R233). -/

/-- Bits [hi:lo] of a token. -/
def tok (t : Line) (hi lo : Nat) : Nat := t.toNat / 2 ^ lo % 2 ^ (hi + 1 - lo)
def tokHops (t : Line) : Nat := tok t 67 64
def tokClass (t : Line) : Nat := tok t 183 180
def tokNode (t : Line) : Nat := tok t 207 184
def tokDevice (t : Line) : Nat := tok t 195 184
def tokWbase (t : Line) : Nat := tok t 255 208
def tokWlen (t : Line) : Nat := tok t 295 256
def tokRights (t : Line) : Nat := tok t 303 296
def tokCtx (t : Line) : Nat := tok t 317 304
def tokKeyid (t : Line) : Nat := tok t 329 318
def tokC (t : Line) : Bool := decide (tok t 330 330 = 1)
def tokStripe (t : Line) : Nat := tok t 339 332
def tokNoff (t : Line) : Nat := tok t 379 340
def tokNlen (t : Line) : Nat := tok t 419 380
def tokNrights (t : Line) : Nat := tok t 427 420
/-- The core a NODE names: die, cluster, core. -/
def nodeCore (n : Nat) : Nat := field n 14 12 * 256 + field n 18 15 * 16 + field n 22 19
/-- The core that a token's target names. -/
def tokCore (t : Line) : Nat := nodeCore (tokNode t)
/-- Port and generation of hop h (R232). -/
def tokHop (t : Line) (h : Nat) : Nat × Nat := (tok t (73 + 14 * h) (68 + 14 * h), tok t (81 + 14 * h) (74 + 14 * h))
/-- hi of R233. -/
def tokHi (t : Line) : Nat := Nat.min (tokWlen t) (tokNoff t + tokNlen t)
/-- Effective rights (R233). -/
def tokEff (t : Line) : Nat := tokRights t &&& tokNrights t
/-- Length of the effective window. -/
def tokLen (t : Line) : Nat := tokHi t - tokNoff t
/-- Replaces bits [hi:lo] of a token. -/
def setTok (t : Line) (hi lo v : Nat) : Line := BitVec.ofNat 512 (setField t.toNat hi lo v)

/-- The bits that TAG covers (R232). -/
def tokSealed (t : Line) : BitVec 276 := (t >>> 64).setWidth 276
/-- AES-128 CMAC of the sealed bits under a fabric key, truncated to 64 bits (R232). The string is bytes [71:64] of the token
and on, its last four bits in the high half of the last byte; the 64 bits are the first eight bytes of the code, the first
the least significant (log 8). -/
@[irreducible] def tokMac (key : Nat) (b : BitVec 276) : BitVec 64 :=
  let msg := leBytes 34 (b.toNat % 2 ^ 272) ++ [BitVec.ofNat 8 (b.toNat / 2 ^ 272 * 16)]
  BitVec.ofNat 64 (leNat ((cmac 4 (beBytes 16 (Config.fabricKey key).toNat) msg 276).take 8))
/-- TAG holds under a fabric key. -/
def tagOk (key : Nat) (t : Line) : Bool := decide (BitVec.ofNat 64 (tok t 63 0) = tokMac key (tokSealed t))
/-- Seals a token (R322). -/
def sealTok (key : Nat) (t : Line) : Line := setTok t 63 0 (tokMac key (tokSealed t)).toNat

/-- The number of a port of a node: a device's hub, or an Iluen switch (log 18). -/
def portId (node port : Nat) : Nat := 64 * node + port
/-- The node at which hop h of a path leaves: hop 0 the source device, each further one where the port before leads (R322,
log 18). -/
def pathNode (self : Nat) (port : Nat → Nat) : Nat → Nat
  | 0 => self
  | h + 1 => Config.cable (portId (pathNode self port h) (port h))
/-- The port by which hop h of a path leaves. -/
def pathPort (self : Nat) (port : Nat → Nat) (h : Nat) : Nat := portId (pathNode self port h) (port h)
/-- The port is one of a device's hub, or leads to the device (R339). -/
def facesDevice (device port : Nat) : Bool := decide (port / 64 = device) || decide (Config.cable port = device)
/-- The current generation of a port: 1 until the RKC advances it or its device rejoins (R323, R339, log 5). -/
def State.gen (s : State) (port : Nat) : Nat :=
  (mapFind? s.gens port).getD
    (1 + mapGet 0 s.rejoins (port / 64) + if Config.cable port = port / 64 then 0 else mapGet 0 s.rejoins (Config.cable port))

/-- The channel from replica a to replica b of a group carries packets: its token's seal and the generation of each of its hops
still hold (R325, R362). -/
def State.channelOpen (s : State) (G : Group) (a b : Nat) : Bool :=
  (G.routes.filter fun e => decide (e.1 = a) && decide (e.2.1 = b)).all fun e =>
    let t := e.2.2
    tagOk s.fabricKey t && (List.range (tokHops t)).all fun h =>
      decide (s.gen (pathPort s.dev.id (fun i => (tokHop t i).1) h) = (tokHop t h).2)

/-- The forwarding log as hart h of the group has received it: the lead holds all of it, a follower what its channel did not
reject (R362, R364, R371). -/
def Group.received (G : Group) (h : Nat) : List FwdVal :=
  match G.harts.find? fun e => decide (e.2 = h) with
  | none => G.log
  | some (r, _) => if r = G.lead then G.log else
    match mapFind? G.lost r with
    | none => G.log
    | some (k, n) => G.log.take k ++ match G.log[k]? with
      | some (.val v) => if n = 0 then [] else [.val (v.take n)]
      | _ => []

/-- The lead sends words of entry k of the log, behind the n that it has sent before: a follower whose channel rejects the packet
gets nothing from there on (R364, R371). -/
def State.sendFwd (s : State) (g : Nat) (G : Group) (log : List FwdVal) (k n : Nat) : State :=
  let cut := (G.live.filter fun r => decide (r ≠ G.lead) && !(mapFind? G.lost r).isSome && !s.channelOpen G G.lead r)
  { s with groups := mapPut s.groups g { G with log := log, lost := cut.foldl (fun m r => mapPut m r (k, n)) G.lost } }

end Sys2Proof.Machine
end

