-- ==== Sys2Proof/Machine/Ops.lean ====
section
/-! DEFINITION. The shared operations of an instruction: opening and ending chunks, taking a trap and returning from one,
parking, the lead's forwarding, and the frame in which every meaning runs (spec/01 R19; spec/14 R289-R294, R419; spec/19
R343, R355; spec/21 R364-R368; spec/23 R391, R392). -/

namespace Sys2Proof.Machine

/-- How a meaning ends other than by completing. -/
inductive Exc where
  /-- A trap before any effect: cause, TVAL, TVAL2. -/
  | trap (cause : Nat) (tval tval2 : Word)
  /-- A trap after the partial effects its entry names, which the state holds. -/
  | trapIn (t : State) (cause : Nat) (tval tval2 : Word)
  /-- A trap of a lead-only action, raised in every replica (R111, R198). -/
  | trapFwd (cause : Nat) (tval tval2 : Word)
  /-- Not started: tried again later (R395). -/
  | stall
  /-- Parks; re-issued when its event has come about (R355). -/
  | park (p : Park)
  /-- The chunk ends before the instruction, which then runs in a chunk of its own (R289). -/
  | endChunk
  /-- The instruction's outcome is this state (a park registered at a home). -/
  | become (t : State)
  /-- Stage-2 misses with on-demand paging: granule and access by element (R164, R379), after effects in `t`. -/
  | pageMiss (t : State) (reqs : List PageReq)
  /-- A host-aperture address without a translation (R390). -/
  | hostMiss (addr : Nat) (va : Word) (store : Bool)

/-- The outcome of a meaning's body. -/
abbrev Res := Except Exc State

/-! Signature items (R367). -/

/-- Multiplication by x modulo x^128 + x^7 + x^2 + x + 1. -/
def mulx (s : BitVec 128) : BitVec 128 := (s <<< 1) ^^^ (if s.getLsbD 127 then 0x87#128 else 0)
/-- Adds an item to a signature. -/
def sigAdd (s item : BitVec 128) : BitVec 128 := mulx s ^^^ item
/-- The item of one stored doubleword: data, VA[56:3], byte mask. -/
def storeItem (data : Word) (va : Word) (mask : BitVec 8) : BitVec 128 :=
  data ++ (va.extractLsb' 3 54) ++ mask ++ 0#2
/-- The item of one forwarded doubleword. -/
def fwdItem (v : Word) (va : Word) : BitVec 128 := v ++ (va.extractLsb' 3 54) ++ 0xFF#8 ++ 1#2

/-- The items of a store of bytes at ascending addresses from va: one for each aligned doubleword it touches. -/
def storeItemsAux : Nat → Word → List Byte → List (BitVec 128)
  | 0, _, _ => []
  | n + 1, va, bs =>
    match bs with
    | [] => []
    | _ =>
      let off := va.toNat % 8
      let k := 8 - off
      let here := bs.take k
      storeItem (BitVec.ofNat 64 (leNat here * 256 ^ off)) va (BitVec.ofNat 8 ((2 ^ here.length - 1) * 2 ^ off)) ::
        storeItemsAux n (va + BitVec.ofNat 64 k) (bs.drop k)
/-- The items of a store of bytes at ascending addresses from va. -/
def storeItems (va : Word) (bs : List Byte) : List (BitVec 128) := storeItemsAux (bs.length + 1) va bs

/-! Chunks. -/

/-- A fresh chunk of hart h (R289, R293). -/
def State.newChunk (s : State) (own : Bool) : Chunk :=
  { count := 0, buf := [], reads := [], writes := [], ext := [], doomed := false, own := own,
    snap := { arch := s.me.a, sync := s.me.afterSync, vf := if s.owns then some s.vf else none },
    keep := [], prio := decide ((s.cluster (clusterOf s.cur)).grant = some s.cur), code := false,
    vwr := [], mwr := [], sig := 0, fwdPos := 0, fwdSubs := [], popped := [], pushes := [], tags := [], close := none, census := [], trace := [],
    engines := [] }

/-- Gives hart h the cluster's priority grant for its next chunk when it has been squashed three times in a row, or its
place among the waiters (R294). -/
def State.askGrant (s : State) (h : Nat) : State :=
  s.onCluster (clusterOf h) fun q =>
    if q.grant = none then { q with grant := some h }
    else if q.grant = some h ∨ h ∈ q.grantWait then q else { q with grantWait := q.grantWait ++ [h] }

/-- Opens a chunk for the executing hart if it has none open. -/
def State.openChunk (s : State) (own : Bool) : State :=
  match s.me.chunk with
  | some _ => s
  | none => s.onMe fun h => { h with chunk := some (s.newChunk own) }

/-- Changes the open chunk of the executing hart. -/
def State.onChunk (s : State) (f : Chunk → Chunk) : State :=
  s.onMe fun h => { h with chunk := h.chunk.map f }

/-- Nothing of the chunk would be seen: no instruction counted, no access, no forwarded value, no census count, no trace
record, no release. -/
def Chunk.blank (c : Chunk) : Bool :=
  decide (c.count = 0) && c.buf.isEmpty && c.reads.isEmpty && decide (c.fwdPos = 0) && c.close.isNone && c.census.isEmpty &&
  c.trace.isEmpty && c.tags.isEmpty && c.popped.isEmpty && c.pushes.isEmpty

/-- Lets updates through that no chunk of cluster k holds any longer (R294, R306). -/
def State.releaseHeld (s : State) (k : Nat) : State :=
  if (s.cluster k).delayed.isEmpty then s
  else
    let held := s.grantLines k
    let (stay, go) := (s.cluster k).delayed.partition fun l => decide (l ∈ held)
    go.foldl (fun s l => s.refreshCopy l k none) (s.onCluster k fun q => { q with delayed := stay })

/-- Withdraws an engine registration of a squashed chunk. -/
def Core.withdraw (k : Core) : Engine → Core
  | .copy i =>
    { k with copies := k.copies.filter (fun c => decide (c.idx ≠ i)),
             rlt := k.rlt.filter fun e => (k.copies.all fun c => decide (c.idx ≠ i) || decide (c.rlt ≠ e.1)) }
  | .bind p r old =>
    { k with rlt := mapErase k.rlt r, streams := if old.active.isNone then mapErase k.streams p else mapPut k.streams p old }
  | .fill => k

/-- A squash forgets the reads that hart h has asked of scratchpad banks; its writes stand (R277). -/
def Core.dropReads (k : Core) (h : Nat) : Core :=
  { k with banks := k.banks.filter fun u =>
      decide (u.hart ≠ h) || (match u.op with | .write _ _ _ => true | .done => true | _ => false) }

/-- Returns hart h to its chunk's start (R293). -/
def State.rewind (s : State) (h : Nat) : State :=
  match (s.hart h).chunk with
  | none => s
  | some c =>
    let core := coreOf h
    let s := match c.snap.vf with
      | some vf => if (s.core core).owner = some h then s.onCore core fun k => { k with vf := vf } else s
      | none => s
    let s := if c.engines.isEmpty then s else s.onCore core fun k => c.engines.foldl Core.withdraw k
    let s := if (s.core core).banks.isEmpty then s else s.onCore core (·.dropReads h)
    let s := s.onHart h fun x =>
      { x with a := c.snap.arch, afterSync := c.snap.sync, chunk := none, links := [], status := .running, sent := none, resumeTrap := none }
    s.releaseHeld (clusterOf h)

/-- A squash: the hart returns to its chunk's start and executes it again (R293). -/
def State.squash (s : State) (h : Nat) : State :=
  if (s.hart h).chunk.isNone then s
  else
    let s := (s.rewind h).onHart h fun x => { x with squashRun := x.squashRun + 1 }
    if 3 ≤ (s.hart h).squashRun then s.askGrant h else s

/-- What the commit of its chunk leaves of a hart: INSTRET counts its instructions, and SIGLO and SIGHI hold its signature
(R290, R367). -/
def Hart.afterCommit (c : Chunk) (x : Hart) : Hart :=
  let x := { x with chunk := none, squashRun := 0, ordinal := x.ordinal + 1, tries := 0, sent := none,
                    status := match x.status with | .arbiter => .running | st => st }
  let x := x.setCsr Csr.instret (x.csr Csr.instret + BitVec.ofNat 64 c.count)
  (x.setCsr Csr.siglo (c.sig.setWidth 64)).setCsr Csr.sighi ((c.sig >>> 64).setWidth 64)

/-- Applies a chunk's tag-table changes to its context's table (R228). The limit of 256 entries is judged by TSET as it
executes, and not again here, so that chunks of two harts can pass it together (DESIGN CHOICE: log 131). -/
def applyTags (ctx : Nat) : List TagOp → FMap Nat → FMap Nat
  | [], m => m
  | .set g w :: l, m => applyTags ctx l (mapPut m (ctx * 2 ^ 53 + g) w)
  | .inv g :: l, m => applyTags ctx l (mapErase m (ctx * 2 ^ 53 + g))

/-- Counts one census event: entry and counter 0 to 3; a counter stops at 0xFFFF (R193). -/
def censusAdd (m : FMap Nat) (e : Nat × Nat) : FMap Nat :=
  let v := mapGet 0 m e.1
  if v / 2 ^ (16 * e.2) % 65536 = 65535 then m else mapSet 0 m e.1 (v + 2 ^ (16 * e.2))

/-- Takes the grant of a cluster from hart h, or its place among the waiters, and hands it on; held updates go through
(R294, R356). -/
def State.dropGrant (s : State) (h : Nat) : State :=
  let k := clusterOf h
  let q := s.cluster k
  let s := if q.grant = some h then s.onCluster k fun q => { q with grant := q.grantWait.head?, grantWait := q.grantWait.drop 1 }
    else if h ∈ q.grantWait then s.onCluster k fun q => { q with grantWait := q.grantWait.filter (· ≠ h) }
    else s
  s.releaseHeld k

/-- At the end of a chunk of hart h: the priority chunk hands the grant on; held updates go through (R294). -/
def State.passGrant (s : State) (h : Nat) (prio : Bool) : State := if prio then s.dropGrant h else s.releaseHeld (clusterOf h)

/-- The KEYID mark under which a hart's context writes and reads. -/
def State.hartMark (s : State) (h : Nat) : Nat :=
  match s.ctx? (s.hart h).ctx with
  | some c => s.keyMark c.keyid
  | none => 0

/-- Elements of a binding (R216). -/
def Binding.total (b : Binding) : Nat := b.c0 * b.c1 * b.c2

/-- A binding has ended: its last element popped (inbound) or written (outbound) (R218). -/
def Binding.ended (b : Binding) : Bool := if b.outbound then decide (b.total ≤ b.done) else decide (b.total ≤ b.taken)

/-- The hart takes n more elements of a binding; a replica's port that has not fetched them all fetches them no more (R364). -/
def Binding.take (b : Binding) (n : Nat) : Binding :=
  let t := b.taken + n
  { b with taken := t, done := if b.outbound then b.done else Nat.max b.done (Nat.min t b.total) }

/-- The bindings of a port, in the order of their elements. -/
def Stream.list (st : Stream) : List Binding := st.active.toList ++ st.rest

/-- The last binding of a port has not started: the one before it has elements left to fetch, or to write (R217). -/
def Stream.waiting (st : Stream) : Bool :=
  match (st.list.reverse.drop 1).head? with
  | some b => b.outbound || decide (b.done < b.total)
  | none => false

/-- Ends the active binding of port n once it has ended: its entry is freed and the next binding takes its place with the
elements taken beyond the end (R217, R218). -/
def Core.endBinding (k : Core) (n : Nat) : Core :=
  match mapFind? k.streams n with
  | none => k
  | some st => match st.active with
    | none => k
    | some b =>
      if b.ended then
        let st' : Stream := { st with active := st.rest.head?.map (·.take (b.taken - b.total)), rest := st.rest.drop 1 }
        { k with rlt := mapErase k.rlt b.rlt,
                 streams := if st'.active.isNone then mapErase k.streams n else mapPut k.streams n st' }
      else k

/-- Ends all bindings of port n that have ended. -/
def Core.endBindings (k : Core) (n : Nat) : Core :=
  match mapFind? k.streams n with
  | none => k
  | some st => st.list.foldl (fun k _ => k.endBinding n) k

/-- Drops the popped elements of a committed chunk, hands its pushed ones to their ports, and ends bindings (R218,
R293). -/
def State.commitStreams (s : State) (h : Nat) (c : Chunk) : State :=
  if c.popped.isEmpty && c.pushes.isEmpty then s
  else s.onCore (coreOf h) fun k =>
    let k := { k with streams := k.streams.map fun e =>
      let n := mapGet 0 c.popped e.1
      let p := mapGet [] c.pushes e.1
      (e.1, { e.2 with buf := e.2.buf.drop n ++ p,
                       active := e.2.active.map (·.take (n + p.length)) }) }
    (List.range 8).foldl Core.endBindings k

/-! Scratchpad banks in a timed phase (R276-R278). -/

/-- The executing hart is in a timed phase: PHASE.TIMED (R252). -/
def State.timed (s : State) : Bool := bit (s.csr Csr.phase) 1

/-- The segment of a context on a core; empty where it has none. -/
def Core.segOf (k : Core) (ctx : Nat) : Seg := (mapFind? k.seg ctx).getD { base := 0, size := 0, grantBase := 0, grantSize := 0 }

/-- The bank of a scratchpad location as a context sees it under a value of LSPSWZ (R276). -/
def State.bankFor (s : State) (ctx : Nat) (swz : Word) (loc : Nat) : Nat :=
  let core := (loc - lspLoc0) / 0x80000
  let a := (loc - lspLoc0) % 0x80000 - ((s.core core).segOf ctx).base
  if bit swz 3 then (a / 8 % 16) ^^^ (a / 2 ^ (7 + bits swz 2 0) % 16) else a / 8 % 16

/-- Accesses of hart h that have not occupied their banks yet. -/
def State.banksBusy (s : State) (h : Nat) : Bool :=
  (s.core (coreOf h)).banks.any fun u => decide (u.hart = h) && decide (u.op ≠ .done)

/-- The distinct words of the scratchpad locations of a list. -/
def lspWords (locs : List Nat) : List Nat := nub ((locs.filter isLsp).map (· / 8))

/-- Counts n lost accesses in a core's timed-conflict counter (R278). -/
def State.countConflicts (s : State) (core n : Nat) : State :=
  if n = 0 then s else s.onCore core fun k => { k with timedConf := k.timedConf + n }

/-- The accesses of this cycle that take a bank from a port's request: those of lower-numbered ports, and for a request
of an untimed hart those of every timed one (R278). -/
def Core.winner (k : Core) (cycle bank port : Nat) (timed : Bool) : Option BankUse :=
  (k.banks.filter fun u => decide (u.cycle = cycle) && decide (u.bank = bank) && (decide (u.port < port) || (!timed && decide (u.port < 2)))).foldl
    (fun m u => match m with | some v => if u.port < v.port then some u else some v | none => some u) none

/-- The words of a request made in this cycle whose banks are lost, with the winner's word (R278). -/
def State.bankLost (s : State) (port ctx : Nat) (swz : Word) (timed : Bool) (words : List Nat) : List (Nat × Nat) :=
  words.filterMap fun w =>
    ((s.core ((w * 8 - lspLoc0) / 0x80000)).winner s.cycle (s.bankFor ctx swz (w * 8)) port timed).map fun u => (w, u.loc)

/-- The bytes that a committing hart stores to the scratchpad in this cycle, but for those whose banks a timed access takes:
a port in an untimed hart loses to it (R278). -/
def State.bankDrop (s : State) (h : Nat) (buf : FMap Byte) : FMap Byte × State :=
  if (s.core (coreOf h)).banks.isEmpty then (buf, s)
  else
    let x := s.hart h
    let lost := s.bankLost 0 x.ctx (x.csr Csr.lspswz) false (lspWords (buf.map Prod.fst))
    (buf.filter fun e => !isLsp e.1 || lost.all fun l => decide (l.1 ≠ e.1 / 8), s.countConflicts (coreOf h) lost.length)

/-- Commits the open chunk of hart h in one step (R290): its stores at cluster and core scope, then its census counts,
trace records and tag-table changes; the release with which it ends, if any, performs the hart's stores at its scope
(R298). A follower keeps only its scratchpad stores (R363, R368). -/
def State.commit (s : State) (h : Nat) : State :=
  match (s.hart h).chunk with
  | none => s
  | some c =>
    let fol := s.follower h
    let buf := if fol then c.buf.filter (fun e => isLsp e.1) else c.buf
    let (buf, s) := s.bankDrop h buf
    let s := s.commitBytes h (s.hartMark h) buf c.keep
    let s := s.commitStreams h c
    let s := s.onCore (coreOf h) fun k =>
      { k with census := c.census.foldl censusAdd k.census, tags := applyTags (s.hart h).ctx c.tags k.tags,
               icache := if c.code then [] else k.icache }
    let s : State := if fol then s else
      { s with traceOut := s.traceOut ++ c.trace.map fun r => (h, (s.hart h).csr Csr.trcctl, r) }
    let s := s.onHart h (Hart.afterCommit c)
    (match c.close with | some sc => s.release h sc | none => s).passGrant h c.prio

/-- The priority chunk of the cluster, or a lead's that waits for the cupping unit, holds this chunk back; a replica's chunk
also waits for a waiting lead's stores, with which it would conflict (R294, R306). -/
def State.heldByGrant (s : State) (h : Nat) (c : Chunk) : Bool :=
  meets c.writes (s.heldLines (clusterOf h) (some h)) ||
  ((s.hart h).group.isSome && meets (c.reads ++ c.writes) (s.sentWrites (clusterOf h) h))

/-- The arbiter squashes this chunk: a line it read or wrote was changed since it began, or its signature matched
falsely; never an own chunk (R419), never the priority chunk (R294). -/
def State.conflicts (_s : State) (_h : Nat) (c : Chunk) : Bool :=
  !c.own && !c.prio && (c.doomed || meets (c.reads ++ c.writes) c.ext)

/-- The signature that hart h sends, and RFINJ after it: an armed injection fires (R359). -/
def Hart.signature (x : Hart) (testMode : Bool) (sig : BitVec 128) : BitVec 128 × Hart :=
  let j := x.csr Csr.rfinj
  if testMode ∧ bit j 9 = true then
    let hit := decide (bits (x.csr Csr.replstat) 1 0 = bits j 8 7)
    (if hit then sig ^^^ ((1#128) <<< bits j 6 0) else sig, x.setCsr Csr.rfinj (j &&& ~~~0x200#64))
  else (sig, x)

/-- Ends hart h's chunk: it goes to the arbiter (R290), which commits, squashes or holds it; a replica's signature goes
to the cupping unit first (R306, R368). The flag says whether the chunk is over and the hart goes on. -/
def State.endChunk (s : State) (h : Nat) : State × Bool :=
  match (s.hart h).chunk with
  | none => (s, true)
  | some c =>
    if c.blank then (s.onHart h fun x => { x with chunk := none }, true)
    else if s.heldByGrant h c then (s.onHart h (·.setStatus .arbiter), false)
    else if s.conflicts h c then (s.squash h, false)
    else
      let (sg, x) := (s.hart h).signature s.dev.testMode c.sig
      match (s.hart h).group with
      | none => ((s.setHart h x).commit h, true)
      | some _ => (s.setHart h { x with status := .arbiter, sent := some sg }, false)

/-- Goes on only once the open chunk is over: an instruction that ends the chunk before itself is not run in the step in
which its predecessor chunk is squashed or held (R289). -/
def State.afterChunk (s : State) (k : State → State) : State :=
  match s.me.chunk with
  | none => k s
  | some _ => match s.endChunk s.cur with
    | (t, true) => k t
    | (t, false) => t

/-- The same for a trap. While the chunk waits at the arbiter the hart remembers the trap and takes it once the chunk is
over; a squash forgets it with the instruction (R289, R293, R392). -/
def State.trapAfterChunk (s : State) (cause : Nat) (tval tval2 : Word) (k : State → State) : State :=
  match s.me.chunk with
  | none => k s
  | some _ => match s.endChunk s.cur with
    | (t, true) => k t
    | (t, false) =>
      if (t.hart s.cur).status = .arbiter then t.onHart s.cur fun x => { x with resumeTrap := some (cause, tval, tval2) } else t

/-! Reports (R411). -/

/-- Queues an event element for the mailbox of a context, or of the PF for context 0. -/
def State.report (s : State) (ctx code subject : Nat) (codeF addr e0 e1 : Nat) : State :=
  let word (v : Nat) := leBytes 8 v
  let el := word (0x40 + code) ++ word s.time ++ word (ctx * 2 ^ 32 + subject % 2 ^ 25) ++ word codeF ++ word addr ++
    word e0 ++ word e1 ++ word 0
  { s with outbox := s.outbox ++ [(ctx, el)] }

/-! Traps (R19, R391, R392). -/

/-- The mode bit of TSTAT.PM. -/
def Mode.bit : Mode → Word
  | .t => 0
  | .s => 1

/-- The trap entry of R19, as one step: status saved, TEPC, TCAUSE, TVAL and TVAL2 written, S-mode, PC := TVEC with bit 0
cleared, since PC bit 0 is always zero (R24; DEDUCED, log 119). PARKED says that the trap interrupted a park; VOWN that the hart owned the vector file. -/
def Hart.enterTrap (x : Hart) (owns parked : Bool) (cause : Nat) (tval tval2 tepc : Word) : Hart :=
  let old := x.csr Csr.tstat
  let st : Word := x.a.mode.bit ||| ((old &&& 2) <<< 1) ||| (if owns then 0x10 else 0) ||| (if parked then 0x20 else 0)
  let x := (((x.setCsr Csr.tstat st).setCsr Csr.tepc tepc).setCsr Csr.tcause (BitVec.ofNat 64 cause)).setCsr Csr.tval tval
  let x := x.setCsr Csr.tval2 tval2
  { x with a := { x.a with mode := .s, pc := x.csr Csr.tvec &&& ~~~1#64 }, status := .running, atVec := true, links := [],
           resumeTrap := none }

/-- A double fault: the hart stops as HALT does, with TCAUSE, TVAL and TVAL2 written, and the Dispatch Unit reports it
(R392). -/
def State.doubleFault (s : State) (cause : Nat) (tval tval2 : Word) : State :=
  let s := s.onMe fun x =>
    (((x.setCsr Csr.tcause (BitVec.ofNat 64 cause)).setCsr Csr.tval tval).setCsr Csr.tval2 tval2).setStatus .halted
  s.report s.me.ctx 1 (s.hartid s.cur).toNat cause (s.csr Csr.tepc).toNat tval.toNat tval2.toNat

/-- In lockstep, a trap of one member holds the others before the instruction (R343). -/
def State.lockTrap (s : State) (at_ : Word) : State :=
  if s.me.a.lock ∧ 1 < s.me.gang.length then
    let s := s.me.gang.foldl (fun s h =>
      if h = s.cur then s
      else s.onHart h fun x =>
        if x.trapAt = none ∧ (x.status = .running ∨ x.status = .stalled) then x.setStatus .held else x) s
    s.onMe fun (x : Hart) => { x with trapAt := some at_ }
  else s

/-- Takes a trap whose chunk is over, with the given TEPC. -/
def State.trapEntry (s : State) (parked : Bool) (cause : Nat) (tval tval2 tepc : Word) : State :=
  if s.me.atVec then s.doubleFault cause tval tval2
  else
    let s := s.lockTrap s.me.a.pc
    s.onMe fun x => x.enterTrap (decide ((s.core (coreOf s.cur)).owner = some s.cur)) parked cause tval tval2 tepc

/-- Forgets the page requests of the executing hart's instruction at `pc`, which completed or trapped (R380). -/
def State.dropReqs (s : State) (pc : Word) : State :=
  let mine (r : PageReq) : Bool := decide (r.hart = s.cur) && decide (r.ctx = s.me.ctx) && decide (r.pc = pc)
  { (if s.pageReqs.any mine then s.onMe fun x => { x with reqNext := 0 } else s) with
    pageReqs := s.pageReqs.filter fun r => !mine r,
    hostReqs := s.hostReqs.filter fun r => !(decide (r.hart = s.cur) && decide (r.ctx = s.me.ctx)) }

/-- Takes a trap at the instruction at PC: the instructions before it form the chunk, which ends first (R289, R392). -/
def State.takeTrap (s : State) (cause : Nat) (tval tval2 : Word) : State :=
  s.trapAfterChunk cause tval tval2 fun s => (s.dropReqs s.pc).trapEntry false cause tval tval2 s.pc

/-- TRET's reverse of R19, with TSTAT.PARKED cleared (R19, R24, R265). -/
def Hart.leaveTrap (x : Hart) : Hart :=
  let old := x.csr Csr.tstat
  let st : Word := ((old >>> 1) &&& 2) ||| 4 ||| (old &&& 0x10)
  let x := x.setCsr Csr.tstat st
  { x with a := { x.a with mode := if bit old 0 then .s else .t, pc := x.csr Csr.tepc &&& ~~~1#64 } }

/-! Parking. -/

/-- Parks the executing hart. A park ends the chunk first, but not in a replicated launch (R289, R366); it breaks the
hart's links (R167). -/
def State.parkOn (s : State) (p : Park) : State :=
  let go (s : State) := (s.setStatus (.parked p)).onMe fun x => { x with links := [] }
  match s.me.group with
  | some _ => go s
  | none => s.afterChunk go

/-- Registers page requests with the walker and parks the hart until every reply; a granule that is already requested joins its
request (R164, R379, R380). -/
def State.parkOnPages (s : State) (reqs : List PageReq) : State :=
  let fresh := reqs.filter fun r => s.pageReqs.all fun q =>
    !(decide (q.hart = r.hart) && decide (q.ctx = r.ctx) && decide (q.gpa / 4096 = r.gpa / 4096) && decide (q.answer = none))
  let numbered := fresh.zipIdx.map fun (r : PageReq × Nat) => { r.1 with num := s.me.reqNext + r.2 }
  let s : State := { s with pageReqs := s.pageReqs ++ numbered }
  let s := s.onMe fun x => { x with reqNext := x.reqNext + fresh.length }
  s.parkOn .page

/-- Sends a host page request and parks the hart until the answer (R390). -/
def State.parkOnHost (s : State) (addr : Nat) (va : Word) (store : Bool) : State :=
  let idx := s.tagCtr
  let fn := match s.ctx? s.me.ctx with | some c => c.function.getD 0 | none => 0
  let r : HostReq :=
    { idx := idx, function := fn, addr := addr, hart := s.cur, ctx := s.me.ctx, va := va, store := store, answer := none }
  let s : State := { s with tagCtr := s.tagCtr + 1, hostReqs := s.hostReqs ++ [r] }
  s.parkOn (.hostPage idx)

/-- The entry of the forwarding log with which the open convoy of the executing hart begins. -/
def State.fwdStart (s : State) : Nat := s.me.fwdBase + match s.me.chunk with | some c => c.fwdPos | none => 0
/-- How many entries of the forwarding log the hart has used since the last agreed chunk, the open convoy's among them. -/
def State.fwdPos (s : State) : Nat := s.fwdStart + match s.me.chunk with | some c => c.fwdSubs.length | none => 0

/-- A trap of a lead-only action: it stands in the forwarding log for the other replicas, and each uses the entry up when
it takes the trap, once its open chunk is over (R111, R364). -/
def State.takeTrapFwd (s : State) (cause : Nat) (tval tval2 : Word) : State :=
  match s.me.group with
  | none => s.takeTrap cause tval tval2
  | some g => match mapFind? s.groups g with
    | none => s.takeTrap cause tval tval2
    | some G =>
      let s := if G.log.length ≤ s.fwdPos then s.sendFwd g G (G.log ++ [.trap cause tval tval2]) G.log.length 0
        else s
      s.trapAfterChunk cause tval tval2 fun s =>
        ((s.onMe fun x => { x with fwdBase := x.fwdBase + 1 }).dropReqs s.pc).trapEntry false cause tval tval2 s.pc

/-! Losing a replica (R361, R371, R375, R377). -/

/-- A change of registers that arrives from outside the instruction stream: a squash does not undo it. -/
def Hart.async (x : Hart) (f : HartArch → HartArch) : Hart :=
  { x with a := f x.a, chunk := x.chunk.map fun c => { c with snap := { c.snap with arch := f c.snap.arch } } }

/-- The harts of the replica r to which a group's hart belongs, but for those that have ended. -/
def State.replicaHarts (s : State) (g : Group) (r : Nat) : List Nat :=
  match mapFind? g.harts r with
  | none => []
  | some h => match (s.hart h).inst.bind (mapFind? s.instances) with
    | some i => (i.harts.getD r [h]).filter fun k => decide (k ∈ i.live)
    | none => [h]

/-- A group without replica r; its lead passes to the lowest of the others, and signatures of another group are sent
again (R370). -/
def Group.without (g : Group) (r : Nat) (here : Bool) : Group :=
  let live := g.live.filter (· ≠ r)
  { g with live := live, lead := if g.lead = r then live.headD r else g.lead, sigs := if here then mapErase g.sigs r else [] }

/-- A group of one is no group: its hart goes on unreplicated (R371). -/
def State.dissolve (s : State) (g : Nat) : State :=
  match mapFind? s.groups g with
  | none => s
  | some G => match G.live with
    | [r] =>
      let h := mapGet 0 G.harts r
      let s := s.onHart h fun x =>
        { x with group := none, sent := none, fwdBase := 0, tries := 0,
                 status := match x.status with | .parked .forward => .running | st => st }
      ({ s with groups := mapErase s.groups g } : State).releaseHeld (clusterOf h)
    | _ => s

/-- Takes replica r out of the groups that hold one of its harts; the survivors note it in REPLSTAT[4]. -/
def State.loseReplica (s : State) (g r : Nat) (hs : List Nat) : State :=
  let mine (e : Nat × Group) : Bool := match mapFind? e.2.harts r with | some h => decide (h ∈ hs) | none => false
  let s : State :=
    { s with groups := s.groups.map fun e => if mine e then (e.1, e.2.without r (decide (e.1 = g))) else e,
             instances := s.instances.map fun e => (e.1, { e.2 with live := e.2.live.filter fun h => decide (h ∉ hs) }) }
  (s.groups.filter mine).foldl (fun s e =>
    (e.2.live.foldl (fun s q => s.onHart (mapGet 0 e.2.harts q) fun x =>
      x.async fun a => { a with csr := mapSet 0 a.csr Csr.replstat (mapGet 0 a.csr Csr.replstat ||| 0x10) }) s).dissolve e.1) s

/-- Stops replica r of a group: every hart of it returns to its chunk's start and issues nothing further; TCAUSE and TEPC
say why and where (R361). -/
def State.stopReplica (s : State) (g r cause : Nat) : State :=
  match mapFind? s.groups g with
  | none => s
  | some G =>
    let hs := s.replicaHarts G r
    let s := hs.foldl (fun s h => ((s.rewind h).dropGrant h).onHart h fun x =>
      ((x.setCsr Csr.tcause (BitVec.ofNat 64 cause)).setCsr Csr.tepc x.a.pc).setStatus .stopped) s
    s.loseReplica g r hs

/-- Instructions of the open chunk so far. -/
def Hart.chunkCount (x : Hart) : Nat := match x.chunk with | some c => c.count | none => 0

/-- DATA_ERROR or CHECK_MISMATCH after the refetch. A replica reports it: of three, it is stopped and the others trap
REPL_VOTE after their chunk; of two, both trap at that instruction, the healthy one with TVAL2 = 1 (R375). -/
def State.dataTrap (s : State) (cause : Nat) (tval tval2 : Word) : State :=
  match s.me.group with
  | none => s.takeTrap cause tval tval2
  | some g => match mapFind? s.groups g with
    | none => s.takeTrap cause tval tval2
    | some G =>
      let me (e : Nat × Nat) : Bool := decide (e.2 = s.cur)
      let r := ((G.harts.find? me).map Prod.fst).getD 0
      if 3 ≤ G.live.length then
        let s := s.stopReplica g r cause
        { s with groups := s.groups.map fun e => if e.1 = g then (e.1, { e.2 with vote := some r }) else e }
      else
        let here := decide (s.me.chunkCount = 0)
        let cut := G.cut.getD { ordinal := s.me.ordinal, count := s.me.chunkCount, cause := cause, tval := tval,
                                left := G.live.map (mapGet 0 G.harts) }
        let left := if here then cut.left.filter (· ≠ s.cur) else cut.left
        let s : State := { s with groups := mapPut s.groups g { G with cut := if left.isEmpty then none else some { cut with left := left } } }
        let s := if G.cut.isSome then s else
          (G.live.map (mapGet 0 G.harts)).foldl (fun s h =>
            if h ≠ s.cur ∧ cut.count < (s.hart h).chunkCount then s.rewind h else s) s
        s.takeTrap cause tval tval2

/-- The trap that a healthy replica takes where the other met a data error (R375). -/
def State.cutFor (s : State) (h : Nat) : Option (Nat × Word) :=
  match (s.groupOf h).bind Group.cut with
  | none => none
  | some c =>
    let x := s.hart h
    if h ∈ c.left ∧ x.ordinal = c.ordinal ∧ x.chunkCount = c.count then some (c.cause, c.tval) else none

/-- A trap of an instruction: a data error of a replica is reported (R375). -/
def State.raise (s : State) (c : Nat) (v w : Word) : State :=
  if c = Cause.dataError ∨ c = Cause.checkMismatch then s.dataTrap c v w else s.takeTrap c v w

/-- What a meaning that did not complete leaves. -/
def State.handle (s : State) : Exc → State
  | .trap c v w => s.raise c v w
  | .trapIn t c v w => t.raise c v w
  | .trapFwd c v w => s.takeTrapFwd c v w
  | .stall => s.setStatus .stalled
  | .park p => s.parkOn p
  | .endChunk => (s.endChunk s.cur).1
  | .become t => t
  | .pageMiss t reqs => t.parkOnPages reqs
  | .hostMiss a va st => s.parkOnHost a va st

/-! The frame of a meaning. -/

/-- Where an instruction stands toward chunks (R289, R419). -/
structure Shape where
  /-- The chunk ends before the instruction. -/
  before : Bool
  /-- The chunk ends after the instruction. -/
  after : Bool
  /-- A chunk that is never squashed (R419). -/
  own : Bool
  /-- Instructions counted toward the limit of 256 (R52). -/
  n : Nat

/-- Neither before nor after. -/
def Shape.plain : Shape := { before := false, after := false, own := false, n := 1 }
/-- Ends the open chunk: the last instruction of its chunk. -/
def Shape.last : Shape := { before := false, after := true, own := false, n := 1 }
/-- Before and after itself. -/
def Shape.alone : Shape := { before := true, after := true, own := false, n := 1 }
/-- Before and after itself, with its effect at a home: never squashed. -/
def Shape.home : Shape := { before := true, after := true, own := true, n := 1 }
/-- Ends the chunk before itself. -/
def Shape.first : Shape := { before := true, after := false, own := false, n := 1 }

/-- The chunk holds more than a chunk may: 8 KiB of stored bytes, 8 vector or 2 mask registers, or 64 elements of one stream
port (R289). -/
def Chunk.over (c : Chunk) : Bool :=
  decide (8192 < c.buf.length) || decide (8 < c.vwr.length) || decide (2 < c.mwr.length) ||
  c.popped.any (fun e => decide (64 < e.2)) || c.pushes.any (fun e => decide (64 < e.2.length))

/-- The executing hart's open chunk is over its limits, that of the forwarding log among them (R289, R364). -/
def State.overLimit (s : State) : Bool :=
  match s.me.chunk with
  | some c => c.over || (s.me.group.isSome && decide (256 < s.fwdPos))
  | none => false

/-- The executing hart has a chunk open that holds an instruction. -/
def State.chunkBusy (s : State) : Bool := match s.me.chunk with | some c => decide (0 < c.count) | none => false

/-- Counts the retired instruction, which stood at `pc`, and ends the chunk where it must end (R289). -/
def State.finish (s : State) (sh : Shape) (pc : Word) : State :=
  let s := s.onMe fun x =>
    { x with atVec := false, pending := x.pending.filter (fun p => decide (p.pc ≠ pc)), handoff := none, resumeTrap := none, afterSync := x.afterSync.filter (· ≠ pc),
             a := if x.a.lock && x.trapAt.isNone then { x.a with seq := x.a.seq + 1 } else x.a,
             chunk := x.chunk.map fun c => { c with count := c.count + sh.n, fwdPos := c.fwdPos + c.fwdSubs.length, fwdSubs := [] } }
  let s := if s.pageReqs.isEmpty && s.hostReqs.isEmpty then s else s.dropReqs pc
  let full := match s.me.chunk with | some c => decide (256 ≤ c.count) || c.over || c.close.isSome | none => false
  if sh.after ∨ full = true then (s.endChunk s.cur).1 else s

/-- Runs a body in the open chunk, or ends that chunk first where the instruction does not fit (R52, R289). -/
def State.runOpen (s : State) (sh : Shape) (body : State → Res) : State :=
  if s.chunkBusy ∧ 256 < (match s.me.chunk with | some c => c.count | none => 0) + sh.n then (s.endChunk s.cur).1
  else match body (s.openChunk sh.own) with
    | .error e => s.handle e
    | .ok t => if t.overLimit ∧ s.chunkBusy then (s.endChunk s.cur).1 else t.finish sh s.pc

/-- Runs the body of an instruction of the executing hart in its frame. An instruction that ends the chunk before itself
waits for the hart's accesses to scratchpad banks (R277). -/
def State.run (s : State) (sh : Shape) (body : State → Res) : State :=
  if sh.before then
    if s.banksBusy s.cur then s.setStatus .stalled else s.afterChunk fun s => s.runOpen sh body
  else s.runOpen sh body

/-- Advances PC past the instruction. -/
def State.next (s : State) (len : Nat) : State := s.onMe fun x => x.setPc (x.a.pc + BitVec.ofNat 64 len)

/-- The trap ILLEGAL_INSTRUCTION of an instruction that reached its meaning, with its bits (R39). -/
def illegal (bits : Word) : Exc := .trap Cause.illegal bits 0
/-- The same with TVAL2 given. -/
def illegal2 (bits tval2 : Word) : Exc := .trap Cause.illegal bits tval2

/-- The bits of a 32-bit or compact instruction, for TVAL (R39). -/
def bitsOf (i : Instr) : Word :=
  match encodeC i with
  | some w => w.setWidth 64
  | none => match encode32 i with
    | some w => w.setWidth 64
    | none => 0

/-! Forwarding in replicated launches (R364). -/

/-- Takes the values of a forwarded action into the chunk: its place in the log, and its signature items. -/
def State.takeFwd (s : State) (addr : Word) (vs : List Word) : State :=
  s.onChunk fun c => { c with fwdPos := c.fwdPos + 1, sig := vs.foldl (fun g v => sigAdd g (fwdItem v addr)) c.sig }

/-- A lead-only action: unreplicated it is performed; the lead performs it and logs its values; a follower takes them
from the log, and waits for them where they are not there yet. A re-execution takes them from the log (R364). `items` are
the values that enter the signature (R367). -/
def forwarded (s : State) (addr : Word) (perform : State → Except Exc (List Word × State))
    (deliver : List Word → State → Res) (items : List Word → List Word := id) : Res :=
  match s.me.group with
  | none => match perform s with
    | .error e => .error e
    | .ok (v, t) => deliver v t
  | some g => match mapFind? s.groups g with
    | none => .error .stall
    | some G =>
      match (G.received s.cur)[s.fwdPos]? with
      | some (.val v) => deliver v (s.takeFwd addr (items v))
      | some (.trap c v w) => .error (.trapFwd c v w)
      | none =>
        if s.follower s.cur then .error (.park .forward)
        else match perform s with
          | .error (.trap c v w) => .error (.trapFwd c v w)
          | .error (.trapIn t c v w) => .error (.become (t.takeTrapFwd c v w))
          | .error e => .error e
          | .ok (v, t) =>
            match mapFind? t.groups g with
            | none => .error .stall
            | some G' =>
              deliver v ((t.sendFwd g G' (G'.log ++ [.val v]) G'.log.length 0).takeFwd addr (items v))

end Sys2Proof.Machine
end

