-- ==== Sys2Proof/Machine/Alu.lean ====
section
/-! DEFINITION. Integer register operations: majors 0 to 10 (spec/05 R97-R100, spec/02 R31) and the compact register and
immediate forms (spec/02 R28). -/

namespace Sys2Proof.Machine

/-- The outcome type of every meaning. -/
abbrev Out := Host.Outcome State Fault Refusal

/-- Writes one result to X[rd] and goes to the next instruction (R97). -/
def alu (s : State) (rd : Reg) (v : Word) (len : Nat := 4) : State :=
  s.run .plain fun s => .ok ((s.setX rd v).next len)

/-! Major 0 (R97). -/

/-- ADD: a + b. -/
def execAdd (rd rs1 rs2 : Reg) (s : State) : Out :=
  let a := s.x rs1; let b := s.x rs2
  .next (alu s rd (a + b))
/-- SUB: a - b. -/
def execSub (rd rs1 rs2 : Reg) (s : State) : Out :=
  let a := s.x rs1; let b := s.x rs2
  .next (alu s rd (a - b))
/-- AND: a &&& b. -/
def execAnd (rd rs1 rs2 : Reg) (s : State) : Out :=
  let a := s.x rs1; let b := s.x rs2
  .next (alu s rd (a &&& b))
/-- OR: a ||| b. -/
def execOr (rd rs1 rs2 : Reg) (s : State) : Out :=
  let a := s.x rs1; let b := s.x rs2
  .next (alu s rd (a ||| b))
/-- XOR: a ^^^ b. -/
def execXor (rd rs1 rs2 : Reg) (s : State) : Out :=
  let a := s.x rs1; let b := s.x rs2
  .next (alu s rd (a ^^^ b))
/-- ANDN: a &&& ~~~b. -/
def execAndn (rd rs1 rs2 : Reg) (s : State) : Out :=
  let a := s.x rs1; let b := s.x rs2
  .next (alu s rd (a &&& ~~~b))
/-- ORN: a ||| ~~~b. -/
def execOrn (rd rs1 rs2 : Reg) (s : State) : Out :=
  let a := s.x rs1; let b := s.x rs2
  .next (alu s rd (a ||| ~~~b))
/-- XNOR: ~~~(a ^^^ b). -/
def execXnor (rd rs1 rs2 : Reg) (s : State) : Out :=
  let a := s.x rs1; let b := s.x rs2
  .next (alu s rd (~~~(a ^^^ b)))
/-- SLL: a <<< sh6 b. -/
def execSll (rd rs1 rs2 : Reg) (s : State) : Out :=
  let a := s.x rs1; let b := s.x rs2
  .next (alu s rd (a <<< sh6 b))
/-- SRL: a >>> sh6 b. -/
def execSrl (rd rs1 rs2 : Reg) (s : State) : Out :=
  let a := s.x rs1; let b := s.x rs2
  .next (alu s rd (a >>> sh6 b))
/-- SRA: a.sshiftRight (sh6 b). -/
def execSra (rd rs1 rs2 : Reg) (s : State) : Out :=
  let a := s.x rs1; let b := s.x rs2
  .next (alu s rd (a.sshiftRight (sh6 b)))
/-- ROL: rotL a (sh6 b). -/
def execRol (rd rs1 rs2 : Reg) (s : State) : Out :=
  let a := s.x rs1; let b := s.x rs2
  .next (alu s rd (rotL a (sh6 b)))
/-- ROR: rotR a (sh6 b). -/
def execRor (rd rs1 rs2 : Reg) (s : State) : Out :=
  let a := s.x rs1; let b := s.x rs2
  .next (alu s rd (rotR a (sh6 b)))
/-- SLT: b2w (a.slt b). -/
def execSlt (rd rs1 rs2 : Reg) (s : State) : Out :=
  let a := s.x rs1; let b := s.x rs2
  .next (alu s rd (b2w (a.slt b)))
/-- SLTN: b2w (a.ult b). -/
def execSltn (rd rs1 rs2 : Reg) (s : State) : Out :=
  let a := s.x rs1; let b := s.x rs2
  .next (alu s rd (b2w (a.ult b)))
/-- MIN: minS a b. -/
def execMin (rd rs1 rs2 : Reg) (s : State) : Out :=
  let a := s.x rs1; let b := s.x rs2
  .next (alu s rd (minS a b))
/-- MAX: maxS a b. -/
def execMax (rd rs1 rs2 : Reg) (s : State) : Out :=
  let a := s.x rs1; let b := s.x rs2
  .next (alu s rd (maxS a b))
/-- MINN: minU a b. -/
def execMinn (rd rs1 rs2 : Reg) (s : State) : Out :=
  let a := s.x rs1; let b := s.x rs2
  .next (alu s rd (minU a b))
/-- MAXN: maxU a b. -/
def execMaxn (rd rs1 rs2 : Reg) (s : State) : Out :=
  let a := s.x rs1; let b := s.x rs2
  .next (alu s rd (maxU a b))
/-- MUL: a * b. -/
def execMul (rd rs1 rs2 : Reg) (s : State) : Out :=
  let a := s.x rs1; let b := s.x rs2
  .next (alu s rd (a * b))
/-- MULH: mulHS a b. -/
def execMulh (rd rs1 rs2 : Reg) (s : State) : Out :=
  let a := s.x rs1; let b := s.x rs2
  .next (alu s rd (mulHS a b))
/-- MULHN: mulHU a b. -/
def execMulhn (rd rs1 rs2 : Reg) (s : State) : Out :=
  let a := s.x rs1; let b := s.x rs2
  .next (alu s rd (mulHU a b))
/-- MULHSN: mulHSU a b. -/
def execMulhsn (rd rs1 rs2 : Reg) (s : State) : Out :=
  let a := s.x rs1; let b := s.x rs2
  .next (alu s rd (mulHSU a b))
/-- DIV (R99): divS a b. -/
def execDiv (rd rs1 rs2 : Reg) (s : State) : Out :=
  let a := s.x rs1; let b := s.x rs2
  .next (alu s rd (divS a b))
/-- DIVN (R99): divU a b. -/
def execDivn (rd rs1 rs2 : Reg) (s : State) : Out :=
  let a := s.x rs1; let b := s.x rs2
  .next (alu s rd (divU a b))
/-- REM (R99): remS a b. -/
def execRem (rd rs1 rs2 : Reg) (s : State) : Out :=
  let a := s.x rs1; let b := s.x rs2
  .next (alu s rd (remS a b))
/-- REMN (R99): remU a b. -/
def execRemn (rd rs1 rs2 : Reg) (s : State) : Out :=
  let a := s.x rs1; let b := s.x rs2
  .next (alu s rd (remU a b))
/-- CLZ, unary. -/
def execClz (rd rs1 : Reg) (s : State) : Out :=
  let a := s.x rs1
  .next (alu s rd (BitVec.ofNat 64 (clzN a)))
/-- CTZ, unary. -/
def execCtz (rd rs1 : Reg) (s : State) : Out :=
  let a := s.x rs1
  .next (alu s rd (BitVec.ofNat 64 (ctzN a)))
/-- CPOP, unary. -/
def execCpop (rd rs1 : Reg) (s : State) : Out :=
  let a := s.x rs1
  .next (alu s rd (BitVec.ofNat 64 (cpopN a)))
/-- SEXT.b, unary. -/
def execSextB (rd rs1 : Reg) (s : State) : Out :=
  let a := s.x rs1
  .next (alu s rd ((a.setWidth 8).signExtend 64))
/-- SEXT.h, unary. -/
def execSextH (rd rs1 : Reg) (s : State) : Out :=
  let a := s.x rs1
  .next (alu s rd ((a.setWidth 16).signExtend 64))
/-- SEXT.w, unary. -/
def execSextW (rd rs1 : Reg) (s : State) : Out :=
  let a := s.x rs1
  .next (alu s rd ((a.setWidth 32).signExtend 64))
/-- ZEXT.b, unary. -/
def execZextB (rd rs1 : Reg) (s : State) : Out :=
  let a := s.x rs1
  .next (alu s rd ((a.setWidth 8).setWidth 64))
/-- ZEXT.h, unary. -/
def execZextH (rd rs1 : Reg) (s : State) : Out :=
  let a := s.x rs1
  .next (alu s rd ((a.setWidth 16).setWidth 64))
/-- ZEXT.w, unary. -/
def execZextW (rd rs1 : Reg) (s : State) : Out :=
  let a := s.x rs1
  .next (alu s rd ((a.setWidth 32).setWidth 64))
/-- BSWAP, unary. -/
def execBswap (rd rs1 : Reg) (s : State) : Out :=
  let a := s.x rs1
  .next (alu s rd (bswap8 a))
/-- CMOVZ: a if b = 0, else the old X[rd]. -/
def execCmovz (rd rs1 rs2 : Reg) (s : State) : Out :=
  .next (alu s rd (if s.x rs2 = 0 then s.x rs1 else s.x rd))
/-- CMOVN: a if b ≠ 0, else the old X[rd]. -/
def execCmovn (rd rs1 rs2 : Reg) (s : State) : Out :=
  .next (alu s rd (if s.x rs2 = 0 then s.x rd else s.x rs1))

/-! Major 1, the word forms (R98). -/

/-- ADD.W. -/
def execAddW (rd rs1 rs2 : Reg) (s : State) : Out :=
  .next (alu s rd (wordForm (fun a b => a + b) (s.x rs1) (s.x rs2)))
/-- SUB.W. -/
def execSubW (rd rs1 rs2 : Reg) (s : State) : Out :=
  .next (alu s rd (wordForm (fun a b => a - b) (s.x rs1) (s.x rs2)))
/-- SLL.W. -/
def execSllW (rd rs1 rs2 : Reg) (s : State) : Out :=
  .next (alu s rd (wordForm (fun a b => a <<< sh5 b) (s.x rs1) (s.x rs2)))
/-- SRL.W. -/
def execSrlW (rd rs1 rs2 : Reg) (s : State) : Out :=
  .next (alu s rd (wordForm (fun a b => a >>> sh5 b) (s.x rs1) (s.x rs2)))
/-- SRA.W. -/
def execSraW (rd rs1 rs2 : Reg) (s : State) : Out :=
  .next (alu s rd (wordForm (fun a b => a.sshiftRight (sh5 b)) (s.x rs1) (s.x rs2)))
/-- ROL.W. -/
def execRolW (rd rs1 rs2 : Reg) (s : State) : Out :=
  .next (alu s rd (wordForm (fun a b => rotL a (sh5 b)) (s.x rs1) (s.x rs2)))
/-- ROR.W. -/
def execRorW (rd rs1 rs2 : Reg) (s : State) : Out :=
  .next (alu s rd (wordForm (fun a b => rotR a (sh5 b)) (s.x rs1) (s.x rs2)))
/-- MUL.W. -/
def execMulW (rd rs1 rs2 : Reg) (s : State) : Out :=
  .next (alu s rd (wordForm (fun a b => a * b) (s.x rs1) (s.x rs2)))
/-- DIV.W (R99). -/
def execDivW (rd rs1 rs2 : Reg) (s : State) : Out :=
  .next (alu s rd (wordForm (divS) (s.x rs1) (s.x rs2)))
/-- DIVN.W (R99). -/
def execDivnW (rd rs1 rs2 : Reg) (s : State) : Out :=
  .next (alu s rd (wordForm (divU) (s.x rs1) (s.x rs2)))
/-- REM.W (R99). -/
def execRemW (rd rs1 rs2 : Reg) (s : State) : Out :=
  .next (alu s rd (wordForm (remS) (s.x rs1) (s.x rs2)))
/-- REMN.W (R99). -/
def execRemnW (rd rs1 rs2 : Reg) (s : State) : Out :=
  .next (alu s rd (wordForm (remU) (s.x rs1) (s.x rs2)))
/-- CLZ.W, unary. -/
def execClzW (rd rs1 : Reg) (s : State) : Out :=
  .next (alu s rd (wordForm (fun a _ => BitVec.ofNat 32 (clzN a)) (s.x rs1) 0))
/-- CTZ.W, unary. -/
def execCtzW (rd rs1 : Reg) (s : State) : Out :=
  .next (alu s rd (wordForm (fun a _ => BitVec.ofNat 32 (ctzN a)) (s.x rs1) 0))
/-- CPOP.W, unary. -/
def execCpopW (rd rs1 : Reg) (s : State) : Out :=
  .next (alu s rd (wordForm (fun a _ => BitVec.ofNat 32 (cpopN a)) (s.x rs1) 0))
/-- BSWAP.W, unary. -/
def execBswapW (rd rs1 : Reg) (s : State) : Out :=
  .next (alu s rd (wordForm (fun a _ => bswap4 a) (s.x rs1) 0))

/-! Majors 2 to 10 (R100, R31). -/

/-- ADDI: a + b with b the sign-extended immediate. -/
def execAddi (rd rs1 : Reg) (imm : BitVec 14) (s : State) : Out :=
  let a := s.x rs1; let b := imm14 imm
  .next (alu s rd (a + b))
/-- ANDI: a &&& b with b the sign-extended immediate. -/
def execAndi (rd rs1 : Reg) (imm : BitVec 14) (s : State) : Out :=
  let a := s.x rs1; let b := imm14 imm
  .next (alu s rd (a &&& b))
/-- ORI: a ||| b with b the sign-extended immediate. -/
def execOri (rd rs1 : Reg) (imm : BitVec 14) (s : State) : Out :=
  let a := s.x rs1; let b := imm14 imm
  .next (alu s rd (a ||| b))
/-- XORI: a ^^^ b with b the sign-extended immediate. -/
def execXori (rd rs1 : Reg) (imm : BitVec 14) (s : State) : Out :=
  let a := s.x rs1; let b := imm14 imm
  .next (alu s rd (a ^^^ b))
/-- SLTI: b2w (a.slt b) with b the sign-extended immediate. -/
def execSlti (rd rs1 : Reg) (imm : BitVec 14) (s : State) : Out :=
  let a := s.x rs1; let b := imm14 imm
  .next (alu s rd (b2w (a.slt b)))
/-- SLTNI: b2w (a.ult b) with b the sign-extended immediate. -/
def execSltni (rd rs1 : Reg) (imm : BitVec 14) (s : State) : Out :=
  let a := s.x rs1; let b := imm14 imm
  .next (alu s rd (b2w (a.ult b)))
/-- SLLI. -/
def execSlli (rd rs1 : Reg) (sh : BitVec 6) (s : State) : Out :=
  let a := s.x rs1
  .next (alu s rd (a <<< sh.toNat))
/-- SRLI. -/
def execSrli (rd rs1 : Reg) (sh : BitVec 6) (s : State) : Out :=
  let a := s.x rs1
  .next (alu s rd (a >>> sh.toNat))
/-- SRAI. -/
def execSrai (rd rs1 : Reg) (sh : BitVec 6) (s : State) : Out :=
  let a := s.x rs1
  .next (alu s rd (a.sshiftRight sh.toNat))
/-- RORI. -/
def execRori (rd rs1 : Reg) (sh : BitVec 6) (s : State) : Out :=
  let a := s.x rs1
  .next (alu s rd (rotR a sh.toNat))
/-- LIU: sext(imm19, 19) << 13. -/
def execLiu (rd : Reg) (imm : BitVec 19) (s : State) : Out := .next (alu s rd (immXl imm))
/-- ADDPC: PC + (sext(imm19, 19) << 13). -/
def execAddpc (rd : Reg) (imm : BitVec 19) (s : State) : Out := .next (alu s rd (s.pc + immXl imm))

/-! Compact forms (R28). -/

/-- L: X[LDST], read before the instruction (R27, R28). -/
def State.lastDest (s : State) : Word := s.x ((s.csr Csr.ldst).setWidth 5)

/-- ADD.C: X[r] := l + v, with v = X[r]. -/
def execAddC (r : Reg) (s : State) : Out :=
  let l := s.lastDest; let v := s.x r
  .next (alu s r (l + v) 2)
/-- SUB.C: X[r] := l - v, with v = X[r]. -/
def execSubC (r : Reg) (s : State) : Out :=
  let l := s.lastDest; let v := s.x r
  .next (alu s r (l - v) 2)
/-- AND.C: X[r] := l &&& v, with v = X[r]. -/
def execAndC (r : Reg) (s : State) : Out :=
  let l := s.lastDest; let v := s.x r
  .next (alu s r (l &&& v) 2)
/-- OR.C: X[r] := l ||| v, with v = X[r]. -/
def execOrC (r : Reg) (s : State) : Out :=
  let l := s.lastDest; let v := s.x r
  .next (alu s r (l ||| v) 2)
/-- XOR.C: X[r] := l ^^^ v, with v = X[r]. -/
def execXorC (r : Reg) (s : State) : Out :=
  let l := s.lastDest; let v := s.x r
  .next (alu s r (l ^^^ v) 2)
/-- SLL.C: X[r] := l <<< sh6 v, with v = X[r]. -/
def execSllC (r : Reg) (s : State) : Out :=
  let l := s.lastDest; let v := s.x r
  .next (alu s r (l <<< sh6 v) 2)
/-- SRL.C: X[r] := l >>> sh6 v, with v = X[r]. -/
def execSrlC (r : Reg) (s : State) : Out :=
  let l := s.lastDest; let v := s.x r
  .next (alu s r (l >>> sh6 v) 2)
/-- SRA.C: X[r] := l.sshiftRight (sh6 v), with v = X[r]. -/
def execSraC (r : Reg) (s : State) : Out :=
  let l := s.lastDest; let v := s.x r
  .next (alu s r (l.sshiftRight (sh6 v)) 2)
/-- MUL.C: X[r] := l * v, with v = X[r]. -/
def execMulC (r : Reg) (s : State) : Out :=
  let l := s.lastDest; let v := s.x r
  .next (alu s r (l * v) 2)
/-- SLT.C: X[r] := b2w (l.slt v), with v = X[r]. -/
def execSltC (r : Reg) (s : State) : Out :=
  let l := s.lastDest; let v := s.x r
  .next (alu s r (b2w (l.slt v)) 2)
/-- SLTN.C: X[r] := b2w (l.ult v), with v = X[r]. -/
def execSltnC (r : Reg) (s : State) : Out :=
  let l := s.lastDest; let v := s.x r
  .next (alu s r (b2w (l.ult v)) 2)
/-- MV.C: X[r] := l. -/
def execMvC (r : Reg) (s : State) : Out :=
  let l := s.lastDest
  .next (alu s r (l) 2)
/-- ADDI.C: X[r] := l + imm.signExtend 64. -/
def execAddiC (r : Reg) (imm : BitVec 4) (s : State) : Out :=
  let l := s.lastDest
  .next (alu s r (l + imm.signExtend 64) 2)
/-- ANDI.C: X[r] := l &&& imm.signExtend 64. -/
def execAndiC (r : Reg) (imm : BitVec 4) (s : State) : Out :=
  let l := s.lastDest
  .next (alu s r (l &&& imm.signExtend 64) 2)
/-- SLLI.C: X[r] := l <<< imm.toNat. -/
def execSlliC (r : Reg) (imm : BitVec 4) (s : State) : Out :=
  let l := s.lastDest
  .next (alu s r (l <<< imm.toNat) 2)
/-- SRLI.C: X[r] := l >>> imm.toNat. -/
def execSrliC (r : Reg) (imm : BitVec 4) (s : State) : Out :=
  let l := s.lastDest
  .next (alu s r (l >>> imm.toNat) 2)
/-- SRAI.C: X[r] := l.sshiftRight imm.toNat. -/
def execSraiC (r : Reg) (imm : BitVec 4) (s : State) : Out :=
  let l := s.lastDest
  .next (alu s r (l.sshiftRight imm.toNat) 2)
/-- LI.C: X[r] := imm.signExtend 64. -/
def execLiC (r : Reg) (imm : BitVec 4) (s : State) : Out :=
  .next (alu s r (imm.signExtend 64) 2)
/-- NOP.C: no effect. -/
def execNopC (s : State) : Out := .next (s.run .plain fun s => .ok (s.next 2))

end Sys2Proof.Machine
end

