-- ==== Sys2Proof/Machine/Flags.lean ====
section
/-! DEFINITION. Flags, rounding modes and the one rounding step (spec/01 R16, R17; spec/04 R75, R76, R80-R83). -/

namespace Sys2Proof.Machine

/-- Raised flags in the layout of FFLAGS[5:0] (R17). -/
abbrev Flags := BitVec 6
/-- Inexact. -/
def fNX : Flags := 0x01
/-- Underflow. -/
def fUF : Flags := 0x02
/-- Overflow. -/
def fOF : Flags := 0x04
/-- Division by zero. -/
def fDZ : Flags := 0x08
/-- Invalid operation. -/
def fNV : Flags := 0x10
/-- A result was saturated. -/
def fSAT : Flags := 0x20

/-- The rounding modes (R81). -/
inductive Rm where
  | rne | rtz | rdn | rup | rmm | rsr
deriving DecidableEq, Repr

/-- The mode that FRM names (R16). -/
def Rm.ofFrm (n : Nat) : Rm :=
  match n % 8 with
  | 0 => .rne
  | 1 => .rtz
  | 2 => .rdn
  | 3 => .rup
  | 4 => .rmm
  | _ => .rsr

/-- The mode of a vector word: RND, or FRM where RND is 0b00 (R81). -/
def Rm.ofRnd (rnd : BitVec 2) (frm : Nat) : Rm :=
  match rnd.toNat with
  | 1 => .rne
  | 2 => .rtz
  | 3 => .rsr
  | _ => .ofFrm frm

/-- The xorshift128+ step: the drawn value and the next state (R83). -/
def nextRandom (s0 s1 : Word) : Word × Word × Word :=
  let t := s0 ^^^ (s0 <<< 23)
  let t := t ^^^ (t >>> 17) ^^^ s1 ^^^ (s1 >>> 26)
  (t + s1, s1, t)

/-- The stochastic state and whether rounding draws from it: threaded through every rounding. -/
structure Rng where
  rm : Rm
  s0 : Word
  s1 : Word
deriving DecidableEq, Repr

/-- One draw, taken for every rounding in stochastic mode and for none otherwise: q (R82). -/
def Rng.draw (r : Rng) : Nat × Rng :=
  match r.rm with
  | .rsr => let (v, a, b) := nextRandom r.s0 r.s1; (v.toNat / 2 ^ 32, { r with s0 := a, s1 := b })
  | _ => (0, r)

/-- n draws. -/
def Rng.draws : Nat → Rng → List Nat × Rng
  | 0, r => ([], r)
  | n + 1, r => let (q, r) := r.draw; let (qs, r) := Rng.draws n r; (q :: qs, r)

/-- Discarding `rem` out of `2^d` above a kept magnitude `lo`, with a nonzero rest below if `st`: whether the magnitude
goes up (R81, R82). -/
def roundsUp (rm : Rm) (q : Nat) (neg : Bool) (lo rem d : Nat) (st : Bool) : Bool :=
  let half := 2 ^ d / 2
  let inexact := decide (rem ≠ 0) || st
  match rm with
  | .rne => decide (half < rem) && decide (0 < d) || (decide (rem = half) && decide (0 < d) && (st || decide (lo % 2 = 1)))
  | .rtz => false
  | .rdn => neg && inexact
  | .rup => !neg && inexact
  | .rmm => decide (half ≤ rem) && decide (0 < d)
  | .rsr => decide (q < rem * 2 ^ 32 / 2 ^ d)

/-- An exact magnitude m × 2^e, or, with `st`, one strictly between m × 2^e and (m + 1) × 2^e. -/
structure Ex where
  m : Nat
  e : Int
  st : Bool
deriving DecidableEq, Repr

/-- A magnitude rounded to a multiple of 2^k: the multiple, and whether it is inexact. -/
def Ex.roundAt (x : Ex) (rm : Rm) (q : Nat) (neg : Bool) (k : Int) : Nat × Bool :=
  if k ≤ x.e then (x.m * 2 ^ (x.e - k).toNat, x.st)
  else
    let d := (k - x.e).toNat
    let lo := x.m / 2 ^ d
    let rem := x.m % 2 ^ d
    (if roundsUp rm q neg lo rem d x.st then lo + 1 else lo, decide (rem ≠ 0) || x.st)

/-- Rounds the exact rational num / 2^d to an integer (R76). -/
def roundInt (rm : Rm) (q : Nat) (num : Int) (d : Nat) : Int :=
  let neg := decide (num < 0)
  let (v, _) := Ex.roundAt { m := num.natAbs, e := -(d : Int), st := false } rm q neg 0
  if neg then -(v : Int) else v

/-- Clamps to the signed or natural range of width w; raises SAT when it clamps (R75). -/
def satInt (signed : Bool) (w : Nat) (v : Int) : Int × Flags :=
  let lo : Int := if signed then -(2 ^ (w - 1)) else 0
  let hi : Int := if signed then 2 ^ (w - 1) - 1 else 2 ^ w - 1
  if v < lo then (lo, fSAT) else if hi < v then (hi, fSAT) else (v, 0)

end Sys2Proof.Machine
end

