-- ==== Sys2Proof/Machine/Float.lean ====
section
/-! DEFINITION. Floating formats, their values, and arithmetic that is exact up to one rounding (spec/04 R77-R84). -/

namespace Sys2Proof.Machine

/-- A floating format: width, precision (the hidden bit included), bias, and whether it has infinities (R77). -/
structure Fmt where
  width : Nat
  prec : Nat
  bias : Nat
  hasInf : Bool
deriving DecidableEq, Repr

def f16 : Fmt := { width := 16, prec := 11, bias := 15, hasInf := true }
def f32 : Fmt := { width := 32, prec := 24, bias := 127, hasInf := true }
def f64 : Fmt := { width := 64, prec := 53, bias := 1023, hasInf := true }
def bf16 : Fmt := { width := 16, prec := 8, bias := 127, hasInf := true }
def e4m3 : Fmt := { width := 8, prec := 4, bias := 7, hasInf := false }
def e5m2 : Fmt := { width := 8, prec := 3, bias := 15, hasInf := true }

/-- The all-ones biased exponent. -/
def Fmt.ones (f : Fmt) : Nat := 2 ^ (f.width - f.prec) - 1
/-- Exponent of the smallest subnormal. -/
def Fmt.emin (f : Fmt) : Int := 2 - (f.bias : Int) - f.prec
/-- The bits of the largest finite magnitude. -/
def Fmt.maxBits (f : Fmt) : Nat := if f.hasInf then f.ones * 2 ^ (f.prec - 1) - 1 else 2 ^ (f.width - 1) - 2
/-- The canonical NaN (R77, R78). -/
def Fmt.nan (f : Fmt) : Nat :=
  if f.hasInf then f.ones * 2 ^ (f.prec - 1) + 2 ^ (f.prec - 2) else 2 ^ (f.width - 1) - 1
/-- Sign bit in place. -/
def Fmt.signed (f : Fmt) (neg : Bool) (mag : Nat) : Nat := if neg then mag + 2 ^ (f.width - 1) else mag
/-- Infinity, or the canonical NaN where the format has none (R81). -/
def Fmt.inf (f : Fmt) (neg : Bool) : Nat := if f.hasInf then f.signed neg (f.ones * 2 ^ (f.prec - 1)) else f.nan

/-- What a bit pattern means. -/
inductive FVal where
  | nan (signaling : Bool)
  | inf (neg : Bool)
  | zero (neg : Bool)
  /-- (−1)^neg × m × 2^e with m ≠ 0. -/
  | fin (neg : Bool) (m : Nat) (e : Int)
deriving DecidableEq, Repr

/-- The value of a pattern of a format (R77, R78). -/
def Fmt.value (f : Fmt) (v : Nat) : FVal :=
  let neg := decide (v / 2 ^ (f.width - 1) % 2 = 1)
  let be := v / 2 ^ (f.prec - 1) % 2 ^ (f.width - f.prec)
  let fr := v % 2 ^ (f.prec - 1)
  if f.hasInf ∧ be = f.ones then
    if fr = 0 then .inf neg else .nan (decide (f.width ≠ 8) && decide (fr < 2 ^ (f.prec - 2)))
  else if ¬ f.hasInf ∧ be = f.ones ∧ fr = 2 ^ (f.prec - 1) - 1 then .nan false
  else if be = 0 then if fr = 0 then .zero neg else .fin neg fr f.emin
  else .fin neg (fr + 2 ^ (f.prec - 1)) ((be : Int) - f.bias - f.prec + 1)

/-- A result: its bits and the flags it raises. -/
abbrev FRes := Nat × Flags

/-- The bits of the magnitude sig × 2^k, which the format represents. -/
def Fmt.encode (f : Fmt) (sig : Nat) (k : Int) : Nat :=
  let (sig, k) := if 2 ^ f.prec ≤ sig then (sig / 2, k + 1) else (sig, k)
  if sig < 2 ^ (f.prec - 1) then sig
  else (k + f.prec - 1 + f.bias).toNat * 2 ^ (f.prec - 1) + (sig - 2 ^ (f.prec - 1))

/-- The overflow result (R81). -/
def Fmt.overflow (f : Fmt) (rm : Rm) (satf neg : Bool) : FRes :=
  let big := f.signed neg f.maxBits
  if satf then (big, fSAT ||| fNX)
  else
    let r := match rm with
      | .rtz => big
      | .rdn => if neg then f.inf true else big
      | .rup => if neg then big else f.inf false
      | _ => f.inf neg
    (r, fOF ||| fNX)

/-- Round(value, mode, format) of a nonzero magnitude with sign, with the flags of R80 (R81). -/
def Fmt.round (f : Fmt) (rm : Rm) (q : Nat) (satf neg : Bool) (x : Ex) : FRes :=
  let top : Int := x.e + Nat.log2 x.m
  let ku : Int := top - f.prec + 1
  let k : Int := max ku f.emin
  let (su, _) := x.roundAt rm q neg ku
  let (sg, inex) := x.roundAt rm q neg k
  -- the unbounded result exceeds the largest finite value
  let maxSig := f.maxBits % 2 ^ (f.prec - 1) + 2 ^ (f.prec - 1)
  let maxK : Int := (f.maxBits / 2 ^ (f.prec - 1) : Nat) - (f.bias : Int) - f.prec + 1
  let large : Bool := if maxK < ku then true
    else if ku = maxK then decide (maxSig < su)
    else decide (maxSig * 2 ^ (maxK - ku).toNat < su)
  if large then f.overflow rm satf neg
  else
    let tiny : Bool := decide (su = 0) || decide (ku + Nat.log2 su < 1 - (f.bias : Int))
    (f.signed neg (f.encode sg k), (if inex then fNX else 0) ||| (if tiny && inex then fUF else 0))

/-- A NaN result; NV where an operand signals. -/
def Fmt.nanRes (f : Fmt) (invalid : Bool) : FRes := (f.nan, if invalid then fNV else 0)
/-- A signed zero. -/
def Fmt.zeroRes (f : Fmt) (neg : Bool) : FRes := (f.signed neg 0, 0)
/-- The value is a signaling NaN. -/
def FVal.snan : FVal → Bool
  | .nan s => s
  | _ => false
/-- The value is a NaN. -/
def FVal.isNan : FVal → Bool
  | .nan _ => true
  | _ => false
/-- The sign inverted. -/
def FVal.neg : FVal → FVal
  | .nan s => .nan s
  | .inf s => .inf !s
  | .zero s => .zero !s
  | .fin s m e => .fin (!s) m e
/-- The sign. -/
def FVal.sign : FVal → Bool
  | .nan _ => false
  | .inf s => s
  | .zero s => s
  | .fin s _ _ => s

/-- Signed significand at a common exponent. -/
def scaled (neg : Bool) (m : Nat) (e k : Int) : Int :=
  let v : Int := (m * 2 ^ (e - k).toNat : Nat)
  if neg then -v else v

/-- The exact sum of two values, rounded once; its format and overflow follow R81. No rule gives the sign of an
exact zero sum of addends of opposite sign: it is +0, and −0 under RDN, as in IEEE 754-2019 (PRESUMED: log 125). -/
def Fmt.addV (f : Fmt) (rm : Rm) (q : Nat) (a b : FVal) : FRes :=
  match a, b with
  | .nan s, _ => f.nanRes (s || b.snan)
  | _, .nan s => f.nanRes s
  | .inf s, .inf t => if s = t then (f.inf s, 0) else f.nanRes true
  | .inf s, _ => (f.inf s, 0)
  | _, .inf s => (f.inf s, 0)
  | .zero s, .zero t => f.zeroRes (if s = t then s else decide (rm = .rdn))
  | .zero _, .fin s m e => f.round rm q false s { m := m, e := e, st := false }
  | .fin s m e, .zero _ => f.round rm q false s { m := m, e := e, st := false }
  | .fin s m e, .fin t n d =>
    let k := min e d
    let v := scaled s m e k + scaled t n d k
    if v = 0 then f.zeroRes (decide (rm = .rdn))
    else f.round rm q false (decide (v < 0)) { m := v.natAbs, e := k, st := false }

/-- The exact product of two values: finite, or with the invalid operation it is. -/
def mulV (a b : FVal) : FVal × Bool :=
  match a, b with
  | .nan s, _ => (.nan false, s || b.snan)
  | _, .nan s => (.nan false, s)
  | .inf _, .zero _ => (.nan false, true)
  | .zero _, .inf _ => (.nan false, true)
  | .inf s, _ => (.inf (s != b.sign), false)
  | _, .inf t => (.inf (a.sign != t), false)
  | .zero s, _ => (.zero (s != b.sign), false)
  | _, .zero t => (.zero (a.sign != t), false)
  | .fin s m e, .fin t n d => (.fin (s != t) (m * n) (e + d), false)

/-- A value delivered in a format, rounded once (R84): infinity goes to infinity, to ±largest with SATF, or to NaN with
NV where the format has no infinity. -/
def Fmt.ofV (f : Fmt) (rm : Rm) (q : Nat) (satf : Bool) (a : FVal) : FRes :=
  match a with
  | .nan s => f.nanRes s
  | .inf s => if satf then (f.signed s f.maxBits, fSAT ||| fNX) else if f.hasInf then (f.inf s, 0) else f.nanRes true
  | .zero s => f.zeroRes s
  | .fin s m e => f.round rm q satf s { m := m, e := e, st := false }

/-- a × b, rounded once. -/
def Fmt.mulVR (f : Fmt) (rm : Rm) (q : Nat) (a b : FVal) : FRes :=
  let (p, inv) := mulV a b
  if inv then f.nanRes true else f.ofV rm q false p

/-- a × b + c with one rounding; 0 × ∞ is invalid even with a quiet NaN addend (R117). -/
def Fmt.fmaV (f : Fmt) (rm : Rm) (q : Nat) (a b c : FVal) : FRes :=
  let (p, inv) := mulV a b
  if inv then f.nanRes true else f.addV rm q p c

/-- a / b, rounded once (R80, R81). -/
def Fmt.divV (f : Fmt) (rm : Rm) (q : Nat) (a b : FVal) : FRes :=
  match a, b with
  | .nan s, _ => f.nanRes (s || b.snan)
  | _, .nan s => f.nanRes s
  | .inf _, .inf _ => f.nanRes true
  | .zero _, .zero _ => f.nanRes true
  | .inf s, _ => (f.inf (s != b.sign), 0)
  | _, .inf t => f.zeroRes (a.sign != t)
  | .zero s, _ => f.zeroRes (s != b.sign)
  | .fin s _ _, .zero t => (f.inf (s != t), fDZ)
  | .fin s m e, .fin t n d =>
    let sh := 2 * f.prec + 64 + Nat.log2 n
    let x := m * 2 ^ sh
    f.round rm q false (s != t) { m := x / n, e := e - d - sh, st := decide (x % n ≠ 0) }

/-- Integer square root, one bit of the result per step from bit `n - 1` down. -/
def isqrtAux : Nat → Nat → Nat → Nat
  | 0, _, r => r
  | n + 1, x, r =>
    let t := r + 2 ^ n
    if t * t ≤ x then isqrtAux n x t else isqrtAux n x r
/-- floor(√x). -/
def isqrt (x : Nat) : Nat := isqrtAux (Nat.log2 x / 2 + 1) x 0

/-- √a, rounded once; −0 gives −0, another negative value NaN with NV (R114). -/
def Fmt.sqrtV (f : Fmt) (rm : Rm) (q : Nat) (a : FVal) : FRes :=
  match a with
  | .nan s => f.nanRes s
  | .zero s => f.zeroRes s
  | .inf true => f.nanRes true
  | .inf false => (f.inf false, 0)
  | .fin true _ _ => f.nanRes true
  | .fin false m e =>
    let sh : Nat := 2 * f.prec + 70 + (if (e - (2 * f.prec + 70 : Nat)) % 2 = 0 then 0 else 1)
    let x := m * 2 ^ sh
    let r := isqrt x
    f.round rm q false false { m := r, e := (e - sh) / 2, st := decide (r * r ≠ x) }

/-- Order of two values that are not NaN: −0 below +0 if `zeros` (R78). -/
def FVal.lt (zeros : Bool) (a b : FVal) : Bool :=
  match a, b with
  | .nan _, _ => false
  | _, .nan _ => false
  | .inf s, .inf t => s && !t
  | .inf s, _ => s
  | _, .inf t => !t
  | .zero s, .zero t => zeros && s && !t
  | .zero _, .fin t _ _ => !t
  | .fin s _ _, .zero _ => s
  | .fin s m e, .fin t n d => let k := min e d; decide (scaled s m e k < scaled t n d k)

/-- Equality of two values that are not NaN, with −0 = +0. -/
def FVal.eq (a b : FVal) : Bool := !a.isNan && !b.isNan && !a.lt false b && !b.lt false a

/-- minimumNumber or maximumNumber of two patterns (R78). -/
def Fmt.minmax (f : Fmt) (isMax : Bool) (a b : Nat) : FRes :=
  let x := f.value a; let y := f.value b
  let fl := if x.snan || y.snan then fNV else 0
  let pat (v : Nat) := v % 2 ^ f.width
  if x.isNan then (if y.isNan then f.nan else pat b, fl)
  else if y.isNan then (pat a, fl)
  else
    let pickA := if isMax then !x.lt true y else x.lt true y
    (if pickA then pat a else pat b, fl)

/-- Comparison relations. -/
inductive Rel where
  | eq | ne | lt | le | gt | ge
deriving DecidableEq, Repr

/-- A floating comparison: EQ and NE quiet, the others signaling (R115). -/
def Fmt.cmp (f : Fmt) (r : Rel) (a b : Nat) : Bool × Flags :=
  let x := f.value a; let y := f.value b
  let anyNan := x.isNan || y.isNan
  let sig := x.snan || y.snan
  match r with
  | .eq => (x.eq y, if sig then fNV else 0)
  | .ne => (!x.eq y, if sig then fNV else 0)
  | .lt => (!anyNan && x.lt false y, if anyNan then fNV else 0)
  | .le => (!anyNan && !y.lt false x, if anyNan then fNV else 0)
  | .gt => (!anyNan && y.lt false x, if anyNan then fNV else 0)
  | .ge => (!anyNan && !x.lt false y, if anyNan then fNV else 0)

/-- The class number of FCLASS (R115). -/
def Fmt.classOf (f : Fmt) (a : Nat) : Nat :=
  match f.value a with
  | .inf true => 0
  | .fin true m _ => if m < 2 ^ (f.prec - 1) then 2 else 1
  | .zero true => 3
  | .zero false => 4
  | .fin false m _ => if m < 2 ^ (f.prec - 1) then 5 else 6
  | .inf false => 7
  | .nan true => 8
  | .nan false => 9

/-- Sign injection: a with the given sign (R78). -/
def Fmt.withSign (f : Fmt) (a : Nat) (neg : Bool) : Nat := f.signed neg (a % 2 ^ (f.width - 1))
/-- The sign bit of a pattern. -/
def Fmt.signBit (f : Fmt) (a : Nat) : Bool := decide (a / 2 ^ (f.width - 1) % 2 = 1)

/-- Floating to integer of width w (R84): the value as an integer. -/
def toIntV (rm : Rm) (q : Nat) (signed : Bool) (w : Nat) (a : FVal) : Int × Flags :=
  let lo : Int := if signed then -(2 ^ (w - 1)) else 0
  let hi : Int := if signed then 2 ^ (w - 1) - 1 else 2 ^ w - 1
  match a with
  | .nan _ => (hi, fNV)
  | .inf s => (if s then lo else hi, fNV)
  | .zero _ => (0, 0)
  | .fin s m e =>
    let (r, inex) := Ex.roundAt { m := m, e := e, st := false } rm q s 0
    let v : Int := if s then -(r : Int) else r
    if v < lo then (lo, fNV) else if hi < v then (hi, fNV) else (v, if inex then fNX else 0)

/-- Integer to floating (R84). -/
def Fmt.ofInt (f : Fmt) (rm : Rm) (q : Nat) (satf : Bool) (v : Int) : FRes :=
  if v = 0 then (0, 0) else f.round rm q satf (decide (v < 0)) { m := v.natAbs, e := 0, st := false }

end Sys2Proof.Machine
end

