-- ==== Sys2Proof/Machine/Access.lean ====
section
/-! DEFINITION. From virtual addresses to bytes: page tables in one or two stages, the TLB, the checks of an access in
their order, and reading and writing through the chunk buffer (spec/05 R107-R109; spec/12 R272-R274; spec/23
R383-R390; spec/09 R225, R227; spec/22 R379-R382). -/

namespace Sys2Proof.Machine

/-- Kinds of access. -/
inductive Kind where
  | load | store | fetch
deriving DecidableEq, Repr

/-- On whose behalf an address is translated. -/
structure Who where
  hart : Nat
  core : Nat
  ctx : Nat
  asid : Nat
  mode : Mode
deriving DecidableEq, Repr

/-- The hart h itself. -/
def State.who (s : State) (h : Nat) : Who :=
  { hart := h, core := coreOf h, ctx := (s.hart h).ctx, asid := (s.hart h).asid, mode := (s.hart h).a.mode }

/-- Why an address does not translate. -/
inductive TErr where
  /-- A stage-1 page fault (R385). -/
  | page
  /-- A leaf that does not permit the access (R385). -/
  | perm
  /-- A place that permits no access: the address hole, a key slot that is not live, a function's state (R272, R334, R404). -/
  | place
  /-- GUEST_PAGE_FAULT with the guest-physical address (R389). -/
  | guest (gpa : Nat)
  /-- A stage-2 miss with on-demand paging (R389). -/
  | miss (gpa : Nat)
  /-- A host address without a translation in the hub (R390). -/
  | host (addr : Nat)
  /-- A host address whose page request was not answered Success (R390). -/
  | hostFail (addr : Nat)
deriving DecidableEq, Repr

/-! Page tables (R383-R385, R389). -/

/-- The 64-bit entry at a physical address, read at its home (R387). -/
def State.pteAt (s : State) (pa : Nat) : Word := BitVec.ofNat 64 (leNat ((List.range 8).map fun i => s.rawByte (pa + i)))

/-- PPN as an address (R383). -/
def ptePa (p : Word) : Nat := bits p 47 12 * 4096
/-- R = W = X = 0: a pointer (R383). -/
def pteIsPtr (p : Word) : Bool := decide (bits p 3 1 = 0)
/-- Bytes mapped by a leaf at a level (R384). -/
def leafSize (level : Nat) : Nat := 4096 * 512 ^ level
/-- The size of the page a leaf belongs to, its CONT group included (R384). -/
def pageSize (p : Word) (level : Nat) : Nat :=
  if bit p 8 ∧ level = 0 then 65536 else if bit p 8 ∧ level = 2 then 4 * leafSize 2 else leafSize level
/-- A leaf is well-formed but for its KEYID (R385). -/
def leafOk (p : Word) (level : Nat) : Bool :=
  decide (level ≤ 2) && decide (ptePa p % leafSize level = 0) && (!bit p 2 || bit p 1) && decide (bits p 51 48 = 0)

/-- A walk from the table at `tbl` at a level, reading entries with `rd`; the entry found is V = 0, or a leaf with its
level. A malformed pointer, or a pointer at level 0, ends as V = 0 does. The addresses read are returned. -/
def walk (rd : Nat → Except TErr (Word × List Nat)) (va : Nat) : Nat → Nat → Except TErr (Option (Word × Nat) × List Nat)
  | level, tbl =>
    let go (level : Nat) (down : Nat → Except TErr (Option (Word × Nat) × List Nat)) :=
      match rd (tbl + (va / (4096 * 512 ^ level)) % 512 * 8) with
      | .error e => .error e
      | .ok (p, as) =>
        if !bit p 0 then .ok (none, as)
        else if pteIsPtr p then
          if p.toNat = ptePa p + 1 then (down (ptePa p)).map fun r => (r.1, as ++ r.2) else .ok (none, as)
        else .ok (some (p, level), as)
    match level with
    | 0 => go 0 fun _ => .ok (none, [])
    | l + 1 => go (l + 1) fun t => walk rd va l t

/-- Stage 2 of a function (R389): the physical address behind a guest-physical one, its leaf, and the entries read. -/
def State.stage2 (s : State) (keyid : Nat) (f : Func) (kind : Kind) (gpa : Nat) : Except TErr (Nat × Word × List Nat) :=
  match f.stage2 with
  | none => .error (if f.onDemand then .miss gpa else .guest gpa)
  | some root =>
    match walk (fun a => .ok (s.pteAt a, [a])) (gpa % 2 ^ 57) 4 root with
    | .error e => .error e
    | .ok (none, as) =>
      -- a missing or V = 0 entry; a malformed pointer is told apart by its V bit
      let bad := as.any fun a => let p := s.pteAt a; bit p 0 && pteIsPtr p && decide (p.toNat ≠ ptePa p + 1)
      .error (if f.onDemand ∧ bad = false then .miss gpa else .guest gpa)
    | .ok (some (p, lv), as) =>
      let good := leafOk p lv && decide (bits p 5 4 = 0) && decide (bits p 11 9 = 0) && bit p 6 && bit p 7 &&
        (decide (bits p 63 52 = keyid) || decide (bits p 63 52 = 0))
      let may := match kind with | .load => bit p 1 | .store => bit p 2 | .fetch => bit p 3
      if good && may then .ok (ptePa p + gpa % leafSize lv, p, as) else .error (.guest gpa)

/-- A translation: location, the stage-1 leaf, the size of its page, and the guest-physical address. -/
structure Tr where
  pa : Nat
  pte : Word
  size : Nat
  gpa : Nat
deriving DecidableEq, Repr

/-- Stage-1 checks of a leaf in their order: A and D, then permission (R385, R107). -/
def leafCheck (mode : Mode) (kind : Kind) (p : Word) : Except TErr Unit :=
  if !bit p 6 then .error .page
  else if kind = .store ∧ bit p 7 = false then .error .page
  else
    let may := match kind with | .load => bit p 1 | .store => bit p 2 | .fetch => bit p 3
    if !may then .error .perm
    else if mode = .t ∧ bit p 4 = false then .error .perm else .ok ()

/-- What the location itself allows: the address hole, the key slot, and the host link (R272, R334, R404, R390). -/
def State.locCheck (s : State) (w : Who) (c : Ctx) (p : Word) (pa : Nat) : Except TErr Unit :=
  if hostLoc0 ≤ pa then
    let tdi := match c.function with | some f => (s.func f).tdi | none => .configUnlocked
    if tdi = .configLocked ∨ tdi = .error ∨ (tdi = .configUnlocked ∧ bit p 9 = true) then .error .place
    else if (pa - hostLoc0) / 4096 ∈ s.atc then .ok ()
    else match s.hostReqs.find? fun r => decide (r.hart = w.hart) && decide (r.ctx = w.ctx) && decide (r.addr / 4096 = (pa - hostLoc0) / 4096) &&
        decide (r.answer = some false) with
      | some _ => .error (.hostFail (pa - hostLoc0))
      | none => .error (.host (pa - hostLoc0))
  else if hbmEnd ≤ pa then .error .place
  else if (s.key c.keyid).state = .live then .ok () else .error .place

/-- The KEYID of a stage-1 leaf is the context's, or 0 for host memory (R385); a guest's leaf names a guest-physical
page, whose place is known only after stage 2 (log 13). -/
def keyidOk (c : Ctx) (guest : Bool) (p : Word) : Bool :=
  decide (bits p 63 52 = c.keyid) || (decide (bits p 63 52 = 0) && (guest || decide (hostLoc0 ≤ ptePa p)))

/-- A walk of the context's tables for one address, with the entries read (R383, R385, R389). -/
def State.walkFor (s : State) (w : Who) (kind : Kind) (va : Nat) : Except TErr (Tr × List Nat) :=
  match s.ctx? w.ctx with
  | none => .error .page
  | some c =>
    match (c.asids.find? fun e => decide (e.1 = w.asid)) with
    | none => .error .page
    | some (_, root) =>
      let rd (a : Nat) : Except TErr (Word × List Nat) :=
        match c.function with
        | none => .ok (s.pteAt a, [a])
        | some f => match s.stage2 c.keyid (s.func f) .load a with
          | .error e => .error e
          | .ok (pa, _, as) => .ok (s.pteAt pa, as ++ [pa])
      match walk rd va 4 root with
      | .error e => .error e
      | .ok (none, _) => .error .page
      | .ok (some (p, lv), as) =>
        if leafOk p lv && keyidOk c c.function.isSome p then
          match leafCheck w.mode kind p with
          | .error e => .error e
          | .ok () =>
            let a := ptePa p + va % leafSize lv
            match c.function with
            | none => .ok ({ pa := a, pte := p, size := pageSize p lv, gpa := a }, as)
            | some f => match s.stage2 c.keyid (s.func f) kind a with
              | .error e => .error e
              | .ok (pa, _, as2) => .ok ({ pa := pa, pte := p, size := pageSize p lv, gpa := a }, as ++ as2)
        else .error .page

/-- The cached translation of an address: an entry of the core's TLB, or else of its cluster's (R387). -/
def State.tlbFind (s : State) (w : Who) (va : Nat) : Option TlbEntry :=
  let hit (e : TlbEntry) : Bool := decide (e.ctx = w.ctx) && (e.global || decide (e.asid = w.asid)) && decide (e.va = va / 4096)
  match (s.core w.core).tlb.find? hit with
  | some e => some e
  | none => (s.cluster (w.core / 16)).tlb.find? hit

/-- A TLB of n entries with e in place of the entry for the same page; a full one gives up another (R387). -/
def tlbPut (n victim : Nat) (e : TlbEntry) (l : List TlbEntry) : List TlbEntry :=
  let l := l.filter fun q => !(decide (q.ctx = e.ctx) && decide (q.asid = e.asid) && decide (q.va = e.va))
  e :: if l.length < n then l else l.eraseIdx (victim % n)

/-- The result of a walk enters the TLB of the core, of 96 entries, and of its cluster, of 4,096 (R387). -/
def State.cacheTr (s : State) (core : Nat) (e : TlbEntry) : State :=
  (s.onCore core fun k => { k with tlb := tlbPut 96 (Config.victim s.freeCtr) e k.tlb }).onCluster (core / 16) fun q =>
    { q with tlb := tlbPut 4096 (Config.victim s.freeCtr) e q.tlb }

/-- Translates an address of the context's space: a cached entry that permits the access is used; one that denies it is
discarded and the walk is made again (R387). A walk inserts the lines it reads and caches the result. -/
def State.translate (s : State) (w : Who) (kind : Kind) (va : Word) : Except TErr (Tr × State) :=
  match s.ctx? w.ctx with
  | none => .error .page
  | some c =>
    if 2 ^ 57 ≤ va.toNat then .error .page
    else
      let a := va.toNat
      let cached : Option Tr := match s.tlbFind w a with
        | none => none
        | some e =>
          let ok2 := match kind with | .load => bit e.pte2 1 | .store => bit e.pte2 2 | .fetch => bit e.pte2 3
          match leafCheck w.mode kind e.pte with
          | .ok () =>
            if ok2 then some { pa := e.pa * 4096 + a % 4096, pte := e.pte, size := e.size, gpa := e.gpa * 4096 + a % 4096 }
            else none
          | .error _ => none
      match cached with
      | some t => match s.locCheck w c t.pte t.pa with
        | .error e => .error e
        | .ok () => .ok (t, s)
      | none =>
        match s.walkFor w kind a with
        | .error e => .error e
        | .ok (t, as) =>
          match s.locCheck w c t.pte t.pa with
          | .error e => .error e
          | .ok () =>
            let s := (linesOf (as.filter isHbm)).foldl (fun s l => s.touch (w.core / 16) l .scalar false) s
            let p2 := match c.function with
              | none => 0xF#64
              | some f => match s.stage2 c.keyid (s.func f) kind t.gpa with | .ok (_, p, _) => p | .error _ => 0
            let e : TlbEntry :=
              { ctx := w.ctx, asid := w.asid, global := bit t.pte 5, va := a / 4096, size := t.size, pa := t.pa / 4096,
                pte := t.pte, gpa := t.gpa / 4096, gsize := 4096, pte2 := p2 }
            .ok (t, s.cacheTr w.core e)

/-! The scratchpad window (R274). -/

/-- First address of the LSP window. -/
def lspBaseVa : Nat := 0x0100000000000000
/-- The offset of an address in the LSP window. -/
def lspOffset? (va : Word) : Option Nat :=
  if lspBaseVa ≤ va.toNat ∧ va.toNat < lspBaseVa + 0x80000 then some (va.toNat - lspBaseVa) else none
/-! Accesses. -/

/-- The bytes an access names, and what its pages say. -/
structure Acc where
  locs : List Nat
  /-- Some byte lies on a host-shared page (R161). -/
  hshared : Bool
  /-- Some byte lies on an evict-first page (R280). -/
  ef : Bool
  /-- The evict-first pages among them, by number. -/
  efs : List Nat
  /-- Some byte lies in host memory (R272). -/
  host : Bool
  /-- The size of the page that maps the first byte (R229). -/
  size : Nat
deriving DecidableEq, Repr

/-- An access of no bytes. -/
def Acc.none : Acc := { locs := [], hshared := false, ef := false, efs := [], host := false, size := 4096 }

/-- The trap of a failed translation of a data access or fetch (R107, R25, R385, R272, R389, R390); stage-2 misses and host
misses become parks. -/
def TErr.toExc (s : State) (w : Who) (kind : Kind) (va : Word) (member : Nat) : TErr → Exc
  | .page => .trap (match kind with | .load => Cause.pageLoad | .store => Cause.pageStore | .fetch => Cause.pageFetch)
      va (BitVec.ofNat 64 member)
  | .perm => .trap (if kind = .fetch then Cause.pageFetch else Cause.permission) va (BitVec.ofNat 64 member)
  | .place => .trap Cause.permission va (BitVec.ofNat 64 member)
  | .guest g => .trap Cause.guestPage va (BitVec.ofNat 64 (member * 2 ^ 61 + g % 2 ^ 57))
  | .hostFail a => .trap (if kind = .store then Cause.pageStore else if kind = .load then Cause.pageLoad else Cause.pageFetch)
      va (BitVec.ofNat 64 a ||| 1)
  | .host a => .hostMiss a va (decide (kind = .store))
  | .miss g =>
    .pageMiss s [{ hart := w.hart, pc := (s.hart w.hart).a.pc, func := ((s.ctx? w.ctx).bind (·.function)).getD 0, num := (s.hart w.hart).reqNext,
                   gpa := g, gva := va, asid := w.asid, ctx := w.ctx, write := decide (kind = .store), elem := 0, member := member,
                   vec := false, queued := false, answer := none }]

/-- The error is one of check 4 (R107). -/
def TErr.isPerm (e : TErr) : Bool := decide (e = .perm) || decide (e = .place)

/-- The errors of the translated pages of n bytes from va, from the lowest on. -/
def State.pageErrs (s : State) (w : Who) (kind : Kind) : Nat → Word → Nat → List (Word × TErr)
  | 0, _, _ => []
  | fuel + 1, va, n =>
    let len := Nat.min n (4096 - va.toNat % 4096)
    if n = 0 then []
    else
      let l := s.pageErrs w kind fuel (va + BitVec.ofNat 64 len) (n - len)
      if (lspOffset? va).isSome then l
      else match s.translate w kind va with
        | .error e => (va, e) :: l
        | .ok _ => l

/-- How an access ends whose first untranslatable page fails with e at va: check 3 of every byte comes before check 4, and
a stage-2 miss requests every page of the access that misses (R107, R164). -/
def State.pageExc (s : State) (w : Who) (kind : Kind) (member fuel : Nat) (va : Word) (n : Nat) (e : TErr) : Exc :=
  let errs := s.pageErrs w kind fuel va n
  let (va, e) := if e.isPerm then (errs.find? fun q => !q.2.isPerm).getD (va, e) else (va, e)
  match e.toExc s w kind va member with
  | .pageMiss t reqs =>
    .pageMiss t (reqs ++ errs.flatMap fun q => match q.2 with
      | .miss g =>
        if reqs.all fun r => decide (r.gpa / 4096 ≠ g / 4096) then
          match q.2.toExc s w kind q.1 member with | .pageMiss _ l => l | _ => []
        else []
      | _ => [])
  | x => x

/-- Locates n bytes from va: check 2 for the LSP window, checks 3 and 4 for translated addresses (R107). Pages are translated
once per run of bytes. -/
def State.locate (s : State) (w : Who) (kind : Kind) (member : Nat) : Nat → Word → Nat → Acc → Except Exc (Acc × State)
  | 0, _, _, acc => .ok (acc, s)
  | fuel + 1, va, n, acc =>
    if n = 0 then .ok (acc, s)
    else match lspOffset? va with
      | some o =>
        let seg := (s.core w.core).segOf w.ctx
        if o < seg.size then
          let len := Nat.min n (seg.size - o)
          let locs := (List.range len).map fun i => lspLoc w.core (seg.base + o + i)
          s.locate w kind member fuel (va + BitVec.ofNat 64 len) (n - len) { acc with locs := acc.locs ++ locs }
        else .error (.trap Cause.permission va (BitVec.ofNat 64 member))
      | none =>
        match s.translate w kind va with
        | .error e => .error (s.pageExc w kind member fuel va n e)
        | .ok (t, s) =>
          let len := Nat.min n (4096 - va.toNat % 4096)
          let locs := (List.range len).map fun i => t.pa + i
          let acc := { locs := acc.locs ++ locs, hshared := acc.hshared || bit t.pte 10, ef := acc.ef || bit t.pte 11,
                       efs := if bit t.pte 11 then t.pa / 4096 :: acc.efs else acc.efs,
                       host := acc.host || decide (hostLoc0 ≤ t.pa),
                       size := if acc.locs.isEmpty then t.size else acc.size }
          s.locate w kind member fuel (va + BitVec.ofNat 64 len) (n - len) acc

/-- Checks 2 to 4 of a range of n bytes, piece by piece: address, location and length of each, and whether its page is
evict-first (R107, R280). -/
def State.pieces (s : State) (w : Who) (kind : Kind) (member : Nat) :
    Nat → Word → Nat → List (Nat × Nat × Nat × Bool) → Except Exc (List (Nat × Nat × Nat × Bool) × State)
  | 0, _, _, acc => .ok (acc, s)
  | fuel + 1, va, n, acc =>
    if n = 0 then .ok (acc, s)
    else match lspOffset? va with
      | some o =>
        let seg := (s.core w.core).segOf w.ctx
        if o < seg.size then
          let len := Nat.min n (seg.size - o)
          s.pieces w kind member fuel (va + BitVec.ofNat 64 len) (n - len)
            (acc ++ [(va.toNat, lspLoc w.core (seg.base + o), len, false)])
        else .error (.trap Cause.permission va (BitVec.ofNat 64 member))
      | none =>
        match s.translate w kind va with
        | .error e => .error (s.pageExc w kind member fuel va n e)
        | .ok (t, s) =>
          let len := Nat.min n (4096 - va.toNat % 4096)
          s.pieces w kind member fuel (va + BitVec.ofNat 64 len) (n - len) (acc ++ [(va.toNat, t.pa, len, bit t.pte 11)])

/-- The location of an address in translated pieces. -/
def pieceLoc (ps : List (Nat × Nat × Nat × Bool)) (va : Nat) : Nat :=
  match ps.find? fun p => decide (p.1 ≤ va) && decide (va < p.1 + p.2.2.1) with
  | some p => p.2.1 + (va - p.1)
  | none => 0

/-- The 4 KiB pages of translated pieces that are evict-first (R280). -/
def efPages (ps : List (Nat × Nat × Nat × Bool)) : List Nat := (ps.filter fun p => p.2.2.2).map fun p => p.2.1 / 4096

/-- Two ranges [a, a + n) and [b, c) share a byte. -/
def overlaps (a n b c : Nat) : Bool := decide (a < c) && decide (b < a + n) && decide (0 < n) && decide (b < c)

/-- Check 5: the bytes lie in a bound register's range at or above its MARK (R225). -/
def Core.belowMark (k : Core) (ctx : Nat) (va : Word) (n : Nat) : Bool :=
  k.wm.all fun e =>
    !(decide (e.2.ctx = ctx) && overlaps va.toNat n (Nat.max e.2.lo.toNat e.2.mark.toNat) e.2.hi.toNat)

/-- A bound register covers the bytes (R227). -/
def Core.marked (k : Core) (ctx : Nat) (va : Word) (n : Nat) : Bool :=
  k.wm.any fun e => decide (e.2.ctx = ctx) && decide (e.2.lo.toNat ≤ va.toNat) && decide (va.toNat + n ≤ e.2.hi.toNat)

/-- The first registered range of a kind that the bytes meet: entry index and first shared byte (R227). -/
def Core.locked (k : Core) (ctx : Nat) (sources : Bool) (va : Word) (n : Nat) : Option (Nat × Nat) :=
  let hits := k.rlt.filter fun e =>
    decide (e.2.ctx = ctx) && (sources || !e.2.source) && overlaps va.toNat n e.2.lo e.2.hi
  hits.foldl (fun m e =>
    let first := Nat.max va.toNat e.2.lo
    match m with
    | some (i, b) => if first < b then some (e.1, first) else some (i, b)
    | none => some (e.1, first)) none

/-- Checks 5 and 6 of an access (R107, R225, R227). -/
def State.checkLocks (s : State) (w : Who) (kind : Kind) (member : Nat) (va : Word) (n : Nat) : Except Exc Unit :=
  let k := s.core w.core
  if !k.belowMark w.ctx va n then .error .stall
  else if kind = .store then
    match k.locked w.ctx true va n with
    | some (i, b) => .error (.trap Cause.rangeLock (BitVec.ofNat 64 b) (BitVec.ofNat 64 i))
    | none => .ok ()
  else
    match k.locked w.ctx false va n with
    | some _ => if k.marked w.ctx va n then .ok () else .error .stall
    | none => let _ := member; .ok ()

/-- Check 7: a line whose read return carries an error is fetched once more; if that fails too the read traps (R373,
R283). -/
def State.checkData (s : State) (member : Nat) (va : Word) (locs : List Nat) : Except Exc Unit :=
  match locs.find? fun l => decide (lineOf l ∈ s.badHard) with
  | some l =>
    .error (.trap (if mapGet false s.bad (lineOf l) then Cause.checkMismatch else Cause.dataError)
      (va + BitVec.ofNat 64 (locs.idxOf l)) (BitVec.ofNat 64 member))
  | none => if locs.any fun l => (mapFind? s.bad (lineOf l)).isSome then .error .stall else .ok ()

/-- Alignment, check 1 (R107). -/
def checkAlign (align : Nat) (member : Nat) (va : Word) : Except Exc Unit :=
  if va.toNat % align = 0 then .ok () else .error (.trap Cause.misaligned va (BitVec.ofNat 64 member))

/-- Check 2 of an access that begins below the LSP window and runs into it past the segment (R107). -/
def State.checkWindow (s : State) (w : Who) (member : Nat) (va : Word) (n : Nat) : Except Exc Unit :=
  let size := ((s.core w.core).segOf w.ctx).size
  if va.toNat < lspBaseVa ∧ lspBaseVa + size < va.toNat + n then
    .error (.trap Cause.permission (BitVec.ofNat 64 (lspBaseVa + size)) (BitVec.ofNat 64 member))
  else .ok ()

/-- Checks 1 to 4 of an access of n bytes (R107). -/
def State.check14 (s : State) (w : Who) (kind : Kind) (align member : Nat) (va : Word) (n : Nat) :
    Except Exc (Acc × State) := do
  checkAlign align member va
  s.checkWindow w member va n
  s.locate w kind member (n + 2) va n Acc.none

/-- Checks 1 to 6 of an access of n bytes; reads are checked for data integrity too (R107), and wait where an update of their line
waits (R294). -/
def State.check (s : State) (w : Who) (kind : Kind) (align member : Nat) (va : Word) (n : Nat) :
    Except Exc (Acc × State) := do
  let (acc, s) ← s.check14 w kind align member va n
  s.checkLocks w kind member va n
  if kind = .load then
    if s.waitsUpdate w.hart acc.locs then throw .stall
    s.checkData member va acc.locs
  return (acc, s)

/-! Reading and writing (R108, R109, R159). -/

/-- A scratchpad byte at its bank as hart h sees it: as it was when the hart last took notice of it (R109), with the hart's own
stores of a timed phase that are on their way to their banks (R159, R277). -/
def State.lspByte (s : State) (h loc : Nat) : Byte :=
  let x := s.hart h
  let b := match mapFind? x.lspOld loc with
    | some b => b
    | none => s.homeByte (s.hartMark h) loc
  let banks := (s.core (coreOf h)).banks
  if banks.isEmpty then b
  else banks.foldr (fun u b => match u.op with
    | .write d m _ =>
      if u.hart = h ∧ u.loc = loc / 8 * 8 then
        keepBits (~~~(m >>> (8 * (loc % 8))).setWidth 8) b ((d >>> (8 * (loc % 8))).setWidth 8)
      else b
    | _ => b) b

/-- A byte as the executing hart's chunk sees it: its own buffered store, or its cluster (R159, R295). -/
def State.seeByte (s : State) (h loc : Nat) : Byte :=
  let below := if isLsp loc then s.lspByte h loc else s.clusterByte (clusterOf h) (s.hartMark h) loc
  match (s.hart h).chunk with
  | none => below
  | some c => match mapFind? c.buf loc with
    | some b => keepBits (mapGet 0 c.keep loc) below b
    | none => below

/-- The insertion of an access (R280). -/
def Acc.insert (a : Acc) (ins : Insert) : Insert := if a.ef then .evictFirst else ins

/-- A value from its bytes, lowest first. -/
def leWord (bs : List Byte) : Word := BitVec.ofNat 64 (leNat bs)

/-! The scratchpad in a timed phase (R276-R278). -/

/-- The 8-byte word at a location's word boundary. -/
def State.lspWord (s : State) (mark loc : Nat) : Word :=
  leWord ((List.range 8).map fun i => s.homeByte mark (loc / 8 * 8 + i))

/-- Registers accesses of the executing hart's port to the banks of scratchpad words, in the second cycle after issue and
`later w` more (R277, R278). -/
def State.bankAsk (s : State) (port : Nat) (later : Nat → Nat) (op : Nat → BankOp) (words : List Nat) : State :=
  words.foldl (fun s w =>
    let core := (w * 8 - lspLoc0) / 0x80000
    let u : BankUse := { cycle := s.cycle + 2 + later w, bank := s.bankFor s.me.ctx (s.csr Csr.lspswz) (w * 8), port := port,
                         hart := s.cur, loc := w * 8, op := op w }
    s.onCore core fun k => { k with banks := u :: k.banks }) s

/-- Elements of the core's vector registers are still on their way from scratchpad banks (R278). -/
def Core.bankLoads (k : Core) : Bool := k.banks.any fun u => match u.op with | .vec _ _ _ _ _ _ => true | _ => false

/-- Some hart of the core of a scratchpad location is in a timed phase (R277). -/
def State.timedAt (s : State) (loc : Nat) : Bool :=
  (hartsOfCore ((loc - lspLoc0) / 0x80000)).any fun h => bit ((s.hart h).csr Csr.phase) 1

/-- The requests of an engine's port or of remote ingress for the banks of scratchpad words, in this cycle: the words
whose banks are lost, with the winner's word (R277, R278). The requests stand against those of higher-numbered ports. -/
def State.portRequests (s : State) (port ctx : Nat) (swz : Word) (timed : Bool) (words : List Nat) : List (Nat × Nat) × State :=
  let words := words.filter fun w => s.timedAt (w * 8)
  let lost := s.bankLost port ctx swz timed words
  (lost, words.foldl (fun s w =>
    let core := (w * 8 - lspLoc0) / 0x80000
    let u : BankUse := { cycle := s.cycle, bank := s.bankFor ctx swz (w * 8), port := port, hart := s.cur, loc := w * 8, op := .done }
    if lost.any fun e => decide (e.1 = w) then s.countConflicts core 1 else s.onCore core fun k => { k with banks := u :: k.banks }) s)

/-- A request of a port comes too late in this cycle: a higher-numbered port has had one of its banks. The accesses of one
cycle come in the order of their ports (R278, log 20). -/
def State.portLate (s : State) (port ctx : Nat) (swz : Word) (words : List Nat) : Bool :=
  words.any fun w => (s.core ((w * 8 - lspLoc0) / 0x80000)).banks.any fun u =>
    decide (u.cycle = s.cycle) && decide (port < u.port) && decide (u.bank = s.bankFor ctx swz (w * 8))

/-- The locations that a read finds at: a word whose bank is lost reads as the winner's word (R278). -/
def movedLocs (lost : List (Nat × Nat)) (locs : List Nat) : List Nat :=
  locs.map fun l => match lost.find? fun e => decide (e.1 = l / 8) with
    | some e => e.2 + l % 8
    | none => l

/-- Bytes written at their home through port 2 or 3; in a timed phase a losing scratchpad write is dropped (R277, R278). -/
def State.portWrite (s : State) (port mark ctx : Nat) (swz : Word) (timed : Bool) (bytes : List (Nat × Byte)) : State :=
  let (lost, s) := s.portRequests port ctx swz timed (lspWords (bytes.map Prod.fst))
  s.homeWrite mark (bytes.filter fun e => !isLsp e.1 || lost.all fun l => decide (l.1 ≠ e.1 / 8))

/-- Reads located bytes for the executing hart: they enter the chunk's read signature and the L2 (R109, R268). In a timed
phase scratchpad words are read once their bank is reached: `op` says for whom; the value given here is that of a bank
nobody else touches until then. `port` is the port of R277 and `later` what R278 adds for a word of a vector access. An
untimed hart's request loses to the timed accesses of this cycle. -/
def State.readAcc (s : State) (a : Acc) (ins : Insert) (port : Nat := 0)
    (later : Nat → Nat := fun _ => 0) (op : Nat → BankOp := fun _ => .done) : List Byte × State :=
  let s := s.touchAll (clusterOf s.cur) a.locs (a.insert ins)
  let s := s.onChunk fun c => { c with reads := nub (linesOf (a.locs.filter isHbm) ++ c.reads) }
  if s.timed then (a.locs.map (s.seeByte s.cur), s.bankAsk port later op (lspWords a.locs))
  else if (s.core (coreOf s.cur)).banks.isEmpty then (a.locs.map (s.seeByte s.cur), s)
  else
    let lost := s.bankLost port s.me.ctx (s.csr Csr.lspswz) false (lspWords a.locs)
    ((movedLocs lost a.locs).map (s.seeByte s.cur), s.countConflicts (coreOf s.cur) lost.length)

/-- Stores a byte into the chunk buffer, but for the bits of `keep` (R109, R157). -/
def Chunk.putByte (c : Chunk) (loc : Nat) (b keep : Byte) : Chunk :=
  if keep = 0 then { c with buf := mapPut c.buf loc b, keep := mapErase c.keep loc }
  else match mapFind? c.buf loc with
    | some old => { c with buf := mapPut c.buf loc (keepBits keep old b), keep := mapSet 0 c.keep loc (mapGet 0 c.keep loc &&& keep) }
    | none => { c with buf := mapPut c.buf loc b, keep := mapSet 0 c.keep loc keep }

/-- The data and the bit mask of a store's bytes in a scratchpad word. -/
def wordStore (bytes : List (Nat × Byte × Byte)) (w : Nat) : Word × Word :=
  bytes.foldl (fun (r : Word × Word) (e : Nat × Byte × Byte) =>
    if e.1 / 8 = w then
      (r.1 ||| (BitVec.setWidth 64 e.2.1) <<< (8 * (e.1 % 8)), r.2 ||| (BitVec.setWidth 64 (~~~e.2.2)) <<< (8 * (e.1 % 8)))
    else r) (0, 0)

/-- Writes located bytes for the executing hart into its chunk buffer, with the signature items of R367; `keep` gives for each
byte the bits that the store leaves as they stand (R157). In a timed phase scratchpad bytes go to their banks, which they
reach in the second cycle after issue (R277, R278). -/
def State.writeAcc (s : State) (a : Acc) (va : Word) (bs : List Byte) (ins : Insert) (port : Nat := 0)
    (later : Nat → Nat := fun _ => 0) (keep : List Byte := []) : State :=
  let s := s.touchAll (clusterOf s.cur) a.locs (a.insert ins)
  let bytes : List (Nat × Byte × Byte) := (a.locs.zip bs).zipIdx.map fun e => (e.1.1, e.1.2, keep.getD e.2 0)
  let (held, s) : List (Nat × Byte × Byte) × State :=
    if s.timed then
      (bytes.filter fun e => !isLsp e.1,
       s.bankAsk port later (fun w => .write (wordStore bytes w).1 (wordStore bytes w).2 (s.hartMark s.cur)) (lspWords a.locs))
    else (bytes, s)
  let s := s.onMe fun x => if x.lspOld.isEmpty then x else { x with lspOld := x.lspOld.filter fun e => decide (e.1 ∉ a.locs) }
  s.onChunk fun c =>
    { held.foldl (fun c e => c.putByte e.1 e.2.1 e.2.2) c with
      writes := nub (linesOf (a.locs.filter isHbm) ++ c.writes),
      sig := (storeItems va bs).foldl sigAdd c.sig }

/-- Mem.read of n bytes at va by the executing hart, aligned to `align` (R22, R107). -/
def State.load (s : State) (align : Nat) (va : Word) (n : Nat) (ins : Insert := .scalar) :
    Except Exc (List Byte × Acc × State) := do
  let (a, s) ← s.check (s.who s.cur) .load align 0 va n
  let (bs, s) := s.readAcc a ins
  return (bs, a, s)

/-- Mem.write at va by the executing hart (R22, R107). -/
def State.store (s : State) (align : Nat) (va : Word) (bs : List Byte) (ins : Insert := .scalar) :
    Except Exc (Acc × State) := do
  let (a, s) ← s.check (s.who s.cur) .store align 0 va bs.length
  return (a, s.writeAcc a va bs ins)

/-- The host-aperture access or host-shared page ends the open chunk before itself (R109). -/
def State.hostAlone (s : State) (a : Acc) : Except Exc Unit :=
  if a.hshared && s.chunkBusy then .error .endChunk else .ok ()

/-- After an access to a host-shared page the chunk ends (R109, R304). -/
def State.hostAfter (s : State) (a : Acc) : State :=
  if a.hshared then s.onChunk fun c => { c with close := some .core } else s

end Sys2Proof.Machine
end

