-- ==== Sys2Proof/Machine/LoadStore.lean ====
section
/-! DEFINITION. Scalar loads and stores (spec/05 R106-R112, spec/02 R28). -/

namespace Sys2Proof.Machine

/-- How a loaded value of n bytes is extended to a register. -/
def loadExt (sx : Bool) (n : Nat) (bs : List Byte) : Word :=
  let v := leNat bs
  if sx ∧ n < 8 ∧ 2 ^ (8 * n - 1) ≤ v then BitVec.ofInt 64 ((v : Int) - 2 ^ (8 * n)) else BitVec.ofNat 64 v

/-- For which register a scalar load of a timed phase reads its bank: F or X register r, n bytes at ea (R277). -/
def State.loadOp (s : State) (isF sx : Bool) (r : Reg) (ea : Word) (n : Nat) : BankOp :=
  if !isF && decide (r = 0) then .done else .scalar isF r.toNat (s.cycle + 8) (ea.toNat % 8) n sx

/-- The read of a scalar load into F or X register r, and whether its result is late (R277): an access to a host-shared page ends the chunk before and after itself (R107, R109). -/
def State.scalarRead (s : State) (isF sx : Bool) (r : Reg) (ea : Word) (n : Nat) : Except Exc (List Byte × Bool × State) := do
  let (a, s) ← s.check (s.who s.cur) .load n 0 ea n
  s.hostAlone a
  let late := s.timed && a.locs.all isLsp
  let (bs, s) := s.readAcc a .scalar 0 (fun _ => 0) fun _ => s.loadOp isF sx r ea n
  return (bs, late, s.hostAfter a)

/-- A scalar store (R107, R108, R109). -/
def State.scalarWrite (s : State) (ea : Word) (n : Nat) (v : Word) : Res := do
  let (a, s) ← s.check (s.who s.cur) .store n 0 ea n
  s.hostAlone a
  return (s.writeAcc a ea (leBytes n v.toNat) .scalar).hostAfter a

/-- Writes a loaded value to X[r], or to F[r]: in cycle issue + 8 for a scratchpad load of a timed phase (R277). -/
def State.loaded (s : State) (late isF : Bool) (r : Reg) (v : Word) : State :=
  if late then
    if !isF && decide (r = 0) then s
    else s.onMe fun x => { x with a := { x.a with delayed := x.a.delayed ++ [(s.cycle + 8, isF, r.toNat, v)] } }
  else if isF then s.setF r v else s.setX r v

/-- A load into X[rd] of 2^size bytes at ea (R108). -/
def loadX (s : State) (rd : Reg) (ea : Word) (size : Nat) (sx : Bool) (len : Nat := 4) : State :=
  s.run .plain fun s => do
    let (bs, late, s) ← s.scalarRead false sx rd ea (2 ^ size)
    return (s.loaded late false rd (loadExt sx (2 ^ size) bs)).next len

/-- A store of X[rd] to 2^size bytes at ea (R108). -/
def storeX (s : State) (rd : Reg) (ea : Word) (size : Nat) (len : Nat := 4) : State :=
  s.run .plain fun s => do
    let s ← s.scalarWrite ea (2 ^ size) (s.x rd)
    return s.next len

/-- n bytes at ea lie on a host-shared page. -/
def State.hostShared (s : State) (ea : Word) (n : Nat) : Bool :=
  match s.check14 (s.who s.cur) .load n 0 ea n with
  | .ok (a, _) => a.hshared
  | .error _ => false

/-- A load whose value the lead supplies: on a host-shared page it ends the chunk of every replica before and after itself
(R109, R111, R364). -/
def loadFwd (s : State) (ea : Word) (size : Nat) (rd : Reg) (before after : State → State) : Res :=
  let host := s.hostShared ea (2 ^ size)
  if host && s.chunkBusy then .error .endChunk
  else forwarded s ea
    (fun s => do
      let (bs, _, s) ← (before s).scalarRead false true rd ea (2 ^ size)
      return ([loadExt true (2 ^ size) bs], s))
    (fun v s =>
      let s := if host then s.onChunk fun c => { c with close := some .core } else s
      .ok ((after (s.loaded (s.timed && (lspOffset? ea).isSome) false rd (v.headD 0))).next 4))

/-- LDACQ: an acquire at device scope, last of its chunk, so that later loads are later; the lead supplies its value
(R110, R298, R364). -/
def loadAcq (s : State) (rd : Reg) (ea : Word) (size : Nat) : State :=
  s.run .last fun s => loadFwd s ea size rd (fun s => s.acquire s.cur .device) (fun s => s.acquire s.cur .device)

/-- LD.V: the lead's value; a fault of the lead is raised in every replica (R111, R364). -/
def loadV (s : State) (rd : Reg) (ea : Word) (size : Nat) : State :=
  s.run .plain fun s => loadFwd s ea size rd id id

/-- STREL: last of its chunk; at the commit every earlier store of the hart, and then its own, is performed at device
scope (R110, R298). -/
def storeRel (s : State) (rd : Reg) (ea : Word) (size : Nat) : State :=
  s.run .last fun s => do
    let s ← s.scalarWrite ea (2 ^ size) (s.x rd)
    return (s.onChunk fun c => { c with close := some .device }).next 4

/-- A load into F[rd], upper bits cleared (R108, R112). -/
def loadF (s : State) (rd : Reg) (ea : Word) (size : Nat) : State :=
  s.run .plain fun s => do
    let (bs, late, s) ← s.scalarRead true false rd ea (2 ^ size)
    return (s.loaded late true rd (leWord bs)).next 4

/-- A store of the low bytes of F[rd] (R108, R112). -/
def storeF (s : State) (rd : Reg) (ea : Word) (size : Nat) : State :=
  s.run .plain fun s => do
    let s ← s.scalarWrite ea (2 ^ size) (s.f rd)
    return s.next 4

/-- The effective address of format XM (R106). -/
def State.ea (s : State) (base : Reg) (imm : BitVec 10) (size : Nat) : Word := s.x base + immXm imm size

/-- LD.b. -/
def execLdB (rd base : Reg) (imm : BitVec 10) (s : State) : Out := .next (loadX s rd (s.ea base imm 0) 0 true)
/-- LD.h. -/
def execLdH (rd base : Reg) (imm : BitVec 10) (s : State) : Out := .next (loadX s rd (s.ea base imm 1) 1 true)
/-- LD.w. -/
def execLdW (rd base : Reg) (imm : BitVec 10) (s : State) : Out := .next (loadX s rd (s.ea base imm 2) 2 true)
/-- LD.d. -/
def execLdD (rd base : Reg) (imm : BitVec 10) (s : State) : Out := .next (loadX s rd (s.ea base imm 3) 3 true)
/-- LDN.b. -/
def execLdnB (rd base : Reg) (imm : BitVec 10) (s : State) : Out := .next (loadX s rd (s.ea base imm 0) 0 false)
/-- LDN.h. -/
def execLdnH (rd base : Reg) (imm : BitVec 10) (s : State) : Out := .next (loadX s rd (s.ea base imm 1) 1 false)
/-- LDN.w. -/
def execLdnW (rd base : Reg) (imm : BitVec 10) (s : State) : Out := .next (loadX s rd (s.ea base imm 2) 2 false)
/-- LDACQ.w. -/
def execLdacqW (rd base : Reg) (imm : BitVec 10) (s : State) : Out := .next (loadAcq s rd (s.ea base imm 2) 2)
/-- LDACQ.d. -/
def execLdacqD (rd base : Reg) (imm : BitVec 10) (s : State) : Out := .next (loadAcq s rd (s.ea base imm 3) 3)
/-- LD.V.b. -/
def execLdVB (rd base : Reg) (imm : BitVec 10) (s : State) : Out := .next (loadV s rd (s.ea base imm 0) 0)
/-- LD.V.h. -/
def execLdVH (rd base : Reg) (imm : BitVec 10) (s : State) : Out := .next (loadV s rd (s.ea base imm 1) 1)
/-- LD.V.w. -/
def execLdVW (rd base : Reg) (imm : BitVec 10) (s : State) : Out := .next (loadV s rd (s.ea base imm 2) 2)
/-- LD.V.d. -/
def execLdVD (rd base : Reg) (imm : BitVec 10) (s : State) : Out := .next (loadV s rd (s.ea base imm 3) 3)
/-- ST.b. -/
def execStB (rd base : Reg) (imm : BitVec 10) (s : State) : Out := .next (storeX s rd (s.ea base imm 0) 0)
/-- ST.h. -/
def execStH (rd base : Reg) (imm : BitVec 10) (s : State) : Out := .next (storeX s rd (s.ea base imm 1) 1)
/-- ST.w. -/
def execStW (rd base : Reg) (imm : BitVec 10) (s : State) : Out := .next (storeX s rd (s.ea base imm 2) 2)
/-- ST.d. -/
def execStD (rd base : Reg) (imm : BitVec 10) (s : State) : Out := .next (storeX s rd (s.ea base imm 3) 3)
/-- STREL.w. -/
def execStrelW (rd base : Reg) (imm : BitVec 10) (s : State) : Out := .next (storeRel s rd (s.ea base imm 2) 2)
/-- STREL.d. -/
def execStrelD (rd base : Reg) (imm : BitVec 10) (s : State) : Out := .next (storeRel s rd (s.ea base imm 3) 3)
/-- FLD.h. -/
def execFldH (rd base : Reg) (imm : BitVec 10) (s : State) : Out := .next (loadF s rd (s.ea base imm 1) 1)
/-- FLD.s. -/
def execFldS (rd base : Reg) (imm : BitVec 10) (s : State) : Out := .next (loadF s rd (s.ea base imm 2) 2)
/-- FLD.d. -/
def execFldD (rd base : Reg) (imm : BitVec 10) (s : State) : Out := .next (loadF s rd (s.ea base imm 3) 3)
/-- FST.h. -/
def execFstH (rd base : Reg) (imm : BitVec 10) (s : State) : Out := .next (storeF s rd (s.ea base imm 1) 1)
/-- FST.s. -/
def execFstS (rd base : Reg) (imm : BitVec 10) (s : State) : Out := .next (storeF s rd (s.ea base imm 2) 2)
/-- FST.d. -/
def execFstD (rd base : Reg) (imm : BitVec 10) (s : State) : Out := .next (storeF s rd (s.ea base imm 3) 3)

/-! Compact forms: the address is the last destination plus imm4 scaled (R28). -/

/-- LD.C: X[r] := the doubleword at X[LDST] + imm4 × 8. -/
def execLdC (r : Reg) (imm : BitVec 4) (s : State) : Out :=
  .next (loadX s r (s.lastDest + BitVec.ofNat 64 (imm.toNat * 8)) 3 true 2)
/-- LDW.C: the sign-extended word at X[LDST] + imm4 × 4. -/
def execLdwC (r : Reg) (imm : BitVec 4) (s : State) : Out :=
  .next (loadX s r (s.lastDest + BitVec.ofNat 64 (imm.toNat * 4)) 2 true 2)
/-- ST.C: stores X[r] at X[LDST] + imm4 × 8. -/
def execStC (r : Reg) (imm : BitVec 4) (s : State) : Out :=
  .next (storeX s r (s.lastDest + BitVec.ofNat 64 (imm.toNat * 8)) 3 2)

end Sys2Proof.Machine
end

