-- ==== Sys2Proof/Machine/Atomic.lean ====
section
/-! DEFINITION. Atomics, monitors and barriers (spec/09 R196-R198, R201-R206; spec/14 R298, R301, R419). -/

namespace Sys2Proof.Machine

/-! Actions at a home. -/

/-- Bytes at their home as an action of hart h finds them: the hart's own committed stores included (R296). -/
def State.atHome (s : State) (h : Nat) (mark : Nat) (locs : List Nat) : List Byte × State :=
  let s := (linesOf locs).foldl (fun s l => s.flushLine h (l * 64)) s
  (locs.map (s.homeByte mark), s)

/-- The located bytes of an operand on which an action is performed at its home: checks 1 to 4 as a load and as a store
(R197, R208). -/
def State.checkBoth (s : State) (align : Nat) (va : Word) (n : Nat) : Except Exc (Acc × State) := do
  let (_, s) ← s.check14 (s.who s.cur) .load align 0 va n
  s.check14 (s.who s.cur) .store align 0 va n

/-- A trap that follows the completed instruction, which counts as n (R52, R198). -/
def trapAfter (t : State) (cause : Nat) (tval tval2 : Word) (n : Nat := 1) : Exc :=
  .trapIn (t.onMe fun x => { x with atVec := false, pending := none,
                                    chunk := x.chunk.map fun c => { c with count := c.count + n } }) cause tval tval2

/-! Atomics. -/

/-- Scope field of an atomic (R196). -/
def scopeOf (c : BitVec 2) : Scope :=
  match c.toNat with
  | 0 => .core
  | 1 => .cluster
  | 2 => .die
  | _ => .device

/-- The operation at the home: old and b as 8n-bit values, X[rd] for CAS; the new value and flags (R197). -/
def amoNew (op : Nat) (n : Nat) (old b d : Word) : Word × Flags :=
  let m : Word := if n = 4 then 0xFFFFFFFF else BitVec.allOnes 64
  let sx (v : Word) : Word := if n = 4 then (v.setWidth 32).signExtend 64 else v
  let f := if n = 4 then f32 else f64
  match op with
  | 0 => ((old + b) &&& m, 0)
  | 1 => (b, 0)
  | 2 => (old &&& b, 0)
  | 3 => (old ||| b, 0)
  | 4 => (old ^^^ b, 0)
  | 5 => (if (sx old).slt (sx b) then old else b, 0)
  | 6 => (if (sx old).slt (sx b) then b else old, 0)
  | 7 => (if old.ult b then old else b, 0)
  | 8 => (if old.ult b then b else old, 0)
  | 9 => (if old = d then b else old, 0)
  | 10 => let (v, fl) := f.addV .rne 0 (f.value old.toNat) (f.value b.toNat); (BitVec.ofNat 64 v, fl)
  | 11 => let (v, fl) := f.minmax false old.toNat b.toNat; (BitVec.ofNat 64 v, fl)
  | _ => let (v, fl) := f.minmax true old.toNat b.toNat; (BitVec.ofNat 64 v, fl)

/-- Check 5, and check 6 as a store, of an operand whose bytes change at a home (R197, R225, R227). -/
def State.checkRmw (s : State) (va : Word) (n : Nat) : Except Exc Unit :=
  s.checkLocks (s.who s.cur) .store 0 va n

/-- AMO, CAS and FAMO (R197, R198, R301). -/
def amo (s : State) (op : Nat) (ord scope : BitVec 2) (size : BitVec 1) (rd rs1 rs2 : Reg) : State :=
  let n := if size = 0 then 4 else 8
  let m : Word := if n = 4 then 0xFFFFFFFF else BitVec.allOnes 64
  s.run .home fun s =>
    let a := s.x rs1
    let b := s.x rs2 &&& m
    let d := s.x rd &&& m
    forwarded s a
      (fun s => do
        let (acc, s) ← s.checkBoth n a n
        if acc.host then throw (.trap Cause.permission a 0)
        s.checkRmw a n
        let s := if bit (ord.setWidth 64) 1 then s.release s.cur (scopeOf scope) else s
        let mark := s.hartMark s.cur
        let (old, s) := s.atHome s.cur mark acc.locs
        let (new, fl) := amoNew op n (leWord old) b d
        let s := s.touchAll (clusterOf s.cur) acc.locs (acc.insert .scalar)
        return (leWord old :: (if 10 ≤ op then [fl.setWidth 64] else []), s.homeWrite mark (acc.locs.zip (leBytes n new.toNat))))
      (fun v s =>
        let old := v.headD 0
        let (_, fl) := amoNew op n old b d
        let s := ((s.setX rd (if n = 4 then (old.setWidth 32).signExtend 64 else old)).orFlags fl).next 4
        let s := if bit (ord.setWidth 64) 0 then s.acquire s.cur (scopeOf scope) else s
        if (fl.setWidth 64 &&& s.csr Csr.ftrapen) ≠ 0 then .error (trapAfter s Cause.fpTrap a 1) else .ok s)

/-- AMO.ADD. -/
def execAmoAdd (ord scope : BitVec 2) (size : BitVec 1) (rd rs1 rs2 : Reg) (s : State) : Out :=
  .next (amo s 0 ord scope size rd rs1 rs2)
/-- AMO.SWAP. -/
def execAmoSwap (ord scope : BitVec 2) (size : BitVec 1) (rd rs1 rs2 : Reg) (s : State) : Out :=
  .next (amo s 1 ord scope size rd rs1 rs2)
/-- AMO.AND. -/
def execAmoAnd (ord scope : BitVec 2) (size : BitVec 1) (rd rs1 rs2 : Reg) (s : State) : Out :=
  .next (amo s 2 ord scope size rd rs1 rs2)
/-- AMO.OR. -/
def execAmoOr (ord scope : BitVec 2) (size : BitVec 1) (rd rs1 rs2 : Reg) (s : State) : Out :=
  .next (amo s 3 ord scope size rd rs1 rs2)
/-- AMO.XOR. -/
def execAmoXor (ord scope : BitVec 2) (size : BitVec 1) (rd rs1 rs2 : Reg) (s : State) : Out :=
  .next (amo s 4 ord scope size rd rs1 rs2)
/-- AMO.MIN. -/
def execAmoMin (ord scope : BitVec 2) (size : BitVec 1) (rd rs1 rs2 : Reg) (s : State) : Out :=
  .next (amo s 5 ord scope size rd rs1 rs2)
/-- AMO.MAX. -/
def execAmoMax (ord scope : BitVec 2) (size : BitVec 1) (rd rs1 rs2 : Reg) (s : State) : Out :=
  .next (amo s 6 ord scope size rd rs1 rs2)
/-- AMO.MINN. -/
def execAmoMinn (ord scope : BitVec 2) (size : BitVec 1) (rd rs1 rs2 : Reg) (s : State) : Out :=
  .next (amo s 7 ord scope size rd rs1 rs2)
/-- AMO.MAXN. -/
def execAmoMaxn (ord scope : BitVec 2) (size : BitVec 1) (rd rs1 rs2 : Reg) (s : State) : Out :=
  .next (amo s 8 ord scope size rd rs1 rs2)
/-- CAS against X[rd]. -/
def execCas (ord scope : BitVec 2) (size : BitVec 1) (rd rs1 rs2 : Reg) (s : State) : Out :=
  .next (amo s 9 ord scope size rd rs1 rs2)
/-- FAMO.ADD: rounded RNE. -/
def execAmoFadd (ord scope : BitVec 2) (size : BitVec 1) (rd rs1 rs2 : Reg) (s : State) : Out :=
  .next (amo s 10 ord scope size rd rs1 rs2)
/-- FAMO.MIN. -/
def execAmoFmin (ord scope : BitVec 2) (size : BitVec 1) (rd rs1 rs2 : Reg) (s : State) : Out :=
  .next (amo s 11 ord scope size rd rs1 rs2)
/-- FAMO.MAX. -/
def execAmoFmax (ord scope : BitVec 2) (size : BitVec 1) (rd rs1 rs2 : Reg) (s : State) : Out :=
  .next (amo s 12 ord scope size rd rs1 rs2)

/-! Monitors. -/

/-- MON: reads at the home and arms the hart's monitor on the line in one action; an acquire (R201). -/
def mon (s : State) (n : Nat) (rd rs1 : Reg) : State :=
  s.run .home fun s =>
    let a := s.x rs1
    forwarded s a
      (fun s => do
        let (acc, s) ← s.check (s.who s.cur) .load n 0 a n
        let (bs, s) := s.atHome s.cur (s.hartMark s.cur) acc.locs
        let s := s.onMe fun x => { x with monitor := some { line := lineOf (acc.locs.headD 0), fired := false } }
        return ([loadExt true n bs], s))
      (fun v s => .ok (((s.setX rd (v.headD 0)).acquire s.cur .device).next 4))

/-- MON.w. -/
def execMonW (rd rs1 : Reg) (s : State) : Out := .next (mon s 4 rd rs1)
/-- MON.d. -/
def execMonD (rd rs1 : Reg) (s : State) : Out := .next (mon s 8 rd rs1)

/-- The time at which a WAIT with a timeout in nanoseconds gives up; none for 0 (R201). -/
def State.deadline (s : State) (ns : Word) : Option Nat := if ns = 0 then none else some (s.time + ns.toNat)

/-- The outcome a WAIT has now, if it need not park: 0 fired, 1 timeout, 2 resumed after a trap, interrupt or pre-emption,
3 nothing armed (R202). -/
def Hart.waitOutcome (x : Hart) : Option Nat :=
  match x.pending with
  | some p =>
    if p.pc = x.a.pc ∧ p.isWait then some (if p.timedOut then 1 else 2)
    else match x.monitor with
      | none => some 3
      | some m => if m.fired then some 0 else none
  | none => match x.monitor with
    | none => some 3
    | some m => if m.fired then some 0 else none

/-- WAIT: returns the outcome and disarms, or parks; an acquire (R202). -/
def execWait (rd rs1 : Reg) (s : State) : Out :=
  .next (s.run .home fun s =>
    forwarded s 0
      (fun s => match s.me.waitOutcome with
        | some c => .ok ([BitVec.ofNat 64 c], s.onMe fun x => { x with monitor := none })
        | none => .error (.park (.wait rd (s.deadline (s.x rs1)))))
      (fun v s => .ok (((s.setX rd (v.headD 0)).acquire s.cur .device).next 4)))

/-! Barriers. -/

/-- A file register number beyond the file traps ILLEGAL_INSTRUCTION (R204, R217, R224). -/
def regIn (n : Nat) (r : Reg) (bitsv : Word) : Except Exc Unit := if r.toNat < n then .ok () else .error (illegal bitsv)

/-- The fields of a barrier object that BSET checks: EXPECT = 0, ARRIVED ≥ EXPECT, LEVEL 4-6 or a reserved bit (R204). -/
def barrierBad (o : List Byte) : Bool :=
  let d0 := leNat (o.take 8)
  let d1 := leNat ((o.drop 8).take 8)
  let expect := d0 % 2 ^ 32
  let level := d1 / 2 ^ 32 % 8
  decide (expect = 0) || decide (expect ≤ d0 / 2 ^ 32) || (decide (4 ≤ level) && decide (level ≤ 6)) ||
    decide (d1 / 2 ^ 35 ≠ 0) || decide (leNat (o.drop 16) ≠ 0)

/-- BSET: binds bbn for every hart of the core and clears the arrival records (R204). -/
def execBset (rd rs1 : Reg) (s : State) : Out :=
  let w := bitsOf (.bset rd rs1)
  .next (s.run .alone fun s => do
    regIn 8 rd w
    let a := s.x rs1
    let (o, acc, s) ← s.load 64 a 64
    if barrierBad o then throw (illegal2 w a)
    let s := s.onMyCore fun k => { k with bb := mapPut k.bb rd.toNat { obj := acc.locs.headD 0, va := a, ctx := s.me.ctx, harts := hartsOfCore (coreOf s.cur) } }
    let s := (hartsOfCore (coreOf s.cur)).foldl
      (fun s h => if (mapFind? s.harts h).isSome then s.onHart h fun x => { x with arrivals := mapErase x.arrivals rd.toNat } else s) s
    return s.next 4)

/-- The locations of n bytes from loc. -/
def span (loc n : Nat) : List Nat := (List.range n).map (loc + ·)

/-- A completed phase releases the harts that wait in a DSYNC on the object, swapped-out ones among them: all at this cycle, each with the change that
the leader holds, the participant on the lowest-numbered core (R257, log 21). -/
def State.syncRelease (s : State) (obj : Nat) : State :=
  let waits (bb : FMap BbReg) (e : Nat × Hart) : Bool := e.2.dsync.isSome &&
    bb.any fun b => decide (b.2.obj = obj) && (mapFind? e.2.arrivals b.1).isSome
  let here (e : Nat × Hart) : Bool := waits (s.core (coreOf e.1)).bb e
  let all := s.harts.filter here ++ s.images.flatMap fun q => q.2.harts.filter (waits q.2.bb)
  let lead := all.foldl (fun (m : Option (Nat × Hart)) e => match m with | some l => if e.1 < l.1 then some e else m | none => some e) none
  match lead with
  | none => s
  | some l =>
    let go (x : Hart) : Hart := { x with releaseT := s.cycle, recvAtT := x.recvBytes, leadHeld := l.2.a.heldPhase }
    { s with harts := s.harts.map fun e => if here e then (e.1, go e.2) else e,
             images := s.images.map fun q => (q.1, { q.2 with harts := q.2.harts.map fun e => if waits q.2.bb e then (e.1, go e.2) else e }) }

/-- An arrival of hart h at a barrier object, as one action at its home: the phase it counts in (R205). -/
def State.arriveAt (s : State) (h obj : Nat) : Nat × State :=
  let mark := s.hartMark h
  let (o, s) := s.atHome h mark (span obj 16)
  let d0 := leNat (o.take 8)
  let d1 := leNat (o.drop 8)
  let phase := d1 % 2 ^ 32
  let expect := d0 % 2 ^ 32
  let arrived := (d0 / 2 ^ 32 + 1) % 2 ^ 32
  let d0' := if arrived = expect then expect else expect + arrived * 2 ^ 32
  let d1' := if arrived = expect then d1 - phase + (phase + 1) % 2 ^ 32 else d1
  let s := s.homeWrite mark ((span obj 16).zip (leBytes 8 d0' ++ leBytes 8 d1'))
  (phase, if arrived = expect then s.syncRelease obj else s)

/-- PHASE of a barrier object at its home. -/
def State.phaseAt (s : State) (h obj : Nat) : Nat := leNat ((span (obj + 8) 4).map (s.homeByte (s.hartMark h)))

/-- The barrier register of the executing hart's core, where it is bound for the hart (R204). -/
def State.bbReg (s : State) (n : Nat) : Option BbReg := (mapFind? s.myCore.bb n).filter fun b => decide (s.cur ∈ b.harts)

/-- ARRIVE: a release at device scope, then the arrival; the phase is recorded (R205). -/
def execArrive (rd : Reg) (s : State) : Out :=
  let w := bitsOf (.arrive rd)
  .next (s.run .home fun s => do
    regIn 8 rd w
    match s.bbReg rd.toNat with
    | none => throw (illegal w)
    | some ⟨obj, va, _, _⟩ =>
      forwarded s va
        (fun s =>
          let (p, s) := (s.release s.cur .device).arriveAt s.cur obj
          .ok ([BitVec.ofNat 64 p], s))
        (fun v s => .ok ((s.onMe fun x => { x with arrivals := mapPut x.arrivals rd.toNat (v.headD 0).toNat }).next 4)))

/-- BWAIT: parks until PHASE leaves the recorded phase; clears the record; an acquire (R205). The lead forwards the
recorded phase (R364). -/
def execBwait (rd : Reg) (s : State) : Out :=
  let w := bitsOf (.bwait rd)
  .next (s.run .home fun s => do
    regIn 8 rd w
    match s.bbReg rd.toNat, mapFind? s.me.arrivals rd.toNat with
    | some ⟨obj, va, _, _⟩, some p =>
      forwarded s va
        (fun s => if s.phaseAt s.cur obj = p then .error (.park (.bwait rd.toNat)) else .ok ([BitVec.ofNat 64 p], s))
        (fun _ s => .ok (((s.onMe fun x => { x with arrivals := mapErase x.arrivals rd.toNat }).acquire s.cur .device).next 4))
    | _, _ => throw (illegal w))

end Sys2Proof.Machine
end

