-- ==== Sys2Proof/Machine/Control.lean ====
section
/-! DEFINITION. Branches and jumps (spec/05 R101-R104). In a lockstep gang the members' next PCs are compared before the
instruction (R104): Machine/Gang.lean. -/

namespace Sys2Proof.Machine

/-- The next PC of a conditional branch (R101). -/
def branchPc (pc : Word) (off : BitVec 14) (taken : Bool) : Word := if taken then pc + offXb off else pc + 4

/-- A conditional branch: PC alone changes (R101). -/
def branch (s : State) (off : BitVec 14) (taken : Bool) : State :=
  s.run .plain fun s => .ok (s.setPc (branchPc s.pc off taken))

/-- BEQ: equal. -/
def execBeq (rs1 rs2 : Reg) (off : BitVec 14) (s : State) : Out := .next (branch s off (s.x rs1 == s.x rs2))
/-- BNE: not equal. -/
def execBne (rs1 rs2 : Reg) (off : BitVec 14) (s : State) : Out := .next (branch s off (s.x rs1 != s.x rs2))
/-- BLT: less than, signed. -/
def execBlt (rs1 rs2 : Reg) (off : BitVec 14) (s : State) : Out := .next (branch s off ((s.x rs1).slt (s.x rs2)))
/-- BGE: greater than or equal, signed. -/
def execBge (rs1 rs2 : Reg) (off : BitVec 14) (s : State) : Out := .next (branch s off (!(s.x rs1).slt (s.x rs2)))
/-- BLTN: less than, natural. -/
def execBltn (rs1 rs2 : Reg) (off : BitVec 14) (s : State) : Out := .next (branch s off ((s.x rs1).ult (s.x rs2)))
/-- BGEN: greater than or equal, natural. -/
def execBgen (rs1 rs2 : Reg) (off : BitVec 14) (s : State) : Out := .next (branch s off (!(s.x rs1).ult (s.x rs2)))

/-- The target of JALR: bit 0 cleared (R102). -/
def jalrPc (a : Word) (imm : BitVec 14) : Word := (a + imm14 imm) &&& ~~~1#64

/-- JAL: link, then PC := PC + offset (R102). -/
def execJal (rd : Reg) (off : BitVec 19) (s : State) : Out :=
  .next (s.run .plain fun s => .ok ((s.setX rd (s.pc + 4)).setPc (s.pc + offXj off)))
/-- JALR: X[rs1] is read before the link is written (R102). -/
def execJalr (rd rs1 : Reg) (imm : BitVec 14) (s : State) : Out :=
  .next (s.run .plain fun s => .ok ((s.setX rd (s.pc + 4)).setPc (jalrPc (s.x rs1) imm)))

end Sys2Proof.Machine
end

