-- ==== Sys2Proof/Machine/Queue.lean ====
section
/-! DEFINITION. Queues: the control block, the actions at its home, and the queue instructions (spec/09 R207-R215;
spec/15 R308-R318; spec/05 R105). -/

namespace Sys2Proof.Machine

/-! The control block (R308-R310). -/

/-- A queue control block, by doubleword. -/
structure Qcb where
  ctr : Nat
  cfg : Nat
  base : Nat
  waiters : Nat
  ident : Nat
  enqs : Nat
  deqs : Nat
  check : Nat
deriving DecidableEq, Repr

def Qcb.tail (c : Qcb) : Nat := field c.ctr 63 32
def Qcb.head (c : Qcb) : Nat := field c.ctr 31 0
def Qcb.kind (c : Qcb) : Nat := field c.cfg 59 57
def Qcb.pois (c : Qcb) : Bool := decide (field c.cfg 56 56 = 1)
def Qcb.log2cap (c : Qcb) : Nat := field c.cfg 55 48
def Qcb.esize (c : Qcb) : Nat := field c.cfg 47 32
def Qcb.free (c : Qcb) : Nat := field c.cfg 31 0
def Qcb.home (c : Qcb) : Nat := field c.ident 47 32
def Qcb.gen (c : Qcb) : Nat := field c.ident 31 16
def Qcb.owner (c : Qcb) : Nat := field c.ident 15 0
/-- cap = 2^LOG2CAP (R207). -/
def Qcb.cap (c : Qcb) : Nat := 2 ^ c.log2cap
/-- TAIL − HEAD modulo 2^32. -/
def Qcb.occ (c : Qcb) : Nat := (c.tail + 2 ^ 32 - c.head) % 2 ^ 32

/-- The 64 bytes of a control block. -/
def Qcb.bytes (c : Qcb) : List Byte :=
  leBytes 8 c.ctr ++ leBytes 8 c.cfg ++ leBytes 8 c.base ++ leBytes 8 c.waiters ++ leBytes 8 c.ident ++
    leBytes 8 c.enqs ++ leBytes 8 c.deqs ++ leBytes 8 c.check
/-- The control block in 64 bytes. -/
def Qcb.ofBytes (b : List Byte) : Qcb :=
  let d (i : Nat) := leNat ((b.drop (8 * i)).take 8)
  { ctr := d 0, cfg := d 1, base := d 2, waiters := d 3, ident := d 4, enqs := d 5, deqs := d 6, check := d 7 }

/-- One byte into a CRC-64 with polynomial 0x42F0E1EBA9EA3693, most significant bit first (R309). -/
def crcByte (c : Word) (b : Byte) : Word :=
  (List.range 8).foldl (fun c _ => if c.getLsbD 63 then (c <<< 1) ^^^ 0x42F0E1EBA9EA3693#64 else c <<< 1)
    (c ^^^ (b.setWidth 64 <<< 56))
/-- The CRC-64 of bytes: initial value zero, no reflection, no final XOR. -/
def crc64 (b : List Byte) : Word := b.foldl crcByte 0
/-- CHECK over the static fields, POIS read as 0 (R309). -/
def Qcb.crc (c : Qcb) : Nat :=
  (crc64 (((leBytes 8 (setField c.cfg 56 56 0)).drop 4) ++ leBytes 8 c.base ++ leBytes 8 c.ident)).toNat

/-- HOME of the controller that homes a location; none for host memory (R310). -/
def homeCode? (loc : Nat) : Option Nat :=
  if isLsp loc then
    let c := (loc - lspLoc0) / 0x80000
    some (0x8000 + c / 256 * 4096 + c / 16 % 16 * 256 + c % 16 * 16)
  else if isHbm loc then some (homeCluster loc / 16 * 4096 + homeCluster loc % 16 * 256)
  else none

/-- The home check of R208 and R309 passes. -/
def Qcb.sound (c : Qcb) (loc : Nat) : Bool :=
  !c.pois && decide (c.check = c.crc) && decide (homeCode? loc = some c.home) && decide (c.occ + c.free = c.cap)

/-! Actions at the home. -/

/-- Who acts on a queue: its context, address space and core, and the key of its bytes. -/
structure Actor where
  who : Who
  mark : Nat
deriving DecidableEq, Repr

/-- The executing hart as an actor. -/
def State.actor (s : State) : Actor := { who := s.who s.cur, mark := s.hartMark s.cur }
/-- The number under which the device's own parts translate: no core. -/
def deviceCore : Nat := 1024
/-- A context as an actor, for the device's own parts. -/
def State.ctxActor (s : State) (ctx : Nat) : Actor :=
  let c := s.ctx? ctx
  { who := { hart := 0, core := deviceCore, ctx := ctx, asid := (c.bind fun c => c.asids.head?.map Prod.fst).getD 0, mode := .s },
    mark := match c with | some c => s.keyMark c.keyid | none => 0 }

/-- The control block at its home. -/
def State.qcb (s : State) (mark q : Nat) : Qcb := Qcb.ofBytes ((span q 64).map (s.homeByte mark))
/-- Writes a control block at its home. -/
def State.setQcb (s : State) (mark q : Nat) (c : Qcb) : State := s.homeWrite mark ((span q 64).zip c.bytes)
/-- The waiter lists of a queue (R311). -/
def State.waitersOf (s : State) (q : Nat) : Waiters := (mapFind? s.waiters q).getD { enq := [], deq := [] }
/-- Replaces the waiter lists; WAITERS reflects them (R308). -/
def State.setWaiters (s : State) (mark q : Nat) (w : Waiters) : State :=
  let s := { s with waiters := if w.enq.isEmpty && w.deq.isEmpty then mapErase s.waiters q else mapPut s.waiters q w }
  let c := s.qcb mark q
  s.setQcb mark q { c with waiters := w.deq.length * 2 ^ 32 + w.enq.length }

/-- Marks a queue poisoned (R208). -/
def State.poison (s : State) (mark q : Nat) : State :=
  let c := s.qcb mark q
  s.setQcb mark q { c with cfg := setField c.cfg 56 56 1 }

/-- The locations of the slot of counter t: BASE + (t mod cap) × ESIZE, translated for the queue's owner; a queue of
context 0, which belongs to the RKC, has its array at device addresses (R309, log 14). -/
def State.slot (s : State) (a : Actor) (q : Nat) (c : Qcb) (kind : Kind) (t : Nat) : Except Exc (List Nat) :=
  let va : Word := BitVec.ofNat 64 (c.base + t % c.cap * c.esize)
  let who := if c.owner = a.who.ctx then a.who else (s.ctxActor c.owner).who
  let who := if isLsp q then { who with core := (q - lspLoc0) / 0x80000 } else who
  if who.ctx = 0 then .ok (span va.toNat c.esize)
  else (s.locate who kind 0 (c.esize + 2) va c.esize Acc.none).map fun r => r.1.locs

/-- The key of a queue's elements: the owner's (log 14). -/
def State.slotMark (s : State) (a : Actor) (c : Qcb) : Nat :=
  if c.owner = a.who.ctx then a.mark else (s.ctxActor c.owner).mark

/-- Hands a result to a parked hart and lets it run: its instruction takes it when it is re-issued (R211, R212). -/
def State.handTo (s : State) (q : Nat) (w : QWaiter) (e : List Byte) : State :=
  match w.kind with
  | .port _ => s
  | .device => s
  | .deq _ dest => s.onHart w.hart fun x => { x with handoff := some { elem := e, dest := dest, qcb := q }, status := .running }
  | _ => s.onHart w.hart fun x => { x with handoff := some { elem := e, dest := [], qcb := q }, status := .running }

/-- Puts an element into slot(TAIL) (R211). -/
def State.intoSlot (s : State) (a : Actor) (q : Nat) (e : List Byte) : Except Exc State := do
  let c := s.qcb a.mark q
  let locs ← s.slot a q c .store c.tail
  let s := s.homeWrite (s.slotMark a c) (locs.zip e)
  return s.setQcb a.mark q { c with
    ctr := setField c.ctr 63 32 (c.tail + 1), cfg := setField c.cfg 31 0 (c.free - 1), enqs := (c.enqs + 1) % 2 ^ 64 }

/-- The enqueue action: to the oldest parked dequeuer, else into a slot; none where it would park (R211). -/
def State.enqAt (s : State) (a : Actor) (q : Nat) (e : List Byte) : Except Exc (Option State) :=
  let c := s.qcb a.mark q
  let w := s.waitersOf q
  match w.deq with
  | d :: ds =>
    let s := s.handTo q d e
    let s := s.setWaiters a.mark q { w with deq := ds }
    let c := s.qcb a.mark q
    .ok (some (s.setQcb a.mark q { c with enqs := (c.enqs + 1) % 2 ^ 64, deqs := (c.deqs + 1) % 2 ^ 64 }))
  | [] => if 0 < c.free then (s.intoSlot a q e).map some else .ok none

/-- The dequeue action: the element at slot(HEAD), then the oldest parked enqueue; none where the queue is empty
(R212). -/
def State.deqAt (s : State) (a : Actor) (q : Nat) : Except Exc (Option (List Byte × State)) := do
  let c := s.qcb a.mark q
  if c.tail = c.head then return none
  let locs ← s.slot a q c .load c.head
  let e := locs.map (s.homeByte (s.slotMark a c))
  let s := s.setQcb a.mark q { c with
    ctr := setField c.ctr 31 0 (c.head + 1), cfg := setField c.cfg 31 0 (c.free + 1), deqs := (c.deqs + 1) % 2 ^ 64 }
  let w := s.waitersOf q
  match w.enq with
  | [] => return some (e, s)
  | p :: ps =>
    let s ← s.intoSlot a q p.elem
    let s := s.handTo q p []
    return some (e, s.setWaiters a.mark q { w with enq := ps })

/-- OWNER refuses a context's operation; a control block that no QINIT has owned yet has none (R208, log 14). -/
def Qcb.foreign (c : Qcb) (ctx : Nat) : Bool := decide (c.owner ≠ 0) && decide (c.owner ≠ ctx % 2 ^ 16)

/-- The home check as the first part of an operation, which poisons the failing queue, and the check of OWNER (R208). -/
def State.homeCheck (s : State) (a : Actor) (va : Word) (q : Nat) : Except Exc Unit :=
  let c := s.qcb a.mark q
  if !c.sound q then .error (.trapIn (s.poison a.mark q) Cause.queueCorrupt va (BitVec.ofNat 64 c.ctr))
  else if c.foreign a.who.ctx then .error (.trap Cause.permission va 0) else .ok ()

/-- Ways of a queue operation, for KIND (R313). -/
inductive QUse where
  | init | enq | deq | token
deriving DecidableEq, Repr

/-- KIND refuses an operation to harts (R313). -/
def refusedByKind (kind : Nat) (u : QUse) : Bool :=
  match kind, u with
  | 1, .init => true
  | 1, .deq => true
  | 1, .token => true
  | 3, .init => true
  | 3, .enq => true
  | 3, .token => true
  | 4, _ => true
  | _, _ => false

/-- The KIND check of a hart's operation, after the home check (R313). -/
def State.kindCheck (s : State) (a : Actor) (va : Word) (q : Nat) (u : QUse) : Except Exc Unit :=
  if refusedByKind (s.qcb a.mark q).kind u then .error (.trap Cause.permission va 0) else .ok ()

/-! Instructions. -/

/-- The checks of the control block's address before the home is contacted (R208): its location. -/
def State.qAddr (s : State) (va : Word) : Except Exc (Nat × State) := do
  let (acc, s) ← s.checkBoth 64 va 64
  let q := acc.locs.headD 0
  let (_, s) := s.atHome s.cur (s.hartMark s.cur) (span q 64)
  return (q, s)

/-- Performs earlier stores at the scope of the queue's home (R211, R310). -/
def State.qRelease (s : State) (q : Nat) : State := if isLsp q then s else s.release s.cur .device
/-- Acquires at the scope of the queue's home (R212, R310). -/
def State.qAcquire (s : State) (q : Nat) : State := s.acquire s.cur (if isLsp q then .core else .device)

/-- Registers the executing hart as the newest waiter and parks it (R211, R212, R311). -/
def State.joinEnq (s : State) (a : Actor) (q : Nat) (k : QKind) (e : List Byte) : State :=
  let w := s.waitersOf q
  (s.setWaiters a.mark q { w with enq := w.enq ++ [{ hart := s.cur, kind := k, elem := e }] }).parkOn (.queue q)
/-- The same among the dequeuers. -/
def State.joinDeq (s : State) (a : Actor) (q : Nat) (k : QKind) : State :=
  let w := s.waitersOf q
  (s.setWaiters a.mark q { w with deq := w.deq ++ [{ hart := s.cur, kind := k, elem := [] }] }).parkOn (.queue q)

/-- Bytes as doublewords, lowest first. -/
def dwords : Nat → List Byte → List Word
  | 0, _ => []
  | n + 1, b => leWord (b.take 8) :: dwords n (b.drop 8)
/-- Doublewords as bytes. -/
def ofDwords (v : List Word) : List Byte := v.flatMap fun w => leBytes 8 w.toNat

/-- The element an enqueue reads: the register for ESIZE 8, else memory under checks 1 to 6 (R208, R211). -/
def State.enqElem (s : State) (esize : Nat) (reg : Option Word) (va : Word) : Except Exc (List Byte × State) :=
  match reg with
  | some v => if esize ≤ 8 then .ok (leBytes 8 v.toNat, s)
    else (s.load 8 va esize).map fun r => (r.1, r.2.2)
  | none => (s.load 8 va esize).map fun r => (r.1, r.2.2)

/-- ENQ and QGATH: a release; parks while the queue is full (R211). -/
def enqueue (s : State) (qva : Word) (reg : Option Word) (elemVa : Nat → Word) : State :=
  s.run .home fun s =>
    forwarded s qva
      (fun s => match s.me.handoff with
        | some _ => .ok ([], s)
        | none => do
          let (q, s) ← s.qAddr qva
          let a := s.actor
          let es := (s.qcb a.mark q).esize
          let (e, s) ← s.enqElem es reg (elemVa es)
          s.homeCheck a qva q
          s.kindCheck a qva q .enq
          let s := s.qRelease q
          match ← s.enqAt a q e with
          | some t => return ([], t)
          | none => throw (.become (s.joinEnq a q .enq e)))
      (fun _ s => .ok (s.next 4))

/-- ENQ (R211). -/
def execEnq (rs1 rs2 : Reg) (s : State) : Out := .next (enqueue s (s.x rs1) (some (s.x rs2)) fun _ => s.x rs2)
/-- QGATH: the element at table base + index × ESIZE; rd is read as the queue's address (R207, R211). -/
def execQgath (rd rs1 rs2 : Reg) (s : State) : Out :=
  .next (enqueue s (s.x rd) none fun es => s.x rs1 + s.x rs2 * BitVec.ofNat 64 es)

/-- ENQNB: OK or FULL; a release when OK (R211). -/
def execEnqnb (rd rs1 rs2 : Reg) (s : State) : Out :=
  let qva := s.x rs1; let v := s.x rs2
  .next (s.run .home fun s =>
    forwarded s qva
      (fun s => do
        let (q, s) ← s.qAddr qva
        let a := s.actor
        let (e, s) ← s.enqElem (s.qcb a.mark q).esize (some v) v
        s.homeCheck a qva q
        s.kindCheck a qva q .enq
        match ← s.enqAt a q e with
        | none => return ([1], s)
        | some _ => match ← (s.qRelease q).enqAt a q e with
          | some t => return ([0], t)
          | none => return ([1], s))
      (fun r s => .ok ((s.setX rd (r.headD 0)).next 4)))

/-- The enqueues of ENQM, VENQ and RENQM: elements in order up to the first that would park; how many were accepted
(R213). -/
def State.enqMany (s : State) (a : Actor) (q : Nat) (es : Nat) : Nat → List Byte → Except Exc (Nat × State)
  | 0, _ => .ok (0, s)
  | n + 1, b => do
    match ← s.enqAt a q (b.take es) with
    | none => return (0, s)
    | some s =>
      let (k, s) ← s.enqMany a q es n (b.drop es)
      return (k + 1, s)

/-- ENQM: up to 64 elements from consecutive addresses; never parks (R213). -/
def execEnqm (rd rs1 rs2 : Reg) (s : State) : Out :=
  let qva := s.x rs1; let va := s.x rs2; let k0 := Nat.min (s.x rd).toNat 64
  .next (s.run .home fun s =>
    forwarded s qva
      (fun s => do
        let (q, s) ← s.qAddr qva
        let a := s.actor
        let es := (s.qcb a.mark q).esize
        let (b, s) ← (if k0 = 0 then .ok ([], s) else (s.load 8 va (k0 * es)).map fun r => (r.1, r.2.2))
        s.homeCheck a qva q
        s.kindCheck a qva q .enq
        let (k, s') ← s.enqMany a q es k0 b
        if k = 0 then return ([0], s')
        let (k, s') ← (s.qRelease q).enqMany a q es k0 b
        return ([BitVec.ofNat 64 k], s'))
      (fun r s => .ok ((s.setX rd (r.headD 0)).next 4)))

/-- The located destination of a dequeued element under checks 1 to 6 as a store (R208). -/
def State.deqDest (s : State) (va : Word) (n : Nat) : Except Exc (List Nat × State) := do
  let (acc, s) ← s.check (s.who s.cur) .store 8 0 va n
  return (acc.locs, s)

/-- Writes a dequeued element to its located destination through the chunk buffer (R212). -/
def State.putElem (s : State) (va : Word) (dest : List Nat) (e : List Byte) : State :=
  if dest.isEmpty then s else s.writeAcc { Acc.none with locs := dest } va e .scalar

/-- The element of a DEQ or BQ: handed over, or taken at the home, or the hart parks; its destination, the element and
the control block (R212, R316). -/
def State.takeElem (s : State) (qva : Word) (dest? : Nat → Option Word) (kind : List Nat → QKind) :
    Except Exc (List Byte × List Nat × State) := do
  let (q, s) ← s.qAddr qva
  let a := s.actor
  let es := (s.qcb a.mark q).esize
  let (dest, s) ← (match dest? es with
    | some va => s.deqDest va es
    | none => .ok ([], s))
  s.homeCheck a qva q
  s.kindCheck a qva q .deq
  match ← s.deqAt a q with
  | some (e, t) => return (e, dest, t.qAcquire q)
  | none => throw (.become (s.joinDeq a q (kind dest)))

/-- DEQ: parks while the queue is empty; X[rd] := e[63:0], and e to memory when ESIZE > 8; an acquire (R212). -/
def execDeq (rd rs1 rs2 : Reg) (s : State) : Out :=
  let qva := s.x rs1; let va := s.x rs2
  let dest? (es : Nat) : Option Word := if 8 < es then some va else none
  .next (s.run .home fun s =>
    forwarded s qva
      (fun s => match s.me.handoff with
        | some h => .ok (dwords ((h.elem.length + 7) / 8) h.elem, s.qAcquire h.qcb)
        | none => do
          let (e, _, s) ← s.takeElem qva dest? (fun d => .deq rd d)
          return (dwords ((e.length + 7) / 8) e, s))
      (fun v s => do
        let e := ofDwords v
        let (dest, s) ← (match s.me.handoff with
          | some h => .ok (h.dest, s)
          | none => if 1 < v.length then s.deqDest va e.length else .ok ([], s))
        return ((s.putElem va dest e).setX rd (v.headD 0)).next 4))

/-- DEQNB: OK with the element in memory, or EMPTY (R212). -/
def execDeqnb (rd rs1 rs2 : Reg) (s : State) : Out :=
  let qva := s.x rs1; let va := s.x rs2
  .next (s.run .home fun s =>
    forwarded s qva
      (fun s => do
        let (q, s) ← s.qAddr qva
        let a := s.actor
        let es := (s.qcb a.mark q).esize
        let (_, s) ← s.deqDest va es
        s.homeCheck a qva q
        s.kindCheck a qva q .deq
        match ← s.deqAt a q with
        | none => return ([2], s)
        | some (e, t) => return (0 :: dwords ((e.length + 7) / 8) e, t.qAcquire q))
      (fun v s =>
        match v with
        | 0 :: d => do
          let e := ofDwords d
          let (dest, s) ← s.deqDest va e.length
          return ((s.putElem va dest e).setX rd 0).next 4
        | _ => .ok ((s.setX rd 2).next 4)))

/-- QSTAT: the snapshot of R214; a failing queue is poisoned and reported, without a trap; OWNER is checked (R208). -/
def execQstat (rd rs1 : Reg) (s : State) : Out :=
  let qva := s.x rs1
  .next (s.run .home fun s =>
    forwarded s qva
      (fun s => do
        let (q, s) ← s.qAddr qva
        let a := s.actor
        let c := s.qcb a.mark q
        if c.sound q && c.foreign s.me.ctx then throw (.trap Cause.permission qva 0)
        let s := if c.sound q then s else s.poison a.mark q
        let w := s.waitersOf q
        let v := c.occ + c.log2cap * 2 ^ 32 + (if c.sound q then 0 else 2 ^ 40) + (if w.enq.isEmpty then 0 else 2 ^ 41) +
          (if w.deq.isEmpty then 0 else 2 ^ 42)
        return ([BitVec.ofNat 64 v], s))
      (fun v s => .ok ((s.setX rd (v.headD 0)).next 4)))

/-- No page of a range translates to a place outside HBM; what does not translate is judged when it is used (R310, log 14). -/
def State.offHost (s : State) (lo len : Nat) : Bool :=
  (List.range ((lo % 4096 + len + 4095) / 4096)).all fun i =>
    match s.translate (s.who s.cur) .load (BitVec.ofNat 64 (lo / 4096 * 4096 + 4096 * i)) with
    | .ok (t, _) => isHbm t.pa
    | .error _ => true

/-- The array of a queue lies in the same kind of memory as its control block, and apart from it (R209, R310). -/
def State.placed (s : State) (qva : Word) (q : Nat) (c : Qcb) : Bool :=
  let lo := c.base
  let len := c.cap * c.esize
  let apart := decide (lo + len ≤ qva.toNat) || decide (qva.toNat + 64 ≤ lo)
  let seg := (s.core (coreOf s.cur)).segOf s.me.ctx
  let inLsp := decide (lspBaseVa ≤ lo) && decide (lo + len ≤ lspBaseVa + seg.size)
  let offLsp := decide (lo + len ≤ lspBaseVa) || decide (lspBaseVa + 0x80000 ≤ lo)
  apart && (if isLsp q then inLsp else isHbm q && offLsp && s.offHost lo len)

/-- QINIT finds a case of INVALID (R209, R310, R313). -/
def State.qInvalid (s : State) (qva : Word) (q : Nat) (c : Qcb) : Bool :=
  decide (c.esize % 8 ≠ 0) || decide (c.esize < 8) || decide (256 < c.esize) || decide (24 < c.log2cap) ||
    decide (c.base % 64 ≠ 0) || decide (5 ≤ c.kind) || !s.placed qva q c

/-- The control block after a successful QINIT (R210, R308). -/
def Qcb.fresh (c : Qcb) (ctx home : Nat) : Qcb :=
  let cfg := setField (setField (setField c.cfg 63 60 0) 56 56 0) 31 0 c.cap
  let ident := home * 2 ^ 32 + (c.gen + 1) % 2 ^ 16 * 2 ^ 16 + ctx % 2 ^ 16
  let c := { c with ctr := 0, cfg := cfg, waiters := 0, ident := ident, enqs := 0, deqs := 0 }
  { c with check := c.crc }

/-- QINIT: PERMISSION on OWNER and KIND, then INVALID, then BUSY, else a fresh queue; a release (R208-R210, R313). -/
def execQinit (rd rs1 : Reg) (s : State) : Out :=
  let qva := s.x rs1
  .next (s.run .home fun s =>
    forwarded s qva
      (fun s => do
        let (q, s) ← s.qAddr qva
        let a := s.actor
        let c := s.qcb a.mark q
        if c.foreign s.me.ctx then throw (.trap Cause.permission qva 0)
        s.kindCheck a qva q .init
        if s.qInvalid qva q c then return ([4], s)
        if c.waiters ≠ 0 then return ([3], s)
        let s := s.release s.cur .device
        return ([0], s.setQcb a.mark q (c.fresh s.me.ctx ((homeCode? q).getD 0))))
      (fun v s => .ok ((s.setX rd (v.headD 0)).next 4)))

/-- BQ: dequeues, then branches if the low doubleword differs from X[rs2]; the element's rest is discarded (R105). -/
def execBq (rs1 rs2 : Reg) (off : BitVec 14) (s : State) : Out :=
  let qva := s.x rs1; let cmp := s.x rs2
  .next (s.run .home fun s => do
    if s.gangCode ≠ 0 then throw (illegal (bitsOf (.bq rs1 rs2 off)))
    forwarded s qva
      (fun s => match s.me.handoff with
        | some h => .ok ([leWord (h.elem.take 8)], s.qAcquire h.qcb)
        | none => do
          let (e, _, s) ← s.takeElem qva (fun _ => none) (fun _ => .bq cmp off)
          return ([leWord (e.take 8)], s))
      (fun v s => .ok (s.setPc (branchPc s.pc off (v.headD 0 != cmp)))))

/-- Removes a parked hart from the waiter lists, in one action at the home (R215, R316). -/
def State.leaveQueue (s : State) (h : Nat) : State :=
  match (s.hart h).status with
  | .parked (.queue q) =>
    let w := s.waitersOf q
    s.setWaiters (s.hartMark h) q
      { enq := w.enq.filter (fun e => decide (e.hart ≠ h) || (match e.kind with | .port _ => true | .device => true | _ => false)),
        deq := w.deq.filter fun e => decide (e.hart ≠ h) }
  | _ => s

end Sys2Proof.Machine
end

