-- ==== Sys2Proof/Machine/Stream.lean ====
section
/-! DEFINITION. Stream registers, watermarks, the tag table and the L2 controls (spec/09 R216-R219, R223-R231; spec/12
R282). -/

namespace Sys2Proof.Machine

/-! Range registration (R226, R227). -/

/-- A free entry of the core's range-lock table. -/
def Core.freeRlt (k : Core) : Option Nat := (List.range 16).find? fun i => (mapFind? k.rlt i).isNone

/-- The lowest-numbered registered entry of a kind that [lo, hi) overlaps. -/
def Core.rltHit (k : Core) (ctx : Nat) (sources : Bool) (lo hi : Nat) : Option (Nat × RltEntry) :=
  k.rlt.find? fun e => decide (e.2.ctx = ctx) && (sources || !e.2.source) && overlaps lo (hi - lo) e.2.lo e.2.hi

/-- Registers a range for an engine operation: RANGE_LOCK where a destination overlaps a registered range, a stall
without a free entry (R226, R227). -/
def State.registerRange (s : State) (source : Bool) (lo hi : Nat) : Except Exc (Nat × State) :=
  let k := s.myCore
  let ctx := s.me.ctx
  match (if source then none else k.locked ctx true (BitVec.ofNat 64 lo) (hi - lo)) with
  | some (i, b) => .error (.trap Cause.rangeLock (BitVec.ofNat 64 b) (BitVec.ofNat 64 i))
  | none => match k.freeRlt with
    | none => .error .stall
    | some i => .ok (i, s.onMyCore fun k => { k with rlt := mapPut k.rlt i { lo := lo, hi := hi, source := source, ctx := ctx } })

/-- An engine's source read waits: a registered destination overlaps it (R227), or a bound watermark is below it
(R218). -/
def Core.sourceWaits (k : Core) (ctx : Nat) (va n : Nat) : Bool :=
  (k.rltHit ctx false va (va + n)).isSome || !k.belowMark ctx (BitVec.ofNat 64 va) n

/-! Descriptors (R216). -/

/-- A valid descriptor as a binding of a hart; none where a field breaks a rule. -/
def descriptor? (d : List Byte) (hart : Nat) : Option Binding :=
  let w (i : Nat) := leNat ((d.drop (8 * i)).take 8)
  let base := w 0; let fl := w 1
  let esize := field fl 7 0
  let out := decide (field fl 8 8 = 1)
  let wmen := decide (field fl 9 9 = 1)
  let c0 := field (w 2) 31 0; let c1 := field (w 2) 63 32; let c2 := field (w 3) 31 0
  let al := if esize = 12 ∨ esize = 18 then 2 else esize
  let good := decide (esize ∈ [1, 2, 4, 8, 12, 18]) && decide (field fl 63 14 = 0) && decide (field (w 3) 63 32 = 0) &&
    decide (w 7 = 0) && decide (0 < c0) && decide (0 < c1) && decide (0 < c2) && decide (base % al = 0) &&
    decide (w 4 % al = 0) && decide (w 5 % al = 0) && decide (w 6 % al = 0)
  let dense := decide (w 4 = esize) && decide (w 5 = c0 * w 4 % 2 ^ 64) && decide (w 6 = c1 * w 5 % 2 ^ 64)
  if good && (!wmen || (out && dense)) then
    some { hart := hart, esize := esize, outbound := out, base := BitVec.ofNat 64 base, c0 := c0, c1 := c1, c2 := c2,
           s0 := BitVec.ofNat 64 (w 4), s1 := BitVec.ofNat 64 (w 5), s2 := BitVec.ofNat 64 (w 6),
           wm := if wmen then some (field fl 13 10) else none, rlt := 0, pieces := [], done := 0, taken := 0, seen := [] }
  else none

/-- The address of element i in pattern order (R216). -/
def Binding.addr (b : Binding) (i : Nat) : Word :=
  b.base + BitVec.ofNat 64 (i % b.c0) * b.s0 + BitVec.ofNat 64 (i / b.c0 % b.c1) * b.s1 +
    BitVec.ofNat 64 (i / b.c0 / b.c1) * b.s2

/-- The hull from the lowest to the highest element byte: first address and length. -/
def Binding.hull (b : Binding) : Int × Nat :=
  let ext (c : Nat) (st : Word) : Int := ((c : Int) - 1) * st.toInt
  let neg (v : Int) : Int := if v < 0 then v else 0
  let pos (v : Int) : Int := if v < 0 then 0 else v
  let a := ext b.c0 b.s0; let c := ext b.c1 b.s1; let d := ext b.c2 b.s2
  let lo := neg a + neg c + neg d
  let hi := pos a + pos c + pos d
  ((b.base.toNat : Int) + lo, (hi - lo).toNat + b.esize)

/-- The port of stream register n on the executing hart's core. -/
def State.stream (s : State) (n : Nat) : Stream :=
  (mapFind? s.myCore.streams n).getD { active := none, rest := [], buf := [] }
/-- Replaces a port. -/
def State.setStream (s : State) (n : Nat) (st : Stream) : State :=
  s.onMyCore fun k => { k with streams := if st.active.isNone then mapErase k.streams n else mapPut k.streams n st }

/-- SBIND (R217). -/
def execSbind (rd rs1 : Reg) (s : State) : Out :=
  let w := bitsOf (.sbind rd rs1)
  .next (s.run .alone fun s => do
    regIn 8 rd w
    let a := s.x rs1
    let (d, _, s) ← s.load 64 a 64
    let n := rd.toNat
    let st := s.stream n
    match descriptor? d s.cur with
    | none => throw (illegal2 w a)
    | some b =>
      match st.active with
      | some c => if c.hart ≠ s.cur then throw (illegal2 w a)
      | none => pure ()
      let (lo, len) := b.hull
      let kind := if b.outbound then Kind.store else Kind.load
      let (ps, s) ← s.pieces (s.who s.cur) kind 0 (len / 4096 + 4) (BitVec.ofInt 64 lo) len []
      match st.active with
      | some c =>
        if st.waiting then throw .stall
        if c.esize ≠ b.esize ∨ c.outbound ≠ b.outbound then throw (illegal w)
      | none => pure ()
      let start := (BitVec.ofInt 64 lo).toNat
      let (i, s) ← s.registerRange (!b.outbound) start (start + len)
      let b := { b with rlt := i, pieces := ps }
      let st := s.stream n
      let s := s.onChunk fun q => { q with engines := [.bind n i st] }
      let st' : Stream := if st.active.isNone then { st with active := some b } else { st with rest := st.rest ++ [b] }
      return (s.setStream n st').next 4)

/-- SSTOP: outbound elements already supplied are written first; then both bindings are dropped (R218). -/
def execSstop (rd : Reg) (s : State) : Out :=
  let w := bitsOf (.sstop rd)
  .next (s.run .alone fun s => do
    regIn 8 rd w
    let st := s.stream rd.toNat
    match st.active with
    | none => return s.next 4
    | some b =>
      if b.hart ≠ s.cur then return s.next 4
      if b.outbound ∧ ¬ st.buf.isEmpty then throw .stall
      let ids := st.list.map Binding.rlt
      let s := s.onMyCore fun k => { k with rlt := k.rlt.filter fun e => decide (e.1 ∉ ids) }
      return (s.setStream rd.toNat { active := none, rest := [], buf := [] }).next 4)

/-- Elements of the port's bindings in all. -/
def Stream.total (st : Stream) : Nat := (st.list.map Binding.total).sum
/-- Elements that the port has fetched or written, of all its bindings. -/
def Stream.done (st : Stream) : Nat := (st.list.map Binding.done).sum
/-- Elements popped or pushed by committed chunks. -/
def Stream.taken (st : Stream) : Nat := (st.active.map Binding.taken).getD 0
/-- Pops of the open chunk. -/
def State.popsOf (s : State) (n : Nat) : Nat := match s.me.chunk with | some c => mapGet 0 c.popped n | none => 0
/-- Pushes of the open chunk. -/
def State.pushesOf (s : State) (n : Nat) : List (BitVec 144) :=
  match s.me.chunk with | some c => mapGet [] c.pushes n | none => []

/-- Some byte of the binding lies outside the sphere of replication: in global or host memory (R219, R363). -/
def Binding.global (b : Binding) : Bool := b.pieces.any fun p => !isLsp p.2.1

/-- Element i of some bindings, one behind the other: its address and its bytes' places. -/
def elementOf : List Binding → Nat → Word × List Nat
  | [], _ => (0, [])
  | b :: bs, i =>
    if i < b.total then (b.addr i, (List.range b.esize).map fun k => pieceLoc b.pieces ((b.addr i).toNat + k))
    else elementOf bs (i - b.total)
/-- Element i of a port's bindings. -/
def Stream.element (st : Stream) (i : Nat) : Word × List Nat := elementOf st.list i

/-- The executing hart takes `nw` words from the log entry of member j of its convoy: those behind the words that it has
taken already (R364). -/
def State.takePart (s : State) (j : Nat) (vs : List Word) : State :=
  s.onChunk fun c => { c with fwdSubs := mapPut c.fwdSubs j (mapGet 0 c.fwdSubs j + vs.length),
                              sig := vs.foldl (fun g v => sigAdd g (fwdItem v 0)) c.sig }

/-- Words k to k + n − 1 of member j's entry of the forwarding log, performed by the lead where the log does not hold them
yet: the elements of a vector instruction share one entry (R364). -/
def forwardedPart (s : State) (j n : Nat) (perform : State → Except Exc (List Word)) (deliver : List Word → State → Res) : Res :=
  match s.me.group.bind (mapFind? s.groups), s.me.chunk with
  | some G, some c =>
    let at_ := s.fwdStart + (c.fwdSubs.findIdx fun e => decide (e.1 = j))
    let sub := mapGet 0 c.fwdSubs j
    let log := G.received s.cur
    let held := match log[at_]? with | some (.val v) => v | _ => []
    let next := if (mapFind? c.fwdSubs j).isSome then s.fwdPos else at_
    if sub + n ≤ held.length then
      let vs := (held.drop sub).take n
      deliver vs (s.takePart j vs)
    else match log[next]? with
      | some (.trap c v w) => .error (.trapFwd c v w)
      | _ =>
        if s.follower s.cur then .error (.park .forward)
        else match perform s with
          | .error (.trap c v w) => .error (.trapFwd c v w)
          | .error e => .error e
          | .ok vs =>
            let log := if at_ < G.log.length then G.log.set at_ (.val (held ++ vs)) else G.log ++ [.val vs]
            deliver vs ((s.sendFwd (s.me.group.getD 0) G log at_ held.length).takePart j vs)
  | _, _ => .error .stall

/-- Pops one inbound element of esize bytes, for member j of a convoy: in a replicated launch, the lead forwards those from outside
the sphere (R219, R364). Parks while it has not arrived; at the 64th uncommitted pop, which the port must be able to replay, the
chunk ends; data that failed its check traps here (R283, R289). -/
def State.popStream (s : State) (j n esize : Nat) (glob : Bool) (deliver : Nat → State → Res) : Res :=
  let count (s : State) := s.onChunk fun c => { c with popped := mapPut c.popped n (mapGet 0 c.popped n + 1) }
  let here (s : State) : Except Exc (BitVec 144) :=
    match (s.stream n).buf[s.popsOf n]? with
    | none => .error (.park (.stream n))
    | some e =>
      let (va, locs) := (s.stream n).element ((s.stream n).taken + s.popsOf n)
      (s.checkData 0 va locs).map fun _ => e
  let words (e : BitVec 144) : List Word := (List.range ((esize + 7) / 8)).map fun k => (e >>> (64 * k)).setWidth 64
  if 64 ≤ s.popsOf n then .error .endChunk
  else if glob && s.me.group.isSome then
    forwardedPart s j ((esize + 7) / 8) (fun s => (here s).map words)
      (fun v s => deliver ((v.zipIdx).foldl (fun a e => a + e.1.toNat * 2 ^ (64 * e.2)) 0) (count s))
  else match here s with
    | .error e => .error e
    | .ok e => deliver e.toNat (count s)

/-- SMV: pops one element; parks while none has arrived (R219). -/
def execSmv (rd rs1 : Reg) (s : State) : Out :=
  let w := bitsOf (.smv rd rs1)
  .next (s.run .plain fun s => do
    regIn 8 rs1 w
    let n := rs1.toNat
    let st := s.stream n
    match st.active with
    | none => throw (illegal w)
    | some b =>
      if b.hart ≠ s.cur ∨ b.outbound ∨ 8 < b.esize ∨ st.total ≤ st.taken + s.popsOf n then throw (illegal w)
      if 64 ≤ s.popsOf n then throw .endChunk
      s.popStream 0 n b.esize b.global fun e s => .ok ((s.setX rd (BitVec.ofNat 64 e)).next 4))

/-- SWR: supplies one element; parks while the port's buffer is full (R219). -/
def execSwr (rd rs2 : Reg) (s : State) : Out :=
  let w := bitsOf (.swr rd rs2)
  .next (s.run .plain fun s => do
    regIn 8 rd w
    let n := rd.toNat
    let st := s.stream n
    let mine := s.pushesOf n
    match st.active with
    | none => throw (illegal w)
    | some b =>
      if b.hart ≠ s.cur ∨ !b.outbound ∨ 8 < b.esize then throw (illegal w)
      if 64 ≤ mine.length then throw .endChunk
      if 64 ≤ st.buf.length + mine.length ∨ st.total ≤ st.taken + mine.length then throw (.park (.stream n))
      let v := (s.x rs2).toNat % 2 ^ (8 * b.esize)
      let i := st.taken + mine.length
      let va := (st.element i).1
      return (s.onChunk fun c => { c with
        pushes := mapPut c.pushes n (mine ++ [BitVec.ofNat 144 v]),
        sig := (storeItems va (leBytes b.esize v)).foldl sigAdd c.sig }).next 4)

/-! Watermarks (R223-R225, R282). -/

/-- LO, HI and MARK of a cell, at its home. -/
def State.cellAt (s : State) (mark cell : Nat) : Word × Word × Word :=
  let b := (span cell 24).map (s.homeByte mark)
  (leWord (b.take 8), leWord ((b.drop 8).take 8), leWord (b.drop 16))

/-- Unsigned minimum and maximum. -/
def wmin (a b : Word) : Word := if a.ult b then a else b
def wmax (a b : Word) : Word := if a.ult b then b else a

/-- MARK := max(MARK, min(v, HI)) at the cell's home; the advance is sent to every bound register (R224, R282), and to
the Dispatch Unit for a launch whose dependence it is, as number 1024 + launch (R349). -/
def State.advanceMark (s : State) (mark cell : Nat) (v : Word) : Word × State :=
  let (_, hi, m) := s.cellAt mark cell
  let m' := wmax m (wmin v hi)
  let s := s.homeWrite mark ((span (cell + 16) 8).zip (leBytes 8 m'.toNat))
  let notes := s.cores.flatMap fun e => (e.2.wm.filter fun r => decide (r.2.cell = cell)).map fun r => (e.1, r.1, m')
  let du := (s.launches.filter fun e => decide (e.2.wmCell = some cell) && e.2.readyAt.isNone).map fun e => (1024 + e.1, 0, m')
  (m', { s with notify := s.notify ++ notes ++ du })

/-- WMBIND: checks and binds a cell for the core, or unbinds (R224, R282). -/
def execWmbind (rd rs1 : Reg) (s : State) : Out :=
  let w := bitsOf (.wmbind rd rs1)
  .next (s.run .alone fun s => do
    regIn 16 rd w
    let core := coreOf s.cur
    let forget (s : State) := { s with notify := s.notify.filter fun e => !(decide (e.1 = core) && decide (e.2.1 = rd.toNat)) }
    if rs1 = 0 then
      return (forget (s.onMyCore fun k => { k with wm := mapErase k.wm rd.toNat })).next 4
    let a := s.x rs1
    let (acc, s) ← s.check (s.who s.cur) .load 32 0 a 32
    let cell := acc.locs.headD 0
    let (b, s) := s.atHome s.cur (s.hartMark s.cur) acc.locs
    let lo := leNat (b.take 8); let hi := leNat ((b.drop 8).take 8); let m := leNat ((b.drop 16).take 8)
    if ¬ (lo ≤ m ∧ m ≤ hi ∧ leNat (b.drop 24) = 0) then throw (illegal2 w a)
    let others := s.cores.filter fun e => decide (e.1 ≠ core) && e.2.wm.any fun r => decide (r.2.cell = cell)
    if 64 ≤ others.length then throw .stall
    let r : WmReg := { cell := cell, va := a, lo := BitVec.ofNat 64 lo, hi := BitVec.ofNat 64 hi, mark := BitVec.ofNat 64 m,
                       ctx := s.me.ctx }
    return (forget (s.onMyCore fun k => { k with wm := mapPut k.wm rd.toNat r })).next 4)

/-- WMPUB: a release at device scope, then the advance at the home (R224). -/
def execWmpub (rs1 rs2 : Reg) (s : State) : Out :=
  let a := s.x rs1; let v := s.x rs2
  .next (s.run .home fun s =>
    forwarded s a
      (fun s => do
        let (acc, s) ← s.checkBoth 32 a 32
        s.checkRmw a 32
        let s := s.release s.cur .device
        let (_, s) := s.atHome s.cur (s.hartMark s.cur) acc.locs
        let (m, s) := s.advanceMark (s.hartMark s.cur) (acc.locs.headD 0) v
        return ([m], s))
      (fun _ s => .ok (s.next 4)))

/-- WMWAIT: parks until MARK covers min(X[rs2], HI); an acquire (R224). -/
def execWmwait (rd rs1 rs2 : Reg) (s : State) : Out :=
  let w := bitsOf (.wmwait rd rs1 rs2)
  let thr := s.x rs2
  .next (s.run .home fun s => do
    regIn 16 rs1 w
    match mapFind? s.myCore.wm rs1.toNat with
    | none => throw (illegal w)
    | some r =>
      forwarded s r.va
        (fun s => if r.mark.ult (wmin thr r.hi) then .error (.park (.wmwait rs1.toNat thr)) else .ok ([r.mark], s))
        (fun v s => .ok (((s.setX rd (v.headD 0)).acquire s.cur .device).next 4)))

/-- WMGET: the MARK that the register holds (R224). -/
def execWmget (rd rs1 : Reg) (s : State) : Out :=
  let w := bitsOf (.wmget rd rs1)
  .next (s.run .plain fun s => do
    regIn 16 rs1 w
    match mapFind? s.myCore.wm rs1.toNat with
    | none => throw (illegal w)
    | some r => return (s.setX rd r.mark).next 4)

/-! The tag table (R228). -/

/-- The table as the executing hart sees it: committed, with its own pending changes. -/
def State.tagView (s : State) : FMap Nat :=
  applyTags s.me.ctx (match s.me.chunk with | some c => c.tags | none => []) s.myCore.tags
/-- The key of an address's granule in the executing hart's context. -/
def State.tagKey (s : State) (va : Word) : Nat := s.me.ctx * 2 ^ 53 + va.toNat / 2048

/-- TLOOK. -/
def execTlook (rd rs1 : Reg) (s : State) : Out :=
  .next (s.run .plain fun s =>
    let a := s.x rs1
    let v : Word := match mapFind? s.tagView (s.tagKey a) with
      | some slot => BitVec.ofNat 64 (lspBaseVa + slot + a.toNat % 2048)
      | none => BitVec.allOnes 64
    .ok ((s.setX rd v).next 4))

/-- TSET. -/
def execTset (rd rs1 rs2 : Reg) (s : State) : Out :=
  let w := bitsOf (.tset rd rs1 rs2)
  .next (s.run .plain fun s => do
    let a := s.x rs1
    let slot := (s.x rs2).toNat
    if slot % 2048 ≠ 0 ∨ (s.myCore.segOf s.me.ctx).size ≤ slot then throw (illegal w)
    let t := s.tagView
    let full := decide (256 ≤ (t.filter fun e => decide (e.1 / 2 ^ 53 = s.me.ctx)).length)
    if (mapFind? t (s.tagKey a)).isNone ∧ full then return (s.setX rd 1).next 4
    let s := s.onChunk fun c => { c with tags := c.tags ++ [.set (a.toNat / 2048) slot] }
    return (s.setX rd 0).next 4)

/-- TINV. -/
def execTinv (rd rs1 : Reg) (s : State) : Out :=
  .next (s.run .plain fun s =>
    let a := s.x rs1
    match mapFind? s.tagView (s.tagKey a) with
    | some slot =>
      let s := s.onChunk fun c => { c with tags := c.tags ++ [.inv (a.toNat / 2048)] }
      .ok ((s.setX rd (BitVec.ofNat 64 slot)).next 4)
    | none => .ok ((s.setX rd (BitVec.allOnes 64)).next 4))

/-! Cluster L2 controls (R229-R231). -/

/-- The counters of a bound ARR in the layout of L2UNPIN. -/
def Arr.counters (a : Arr) : Word := BitVec.ofNat 64 (a.misses * 2 ^ 32 + a.hits)

/-- The cluster of the executing hart. -/
def State.myCluster (s : State) : Cluster := s.cluster (clusterOf s.cur)

/-- L2PIN: the lowest status that applies (R229). The lowest-numbered unreserved ways are taken (log 16). -/
def execL2pin (rd rs1 rs2 : Reg) (s : State) : Out :=
  let w := bitsOf (.l2pin rd rs1 rs2)
  .next (s.run .alone fun s => do
    let a := s.x rs1
    let v := (s.x rs2).toNat
    if field v 63 62 ≠ 0 ∨ field v 59 52 ≠ 0 ∨ field v 47 40 ≠ 0 then throw (illegal w)
    let (acc, s) ← s.check14 (s.who s.cur) .load 1 0 a 1
    let arr := field v 61 60; let ways := field v 51 48; let len := field v 39 0
    let q := s.myCluster
    let st : Nat :=
      if (mapFind? q.arr arr).isSome then 1
      else if ways < 1 ∨ 12 < ways ∨ 12 < q.reserved.length + ways then 2
      else if len = 0 ∨ acc.size < a.toNat % acc.size + len then 3
      else 0
    let s := if st ≠ 0 then s else
      let lo := acc.locs.headD 0
      let free := (List.range 16).filter fun x => decide (x ∉ q.reserved)
      s.onCluster (clusterOf s.cur) fun q =>
        { q with arr := mapPut q.arr arr { ctx := s.me.ctx, lo := lo / 64 * 64, hi := lo + len, ways := free.take ways,
                                           hits := 0, misses := 0 } }
    return (s.setX rd (BitVec.ofNat 64 st)).next 4)

/-- L2UNPIN: the counters of an ARR of the context, which is unbound; all ones otherwise (R230). -/
def execL2unpin (rd rs1 : Reg) (s : State) : Out :=
  let w := bitsOf (.l2unpin rd rs1)
  .next (s.run .alone fun s => do
    regIn 4 rs1 w
    match mapFind? s.myCluster.arr rs1.toNat with
    | some a =>
      if a.ctx = s.me.ctx then
        let s := s.onCluster (clusterOf s.cur) fun q => { q with arr := mapErase q.arr rs1.toNat }
        return (s.setX rd a.counters).next 4
      else return (s.setX rd (BitVec.allOnes 64)).next 4
    | none => return (s.setX rd (BitVec.allOnes 64)).next 4)

/-- The lines of the translated pages of a range, and whether their page is evict-first; pages that do not translate are skipped
(R231, R280). -/
def State.hintLines (s : State) : Nat → Word → Nat → List (Nat × Bool) → List (Nat × Bool)
  | 0, _, _, acc => acc
  | fuel + 1, va, n, acc =>
    if n = 0 then acc
    else
      let len := Nat.min n (4096 - va.toNat % 4096)
      let here := match lspOffset? va with
        | some _ => []
        | none => match s.translate (s.who s.cur) .load va with
          | .ok (t, _) => if isHbm t.pa then (List.range ((t.pa + len - 1) / 64 - t.pa / 64 + 1)).map fun i => (t.pa / 64 + i, bit t.pte 11) else []
          | .error _ => []
      s.hintLines fuel (va + BitVec.ofNat 64 len) (n - len) (acc ++ here)

/-- The lines an L2HINT names. -/
def State.hintRange (s : State) (rs1 rs2 : Reg) : List (Nat × Bool) :=
  let len := field (s.x rs2).toNat 39 0
  s.hintLines (len / 4096 + 2) (s.x rs1) len []

/-- The word of an L2HINT: func9 0x01A of major 30 (R229). -/
def hintBits (rd rs1 rs2 : Reg) : Word :=
  BitVec.ofNat 64 (0x01A * 2 ^ 23 + rs2.toNat * 2 ^ 18 + rs1.toNat * 2 ^ 13 + rd.toNat * 2 ^ 8 + 30 * 4 + 3)

/-- L2HINT op 0: fetches the lines at high priority; changes no value (R231). -/
def execL2hintFetch (rd rs1 rs2 : Reg) (s : State) : Out :=
  .next (s.run .plain fun s => do
    if rd ≠ 0 then throw (illegal (hintBits rd rs1 rs2))
    return ((s.hintRange rs1 rs2).foldl (fun s e =>
      s.touch (clusterOf s.cur) e.1 (if e.2 then .evictFirst else .vector) false) s).next 4)

/-- L2HINT op 1: moves the lines to the lowest priority (R231). -/
def execL2hintDemote (rd rs1 rs2 : Reg) (s : State) : Out :=
  .next (s.run .plain fun s => do
    if rd ≠ 0 then throw (illegal (hintBits rd rs1 rs2))
    let k := clusterOf s.cur
    return ((s.hintRange rs1 rs2).foldl (fun s e => match s.copy? k e.1 with
      | some c => s.setCopy k e.1 { c with age := 3 }
      | none => s) s).next 4)

/-- L2HINT op 2: the counters of ARR X[rs1][1:0] without unbinding it (R231). -/
def execL2hintCounters (rd rs1 _rs2 : Reg) (s : State) : Out :=
  .next (s.run .plain fun s =>
    let v := match mapFind? s.myCluster.arr ((s.x rs1).toNat % 4) with
      | some a => if a.ctx = s.me.ctx then a.counters else BitVec.allOnes 64
      | none => BitVec.allOnes 64
    .ok ((s.setX rd v).next 4))

end Sys2Proof.Machine
end

