-- ==== Sys2Proof/Machine/Sfu.lean ====
section
/-! DEFINITION. The special functions of unit 5, correctly rounded: each value is enclosed between two integers at a fixed
point, and the enclosure is tightened until every number in it rounds alike (spec/04 R90; spec/06 R147). -/

namespace Sys2Proof.Machine

/-- An enclosure: a real number times 2^p lies in [lo, hi]. -/
structure Iv where
  lo : Int
  hi : Int
deriving DecidableEq, Repr

/-- Floor and ceiling of x / 2^p. -/
def shiftLo (x : Int) (p : Nat) : Int := x / (2 : Int) ^ p
def shiftHi (x : Int) (p : Nat) : Int := -(-x / (2 : Int) ^ p)
/-- An exact integer multiple of 2^-p. -/
def Iv.exact (v : Int) : Iv := { lo := v, hi := v }
def Iv.add (a b : Iv) : Iv := { lo := a.lo + b.lo, hi := a.hi + b.hi }
def Iv.neg (a : Iv) : Iv := { lo := -a.hi, hi := -a.lo }
def Iv.sub (a b : Iv) : Iv := a.add b.neg
/-- Product at fixed point p. -/
def Iv.mul (p : Nat) (a b : Iv) : Iv :=
  let w := a.lo * b.lo; let x := a.lo * b.hi; let y := a.hi * b.lo; let z := a.hi * b.hi
  { lo := shiftLo (min (min w x) (min y z)) p, hi := shiftHi (max (max w x) (max y z)) p }
/-- Quotient by a natural number. -/
def Iv.divN (a : Iv) (n : Nat) : Iv := { lo := a.lo / n, hi := -(-a.hi / n) }
/-- Quotient of nonnegative enclosures, the divisor positive. -/
def Iv.div (p : Nat) (a b : Iv) : Iv := { lo := a.lo * 2 ^ p / b.hi, hi := -(-(a.hi * 2 ^ p) / b.lo) }
/-- Widened by the given number of units. -/
def Iv.widen (a : Iv) (n : Int) : Iv := { lo := a.lo - n, hi := a.hi + n }
/-- The largest magnitude enclosed. -/
def Iv.mag (a : Iv) : Int := max a.hi.natAbs a.lo.natAbs

/-- A series whose next term comes from the last: the sum of n terms, widened by twice the first term left out. -/
def sumSeries (next : Nat → Iv → Iv) : Nat → Nat → Iv → Iv → Iv
  | 0, _, t, acc => acc.widen (2 * t.mag + 2)
  | n + 1, k, t, acc => sumSeries next n (k + 1) (next k t) (acc.add t)

/-- Terms that suffice for p bits where each gives at least two. -/
def termsFor (p : Nat) : Nat := p / 4 + 20

/-- Σ ± x^(2k+1) / (2k+1) from powers of a squared factor. -/
def oddSeries (p : Nat) (sq : Iv) : Nat → Nat → Iv → Iv → Iv
  | 0, _, t, acc => acc.widen (2 * t.mag + 2)
  | n + 1, k, t, acc => oddSeries p sq n (k + 1) (t.mul p sq) (acc.add (t.divN (2 * k + 1)))
/-- atanh x, for |x| ≤ 1/3. -/
def atanhIv (p : Nat) (x : Iv) : Iv := oddSeries p (x.mul p x) (p / 3 + 8) 0 x (.exact 0)
/-- arctan x, for |x| ≤ 1/5. -/
def atanIv (p : Nat) (x : Iv) : Iv := oddSeries p (x.mul p x).neg (p / 3 + 8) 0 x (.exact 0)
/-- 1 / n. -/
def recipIv (p n : Nat) : Iv := (Iv.exact (2 ^ p)).divN n
/-- ln 2 = 2 atanh (1/3). -/
def ln2Iv (p : Nat) : Iv := let a := atanhIv p (recipIv p 3); a.add a
/-- π = 16 arctan (1/5) − 4 arctan (1/239). -/
def piIv (p : Nat) : Iv :=
  let a := atanIv p (recipIv p 5)
  let b := atanIv p (recipIv p 239)
  let a4 := (a.add a).add (a.add a)
  ((a4.add a4).add (a4.add a4)).sub ((b.add b).add (b.add b))
/-- e^y, for |y| ≤ 1. -/
def expIv (p : Nat) (y : Iv) : Iv :=
  sumSeries (fun k t => (t.mul p y).divN (k + 1)) (termsFor p) 0 (.exact (2 ^ p)) (.exact 0)
/-- sin y, for |y| ≤ 2. -/
def sinIv (p : Nat) (y : Iv) : Iv :=
  let q := (y.mul p y).neg
  sumSeries (fun k t => (t.mul p q).divN ((2 * k + 2) * (2 * k + 3))) (termsFor p) 0 y (.exact 0)
/-- cos y, for |y| ≤ 2. -/
def cosIv (p : Nat) (y : Iv) : Iv :=
  let q := (y.mul p y).neg
  sumSeries (fun k t => (t.mul p q).divN ((2 * k + 1) * (2 * k + 2))) (termsFor p) 0 (.exact (2 ^ p)) (.exact 0)

/-- A positive enclosure of a number that no format represents, times 2^-p × 2^e, rounded once; none while it is too
wide. -/
def Fmt.enclosed (f : Fmt) (neg : Bool) (a : Iv) (e : Int) : Option FRes :=
  if a.lo ≤ 0 then none
  else
    let lo := a.lo.toNat; let hi := a.hi.toNat
    let k := if lo = hi then 0 else Nat.log2 (lo ^^^ hi) + 1
    let m := lo / 2 ^ k
    if m < 2 ^ (f.prec + 2) then none else some (f.round .rne 0 false neg { m := m, e := e + k, st := true })

/-- Tries a computation at 200, 400, 800 and 1,600 bits. -/
def tighten (go : Nat → Option FRes) : FRes :=
  match go 200 with
  | some r => r
  | none => match go 400 with
    | some r => r
    | none => match go 800 with
      | some r => r
      | none => (go 1600).getD (0, 0)

/-- m × 2^e at fixed point p. -/
def fixAt (p m : Nat) (e : Int) : Int := if -(p : Int) ≤ e then (m : Int) * 2 ^ (e + p).toNat else (m : Int) / 2 ^ (-(e + p)).toNat
/-- |x| ≥ n for x = m × 2^e. -/
def finGe (m : Nat) (e : Int) (n : Nat) : Bool :=
  if 0 ≤ e then decide (n ≤ m * 2 ^ e.toNat) else decide (n * 2 ^ (-e).toNat ≤ m)
/-- |x| < 2^-32. -/
def finTiny (m : Nat) (e : Int) : Bool := decide (e + Nat.log2 m < -32)

/-- A number just below m × 2^e. -/
def justBelow (m : Nat) (e : Int) : Ex := { m := m * 2 ^ 64 - 1, e := e - 64, st := true }

/-- e^x for a nonnegative x = m × 2^e below 2^10, as an enclosure and a power of two. -/
def expPos (p m : Nat) (e : Int) : Iv × Nat :=
  let x := fixAt p m e
  let l := ln2Iv p
  let n := (x / l.hi).toNat
  (expIv p { lo := x - n * l.hi, hi := x - n * l.lo }, n)
/-- e^−x for such an x. -/
def expNeg (p m : Nat) (e : Int) : Iv × Nat :=
  let x := fixAt p m e
  let l := ln2Iv p
  let n := (x / l.hi).toNat
  (expIv p { lo := n * l.lo - x, hi := n * l.hi - x }, n)

/-- 2^x. -/
def sfExp2 (f : Fmt) (a : FVal) : FRes :=
  match a with
  | .nan s => f.nanRes s
  | .inf true => (0, 0)
  | .inf false => (f.inf false, 0)
  | .zero _ => f.round .rne 0 false false { m := 1, e := 0, st := false }
  | .fin s m e =>
    if finGe m e 1024 then f.round .rne 0 false false { m := 1, e := if s then -1024 else 1024, st := true }
    else
      let x : Int := if s then -(fixAt 200 m e) else fixAt 200 m e
      let n := shiftLo x 200
      if n * 2 ^ 200 = x then f.round .rne 0 false false { m := 1, e := n, st := false }
      else tighten fun p =>
        let r : Int := (if s then -(fixAt p m e) else fixAt p m e) - n * 2 ^ p
        f.enclosed false (expIv p ((Iv.exact r).mul p (ln2Iv p))) (n - p)

/-- log2 x. -/
def sfLog2 (f : Fmt) (a : FVal) : FRes :=
  match a with
  | .nan s => f.nanRes s
  | .inf s => if s then f.nanRes true else (f.inf false, 0)
  | .zero _ => (f.inf true, fDZ)
  | .fin true _ _ => f.nanRes true
  | .fin false m e =>
    let b := Nat.log2 m
    if m = 2 ^ b then f.ofInt .rne 0 false (e + b)
    else
      -- x = y × 2^k with y in [3/4, 3/2)
      let up := decide (3 * 2 ^ b ≤ 2 * m)
      let k : Int := e + b + (if up then 1 else 0)
      tighten fun p =>
        let y : Int := fixAt p m (-(b : Int) - (if up then 1 else 0))
        let z : Iv := { lo := (y - 2 ^ p) * 2 ^ p / (y + 2 ^ p), hi := (y - 2 ^ p) * 2 ^ p / (y + 2 ^ p) + 1 }
        let h := atanhIv p z
        let l := ln2Iv p
        let two := h.add h
        let q : Iv := if 0 ≤ two.lo then two.div p l else (two.neg.div p l).neg
        let v := (Iv.exact (k * 2 ^ p)).add q
        if v.hi < 0 then f.enclosed true v.neg (-(p : Int)) else f.enclosed false v (-(p : Int))

/-- 1 / x. -/
def sfRcp (f : Fmt) (a : FVal) : FRes := f.divV .rne 0 (.fin false 1 0) a

/-- 1 / √x. -/
def sfRsq (f : Fmt) (a : FVal) : FRes :=
  match a with
  | .nan s => f.nanRes s
  | .inf s => if s then f.nanRes true else (0, 0)
  | .zero s => (f.inf s, fDZ)
  | .fin true _ _ => f.nanRes true
  | .fin false m e =>
    let odd := decide (e % 2 ≠ 0)
    let m' := if odd then 2 * m else m
    let e' := if odd then e - 1 else e
    let r := isqrt (2 ^ 200 / m')
    f.round .rne 0 false false { m := r, e := -(e' / 2) - 100, st := decide (m' * (r * r) ≠ 2 ^ 200) }

/-- sin x or cos x of a finite nonzero x, reduced exactly by π / 2. -/
def sfTrig (f : Fmt) (isCos neg : Bool) (m : Nat) (e : Int) : FRes :=
  tighten fun p =>
    let q := p + 140
    let x := fixAt q m e
    let h := piIv q
    -- π / 2 at fixed point q + 1
    let n := 2 * x / h.lo
    let r : Iv := { lo := shiftLo (2 * x - n * h.hi) 141, hi := shiftHi (2 * x - n * h.lo) 141 }
    let j := (n + (if isCos then 1 else 0)) % 4
    let v := if j % 2 = 0 then sinIv p r else cosIv p r
    let v := if 2 ≤ j then v.neg else v
    let v := if neg ∧ isCos = false then v.neg else v
    if v.hi < 0 then f.enclosed true v.neg (-(p : Int)) else f.enclosed false v (-(p : Int))

/-- sin x. -/
def sfSin (f : Fmt) (a : FVal) : FRes :=
  match a with
  | .nan s => f.nanRes s
  | .inf _ => f.nanRes true
  | .zero s => f.zeroRes s
  | .fin s m e => if finTiny m e then f.round .rne 0 false s (justBelow m e) else sfTrig f false s m e

/-- cos x. -/
def sfCos (f : Fmt) (a : FVal) : FRes :=
  match a with
  | .nan s => f.nanRes s
  | .inf _ => f.nanRes true
  | .zero _ => f.round .rne 0 false false { m := 1, e := 0, st := false }
  | .fin _ m e => if finTiny m e then f.round .rne 0 false false (justBelow 1 0) else sfTrig f true false m e

/-- tanh x. -/
def sfTanh (f : Fmt) (a : FVal) : FRes :=
  match a with
  | .nan s => f.nanRes s
  | .inf s => f.round .rne 0 false s { m := 1, e := 0, st := false }
  | .zero s => f.zeroRes s
  | .fin s m e =>
    if finTiny m e then f.round .rne 0 false s (justBelow m e)
    else if finGe m e 32 then f.round .rne 0 false s (justBelow 1 0)
    else tighten fun p =>
      -- (1 − y) / (1 + y) with y = e^(−2|x|)
      let (y, n) := expNeg p m (e + 1)
      let y : Iv := { lo := shiftLo y.lo n, hi := shiftHi y.hi n }
      let one := Iv.exact (2 ^ p)
      f.enclosed s ((one.sub y).div p (one.add y)) (-(p : Int))

/-- 1 / (1 + e^−x). -/
def sfSigm (f : Fmt) (a : FVal) : FRes :=
  match a with
  | .nan s => f.nanRes s
  | .inf s => if s then (0, 0) else f.round .rne 0 false false { m := 1, e := 0, st := false }
  | .zero _ => f.round .rne 0 false false { m := 1, e := -1, st := false }
  | .fin s m e =>
    if s then
      if finGe m e 256 then f.round .rne 0 false false { m := 1, e := -300, st := true }
      else tighten fun p =>
        let (y, n) := expNeg p m e
        let one := Iv.exact (2 ^ p)
        let d := one.add { lo := shiftLo y.lo n, hi := shiftHi y.hi n }
        f.enclosed false (y.div p d) (-(p : Int) - n)
    else if finGe m e 64 then f.round .rne 0 false false (justBelow 1 0)
    else tighten fun p =>
      let (y, n) := expNeg p m e
      let one := Iv.exact (2 ^ p)
      f.enclosed false (one.div p (one.add { lo := shiftLo y.lo n, hi := shiftHi y.hi n })) (-(p : Int))

/-- erf x. -/
def sfErf (f : Fmt) (a : FVal) : FRes :=
  match a with
  | .nan s => f.nanRes s
  | .inf s => f.round .rne 0 false s { m := 1, e := 0, st := false }
  | .zero s => f.zeroRes s
  | .fin s m e =>
    -- from 4 on, 1 − erf x < 2^−25, below half a unit of every format of the unit
    if finGe m e 4 then f.round .rne 0 false s { m := 2 ^ 25 - 1, e := -25, st := true }
    else tighten fun p =>
      let x := Iv.exact (fixAt p m e)
      let q := (x.mul p x).neg
      -- t_k = x (−x²)^k / k!, summed with weights 1 / (2k + 1)
      let rec go : Nat → Nat → Iv → Iv → Iv
        | 0, _, t, acc => acc.widen (2 * t.mag + 2)
        | n + 1, k, t, acc => go n (k + 1) ((t.mul p q).divN (k + 1)) (acc.add (t.divN (2 * k + 1)))
      let sum := go (p / 2 + 60) 0 x (.exact 0)
      let h := piIv (2 * p)
      let root : Iv := { lo := isqrt h.lo.toNat, hi := isqrt h.hi.toNat + 1 }
      f.enclosed s ((sum.add sum).div p root) (-(p : Int))

end Sys2Proof.Machine
end

