-- ==== Sys2Proof/Machine/Route.lean ====
section
/-! DEFINITION. Route registers, the remote instructions and the fences (spec/10 R232-R244; spec/09 R199, R200;
spec/17 R321-R323, R328, R331; spec/13 R287). -/

namespace Sys2Proof.Machine

/-! Local checks (R234). -/

/-- Checks 1 and 2. -/
def tokShape (ctx : Nat) (t : Line) : Bool :=
  decide (t ≠ 0) && decide (tokCtx t = ctx) && decide (1 ≤ tokHops t) && decide (tokHops t ≤ 8) &&
    decide (tokClass t ≤ 6) && decide (tok t 511 428 = 0) && decide (tok t 331 331 = 0) && decide (tok t 303 302 = 0) &&
    decide (tok t 207 207 = 0)

/-- Rights by bit (R232). -/
inductive Right where
  | load | store | atomic | enqueue | reduce | delegate
deriving DecidableEq, Repr
def Right.bit : Right → Nat
  | .load => 0
  | .store => 1
  | .atomic => 2
  | .enqueue => 3
  | .reduce => 4
  | .delegate => 5

/-- The phase rules for the instructions of R240 and the send forms (R258). -/
def State.phaseBad (s : State) : Bool :=
  let p := s.csr 0x034
  bit p 1 || (!bit p 0 && bit p 6)

/-- The checks of R234 for n bytes at offset o, aligned to `al`, through rt[r]. -/
def State.checkRoute (s : State) (r : Nat) (classes : List Nat) (right : Right) (o n al : Nat) (phase : Bool) :
    Except Exc Unit := do
  let t := s.me.rt r
  let r64 : Word := BitVec.ofNat 64 r
  if !tokShape s.me.ctx t then throw (.trap Cause.routeTag 0 r64)
  if tokClass t ∉ classes then throw (.trap Cause.permission 0 r64)
  if tokEff t / 2 ^ right.bit % 2 = 0 then throw (.trap Cause.permission 0 r64)
  if tokClass t ≠ 2 then
    if ¬ (tokNoff t + o + n ≤ tokHi t) then throw (.trap Cause.routeWindow (BitVec.ofNat 64 o) r64)
    if (tokWbase t + tokNoff t + o) % al ≠ 0 then throw (.trap Cause.misaligned (BitVec.ofNat 64 o) r64)
  if phase then throw (.trap Cause.phaseViolation (BitVec.ofNat 64 o) r64)

/-! Packets leaving (R328, R331). -/

/-- The key of a cipher stream: source device, source core, target node, KEYID (R331). -/
def streamKey (src core node keyid : Nat) : Nat := ((src * 2 ^ 11 + core) * 2 ^ 24 + node) * 2 ^ 12 + keyid
/-- A cipher stream. -/
def State.gcmOf (s : State) (src core node keyid : Nat) : GcmStream :=
  (mapFind? s.gcm (streamKey src core node keyid)).getD
    { core := core, node := node, keyid := keyid, epoch := 0, counter := 0, high := 0, seen := [], rekeying := false, tagFails := 0 }

/-- The coordinate of a core of a device, laid out as NODE [206:184] (R331). -/
def coreCoord (device core : Nat) : Nat := core % 16 * 2 ^ 19 + core / 16 % 16 * 2 ^ 15 + core / 256 % 8 * 2 ^ 12 + device % 4096
/-- The key of a stream in one of its epochs (R331): slot key of the target device, source core, target node, epoch. -/
def State.cipherKey (s : State) (p : Packet) (epoch : Nat) : List Byte :=
  let keyid := tokKeyid p.token
  let d := tokDevice p.token
  let slot := Config.slotKey d (if d = s.dev.id then s.keyMark keyid else keyid)
  deriveKey (beBytes 32 slot.toNat) (beBytes 3 (coreCoord p.src (coreOf p.hart)) ++ beBytes 3 (tokNode p.token) ++ beBytes 2 epoch)
/-- The nonce of a packet (R331). -/
def Packet.nonce (p : Packet) : BitVec 96 :=
  BitVec.ofNat 96 (coreCoord p.src (coreOf p.hart) * 2 ^ 73 + p.epoch % 512 * 2 ^ 64 + p.counter % 2 ^ 64)
/-- A code for the operation in the command flit (log 122). -/
def PktOp.code : PktOp → List Nat
  | .load n rd => [0, n, rd.toNat]
  | .store => [1]
  | .amo op n rd cmp => [2, op, n, rd.toNat, cmp.toNat]
  | .enq rd => [3, rd.toNat]
  | .enqm rd k => [4, rd.toNat, k]
  | .stripe _ i => [5, i]
  | .reduce op fmt w => [6, op, fmt, w]
  | .vload reg grp => [7, reg, grp]
  | .cprr reg grp => [8, reg, grp]
  | .tsend => [9]
  | .delegate rd t a => [10, rd.toNat, t, if a then 1 else 0]
/-- The additional authenticated data: the token and what flit 1 holds before the GCM tag, with hop index 0, in the model's own
layout of those fields (R328, R331, log 122). -/
def Packet.aad (p : Packet) : List Byte :=
  leBytes 64 p.token.toNat ++ p.op.code.flatMap (leBytes 8) ++ leBytes 2 p.sctx ++ leBytes 3 (coreCoord p.src (coreOf p.hart)) ++
    leBytes 8 p.wire ++ leBytes 8 p.off ++ leBytes 8 p.len ++ leBytes 8 p.reloc ++ beBytes 12 p.nonce.toNat

/-- Gives a packet its stream's counter and epoch, encrypts it and lets it leave, or holds it while the stream is re-keyed
(R331, R332). -/
def State.stamp (s : State) (p : Packet) : Packet × State :=
  if tokC p.token then
    let core := coreOf p.hart
    let g := s.gcmOf p.src core (tokNode p.token) (tokKeyid p.token)
    if g.rekeying then ({ p with at_ := .held }, s)
    else
      let q := { p with counter := g.counter, epoch := g.epoch, at_ := .going 0 }
      let key := s.cipherKey q g.epoch
      let c := gcmCrypt key q.nonce q.plain
      ({ q with payload := c, gcmTag := gcmTag key q.nonce q.aad c },
        { s with gcm := mapPut s.gcm (streamKey p.src core (tokNode p.token) (tokKeyid p.token)) { g with counter := g.counter + 1 } })
  else ({ p with payload := p.plain, at_ := .going 0 }, s)

/-- A new packet leaves behind the others. -/
def State.launchPacket (s : State) (p : Packet) : State :=
  let (p, s) := s.stamp p
  { s with packets := s.packets ++ [p] }

/-- Sends a packet of hart h of a context through a token held in route register r. -/
def State.sendAs (s : State) (h ctx r : Nat) (t : Line) (op : PktOp) (o len : Nat) (payload : List Byte) : Nat × State :=
  let tag := s.tagCtr
  let p : Packet :=
    { tag := tag, wire := tag, src := s.dev.id, hart := h, route := r, token := t, op := op, sctx := ctx, off := o, len := len,
      payload := payload, plain := payload, reloc := 0, counter := 0, epoch := 0, gcmTag := 0, at_ := .going 0, grace := [],
      answer := none, flags := 0, sentAt := s.time, orphan := false }
  (tag, { s with tagCtr := s.tagCtr + 1 }.launchPacket p)

/-- Sends a packet of the executing hart through rt[r]. -/
def State.send (s : State) (r : Nat) (op : PktOp) (o len : Nat) (payload : List Byte) : Nat × State :=
  s.sendAs s.cur s.me.ctx r (s.me.rt r) op o len payload

/-- Sends bytes as packets of at most 256 bytes, each a posted operation at its own offset (R328, log 50). -/
def State.sendAll (s : State) (r : Nat) (op : PktOp) (o : Nat) (payload : List Byte) : State :=
  (List.range ((payload.length + 255) / 256)).foldl (fun s i =>
    let b := (payload.drop (256 * i)).take 256
    (s.send r op (o + 256 * i) b.length b).2) s

/-- The operation holds its hart until the reply (R235). -/
def PktOp.waits : PktOp → Bool
  | .load _ _ => true
  | .amo _ _ _ _ => true
  | .enq _ => true
  | .enqm _ _ => true
  | .delegate _ _ _ => true
  | _ => false

/-- The packet is an operation of hart h that it still waits for. -/
def State.ownPacket (s : State) (h : Nat) (p : Packet) : Bool :=
  decide (p.src = s.dev.id) && decide (p.hart ∈ s.replicas h) && decide (p.sctx = (s.hart h).ctx) && !p.orphan

/-- A waiting operation: the reply that has come back is taken, or the packet leaves and the hart parks (R241). -/
def State.awaitReply (s : State) (start : State → Except Exc (Nat × State))
    (finish : Packet → RemoteAnswer → State → Except Exc (List Word × State)) : Except Exc (List Word × State) :=
  match s.packets.find? fun p => s.ownPacket s.cur p && p.op.waits with
  | some p =>
    if p.at_ ≠ .back then .error (.park (.reply p.tag)) else
    let s := { s with packets := s.packets.filter fun q => decide (q.tag ≠ p.tag) }
    match finish p (p.answer.getD (.rejected 0x09)) s with
    | .error (.trap c v w) => .error (.trapIn s c v w)
    | r => r
  | none => do
    let (tag, t) ← start s
    throw (.become (t.parkOn (.reply tag)))

/-- The trap of a rejected waiting operation: TVAL o, TVAL2 the route register (R235). -/
def rejectTrap (p : Packet) (c : BitVec 8) : Exc := .trap c.toNat (BitVec.ofNat 64 p.off) (BitVec.ofNat 64 p.route)

/-- The value of an answer, or its trap. -/
def answerValue (p : Packet) (a : RemoteAnswer) (s : State) : Except Exc (List Word × State) :=
  match a with
  | .performed v => .ok ([v], s)
  | .bytes b => .ok ([leWord (b.take 8)], s)
  | .rejected c => .error (rejectTrap p c)
  | .moved _ => .error (rejectTrap p 0x09)
  | .here => .ok ([0], s)
  | .path _ _ => .ok ([0], s)

/-! Route register instructions (R237-R239). -/

/-- The route register of a field; 16 to 31 trap (spec/10). -/
def rtField (r : Reg) (bitsv : Word) : Except Exc Nat := if r.toNat < 16 then .ok r.toNat else .error (illegal bitsv)
/-- A register pair: odd or zero n traps (R236). -/
def pairField (r : Reg) (bitsv : Word) : Except Exc Unit :=
  if r.toNat % 2 = 1 ∨ r = 0 then .error (illegal bitsv) else .ok ()

/-- RTLD: 64 bytes into a route register; nothing in the token is checked (R237). -/
def execRtld (rd rs1 : Reg) (s : State) : Out :=
  .next (s.run .plain fun s => do
    let r ← rtField rd (bitsOf (.rtld rd rs1))
    let a := s.x rs1
    let (acc, s) ← s.check (s.who s.cur) .load 64 0 a 64
    s.hostAlone acc
    let (b, s) := s.readAcc acc .scalar
    return ((s.hostAfter acc).onMe (·.setRt r (BitVec.ofNat 512 (leNat b)))).next 4)

/-- RTST: stores a route register (R237). -/
def execRtst (rd rs1 : Reg) (s : State) : Out :=
  .next (s.run .plain fun s => do
    let r ← rtField rd (bitsOf (.rtst rd rs1))
    let a := s.x rs1
    let (acc, s) ← s.check (s.who s.cur) .store 64 0 a 64
    s.hostAlone acc
    return ((s.writeAcc acc a (leBytes 64 (s.me.rt r).toNat) .scalar).hostAfter acc).next 4)

/-- The narrowed copy of a token (R237). An offset that would pass the end of the NOFF field leaves an empty window, since
narrowing never widens (log 32). -/
def narrow (t : Line) (off len rights : Nat) : Line :=
  let t := if tokNlen t ≤ off ∨ 2 ^ 40 ≤ tokNoff t + off then setTok t 419 380 0
    else setTok (setTok t 419 380 (Nat.min len (tokNlen t - off))) 379 340 (tokNoff t + off)
  setTok t 427 420 (tokNrights t &&& rights)

/-- RTNAR: copies and narrows; never widens (R237). -/
def execRtnar (rd rs1 rs2 : Reg) (s : State) : Out :=
  let w := bitsOf (.rtnar rd rs1 rs2)
  .next (s.run .plain fun s => do
    let d ← rtField rd w
    let r ← rtField rs1 w
    pairField rs2 w
    let off := (s.x rs2).toNat
    let v := (s.x (rs2 + 1)).toNat
    if v / 2 ^ 48 ≠ 0 then throw (illegal w)
    let t := s.me.rt r
    if t = 0 then throw (.trap Cause.routeTag 0 (BitVec.ofNat 64 r))
    return (s.onMe (·.setRt d (narrow t off (field v 39 0) (field v 47 40)))).next 4)

/-- RTDLG: asks the RKC for a token of another context; parks until it answers (R238). -/
def execRtdlg (rd rs1 rs2 : Reg) (s : State) : Out :=
  let w := bitsOf (.rtdlg rd rs1 rs2)
  .next (s.run .home fun s => do
    let d ← rtField rd w
    let r ← rtField rs1 w
    let v := (s.x rs2).toNat
    forwarded s 0
      (fun s => s.awaitReply
        (fun s => do
          if field v 15 14 ≠ 0 ∨ v / 2 ^ 17 ≠ 0 then throw (illegal w)
          let t := s.me.rt r
          let r64 : Word := BitVec.ofNat 64 r
          if !tokShape s.me.ctx t then throw (.trap Cause.routeTag 0 r64)
          if tokEff t / 32 % 2 = 0 then throw (.trap Cause.permission 0 r64)
          let (tag, s) := s.send r (.delegate rd (field v 13 0) (decide (field v 16 16 = 1))) 0 0 []
          return (tag, { s with packets := s.packets.map fun p => if p.tag = tag then { p with at_ := .target } else p }))
        (fun p a s => match a with
          | .bytes b => .ok (dwords 8 b, s)
          | .rejected c => .error (if 4 ≤ c.toNat then rejectTrap p c else .trap Cause.permission 0 (c.setWidth 64))
          | _ => .error (.trap Cause.permission 0 3)))
      (fun v s => .ok ((s.onMe (·.setRt d (BitVec.ofNat 512 (leNat (ofDwords v))))).next 4)))

/-- The start of the effective window; CLASS 2 ignores NOFF (R233). -/
def effStart (t : Line) : Nat := if tokClass t = 2 then tokWbase t else tokWbase t + tokNoff t
/-- The length of the effective window; CLASS 2 ignores NOFF and NLEN (R233). -/
def effLen (t : Line) : Nat := if tokClass t = 2 then tokWlen t else tokLen t

/-- What the members of a route set must share (R239). -/
def setShape (t : Line) : List Nat :=
  [tokClass t, tokNode t, tok t 330 330, tokKeyid t, effStart t, effLen t, tokEff t]

/-- The list holds no value twice. -/
def distinct : List Nat → Bool
  | [] => true
  | a :: l => !decide (a ∈ l) && distinct l

/-- RTSET (R239). -/
def execRtset (rd rs1 : Reg) (s : State) : Out :=
  let w := bitsOf (.rtset rd rs1)
  .next (s.run .plain fun s => do
    regIn 4 rd w
    let a := s.x rs1
    let v := a.toNat
    let ms := ((List.range 4).filter fun i => decide (field v (5 * i + 4) (5 * i + 4) = 1)).map fun i => field v (5 * i + 3) (5 * i)
    let ts := ms.map s.me.rt
    let good := decide (v / 2 ^ 20 = 0) && !ms.isEmpty && distinct ms && ts.all (tokShape s.me.ctx) &&
      ts.all (fun t => decide (tokStripe t ≠ 0)) &&
      (match ts with | [] => false | t :: l => l.all fun u => decide (setShape u = setShape t))
    if !good then throw (illegal2 w a)
    return (s.onMe fun x => { x with a := { x.a with
      rsets := mapPut x.a.rsets rd.toNat { members := ms, failed := [] } } }).next 4)

/-- RTINFO: a selected field; sends and checks nothing (R239). -/
def execRtinfo (rd rs1 rs2 : Reg) (s : State) : Out :=
  let w := bitsOf (.rtinfo rd rs1 rs2)
  .next (s.run .plain fun s => do
    let r ← rtField rs1 w
    regIn 6 rs2 w
    let t := s.me.rt r
    let v : Nat := match rs2.toNat with
      | 0 => tokHops t + tokClass t * 16 + tokEff t * 2 ^ 8 + tokStripe t * 2 ^ 16 + tok t 330 330 * 2 ^ 24
      | 1 => tokNode t
      | 2 => effStart t
      | 3 => effLen t
      | 4 => tokCtx t + tokKeyid t * 2 ^ 16
      | _ => if t = 0 then 1 else 0
    return (s.setX rd (BitVec.ofNat 64 v)).next 4)

/-! Remote operations (R240, R241). -/

/-- RLD. -/
def rld (s : State) (bitsv : Word) (n : Nat) (rd rs1 rs2 : Reg) : State :=
  let o := (s.x rs2).toNat
  s.run .home fun s => do
    let r ← rtField rs1 bitsv
    forwarded s 0
      (fun s => s.awaitReply
        (fun s => do
          s.checkRoute r [0, 1] .load o n n s.phaseBad
          return s.send r (.load n rd) o n [])
        (fun p a s => answerValue p a s))
      (fun v s =>
        let x := v.headD 0
        .ok ((s.setX rd (if n = 4 then (x.setWidth 32).signExtend 64 else x)).next 4))
/-- RLD.w. -/
def execRldW (rd rs1 rs2 : Reg) (s : State) : Out := .next (rld s (bitsOf (.rldW rd rs1 rs2)) 4 rd rs1 rs2)
/-- RLD.d. -/
def execRldD (rd rs1 rs2 : Reg) (s : State) : Out := .next (rld s (bitsOf (.rldD rd rs1 rs2)) 8 rd rs1 rs2)

/-- RST: posted. -/
def rst (s : State) (bitsv : Word) (n : Nat) (rd rs1 rs2 : Reg) : State :=
  let o := (s.x rs2).toNat
  let b := leBytes n (s.x rd).toNat
  s.run .home fun s => do
    let r ← rtField rs1 bitsv
    forwarded s 0
      (fun s => do
        s.checkRoute r [0, 1] .store o n n s.phaseBad
        return ([], (s.send r .store o n b).2))
      (fun _ s => .ok (s.next 4))
/-- RST.w. -/
def execRstW (rd rs1 rs2 : Reg) (s : State) : Out := .next (rst s (bitsOf (.rstW rd rs1 rs2)) 4 rd rs1 rs2)
/-- RST.d. -/
def execRstD (rd rs1 rs2 : Reg) (s : State) : Out := .next (rst s (bitsOf (.rstD rd rs1 rs2)) 8 rd rs1 rs2)

/-- RENQ: OK or FULL; never parks at the queue (R240). -/
def execRenq (rd rs1 rs2 : Reg) (s : State) : Out :=
  let v := s.x rs2
  .next (s.run .home fun s => do
    let r ← rtField rs1 (bitsOf (.renq rd rs1 rs2))
    forwarded s 0
      (fun s => s.awaitReply
        (fun s => do
          s.checkRoute r [2] .enqueue 0 0 1 s.phaseBad
          let n := tokWlen (s.me.rt r)
          let (e, s) ← (if n = 8 then .ok (leBytes 8 v.toNat, s) else (s.load 8 v n).map fun x => (x.1, x.2.2))
          return s.send r (.enq rd) 0 n e)
        (fun p a s => answerValue p a s))
      (fun x s => .ok ((s.setX rd (x.headD 0)).next 4)))

/-- RENQM: up to 64 elements as one request; the count accepted (R240, R287). -/
def execRenqm (rd rs1 rs2 : Reg) (s : State) : Out :=
  let va := s.x rs2; let k0 := Nat.min (s.x rd).toNat 64
  .next (s.run .home fun s => do
    let r ← rtField rs1 (bitsOf (.renqm rd rs1 rs2))
    forwarded s 0
      (fun s => s.awaitReply
        (fun s => do
          s.checkRoute r [2] .enqueue 0 0 1 s.phaseBad
          let n := tokWlen (s.me.rt r)
          let (e, s) ← (if k0 = 0 then .ok ([], s) else (s.load 8 va (k0 * n)).map fun x => (x.1, x.2.2))
          return s.send r (.enqm rd k0) 0 n e)
        (fun p a s => answerValue p a s))
      (fun x s => .ok ((s.setX rd (x.headD 0)).next 4)))

/-- RAMO: the atomic at the target's memory port; floating flags are ORed into FFLAGS with the old value, and an enabled one
traps FP_TRAP before X[rd] is written (R17, R198, R240; log 19). -/
def ramo (s : State) (bitsv : Word) (op : Nat) (size : BitVec 1) (rd rs1 rs2 : Reg) : State :=
  let n := if size = 0 then 4 else 8
  let m : Word := if n = 4 then 0xFFFFFFFF else BitVec.allOnes 64
  let o := (s.x rs2).toNat
  let b := s.x (rs2 + 1) &&& m
  let d := s.x rd &&& m
  s.run .home fun s => do
    let r ← rtField rs1 bitsv
    pairField rs2 bitsv
    forwarded s 0
      (fun s => s.awaitReply
        (fun s => do
          s.checkRoute r [0, 1] .atomic o n n s.phaseBad
          return s.send r (.amo op n rd d) o n (leBytes n b.toNat))
        (fun p a s => answerValue p a s))
      (fun v s =>
        let old := v.headD 0 &&& m
        let (_, fl) := amoNew op n old b d
        if (fl.setWidth 64 &&& s.csr Csr.ftrapen) ≠ 0 then .error (.trapIn (s.orFlags fl) Cause.fpTrap (BitVec.ofNat 64 o) 0)
        else .ok (((s.setX rd (if n = 4 then (old.setWidth 32).signExtend 64 else old)).orFlags fl).next 4))

/-- RAMO.ADD. -/
def execRamoAdd (size : BitVec 1) (rd rs1 rs2 : Reg) (s : State) : Out :=
  .next (ramo s (bitsOf (.ramoAdd size rd rs1 rs2)) 0 size rd rs1 rs2)
/-- RAMO.SWAP. -/
def execRamoSwap (size : BitVec 1) (rd rs1 rs2 : Reg) (s : State) : Out :=
  .next (ramo s (bitsOf (.ramoSwap size rd rs1 rs2)) 1 size rd rs1 rs2)
/-- RAMO.AND. -/
def execRamoAnd (size : BitVec 1) (rd rs1 rs2 : Reg) (s : State) : Out :=
  .next (ramo s (bitsOf (.ramoAnd size rd rs1 rs2)) 2 size rd rs1 rs2)
/-- RAMO.OR. -/
def execRamoOr (size : BitVec 1) (rd rs1 rs2 : Reg) (s : State) : Out :=
  .next (ramo s (bitsOf (.ramoOr size rd rs1 rs2)) 3 size rd rs1 rs2)
/-- RAMO.XOR. -/
def execRamoXor (size : BitVec 1) (rd rs1 rs2 : Reg) (s : State) : Out :=
  .next (ramo s (bitsOf (.ramoXor size rd rs1 rs2)) 4 size rd rs1 rs2)
/-- RAMO.MIN. -/
def execRamoMin (size : BitVec 1) (rd rs1 rs2 : Reg) (s : State) : Out :=
  .next (ramo s (bitsOf (.ramoMin size rd rs1 rs2)) 5 size rd rs1 rs2)
/-- RAMO.MAX. -/
def execRamoMax (size : BitVec 1) (rd rs1 rs2 : Reg) (s : State) : Out :=
  .next (ramo s (bitsOf (.ramoMax size rd rs1 rs2)) 6 size rd rs1 rs2)
/-- RAMO.MINN. -/
def execRamoMinn (size : BitVec 1) (rd rs1 rs2 : Reg) (s : State) : Out :=
  .next (ramo s (bitsOf (.ramoMinn size rd rs1 rs2)) 7 size rd rs1 rs2)
/-- RAMO.MAXN. -/
def execRamoMaxn (size : BitVec 1) (rd rs1 rs2 : Reg) (s : State) : Out :=
  .next (ramo s (bitsOf (.ramoMaxn size rd rs1 rs2)) 8 size rd rs1 rs2)
/-- RAMO.CAS. -/
def execRamoCas (size : BitVec 1) (rd rs1 rs2 : Reg) (s : State) : Out :=
  .next (ramo s (bitsOf (.ramoCas size rd rs1 rs2)) 9 size rd rs1 rs2)
/-- RAMO.FADD. -/
def execRamoFadd (size : BitVec 1) (rd rs1 rs2 : Reg) (s : State) : Out :=
  .next (ramo s (bitsOf (.ramoFadd size rd rs1 rs2)) 10 size rd rs1 rs2)
/-- RAMO.FMIN. -/
def execRamoFmin (size : BitVec 1) (rd rs1 rs2 : Reg) (s : State) : Out :=
  .next (ramo s (bitsOf (.ramoFmin size rd rs1 rs2)) 11 size rd rs1 rs2)
/-- RAMO.FMAX. -/
def execRamoFmax (size : BitVec 1) (rd rs1 rs2 : Reg) (s : State) : Out :=
  .next (ramo s (bitsOf (.ramoFmax size rd rs1 rs2)) 12 size rd rs1 rs2)

/-! Waiting for acknowledgements (R242, R243). -/

/-- A remote operation of hart h through a register of the mask, or a striped send over a set with one, is still
unacknowledged. -/
def State.unacked (s : State) (h mask : Nat) : Bool :=
  let named (r : Nat) : Bool := decide (mask / 2 ^ r % 2 = 1)
  s.packets.any (fun p => s.ownPacket h p && named p.route) ||
    s.jobs.any (fun j => decide (j.hart ∈ s.replicas h) && decide (j.ctx = (s.hart h).ctx) && j.tokens.any fun e => named e.1)

/-- Parks until the operations are acknowledged, then raises the deferred error that the mask covers (R242, R243). -/
def State.drainRemote (s : State) (mask : Nat) : Except Exc Unit :=
  if s.unacked s.cur mask then .error (.park (.acks mask))
  else match s.me.deferred with
    | some e =>
      if mask / 2 ^ e.rt % 2 = 1 then
        .error (.trapIn (s.onMe fun x => { x with deferred := none }) e.cause e.off (BitVec.ofNat 64 e.rt))
      else .ok ()
    | none => .ok ()

/-- RFENCE: ends the chunk after itself (R243). -/
def execRfence (rs1 : Reg) (s : State) : Out :=
  let v := (s.x rs1).toNat
  .next (s.run .last fun s => do
    if v / 2 ^ 16 ≠ 0 then throw (illegal (bitsOf (.rfence rs1)))
    s.drainRemote (if v = 0 then 0xFFFF else v)
    return s.next 4)

/-! Fences (R199, R200). -/

/-- The scope of a fence's field; `.fab` acts as `.dev` and drains remote operations too (R199). -/
def fenceScope (c : BitVec 3) : Scope :=
  match c.toNat with
  | 0 => .core
  | 1 => .cluster
  | 2 => .die
  | _ => .device

/-- A fence: last of its chunk; a release is performed when the chunk commits (R199, R298). -/
def fence (s : State) (rel acq : Bool) (scope : BitVec 3) : State :=
  s.run .last fun s => do
    if scope.toNat = 4 then s.drainRemote 0xFFFF
    let s := if rel then s.onChunk fun c => { c with close := some (fenceScope scope) } else s
    let s := if acq then s.acquire s.cur (fenceScope scope) else s
    return s.next 4

/-- FENCE.acq. -/
def execFenceAcq (scope : BitVec 3) (s : State) : Out := .next (fence s false true scope)
/-- FENCE.rel. -/
def execFenceRel (scope : BitVec 3) (s : State) : Out := .next (fence s true false scope)
/-- FENCE.full. -/
def execFenceFull (scope : BitVec 3) (s : State) : Out := .next (fence s true true scope)

/-- FENCE.code: an acquire at device scope, last of its chunk; the commit, after the hart's own stores, discards the core's
instruction cache (R200). -/
def execFenceCode (s : State) : Out :=
  .next (s.run .last fun s =>
    .ok (((s.acquire s.cur .device).onChunk fun c => { c with code := true }).next 4))

end Sys2Proof.Machine
end

