-- ==== Sys2Proof/Machine/Timed.lean ====
section
/-! DEFINITION. The timed instructions (spec/10 R252-R259; spec/18 R340, R341). -/

namespace Sys2Proof.Machine

/-- COMM of PHASE (R252). -/
def State.comm (s : State) : Bool := bit (s.csr Csr.phase) 0
/-- The hart is in a timed communication phase. -/
def State.timedComm (s : State) : Bool := s.timed && s.comm
/-- TIMED, LEVEL and PERIOD of PHASE, the fields whose change is held (R256). -/
def phaseMask : Word := 0xFFFFFFFF32#64

/-- PHASE (R256). -/
def execPhase (rd rs1 : Reg) (s : State) : Out :=
  let w := bitsOf (.phase rd rs1)
  .next (s.run .plain fun s => do
    let v := s.x rs1
    if v &&& ~~~(phaseMask ||| 0x40) ≠ 0 then throw (illegal w)
    if bit v 1 ∧ (bit (s.csr (Csr.dom + bits v 5 4)) 63 = false ∨ bits v 39 8 = 0 ∨ s.csr Csr.slotcnt = 0) then
      throw (illegal w)
    let old := s.csr Csr.phase
    let change := v &&& phaseMask
    let held := decide (change ≠ old &&& phaseMask)
    let new := (old &&& (phaseMask ||| 1)) ||| (v &&& 0x40) ||| (if held then 0x80 else 0)
    let s := s.onMe fun x => { x with a := { x.a with heldPhase := if held then some change else none } }
    return ((s.setCsr Csr.phase new).setX rd old).next 4)

/-- The core lies in a membership (R253). -/
def memberCore (v : Word) (core : Nat) : Bool :=
  bit v (28 + core / 256) && bit v (16 + core / 16 % 16) && bit v (core % 16)
/-- The member cores of a membership (R253). -/
def memberCores (v : Word) : List Nat :=
  (List.range 4).flatMap fun d => (List.range 12).flatMap fun k =>
    ((List.range 16).map fun c => d * 256 + k * 16 + c).filter (memberCore v)

/-- The cases of R255 that DOMSET refuses. -/
def State.domBad (s : State) (level : Nat) (v : Word) (bb : Nat) : Bool :=
  let mine := coreOf s.cur
  let ms := memberCores v
  let gang := if s.me.gang.isEmpty then [mine] else s.me.gang.map coreOf
  let lower := (List.range level).any fun l =>
    let d := s.csr (Csr.dom + l)
    bit d 63 && (memberCores d).any fun c => decide (c ∉ ms)
  let bar := match s.bbReg bb with
    | none => true
    | some ⟨obj, _, _, _⟩ =>
      let o := (span obj 16).map (s.homeByte (s.hartMark s.cur))
      decide (leNat (o.drop 8) / 2 ^ 32 % 8 ≠ level) || decide (leNat (o.take 4) ≠ ms.length)
  decide (bits v 63 32 ≠ 0) || !memberCore v mine ||
    (decide (level = 0) && !(ms.all (fun c => decide (c ∈ gang)) && gang.all fun c => decide (c ∈ ms))) ||
    (decide (level = 1) && ms.any fun c => decide (c / 16 ≠ mine / 16)) ||
    (decide (level = 2) && ms.any fun c => decide (c / 256 ≠ mine / 256)) || lower || bar

/-- DOMSET (R255). -/
def execDomset (rd rs1 rs2 : Reg) (s : State) : Out :=
  let w := bitsOf (.domset rd rs1 rs2)
  .next (s.run .plain fun s => do
    regIn 4 rd w
    regIn 8 rs2 w
    let v := s.x rs1
    if s.domBad rd.toNat v rs2.toNat then throw (illegal w)
    return (s.setCsr (Csr.dom + rd.toNat) (v ||| 0x8000000000000000 ||| BitVec.ofNat 64 (rs2.toNat * 2 ^ 48))).next 4)

/-- Whether a held change applies at a DSYNC of a level: that its new LEVEL is the level (R256). -/
def heldFor (level : Nat) : Option Word → Option Word
  | some c => if bits c 5 4 = level then some c else none
  | none => none

/-- What DSYNC does after its wait (R257): the bytes that came by T count no more (R259), and the next instruction may read T
(R340). -/
def State.syncDone (s : State) (level : Nat) : Res :=
  let mine := heldFor level s.me.a.heldPhase
  if mine ≠ heldFor level s.me.leadHeld then
    .error (.trapIn (s.onMe fun x => { x with dsync := none, leadHeld := none }) Cause.phaseViolation 0 0)
  else
    let s := if s.comm then s.setCsr Csr.superstep (s.csr Csr.superstep + 1) else s
    let p := s.csr Csr.phase
    let p := match mine with
      | some c => (p &&& ~~~(phaseMask ||| 0x80)) ||| c
      | none => p
    let p := p ^^^ 1
    let s := s.setCsr Csr.phase p
    let s := s.onMe fun x => { x with
      dsync := none, leadHeld := none,
      a := { x.a with heldPhase := if mine.isSome then none else x.a.heldPhase } }
    let s := if bit p 0 ∧ bit p 1 then s.onMe fun x =>
        { x with slotPtr := 0, recvBytes := x.recvBytes - x.recvAtT, afterSync := some (x.a.pc + 4), deferOver := false } else s
    .ok (s.next 4)

/-- DSYNC: ARRIVE and BWAIT on the level's barrier, then the phase change (R257). A member of a gang in lockstep always parks after
its arrival, so that all members leave the barrier together (R343, log 135). -/
def execDsync (rd : Reg) (s : State) : Out :=
  let w := bitsOf (.dsync rd)
  .next (s.run .home fun s => do
    regIn 4 rd w
    let d := s.csr (Csr.dom + rd.toNat)
    if !bit d 63 then throw (illegal w)
    let bb := bits d 50 48
    match s.bbReg bb with
    | none => throw (illegal w)
    | some ⟨obj, va, _, _⟩ =>
      forwarded s va
        (fun s =>
          let again := decide (s.me.dsync = some s.pc)
          let (p, s) : Nat × State :=
            if s.me.dsync = some s.pc then (mapGet 0 s.me.arrivals bb, s)
            else
              let s := s.release s.cur .device
              let now := s.phaseAt s.cur obj
              let s := s.onMe fun x => { x with dsync := some x.a.pc, arrivals := mapPut x.arrivals bb now }
              s.arriveAt s.cur obj
          if s.phaseAt s.cur obj = p ∨ (s.me.a.lock && !again) = true then .error (.become (s.parkOn (.bwait bb)))
          else .ok ([BitVec.ofNat 64 p], s))
        (fun _ s =>
          ((s.onMe fun x => { x with arrivals := mapErase x.arrivals bb }).acquire s.cur .device).syncDone rd.toNat))

/-- The slot check of TSEND in a timed communication phase: the state with the pointer advanced, or SLOT_MISSED
(R258). -/
def State.checkSlot (s : State) (r : Nat) : Except Exc State := do
  let p := s.me.slotPtr
  let c : Word := BitVec.ofNat 64 (s.cycle - s.me.releaseT)
  let p64 : Word := BitVec.ofNat 64 p
  if (s.csr Csr.slotcnt).toNat ≤ p then throw (.trap Cause.slotMissed c p64)
  let (b, _, s) ← s.load 8 (s.csr Csr.slotbase + 8 * p64) 8
  let e := leWord b
  let start := bits e 31 0
  let off := s.cycle - s.me.releaseT
  if bits e 53 52 ≠ bits (s.csr Csr.phase) 5 4 ∨ bits e 51 48 ≠ r ∨ off < start ∨ start + bits e 47 32 ≤ off then
    throw (.trap Cause.slotMissed c p64)
  return s.onMe fun x => { x with slotPtr := p + 1 }

/-- TSEND is refused by the phase: in a timed compute phase, and in an untimed one with CHK (R258). -/
def State.tsendBad (s : State) : Bool := !s.comm && (s.timed || bit (s.csr Csr.phase) 6)

/-- TSEND: a posted send, in its slot in a timed communication phase; the source is read through the range-lock table
(R226, R258). Its translation and permission are checked before the route (DEDUCED: log 49). -/
def execTsend (rd rs1 rs2 : Reg) (s : State) : Out :=
  let w := bitsOf (.tsend rd rs1 rs2)
  let v := s.x rs2
  let a := s.x rs1
  let n := bits v 63 32
  let o := bits v 31 0
  .next (s.run .home fun s => do
    if n % 8 ≠ 0 ∨ n < 8 ∨ 4096 < n then throw (illegal2 w v)
    let r ← rtField rd w
    forwarded s 0
      (fun s => do
        let (_, s') ← s.check (s.who s.cur) .load 8 0 a n
        s'.checkRoute r [0, 1] .store o n 8 s.tsendBad
        let s' ← if s.timedComm then s'.checkSlot r else .ok s'
        if s.myCore.freeRlt.isNone ∨ s.myCore.sourceWaits s.me.ctx a.toNat n then throw .stall
        let (b, _, s) ← s'.load 8 a n
        return ([], s.sendAll r .tsend o b))
      (fun _ s => .ok (s.next 4)))

/-- TRECV: parks below the threshold in a timed communication phase; an acquire at core scope; last of its chunk
(R259). -/
def execTrecv (rd rs1 : Reg) (s : State) : Out :=
  .next (s.run .last fun s =>
    if s.timedComm ∧ s.me.recvBytes < (s.x rs1).toNat then .error (.park (.trecv (s.x rs1)))
    else .ok (((s.setX rd (BitVec.ofNat 64 s.me.recvBytes)).acquire s.cur .core).next 4))

end Sys2Proof.Machine
end

