-- ==== Sys2Proof/Machine/HartInstr.lean ====
section
/-! DEFINITION. The hart instructions: gangs, pairs, the vector file's ownership, END and the system instructions
(spec/10 R260-R266; spec/01 R10, R18, R19; spec/19 R343, R348; spec/15 R318; spec/08 R181, R194). -/

namespace Sys2Proof.Machine

/-! The vector file (R10, R263). -/

/-- Fields of a B-source record (R178). -/
def recBits (r : BitVec 256) (hi lo : Nat) : Nat := field r.toNat hi lo
/-- The record of a bank. -/
def Core.bRec (k : Core) (b : Nat) : BitVec 256 := mapGet 0 k.brec b
/-- V of a record. -/
def recValid (r : BitVec 256) : Bool := r.getLsbD 182
/-- LOADED of a record. -/
def recLoaded (r : BitVec 256) : Bool := r.getLsbD 183

/-- Drops the tile of a bank: its records, its load and its range-lock entry (R181). -/
def Core.dropTile (k : Core) (b : Nat) : Core :=
  let r := k.bRec b
  if recValid r then
    let f := recBits r 175 174
    let n := recBits r 177 176 + 1
    { k with brec := k.brec.filter fun e => !(decide (f ≤ e.1) && decide (e.1 < f + n)),
             loads := mapErase k.loads f,
             rlt := mapErase k.rlt (recBits r 181 178) }
  else k

/-- The waits of VREL: copies, remote loads and armed groups; a group that a rejection left unfilled traps (R222, R250,
R251, R263). -/
def State.vectorQuiet (s : State) : Except Exc Unit :=
  let k := s.myCore
  match k.fills.find? fun e => match e.2 with | .failed _ _ _ => true | _ => false with
  | some (g, .failed c rt off) =>
    .error (.trapIn (s.onMyCore fun k => { k with fills := mapErase k.fills g }) c (BitVec.ofNat 64 off) (BitVec.ofNat 64 rt))
  | _ => if k.copies.isEmpty && k.fills.isEmpty && !k.bankLoads then .ok () else .error .stall

/-- Gives the vector file up: B residency and links go with it (R10, R167, R263). -/
def State.giveUpVf (s : State) : State :=
  (s.onMyCore fun k =>
    let k := (List.range 4).foldl Core.dropTile k
    { k with owner := none, vf := VecFile.init }).onMe fun x => { x with links := [] }

/-- VACQ: takes the free file, first-come first-served, with the effects of R10 and R194. -/
def execVacq (s : State) : Out :=
  .next (s.run .alone fun s =>
    let k := s.myCore
    if s.owns then .error (illegal (bitsOf .vacq))
    else if k.owner = none ∧ (k.vacqWait = [] ∨ k.vacqWait.head? = some s.cur) then
      let s := s.onMyCore fun k =>
        { k with owner := some s.cur, vf := VecFile.init, census := [], vacqWait := k.vacqWait.filter (· ≠ s.cur) }
      .ok ((s.onMe fun x => { x with a := { x.a with doneMask := 0, doneField := 0 } }).next 4)
    else
      let s := s.onMyCore fun k =>
        if s.cur ∈ k.vacqWait then k else { k with vacqWait := k.vacqWait ++ [s.cur] }
      .error (.become (s.parkOn .vacq)))

/-- VREL (R263). -/
def execVrel (s : State) : Out :=
  .next (s.run .alone fun s => do
    if !s.owns then throw (illegal (bitsOf .vrel))
    s.vectorQuiet
    return s.giveUpVf.next 4)

/-! END (R264, R348). -/

/-- The instance and launch of the executing hart. -/
def State.myInstance (s : State) : Option (Nat × Instance) :=
  s.me.inst.bind fun i => (mapFind? s.instances i).map fun x => (i, x)

/-- The hart is the last of its replica's harts to end, in the lead replica (R348, R262). -/
def State.lastToEnd (s : State) (i : Instance) : Bool :=
  !s.follower s.cur && i.live.all fun h => decide (h = s.cur) || s.follower h

/-- The completion word's update: ENDED plus one, FLAGS ORed (R348). -/
def State.countEnd (s : State) (va : Word) (flags : BitVec 6) : Except Exc State := do
  let (acc, s) ← s.check14 (s.who s.cur) .store 8 0 va 8
  s.checkRmw va 8
  let mark := s.hartMark s.cur
  let (b, s) := s.atHome s.cur mark acc.locs
  let v := leWord b
  let v' := (v + 0x100000000) ||| flags.setWidth 64
  return s.homeWrite mark (acc.locs.zip (leBytes 8 v'.toNat))

/-- The completion token of an instance: the launch's argument pointer, then INSTIDX and the flags (R318). -/
def completionToken (l : Launch) (i : Instance) (esize : Nat) : List Byte :=
  (leBytes 8 l.args.toNat ++ leBytes 4 i.idx ++ leBytes 4 i.flags.toNat ++ List.replicate esize 0).take esize

/-- The completion of an instance: its word, then its token (R318, R348). -/
def State.complete (s : State) (id : Nat) (i : Instance) (l : Launch) : Except Exc State := do
  let s ← if l.doneVa = 0 ∨ i.counted then .ok s else s.countEnd l.doneVa i.flags
  let s : State := { s with instances := mapPut s.instances id { i with counted := true } }
  if l.cqVa = 0 ∨ s.me.handoff.isSome then return s
  let (q, s) ← s.qAddr l.cqVa
  let a := s.actor
  s.homeCheck a l.cqVa q
  s.kindCheck a l.cqVa q .token
  let e := completionToken l i (s.qcb a.mark q).esize
  match ← s.enqAt a q e with
  | some t => return t
  | none => throw (.become (s.joinEnq a q .endToken e))

/-- Frees the executing hart. -/
def State.freeHart (s : State) : State := s.setHart s.cur Hart.init

/-- Frees a launch of which every instance was placed and none is left (R348). -/
def State.dropLaunch (s : State) (n : Nat) : State :=
  match mapFind? s.launches n with
  | none => s
  | some l =>
    if l.count ≤ l.next ∧ (s.instances.all fun e => decide (e.2.launch ≠ n)) = true then
      { s with launches := mapErase s.launches n }
    else s

/-- An instance is over: its stopped harts are freed with it (R361). -/
def State.endInstance (s : State) (id : Nat) : State :=
  match mapFind? s.instances id with
  | none => s
  | some i =>
    let hs := i.harts.flatten
    let s := hs.foldl (fun s h =>
      if (s.hart h).inst = some id ∧ (s.hart h).status = .stopped then
        let k := s.core (coreOf h)
        let s := if k.owner = some h then (s.as h).giveUpVf.as s.cur else s
        s.setHart h Hart.init
      else s) s
    let s : State :=
      { s with instances := mapErase s.instances id,
               groups := s.groups.filter fun g => g.2.harts.all fun e => decide (e.2 ∉ hs) }
    s.dropLaunch i.launch

/-- The executing hart leaves its instance, with its flags (R264, R348). -/
def State.leaveInstance (s : State) (id : Nat) : State :=
  match mapFind? s.instances id with
  | none => s
  | some i =>
    let live := i.live.filter (· ≠ s.cur)
    let flags := i.flags ||| (s.csr Csr.fflags).setWidth 6
    let unpaired := if s.csr Csr.pairrole = 0 then s.cur :: i.unpaired else i.unpaired
    let s : State := { s with instances := mapPut s.instances id { i with flags := flags, live := live, unpaired := unpaired } }
    if live.isEmpty then s.endInstance id else s

/-- END: gives the vector file up, waits, contributes its flags, completes the instance if it is the last, and frees the hart (R264). -/
def execEndHart (s : State) : Out :=
  .next (s.run .home fun s => do
    let s ← if s.owns then do s.vectorQuiet; pure s.giveUpVf else pure s
    match s.drainRemote 0xFFFF with
    | .error (.park p) => throw (.become (s.parkOn p))
    | .error e => throw e
    | .ok _ =>
    let s := s.release s.cur .device
    match s.myInstance with
    | none => throw (.become s.freeHart)
    | some (id, i) =>
      let i := { i with flags := i.flags ||| (s.csr Csr.fflags).setWidth 6 }
      forwarded s 0
        (fun s => do
          let s ← (if s.lastToEnd i then
              match mapFind? s.launches i.launch with
              | none => .ok s
              | some l => s.complete id i l
            else .ok s)
          return ([], s))
        (fun _ s => .error (.become ((s.leaveInstance id).freeHart))))

/-! Pre-emption points, traps and stops (R265). -/

/-- YIELD: a pre-emption point; a hart that has taken its notice halts there (R354, R396). -/
def execYield (s : State) : Out :=
  .next (s.run .last fun s =>
    .ok ((s.next 4).onMe fun x => { x with preempt := x.preempt || (x.noticeUntil.isSome && !x.irqPreempt) }))

/-- Lockstep resumes once no member of the executing hart's gang has a trap left (R343). -/
def State.unlockTrap (s : State) : State :=
  let s := s.onMe fun x => { x with trapAt := none, a := { x.a with seq := x.a.seq - 1 } }
  if s.me.gang.any fun h => (s.hart h).trapAt.isSome then s
  else s.me.gang.foldl (fun s h => s.onHart h fun x => match x.status with
    | .held => x.setStatus .running
    | _ => x) s

/-- TRET: S-mode only; in lockstep the target must be the trapping instruction (R19, R265, R343). The pending-operation
record stays valid for the parked instruction alone (R19, R202). -/
def execTret (s : State) : Out :=
  .next (s.run .last fun s => do
    if s.me.a.mode = .t then throw (illegal (bitsOf .tret))
    let target := s.csr Csr.tepc &&& ~~~1#64
    let valid := bit (s.csr Csr.tstat) 5
    let s := s.onMe fun x => { x with pending := x.pending.filter fun p => valid && decide (p.pc = target) }
    match s.me.trapAt with
    | some a =>
      if s.me.a.lock ∧ (s.csr Csr.tstat &&& 1 = 0) then
        if target ≠ a then throw (.trap Cause.gangDivergent target a)
        return (s.onMe (·.leaveTrap)).unlockTrap
      return s.onMe (·.leaveTrap)
    | none => return s.onMe (·.leaveTrap))

/-- SYSC: traps SYSCALL with TVAL := X[rs1]. -/
def execSysc (rs1 : Reg) (s : State) : Out := .next (s.run .plain fun s => .error (.trap Cause.syscall (s.x rs1) 0))
/-- BRK: traps BREAKPOINT with TVAL := X[rs1]. -/
def execBrk (rs1 : Reg) (s : State) : Out := .next (s.run .plain fun s => .error (.trap Cause.breakpoint (s.x rs1) 0))

/-- The instruction retires in a chunk of its own that is over with it. -/
def State.retireAlone (s : State) : State :=
  s.onMe fun x =>
    let x := { x with chunk := none, atVec := false, pending := none }
    x.setCsr Csr.instret (x.csr Csr.instret + 1)

/-- HALT: S-mode only; the hart stops before the next instruction, and the halt is reported (R265, R411). -/
def execHalt (s : State) : Out :=
  .next (s.run .first fun s => do
    if s.me.a.mode = .t then throw (illegal (bitsOf .halt))
    let s := s.report s.me.ctx 0 (s.hartid s.cur).toNat 0 s.pc.toNat 0 0
    throw (.become ((s.next 4).retireAlone.setStatus .halted)))

/-! Gangs (R261). -/

/-- SPLIT: each member continues alone. -/
def execSplit (s : State) : Out :=
  .next (s.run .last fun s => do
    if !s.me.a.lock || decide (s.me.gang.length < 2) then throw (illegal (bitsOf .split))
    let s := s.next 4
    return s.onMe fun x => { x with a := { x.a with lock := false } })

/-- Hands a result to a hart parked at GANG or PAIR, which takes it when it re-issues. -/
def State.token (s : State) (h : Nat) (b : List Byte) : State :=
  s.onHart h fun x => { x with handoff := some { elem := b, dest := [], qcb := 0 }, status := .running }

/-- GANG regroups at a common address; divergent members all trap (R261). -/
def execGang (s : State) : Out :=
  .next (s.run .alone fun s => do
    if s.me.a.lock || decide (s.me.gang.length < 2) then throw (illegal (bitsOf .gang))
    let others := s.me.gang.filter (· ≠ s.cur)
    let join (s : State) (n : Nat) : State := (s.next 4).onMe fun x => { x with a := { x.a with lock := true, seq := n } }
    match s.me.handoff with
    | some t =>
      if t.elem.length = 8 then throw (.trap Cause.gangDivergent s.pc (leWord t.elem))
      return join s (leNat t.elem)
    | none =>
      let here (h : Nat) : Bool := decide ((s.hart h).status = .parked .gang)
      if others.all here then
        let lead := (s.hart (s.me.gang.headD 0)).a.pc
        if others.all fun h => decide ((s.hart h).a.pc = s.pc) then
          let n := s.me.gang.foldl (fun n h => Nat.max n (s.hart h).a.seq) 0
          return join (others.foldl (fun s h => s.token h (leBytes 16 n)) s) n
        else
          let t := others.foldl (fun s h => s.token h (leBytes 8 lead.toNat)) s
          throw (.trapIn t Cause.gangDivergent s.pc lead)
      else throw (.park .gang))

/-! Pairs (R262). -/

/-- The other hart of the executing hart's pair, while both belong to the instance. -/
def State.partner (s : State) : Option Nat :=
  s.myInstance.bind fun i =>
    (i.2.harts.find? fun r => decide (s.cur ∈ r)).bind fun r => r.find? fun h => decide (h ≠ s.cur) && decide (h ∈ i.2.live)

/-- The other hart of the pair has left after UNPAIR (R262). -/
def State.unpairedAway (s : State) : Bool :=
  match s.myInstance with
  | some (_, i) => i.harts.any fun r => decide (s.cur ∈ r) && r.any fun h => decide (h ≠ s.cur) && decide (h ∈ i.unpaired)
  | none => false

/-- PAIR: an exchange of values; an acquire and a release at core scope. -/
def execPair (rd rs1 : Reg) (s : State) : Out :=
  let w := bitsOf (.pair rd rs1)
  .next (s.run .alone fun s => do
    match s.me.handoff with
    | some t => if t.elem.isEmpty then throw (illegal w) else return ((s.acquire s.cur .core).setX rd (leWord t.elem)).next 4
    | none =>
      if s.csr Csr.pairrole = 0 then throw (illegal w)
      let v := s.x rs1
      match s.partner with
      | none => throw (if s.unpairedAway then illegal w else .park (.pair rd v))
      | some p =>
        if (s.hart p).csr Csr.pairrole = 0 then throw (illegal w)
        match (s.hart p).status with
        | .parked (.pair _ u) => return (((s.token p (leBytes 8 v.toNat)).acquire s.cur .core).setX rd u).next 4
        | _ => throw (.park (.pair rd v)))

/-- UNPAIR: a partner parked in PAIR traps when it re-issues. -/
def execUnpair (s : State) : Out :=
  .next (s.run .plain fun s =>
    let s := match s.partner with
      | some p => match (s.hart p).status with
        | .parked (.pair _ _) => s.token p []
        | _ => s
      | none => s
    .ok ((s.setCsr Csr.pairrole 0).next 4))

/-! RNDV (R266). -/

/-- Sets the stochastic state; s0 = s1 = 0 becomes s1 = 1. -/
def State.setRng (s : State) (a b : Word) : State :=
  s.onMe fun x => { x with a := { x.a with s0 := a, s1 := if a = 0 ∧ b = 0 then 1 else b } }

/-- RNDV.s0. -/
def execRndvS0 (rd : Reg) (s : State) : Out := .next (s.run .plain fun s => .ok ((s.setX rd s.me.a.s0).next 4))
/-- RNDV.s1. -/
def execRndvS1 (rd : Reg) (s : State) : Out := .next (s.run .plain fun s => .ok ((s.setX rd s.me.a.s1).next 4))
/-- RNDV.ws0. -/
def execRndvWs0 (rd rs1 : Reg) (s : State) : Out :=
  .next (s.run .plain fun s => .ok (((s.setRng (s.x rs1) s.me.a.s1).setX rd s.me.a.s0).next 4))
/-- RNDV.ws1. -/
def execRndvWs1 (rd rs1 : Reg) (s : State) : Out :=
  .next (s.run .plain fun s => .ok (((s.setRng s.me.a.s0 (s.x rs1)).setX rd s.me.a.s1).next 4))
/-- RNDV.ent: a free value (log 9). -/
def execRndvEnt (rd : Reg) (s : State) : Out :=
  .next (s.run .plain fun s =>
    forwarded s 0 (fun s => .ok ([Config.entropy s.freeCtr], { s with freeCtr := s.freeCtr + 1 }))
      (fun v s => .ok ((s.setX rd (v.headD 0)).next 4)))
/-- RNDV.time. -/
def execRndvTime (rd : Reg) (s : State) : Out :=
  .next (s.run .plain fun s =>
    forwarded s 0 (fun s => .ok ([BitVec.ofNat 64 s.time], s)) (fun v s => .ok ((s.setX rd (v.headD 0)).next 4)))

end Sys2Proof.Machine
end

