-- ==== Sys2Proof/Machine/CsrInstr.lean ====
section
/-! DEFINITION. The CSR instructions and the writes with rules of their own (spec/10 R247, R267; spec/01 R13-R17; spec/12
R274; spec/20 R359; spec/23 R399). -/

namespace Sys2Proof.Machine

/-! The map (R14). -/

/-- How a CSR may be accessed (R14). -/
inductive CsrAccess where
  | ro | rw
  /-- ro (S: rw). -/
  | roS
  | w1c
  /-- rw, S-mode only. -/
  | rwS
deriving DecidableEq, Repr

/-- The access entry of each listed number (R14). -/
def csrAccess? (n : Nat) : Option CsrAccess :=
  if n ≤ 0x004 then some .ro
  else if n = Csr.vtype ∨ n = Csr.vl ∨ n = Csr.vpad then some .ro
  else if n = Csr.vstart ∨ n = Csr.vsub then some .rw
  else if n = Csr.vdirty then some .roS
  else if Csr.frm ≤ n ∧ n ≤ Csr.ftrapen then some .rw
  else if Csr.dom ≤ n ∧ n ≤ Csr.phase then some .ro
  else if n = Csr.slotbase ∨ n = Csr.slotcnt then some .rw
  else if n = Csr.superstep then some .ro
  else if n = Csr.lspbase ∨ n = Csr.lspseg then some .roS
  else if n = Csr.lspswz ∨ n = Csr.bypth then some .rw
  else if Csr.replstat ≤ n ∧ n ≤ Csr.sighi then some .ro
  else if n = Csr.rfinj then some .rwS
  else if n = Csr.trcctl then some .roS
  else if n = Csr.stripord then some .ro
  else if n = Csr.brkpc ∨ n = Csr.brkord then some .roS
  else if n = Csr.rsetstat then some .w1c
  else if Csr.tvec ≤ n ∧ n ≤ Csr.tval2 then some .rwS
  else if Csr.cycle ≤ n ∧ n ≤ Csr.instret then some .ro
  else none

/-- The CSRs of the vector file's owner (R10). -/
def csrOfVf (n : Nat) : Bool := decide (Csr.vtype ≤ n) && decide (n ≤ Csr.vdirty)

/-- Bits that a write of a plain rw CSR changes: the others are reserved (R6, R14). -/
def csrMask (n : Nat) : Word :=
  if n = Csr.fflags ∨ n = Csr.ftrapen then 0x3F
  else if n = Csr.ldst then 0x1F
  else if n = Csr.lspswz then 0xF
  else if n = Csr.tcause then 0xFF
  else if n = Csr.tstat then 0x27
  else if n = Csr.rfinj then 0x3FF
  else BitVec.allOnes 64

/-- The value of a CSR, as the executing hart reads it (R14). FFLAGS shows the flags of every older instruction, vector
instructions too, though R150 does not list it among the CSRs whose read waits for them (DEDUCED: log 126). -/
def State.readCsr (s : State) (n : Nat) : Word :=
  if n = Csr.hartid then s.hartid s.cur
  else if n = Csr.ctxid then BitVec.ofNat 64 s.me.ctx
  else if n = Csr.vtype then s.vf.vtype
  else if n = Csr.vl then s.vf.vl
  else if n = Csr.vstart then s.vf.vstart
  else if n = Csr.vpad then s.vf.vpad
  else if n = Csr.vsub then s.vf.vsub
  else if n = Csr.vdirty then s.vf.vdirty
  else if n = Csr.lspbase then BitVec.ofNat 64 (s.myCore.segOf s.me.ctx).base
  else if n = Csr.lspseg then BitVec.ofNat 64 (s.myCore.segOf s.me.ctx).size
  else if n = Csr.rfinj then (if s.dev.testMode then s.csr n else 0)
  else if n = Csr.cycle then BitVec.ofNat 64 s.cycle
  else if n = Csr.time then BitVec.ofNat 64 s.time
  else s.csr n

/-! Writes. -/

/-- A write of FRM: a value that would place 6 or 7 leaves it unchanged (R16). -/
def State.writeFrm (s : State) (v : Word) : State :=
  if 6 ≤ bits v 2 0 then s else s.setCsr Csr.frm (v &&& 7)

/-- A write of VDIRTY: cleared bits discard their registers, set bits are left clear (R399). -/
def State.writeVdirty (s : State) (v : Word) : State :=
  s.onVf fun f => { f with vdirty := f.vdirty &&& v, v := f.v.filter fun e => bit (f.vdirty &&& v) e.1 }

/-! Scratchpad segments of other contexts (R279, R397). -/

/-- The key of a context's state on a core. -/
def coreKey (ctx core : Nat) : Nat := ctx * 1024 + core

/-- The segments of two contexts on a core overlap. -/
def Core.segClash (k : Core) (a b : Nat) : Bool :=
  let p := k.segOf a
  let q := k.segOf b
  decide (a ≠ b) && decide (p.base < q.base + q.size) && decide (q.base < p.base + p.size)

/-- Tags of a context. -/
def tagsOf (ctx : Nat) (m : FMap Nat) : FMap Nat := m.filter fun e => decide (e.1 / 2 ^ 53 = ctx)

/-- Saves a context's segment on a core with its tag table, unless it is saved already. -/
def State.spillSeg (s : State) (ctx core : Nat) : State :=
  let key := coreKey ctx core
  if (mapFind? s.spills key).isSome then s
  else
    let g := (s.core core).segOf ctx
    let lo := lspLoc core g.base
    let hi := lo + g.size
    let sp : Spill :=
      { bytes := s.mem.filter fun e => decide (lo ≤ e.1) && decide (e.1 < hi),
        keys := s.memKey.filter fun e => decide (lo ≤ e.1) && decide (e.1 < hi),
        tags := tagsOf ctx (s.core core).tags }
    let s := s.onCore core fun k => { k with tags := k.tags.filter fun e => decide (e.1 / 2 ^ 53 ≠ ctx) }
    { s with spills := mapPut s.spills key sp }

/-- Overlapping segments of other contexts make room for a context's (R274, R397). -/
def State.makeRoom (s : State) (ctx core : Nat) : State :=
  ((s.core core).seg.filter fun e => (s.core core).segClash ctx e.1).foldl (fun s e => s.spillSeg e.1 core) s

/-- A write of LSPBASE or LSPSEG: bits [10:0] and [63:20] are reserved; one that would leave the grant changes nothing; the segments of
other contexts make room (R274). -/
def State.writeSegment (s : State) (size : Bool) (v : Word) : State :=
  let x := (v &&& 0xFF800#64).toNat
  let g := s.myCore.segOf s.me.ctx
  let g' := if size then { g with size := x } else { g with base := x }
  if g.grantBase ≤ g'.base ∧ g'.base + g'.size ≤ g.grantBase + g.grantSize then
    (s.onMyCore fun k => { k with seg := mapPut k.seg s.me.ctx g' }).makeRoom s.me.ctx (coreOf s.cur)
  else s

/-- A write of RSETSTAT: 1 to VALID clears the register (R247). -/
def State.clearRsetstat (s : State) (v : Word) : State := if bit v 32 then s.setCsr Csr.rsetstat 0 else s

/-- A write of RFINJ: ignored outside test mode; in a re-execution after a mismatch it arms nothing (R359). -/
def State.writeRfinj (s : State) (v : Word) : State :=
  if s.dev.testMode then s.setCsr Csr.rfinj (v &&& (if s.me.tries = 0 then 0x3FF#64 else 0x1FF#64)) else s

/-- A write of the rw CSRs with no rule of their own (R6, R13). -/
def State.writePlain (s : State) (n : Nat) (v : Word) : State :=
  if n = Csr.vstart then s.onVf fun f => { f with vstart := v }
  else if n = Csr.vsub then s.onVf fun f => { f with vsub := v }
  else
    let m := csrMask n
    s.setCsr n ((s.csr n &&& ~~~m) ||| (v &&& m))

/-- A write of a CSR that may be written. -/
def State.writeCsr (s : State) (n : Nat) (v : Word) : State :=
  if n = Csr.frm then s.writeFrm v
  else if n = Csr.vdirty then s.writeVdirty v
  else if n = Csr.lspbase then s.writeSegment false v
  else if n = Csr.lspseg then s.writeSegment true v
  else if n = Csr.rsetstat then s.clearRsetstat v
  else if n = Csr.rfinj then s.writeRfinj v
  else s.writePlain n v

/-- A CSR access is refused (R10, R13). -/
def State.csrRefused (s : State) (n : Nat) (write : Bool) : Bool :=
  match csrAccess? n with
  | none => true
  | some a =>
    (csrOfVf n && !s.owns) ||
    (decide (s.me.a.mode = .t) && (decide (a = .rwS))) ||
    (write && (decide (a = .ro) || (decide (a = .roS) && decide (s.me.a.mode = .t))))

/-! Instructions (R267). -/

/-- The value that a CSR instruction reads; CYCLE and TIME are the lead's (R364), and CYCLE after a timed DSYNC is its
release cycle (R340). -/
def State.csrValue (s : State) (n : Nat) (pure0 : Bool) (deliver : Word → State → Res) : Res :=
  if n = Csr.cycle ∨ n = Csr.time then
    forwarded s 0
      (fun s => .ok ([if n = Csr.cycle ∧ pure0 ∧ s.me.afterSync = some s.pc then BitVec.ofNat 64 s.me.releaseT else s.readCsr n], s))
      (fun v s => deliver (v.headD 0) s)
  else deliver (s.readCsr n) s

/-- The CSR operations. -/
inductive CsrOp where
  | rw | rs | rc
deriving DecidableEq, Repr

/-- A CSR instruction with source value v; `zero` says that the source field is zero (R267). -/
def csrInstr (s : State) (w : Word) (op : CsrOp) (rd : Reg) (n : Nat) (v : Word) (zero : Bool) : State :=
  s.run .plain fun s => do
    let writes := decide (op = .rw) || !zero
    if s.csrRefused n writes then throw (illegal w)
    if op = .rw ∧ rd = 0 then return (s.writeCsr n v).next 4
    s.csrValue n (decide (op = .rs) && zero) fun t s =>
      let new := match op with
        | .rw => v
        | .rs => t ||| v
        | .rc => t &&& ~~~v
      let s := s.setX rd t
      .ok ((if writes then s.writeCsr n new else s).next 4)

/-- CSRRW. -/
def execCsrrw (rd rs1 : Reg) (num : BitVec 12) (s : State) : Out :=
  .next (csrInstr s (bitsOf (.csrrw rd rs1 num)) .rw rd num.toNat (s.x rs1) (decide (rs1 = 0)))
/-- CSRRS. -/
def execCsrrs (rd rs1 : Reg) (num : BitVec 12) (s : State) : Out :=
  .next (csrInstr s (bitsOf (.csrrs rd rs1 num)) .rs rd num.toNat (s.x rs1) (decide (rs1 = 0)))
/-- CSRRC. -/
def execCsrrc (rd rs1 : Reg) (num : BitVec 12) (s : State) : Out :=
  .next (csrInstr s (bitsOf (.csrrc rd rs1 num)) .rc rd num.toNat (s.x rs1) (decide (rs1 = 0)))
/-- CSRRWI. -/
def execCsrrwi (rd : Reg) (imm : BitVec 5) (num : BitVec 10) (s : State) : Out :=
  .next (csrInstr s (bitsOf (.csrrwi rd imm num)) .rw rd num.toNat (imm.setWidth 64) (decide (imm = 0)))
/-- CSRRSI. -/
def execCsrrsi (rd : Reg) (imm : BitVec 5) (num : BitVec 10) (s : State) : Out :=
  .next (csrInstr s (bitsOf (.csrrsi rd imm num)) .rs rd num.toNat (imm.setWidth 64) (decide (imm = 0)))
/-- CSRRCI. -/
def execCsrrci (rd : Reg) (imm : BitVec 5) (num : BitVec 10) (s : State) : Out :=
  .next (csrInstr s (bitsOf (.csrrci rd imm num)) .rc rd num.toNat (imm.setWidth 64) (decide (imm = 0)))

/-! The writes by themselves: what a CSR instruction of the executing hart does to the CSR it names. -/

/-- A number whose write has a row of its own. -/
def csrOwnRow (n : Nat) : Bool := decide (n ∈ [Csr.frm, Csr.vdirty, Csr.lspbase, Csr.lspseg, Csr.rsetstat, Csr.rfinj])

/-- The write of one CSR, where the executing hart may write it. -/
def State.csrEvent (s : State) (n : Nat) (f : State → State) : Out :=
  if s.csrRefused n true then .fault (.notEnabled "CSR write") else .next (f s)

/-- CSR_WRITE (R13, R267). -/
def execCsrWrite (num : BitVec 12) (v : Word) (s : State) : Out :=
  if csrOwnRow num.toNat then .fault (.notEnabled "CSR_WRITE") else s.csrEvent num.toNat (·.writePlain num.toNat v)
/-- FRM_WRITE (R16). -/
def execFrmWrite (v : Word) (s : State) : Out := s.csrEvent Csr.frm (·.writeFrm v)
/-- VDIRTY_WRITE (R399). -/
def execVdirtyWrite (v : Word) (s : State) : Out := s.csrEvent Csr.vdirty (·.writeVdirty v)
/-- LSP_SEGMENT_WRITE (R274). -/
def execLspSegmentWrite (size : Bool) (v : Word) (s : State) : Out :=
  s.csrEvent (if size then Csr.lspseg else Csr.lspbase) (·.writeSegment size v)
/-- RSETSTAT_CLEAR (R247). -/
def execRsetstatClear (s : State) : Out := s.csrEvent Csr.rsetstat (·.clearRsetstat 0x100000000)
/-- RFINJ_WRITE (R359). -/
def execRfinjWrite (v : Word) (s : State) : Out := s.csrEvent Csr.rfinj (·.writeRfinj v)

end Sys2Proof.Machine
end

