-- ==== Sys2Proof/Machine/ScalarFp.lean ====
section
/-! DEFINITION. Scalar floating instructions (spec/05 R112-R118, spec/01 R16, R17). -/

namespace Sys2Proof.Machine

/-- The scalar format of a code: 0 .s, 1 .d, 2 .h, 3 .bf (R34, R113). -/
def scalarFmt (c : BitVec 2) : Fmt :=
  match c.toNat with
  | 0 => f32
  | 1 => f64
  | 2 => f16
  | _ => bf16

/-- FRM[2:0] of the executing hart as a number (R16). -/
def State.frm (s : State) : Nat := bits (s.csr Csr.frm) 2 0
/-- The executing hart's stochastic state under a rounding mode (R83). -/
def State.rng (s : State) (rm : Rm) : Rng := { rm := rm, s0 := s.me.a.s0, s1 := s.me.a.s1 }
/-- Keeps the stochastic state after draws. -/
def State.keepRng (s : State) (r : Rng) : State := s.onMe fun x => { x with a := { x.a with s0 := r.s0, s1 := r.s1 } }
/-- F[r] read in a format: its low bits (R112). -/
def State.fIn (s : State) (f : Fmt) (r : Reg) : Nat := (s.f r).toNat % 2 ^ f.width

/-- Ends an FP instruction: raised flags go to FFLAGS; an enabled one traps FP_TRAP before the destination is written and
before `write` keeps any draw, with the instruction bits and the flags (R17, R392; log 120). -/
def fpFinish (bitsv : Word) (fl : Flags) (write : State → State) (s : State) : Res :=
  let s' := s.orFlags fl
  if (fl.setWidth 64 &&& s.csr Csr.ftrapen) ≠ 0 then .error (.trapIn s' Cause.fpTrap bitsv (fl.setWidth 64))
  else .ok ((write s').next 4)

/-- An FP operation that rounds once under a mode: one draw in stochastic mode, which a trap gives back, so that the
instruction's re-execution takes it (R83, R114, R118, R392; log 120). -/
def fpRound (bitsv : Word) (s : State) (rm : Rm) (rd : Reg) (op : Rm → Nat → FRes) : State :=
  s.run .plain fun s =>
    let (q, r) := (s.rng rm).draw
    let (v, fl) := op rm q
    fpFinish bitsv fl (fun s => (s.keepRng r).setF rd (BitVec.ofNat 64 v)) s

/-- FADD: a + b. -/
def execFadd (fmt : BitVec 2) (rd rs1 rs2 : Reg) (s : State) : Out :=
  let f := scalarFmt fmt
  .next (fpRound (bitsOf (.fadd fmt rd rs1 rs2)) s (.ofFrm s.frm) rd fun rm q =>
    f.addV rm q (f.value (s.fIn f rs1)) (f.value (s.fIn f rs2)))
/-- FSUB: a - b. -/
def execFsub (fmt : BitVec 2) (rd rs1 rs2 : Reg) (s : State) : Out :=
  let f := scalarFmt fmt
  .next (fpRound (bitsOf (.fsub fmt rd rs1 rs2)) s (.ofFrm s.frm) rd fun rm q =>
    f.addV rm q (f.value (s.fIn f rs1)) (f.value (s.fIn f rs2)).neg)
/-- FMUL: a × b. -/
def execFmul (fmt : BitVec 2) (rd rs1 rs2 : Reg) (s : State) : Out :=
  let f := scalarFmt fmt
  .next (fpRound (bitsOf (.fmul fmt rd rs1 rs2)) s (.ofFrm s.frm) rd fun rm q =>
    f.mulVR rm q (f.value (s.fIn f rs1)) (f.value (s.fIn f rs2)))
/-- FDIV: a / b. -/
def execFdiv (fmt : BitVec 2) (rd rs1 rs2 : Reg) (s : State) : Out :=
  let f := scalarFmt fmt
  .next (fpRound (bitsOf (.fdiv fmt rd rs1 rs2)) s (.ofFrm s.frm) rd fun rm q =>
    f.divV rm q (f.value (s.fIn f rs1)) (f.value (s.fIn f rs2)))
/-- FSQRT: √a. -/
def execFsqrt (fmt : BitVec 2) (rd rs1 : Reg) (s : State) : Out :=
  let f := scalarFmt fmt
  .next (fpRound (bitsOf (.fsqrt fmt rd rs1)) s (.ofFrm s.frm) rd fun rm q => f.sqrtV rm q (f.value (s.fIn f rs1)))

/-- FMA: a × b + c. -/
def execFma (fmt : BitVec 2) (rd rs1 rs2 rs3 : Reg) (s : State) : Out :=
  let f := scalarFmt fmt
  .next (fpRound (bitsOf (.fma fmt rd rs1 rs2 rs3)) s (.ofFrm s.frm) rd fun rm q =>
    f.fmaV rm q (f.value (s.fIn f rs1)) (f.value (s.fIn f rs2)) (f.value (s.fIn f rs3)))
/-- FMS: a × b - c. -/
def execFms (fmt : BitVec 2) (rd rs1 rs2 rs3 : Reg) (s : State) : Out :=
  let f := scalarFmt fmt
  .next (fpRound (bitsOf (.fms fmt rd rs1 rs2 rs3)) s (.ofFrm s.frm) rd fun rm q =>
    f.fmaV rm q (f.value (s.fIn f rs1)) (f.value (s.fIn f rs2)) (f.value (s.fIn f rs3)).neg)
/-- FNMA: -(a × b) - c. -/
def execFnma (fmt : BitVec 2) (rd rs1 rs2 rs3 : Reg) (s : State) : Out :=
  let f := scalarFmt fmt
  .next (fpRound (bitsOf (.fnma fmt rd rs1 rs2 rs3)) s (.ofFrm s.frm) rd fun rm q =>
    f.fmaV rm q (f.value (s.fIn f rs1)).neg (f.value (s.fIn f rs2)) (f.value (s.fIn f rs3)).neg)
/-- FNMS: -(a × b) + c. -/
def execFnms (fmt : BitVec 2) (rd rs1 rs2 rs3 : Reg) (s : State) : Out :=
  let f := scalarFmt fmt
  .next (fpRound (bitsOf (.fnms fmt rd rs1 rs2 rs3)) s (.ofFrm s.frm) rd fun rm q =>
    f.fmaV rm q (f.value (s.fIn f rs1)).neg (f.value (s.fIn f rs2)) (f.value (s.fIn f rs3)))

/-- FMIN (R78). -/
def execFmin (fmt : BitVec 2) (rd rs1 rs2 : Reg) (s : State) : Out :=
  let f := scalarFmt fmt
  let (v, fl) := f.minmax false (s.fIn f rs1) (s.fIn f rs2)
  .next (s.run .plain (fpFinish (bitsOf (.fmin fmt rd rs1 rs2)) fl fun s => s.setF rd (BitVec.ofNat 64 v)))
/-- FMAX (R78). -/
def execFmax (fmt : BitVec 2) (rd rs1 rs2 : Reg) (s : State) : Out :=
  let f := scalarFmt fmt
  let (v, fl) := f.minmax true (s.fIn f rs1) (s.fIn f rs2)
  .next (s.run .plain (fpFinish (bitsOf (.fmax fmt rd rs1 rs2)) fl fun s => s.setF rd (BitVec.ofNat 64 v)))

/-- A result of sign injection in F[rd]: no flag (R78). -/
def fpPlain (s : State) (rd : Reg) (v : Nat) : State :=
  s.run .plain fun s => .ok ((s.setF rd (BitVec.ofNat 64 v)).next 4)

/-- FSGNJ: a with the sign of b. -/
def execFsgnj (fmt : BitVec 2) (rd rs1 rs2 : Reg) (s : State) : Out :=
  let f := scalarFmt fmt
  .next (fpPlain s rd (f.withSign (s.fIn f rs1) (f.signBit (s.fIn f rs2))))
/-- FSGNJN: a with the inverse of the sign of b. -/
def execFsgnjn (fmt : BitVec 2) (rd rs1 rs2 : Reg) (s : State) : Out :=
  let f := scalarFmt fmt
  .next (fpPlain s rd (f.withSign (s.fIn f rs1) (!f.signBit (s.fIn f rs2))))
/-- FSGNJX: a with sign(a) XOR sign(b). -/
def execFsgnjx (fmt : BitVec 2) (rd rs1 rs2 : Reg) (s : State) : Out :=
  let f := scalarFmt fmt
  .next (fpPlain s rd (f.withSign (s.fIn f rs1) (f.signBit (s.fIn f rs1) != f.signBit (s.fIn f rs2))))

/-- FCLASS: exactly one bit set (R115). -/
def execFclass (fmt : BitVec 2) (rd rs1 : Reg) (s : State) : Out :=
  let f := scalarFmt fmt
  .next (alu s rd (1#64 <<< f.classOf (s.fIn f rs1)))

/-- A floating comparison into X[rd] (R115). -/
def fpCmp (bitsv : Word) (s : State) (fmt : BitVec 2) (rel : Rel) (rd rs1 rs2 : Reg) : State :=
  let f := scalarFmt fmt
  let (b, fl) := f.cmp rel (s.fIn f rs1) (s.fIn f rs2)
  s.run .plain (fpFinish bitsv fl fun s => s.setX rd (b2w b))

/-- FCMP.EQ. -/
def execFcmpEq (fmt : BitVec 2) (rd rs1 rs2 : Reg) (s : State) : Out :=
  .next (fpCmp (bitsOf (.fcmpEq fmt rd rs1 rs2)) s fmt .eq rd rs1 rs2)
/-- FCMP.NE. -/
def execFcmpNe (fmt : BitVec 2) (rd rs1 rs2 : Reg) (s : State) : Out :=
  .next (fpCmp (bitsOf (.fcmpNe fmt rd rs1 rs2)) s fmt .ne rd rs1 rs2)
/-- FCMP.LT. -/
def execFcmpLt (fmt : BitVec 2) (rd rs1 rs2 : Reg) (s : State) : Out :=
  .next (fpCmp (bitsOf (.fcmpLt fmt rd rs1 rs2)) s fmt .lt rd rs1 rs2)
/-- FCMP.LE. -/
def execFcmpLe (fmt : BitVec 2) (rd rs1 rs2 : Reg) (s : State) : Out :=
  .next (fpCmp (bitsOf (.fcmpLe fmt rd rs1 rs2)) s fmt .le rd rs1 rs2)
/-- FCMP.GT. -/
def execFcmpGt (fmt : BitVec 2) (rd rs1 rs2 : Reg) (s : State) : Out :=
  .next (fpCmp (bitsOf (.fcmpGt fmt rd rs1 rs2)) s fmt .gt rd rs1 rs2)
/-- FCMP.GE. -/
def execFcmpGe (fmt : BitVec 2) (rd rs1 rs2 : Reg) (s : State) : Out :=
  .next (fpCmp (bitsOf (.fcmpGe fmt rd rs1 rs2)) s fmt .ge rd rs1 rs2)

/-! Conversions (R116, R84). -/

/-- The rounding code of FCVT's control: 0 FRM, then RNE, RTZ, RDN, RUP, RMM, stochastic; 7 is illegal. -/
def cvtMode (s : State) (ctl : BitVec 5) : Rm :=
  match ctl.toNat / 4 with
  | 0 => .ofFrm s.frm
  | n => .ofFrm (n - 1)
/-- The second type of a control. -/
def cvtType (ctl : BitVec 5) : BitVec 2 := ctl.setWidth 2
/-- Width and signedness of an integer type code: i32, n32, i64, n64. -/
def cvtInt (t : BitVec 2) : Nat × Bool := (if t.toNat < 2 then 32 else 64, decide (t.toNat % 2 = 0))

/-- FCVT, floating to floating: `fmt` is the destination; equal formats are illegal, as is rounding code 7. -/
def execFcvtFf (fmt : BitVec 2) (rd rs1 : Reg) (ctl : BitVec 5) (s : State) : Out :=
  let f := scalarFmt fmt; let g := scalarFmt (cvtType ctl)
  let w := bitsOf (.fcvtFf fmt rd rs1 ctl)
  if fmt = cvtType ctl ∨ ctl.toNat / 4 = 7 then .next (s.run .plain fun _ => .error (illegal w))
  else .next (fpRound w s (cvtMode s ctl) rd fun rm q => f.ofV rm q false (g.value (s.fIn g rs1)))
/-- FCVT, floating to integer: `fmt` is the source; a 32-bit result is extended by its signedness. -/
def execFcvtFi (fmt : BitVec 2) (rd rs1 : Reg) (ctl : BitVec 5) (s : State) : Out :=
  let f := scalarFmt fmt
  let w := bitsOf (.fcvtFi fmt rd rs1 ctl)
  if ctl.toNat / 4 = 7 then .next (s.run .plain fun _ => .error (illegal w))
  else .next (s.run .plain fun s =>
    let (q, r) := (s.rng (cvtMode s ctl)).draw
    let (n, sg) := cvtInt (cvtType ctl)
    let (v, fl) := toIntV (cvtMode s ctl) q sg n (f.value (s.fIn f rs1))
    fpFinish w fl (fun s => (s.keepRng r).setX rd (BitVec.ofInt 64 v)) s)
/-- FCVT, integer to floating: `fmt` is the destination; a 32-bit source reads X[rs1][31:0]. -/
def execFcvtIf (fmt : BitVec 2) (rd rs1 : Reg) (ctl : BitVec 5) (s : State) : Out :=
  let f := scalarFmt fmt
  let w := bitsOf (.fcvtIf fmt rd rs1 ctl)
  if ctl.toNat / 4 = 7 then .next (s.run .plain fun _ => .error (illegal w))
  else
    let (n, sg) := cvtInt (cvtType ctl)
    let a := (s.x rs1).toNat % 2 ^ n
    let v : Int := if sg ∧ 2 ^ (n - 1) ≤ a then (a : Int) - 2 ^ n else a
    .next (fpRound w s (cvtMode s ctl) rd fun rm q => f.ofInt rm q false v)

/-- FMVXF: X[rd] := zext(a, width of the format). -/
def execFmvxf (fmt : BitVec 2) (rd rs1 : Reg) (s : State) : Out :=
  .next (alu s rd (BitVec.ofNat 64 (s.fIn (scalarFmt fmt) rs1)))
/-- FMVFX: the low bits of X[rs1] in F[rd], upper bits cleared (R112). -/
def execFmvfx (fmt : BitVec 2) (rd rs1 : Reg) (s : State) : Out :=
  .next (fpPlain s rd ((s.x rs1).toNat % 2 ^ (scalarFmt fmt).width))

end Sys2Proof.Machine
end

