-- ==== Sys2Proof/Machine/Vector.lean ====
section
/-! DEFINITION. The vector type, elements and masks in the vector file, VSETL and VSETLI, SX blocks, and the scalar reads
of vector state (spec/06 R119-R127, R149, R150; spec/04 R74, R85-R89; spec/02 R36; spec/25 R413). -/

namespace Sys2Proof.Machine

/-! The vector type (R119-R121, R129). -/

/-- Type classes (R129). -/
inductive VClass where
  | int | fp | fp8 | sx
deriving DecidableEq, Repr

/-- VTYPE by field (R119). -/
structure VT where
  ill : Bool
  mgrp : Nat
  mpol : Bool
  tpol : Bool
  regs : Nat
  fmt : Nat
  wcode : Nat
  gran : Nat
deriving DecidableEq, Repr

/-- The fields of VTYPE. -/
def VT.ofWord (v : Word) : VT :=
  { ill := bit v 63, mgrp := bits v 19 14, mpol := bit v 10, tpol := bit v 9, regs := 2 ^ bits v 8 7, fmt := bits v 6 3,
    wcode := bits v 2 0, gran := bits v 13 11 }

/-- Element width; 0 under an SX type. -/
def VT.w (t : VT) : Nat :=
  match t.wcode with
  | 0 => 4
  | 1 => 6
  | 2 => 8
  | 3 => 16
  | 4 => 32
  | 5 => 64
  | _ => 0
/-- The class of the type. -/
def VT.cls (t : VT) : VClass := if t.fmt ≤ 1 then .int else if t.fmt ≤ 3 then .fp else if t.fmt ≤ 5 then .fp8 else .sx
/-- An SX type. -/
def VT.isSx (t : VT) : Bool := decide (t.cls = .sx)
/-- An integer type. -/
def VT.isInt (t : VT) : Bool := decide (t.cls = .int)
/-- A signed integer type. -/
def VT.isSigned (t : VT) : Bool := decide (t.fmt = 0)
/-- Magnitude bits of the SX type (R85). -/
def VT.m (t : VT) : Nat := if t.fmt = 6 then 2 else if t.fmt = 7 then 4 else 7
/-- Bits of a block with m magnitude bits (R85). -/
def blockBits (m : Nat) : Nat := 16 + 16 * (1 + m)
/-- The binary format of a floating type. -/
def VT.fl (t : VT) : Fmt :=
  match t.fmt with
  | 2 => if t.wcode = 3 then f16 else if t.wcode = 4 then f32 else f64
  | 3 => bf16
  | 4 => e4m3
  | _ => e5m2
/-- Units of w bits in a register: 340 of 6 bits (R74). -/
def perReg (w : Nat) : Nat := if w = 6 then 340 else 2048 / w
/-- Elements per register (R121). -/
def VT.e (t : VT) : Nat := if t.isSx then 16 * perReg (blockBits t.m) else perReg t.w
/-- The granule in elements (R121). -/
def VT.gs (t : VT) : Nat := if t.isSx then 16 * 2 ^ t.gran else if t.w = 6 then 4 else 1
/-- VLMAX (R121). -/
def VT.vlmax (t : VT) : Nat := t.e / t.gs * t.gs * t.regs

/-- Format and width code of a type code (R36); none from 21 on. -/
def typeCode? (c : Nat) : Option (Nat × Nat) :=
  if c ≤ 5 then some (0, c)
  else if c ≤ 11 then some (1, c - 6)
  else if c ≤ 14 then some (2, c - 9)
  else match c with
    | 15 => some (3, 3)
    | 16 => some (4, 2)
    | 17 => some (5, 2)
    | 18 => some (6, 6)
    | 19 => some (7, 6)
    | 20 => some (8, 6)
    | _ => none

/-- VTYPE of an illegal type (R120). -/
def illVtype : Word := 0x8000000000000000#64

/-- The expansion of a vector type immediate; none where R120 makes it illegal. -/
def expandType (imm : BitVec 14) : Option Word :=
  let v := imm.toNat
  let gran := field v 10 9
  let mg := field v 13 11
  match typeCode? (field v 4 0) with
  | none => none
  | some (f, wc) =>
    if gran = 3 ∨ mg = 7 ∨ (gran ≠ 0 ∧ f < 6) then none
    else some (BitVec.ofNat 64 (mg * 2 ^ 14 + gran * 2 ^ 11 + field v 8 7 * 2 ^ 9 + field v 6 5 * 2 ^ 7 + f * 8 + wc))

/-! Registers, elements and masks (R10, R22, R74, R87, R127). -/

/-- Register vn: zeros while its VDIRTY bit is clear (R10). -/
def VecFile.reg (f : VecFile) (n : Nat) : VReg := if bit f.vdirty n then mapGet 0 f.v n else 0
/-- Writes register vn, which sets its VDIRTY bit (R10). -/
def VecFile.setReg (f : VecFile) (n : Nat) (x : VReg) : VecFile :=
  { f with v := mapSet 0 f.v n x, vdirty := f.vdirty ||| ((1#64) <<< n) }
/-- Mask register mn. -/
def VecFile.mreg (f : VecFile) (n : Nat) : MReg := mapGet 0 f.m n
/-- Writes a mask register. -/
def VecFile.setMreg (f : VecFile) (n : Nat) (x : MReg) : VecFile := { f with m := mapSet 0 f.m n x }

/-- w bits from bit `lo` of a register. -/
def regBits (r : VReg) (lo w : Nat) : Nat := r.toNat / 2 ^ lo % 2 ^ w
/-- Replaces w bits from bit `lo`. -/
def setRegBits (r : VReg) (lo w v : Nat) : VReg :=
  (r &&& ~~~(BitVec.ofNat 2048 ((2 ^ w - 1) * 2 ^ lo))) ||| BitVec.ofNat 2048 (v % 2 ^ w * 2 ^ lo)
/-- Element i of the group at `base` as elements of w bits. -/
def VecFile.elem (f : VecFile) (base w i : Nat) : Nat := regBits (f.reg (base + i / perReg w)) (i % perReg w * w) w
/-- Replaces an element. -/
def VecFile.setElem (f : VecFile) (base w i v : Nat) : VecFile :=
  let n := base + i / perReg w
  f.setReg n (setRegBits (f.reg n) (i % perReg w * w) w v)
/-- Replaces a bit of a mask register. -/
def VecFile.setMbit (f : VecFile) (n i : Nat) (b : Bool) : VecFile :=
  let x := f.mreg n
  f.setMreg n (if b then x ||| ((1#4096) <<< i) else x &&& ~~~((1#4096) <<< i))
/-- A list of elements written from index `i` on. -/
def VecFile.setElems (f : VecFile) (base w i : Nat) : List Nat → VecFile
  | [] => f
  | v :: vs => (f.setElem base w i v).setElems base w (i + 1) vs

/-- The end of a write to one register of a group that holds `units` units of `ub` bits: units from `first` on are tail,
bits that hold no unit are zero (R74, R87, R126, R127). -/
def VecFile.endReg (f : VecFile) (n ub first : Nat) (tpol : Bool) : VecFile :=
  let keep := if tpol then Nat.min first (perReg ub) else perReg ub
  f.setReg n (f.reg n &&& BitVec.ofNat 2048 (2 ^ (ub * keep) - 1))
/-- The same for a group of `regs` registers and `total` units of body. -/
def VecFile.endGroup (f : VecFile) (base regs ub total : Nat) (tpol : Bool) : VecFile :=
  (List.range regs).foldl (fun f k => f.endReg (base + k) ub (total - k * perReg ub) tpol) f
/-- The tail of a mask destination: bits VL to 4,095 (R126). -/
def VecFile.endMask (f : VecFile) (n vl : Nat) (tpol : Bool) : VecFile :=
  if tpol then f.setMreg n (f.mreg n &&& BitVec.ofNat 4096 (2 ^ vl - 1)) else f

/-! SX blocks (R85-R89). -/

/-- An SX block by field: block exponent, micro-exponents, signs and magnitudes of its sixteen elements. -/
structure SxBlock where
  e : Nat
  mu : Nat
  sgn : List Bool
  mag : List Nat
deriving DecidableEq, Repr

/-- The block in its bits (R85). -/
def SxBlock.ofBits (m v : Nat) : SxBlock :=
  let el (i : Nat) := v / 2 ^ (16 + (1 + m) * i)
  { e := v % 256, mu := v / 256 % 256,
    sgn := (List.range 16).map fun i => decide (el i / 2 ^ m % 2 = 1),
    mag := (List.range 16).map fun i => el i % 2 ^ m }
/-- Elements packed at 1 + m bits each, the lowest first. -/
def packEls (m : Nat) : List (Bool × Nat) → Nat
  | [] => 0
  | (s, v) :: l => (if s then 2 ^ m else 0) + v % 2 ^ m + 2 ^ (1 + m) * packEls m l
/-- The bits of a block. -/
def SxBlock.bits (m : Nat) (b : SxBlock) : Nat := b.e + 256 * b.mu + 65536 * packEls m (b.sgn.zip b.mag)
/-- The micro-exponent of element i. -/
def SxBlock.muOf (b : SxBlock) (i : Nat) : Nat := b.mu / 2 ^ (i / 2) % 2
/-- The value of element i (R86); a padding element reads with magnitude zero (R87). -/
def SxBlock.value (m : Nat) (b : SxBlock) (i : Nat) (pad : Bool) : FVal :=
  let s := b.sgn.getD i false
  let v := b.mag.getD i 0
  if b.e = 255 then .nan false
  else if b.e = 0 ∨ v = 0 ∨ pad = true then .zero s
  else .fin s v ((b.e : Int) - 127 + b.muOf i - m)

/-- The magnitude of a value against a bound 2^k × c: |x| > c × 2^k. -/
def magGt (x : FVal) (c : Nat) (k : Int) : Bool :=
  match x with
  | .fin _ m e => let j := min e k; decide (c * 2 ^ (k - j).toNat < m * 2 ^ (e - j).toNat)
  | .inf _ => true
  | _ => false
/-- floor(log2 |x|) of a nonzero finite value. -/
def magLog (x : FVal) : Option Int :=
  match x with
  | .fin _ m e => some (e + Nat.log2 m)
  | _ => none
/-- The larger of two magnitudes. -/
def magMax (a b : FVal) : FVal :=
  match a, b with
  | .fin _ m e, .fin _ n d => let j := min e d
    if m * 2 ^ (e - j).toNat < n * 2 ^ (d - j).toNat then b else a
  | .fin _ _ _, _ => a
  | _, _ => b

/-- Per-element outcome of packing: sign, magnitude, and its flags. -/
structure Packed where
  sgn : Bool
  mag : Nat
  flags : Flags
deriving DecidableEq, Repr

/-- Packs sixteen values into a block: the bits and each element's flags (R88). `qs` are the sixteen draws. -/
def packSx (m : Nat) (rm : Rm) (qs : List Nat) (xs : List FVal) : Nat × List Flags :=
  let top : Nat × Int := (2 ^ m - 1, 128 - (m : Int))
  if xs.any FVal.isNan then
    (255, xs.map fun x => if x.snan then fNV else 0)
  else
    let clamp (x : FVal) : FVal × Flags :=
      if magGt x top.1 top.2 then (.fin x.sign top.1 top.2, fSAT ||| fNX) else (x, 0)
    let cs := xs.map clamp
    let ys := cs.map Prod.fst
    let a := ys.foldl magMax (.zero false)
    match magLog a with
    | none => (SxBlock.bits m { e := 0, mu := 0, sgn := xs.map FVal.sign, mag := List.replicate 16 0 }, List.replicate 16 0)
    | some lg =>
      let e0 := lg + 127
      let e1 := if magGt a (2 ^ m - 1) (e0 - 126 - m) then e0 + 1 else e0
      let e := min 254 (max 1 e1)
      let mus := (List.range 8).map fun k =>
        let lim (x : FVal) := magGt x (2 ^ m - 1) (e - 127 - m)
        lim (ys.getD (2 * k) (.zero false)) || lim (ys.getD (2 * k + 1) (.zero false))
      let one (i : Nat) : Packed :=
        let (x, fl) := cs.getD i (.zero false, 0)
        let s := (xs.getD i (.zero false)).sign
        let k := e - 127 + (if mus.getD (i / 2) false then 1 else 0) - m
        match x with
        | .fin _ v d =>
          let (r, inex) := Ex.roundAt { m := v, e := d, st := false } rm (qs.getD i 0) false k
          { sgn := s, mag := r, flags := fl ||| (if inex then fNX else 0) ||| (if r = 0 then fUF else 0) }
        | _ => { sgn := s, mag := 0, flags := fl }
      let ps := (List.range 16).map one
      let mu := (List.range 8).foldl (fun n k => if mus.getD k false then n + 2 ^ k else n) 0
      let zero := ps.all fun p => decide (p.mag = 0)
      (SxBlock.bits m { e := if zero then 0 else e.toNat, mu := if zero then 0 else mu, sgn := ps.map (·.sgn),
                        mag := ps.map (·.mag) }, ps.map (·.flags))

/-! The substitute (R131). -/

/-- VSUB converted to the element format. -/
def VT.substitute (t : VT) (vsub : Word) : Nat :=
  if t.isInt then vsub.toNat % 2 ^ t.w else (t.fl.ofV .rne 0 false (f64.value vsub.toNat)).1

/-! Interlocks of registers with copies and remote transfers (R222, R250, R251). -/

/-- An instruction that reads or writes element groups (2 × register + half) waits for their transfers: unfilled groups,
and, for writes, groups that a CPVS has still to read. A group left unfilled by a rejection traps the next instruction that
reads it or had waited on it; a register with an uncorrectable error traps its first reader (R222, R250, R374). -/
def State.vecReady (s : State) (reads writes : List Nat) : Except Exc Unit :=
  let k := s.myCore
  let waited := match s.me.fillWait with | some (p, l) => if p = s.pc then l else [] | none => []
  match k.vf.upset.find? fun n => decide (2 * n ∈ reads) || decide (2 * n + 1 ∈ reads) with
  | some n =>
    .error (.trapIn (s.onVf fun f => { f with upset := f.upset.filter (· ≠ n) }) Cause.dataError (-1) (BitVec.ofNat 64 n))
  | none =>
  match k.fills.find? fun e => (decide (e.1 ∈ reads) || (decide (e.1 ∈ writes) && decide (e.1 ∈ waited))) &&
      (match e.2 with | .failed _ _ _ => true | _ => false) with
  | some (g, .failed c rt off) =>
    .error (.trapIn (s.onMyCore fun k => { k with fills := mapErase k.fills g }) c (BitVec.ofNat 64 off) (BitVec.ofNat 64 rt))
  | _ =>
    let copying (store : Bool) (g : Nat) : Bool :=
      k.copies.any fun c => decide (c.store = store) && decide (2 * c.vd + c.done ≤ g) && decide (g < 2 * (c.vd + c.regs))
    let unfilled (g : Nat) : Bool :=
      k.fills.any (fun e => decide (e.1 = g) && (match e.2 with | .failed _ _ _ => false | _ => true)) || copying false g
    let waits := writes.filter unfilled
    if !waits.isEmpty then .error (.become ((s.onMe fun x => { x with fillWait := some (x.a.pc, waits) }).setStatus .stalled))
    else if k.bankLoads || reads.any unfilled || writes.any (copying true) then .error .stall else .ok ()

/-- Both groups of registers. -/
def bothGroups (regs : List Nat) : List Nat := regs.flatMap fun n => [2 * n, 2 * n + 1]

/-! VSETL and VSETLI (R122, R123). -/

/-- The strip record of a VSETL (R413). -/
def State.stripRecord (s : State) (ord : Word) (g : Nat) : List Byte :=
  leBytes 8 (2 ^ 56 + (s.hartid s.cur).toNat % 2 ^ 25) ++ leBytes 8 s.pc.toNat ++ leBytes 8 ord.toNat ++ leBytes 8 g

/-- VSETL and VSETLI with their requested length (R123). -/
def vset (s : State) (w : Word) (rd : Reg) (avl : Word) (imm : BitVec 14) : State :=
  s.run .plain fun s => do
    if !s.owns then throw (illegal w)
    let ord := s.csr Csr.stripord + 1
    if s.csr Csr.brkpc ≠ 0 ∧ s.csr Csr.brkpc = s.pc ∧ s.csr Csr.brkord = ord then throw (.trap Cause.stripBreak ord 0)
    let s := s.setCsr Csr.stripord ord
    let (v, g, vl) : Word × Nat × Nat := match expandType imm with
      | none => (illVtype, 0, 0)
      | some v =>
        let t := VT.ofWord v
        let g := Nat.min avl.toNat t.vlmax
        (v, g, (g + t.gs - 1) / t.gs * t.gs)
    let s := s.onVf fun f =>
      { f with vtype := v, vl := BitVec.ofNat 64 vl, vpad := BitVec.ofNat 64 (vl - g), vstart := 0 }
    let s := if bit (s.csr Csr.trcctl) 0 then s.onChunk fun c => { c with trace := c.trace ++ [s.stripRecord ord g] } else s
    return (s.setX rd (BitVec.ofNat 64 g)).next 4

/-- VSETL. -/
def execVsetl (rd rs1 : Reg) (imm : BitVec 14) (s : State) : Out :=
  .next (vset s (bitsOf (.vsetl rd rs1 imm)) rd (s.x rs1) imm)
/-- VSETLI: AVL is the rs1 field; 31 asks for 2^64 − 1 (R36). -/
def execVsetli (rd rs1 : Reg) (imm : BitVec 14) (s : State) : Out :=
  .next (vset s (bitsOf (.vsetli rd rs1 imm)) rd (if rs1 = 31 then BitVec.allOnes 64 else rs1.setWidth 64) imm)

/-! Scalar reads of vector state (R149, R150). -/

/-- The type, VL and VPAD that stand. -/
def State.vt (s : State) : VT := VT.ofWord s.vf.vtype
def State.vl (s : State) : Nat := s.vf.vl.toNat
def State.vpad (s : State) : Nat := s.vf.vpad.toNat

/-- The checks that the VX instructions share: ownership, and VTYPE.ILL but for VRDSC. -/
def State.vxCheck (s : State) (w : Word) (typed : Bool) : Except Exc Unit :=
  if !s.owns || (typed && s.vt.ill) then .error (illegal w) else .ok ()

/-- VMVXS (R149): element X[rs2] of the group at the rs1 field. -/
def execVmvxs (rd rs1 rs2 : Reg) (s : State) : Out :=
  let w := bitsOf (.vmvxs rd rs1 rs2)
  .next (s.run .plain fun s => do
    s.vxCheck w true
    let t := s.vt
    if rs1.toNat % t.regs ≠ 0 then throw (illegal w)
    s.vecReady (bothGroups ((List.range t.regs).map (rs1.toNat + ·))) []
    let n := (s.x rs2).toNat
    let v : Word :=
      if s.vl ≤ n then 0
      else if t.isSx then
        let b := SxBlock.ofBits t.m (s.vf.elem rs1.toNat (blockBits t.m) (n / 16))
        BitVec.ofNat 64 (f32.ofV .rne 0 false (b.value t.m (n % 16) (decide (s.vl - s.vpad ≤ n)))).1
      else
        let x := s.vf.elem rs1.toNat t.w n
        if t.isSigned && decide (2 ^ (t.w - 1) ≤ x) then BitVec.ofInt 64 ((x : Int) - 2 ^ t.w) else BitVec.ofNat 64 x
    return (s.setX rd v).next 4)

/-- The set bits of a mask register below VL − VPAD, ascending. -/
def State.maskBits (s : State) (n : Nat) : List Nat :=
  (List.range (s.vl - s.vpad)).filter fun i => (s.vf.mreg n).getLsbD i

/-- VMPOPC (R149). -/
def execVmpopc (rd rs1 : Reg) (s : State) : Out :=
  let w := bitsOf (.vmpopc rd rs1)
  .next (s.run .plain fun s => do
    s.vxCheck w true
    regIn 8 rs1 w
    return (s.setX rd (BitVec.ofNat 64 (s.maskBits rs1.toNat).length)).next 4)
/-- VMFIRST (R149). -/
def execVmfirst (rd rs1 : Reg) (s : State) : Out :=
  let w := bitsOf (.vmfirst rd rs1)
  .next (s.run .plain fun s => do
    s.vxCheck w true
    regIn 8 rs1 w
    let v : Word := match (s.maskBits rs1.toNat).head? with
      | some i => BitVec.ofNat 64 i
      | none => BitVec.allOnes 64
    return (s.setX rd v).next 4)
/-- VRDSUB (R149): illegal under an SX type. -/
def execVrdsub (rd : Reg) (s : State) : Out :=
  let w := bitsOf (.vrdsub rd)
  .next (s.run .plain fun s => do
    s.vxCheck w true
    if s.vt.isSx then throw (illegal w)
    return (s.setX rd (BitVec.ofNat 64 (s.vt.substitute s.vf.vsub))).next 4)
/-- VRDSC (R149). -/
def execVrdsc (rd rs1 : Reg) (s : State) : Out :=
  let w := bitsOf (.vrdsc rd rs1)
  .next (s.run .plain fun s => do
    s.vxCheck w false
    regIn 8 rs1 w
    return (s.setX rd ((mapGet 0 s.vf.sc rs1.toNat).setWidth 64)).next 4)

end Sys2Proof.Machine
end

