-- ==== Sys2Proof/Machine/VecAlu.lean ====
section
/-! DEFINITION. What an element of the integer, logic and floating units computes, from the bit patterns of its sources
(spec/06 R131, R135-R144; spec/04 R75-R84, R99). -/

namespace Sys2Proof.Machine

/-! Element formats. -/

/-- The format in which a source or result element of an instruction stands. -/
inductive EF where
  | int (signed : Bool) (w : Nat)
  | fl (f : Fmt)
deriving DecidableEq, Repr

/-- Bits of an element. -/
def EF.width : EF → Nat
  | .int _ w => w
  | .fl f => f.width
/-- The format of VTYPE. -/
def VT.ef (t : VT) : EF := if t.isInt then .int t.isSigned t.w else .fl t.fl
/-- The wide partner of a floating format (R143, R144). -/
def wideFmt (f : Fmt) : Fmt := if f.width = 8 then f16 else if f.width = 16 then f32 else f64
/-- The floating format of width w (R143). -/
def fmtOfWidth (w : Nat) : Fmt := if w ≤ 16 then f16 else if w = 32 then f32 else f64
/-- The widening factor of VSEXT and VZEXT, from imm14[1:0] (R47, R138). -/
def extFactor (w : VWord) : Nat := 2 ^ (w.imm.toNat % 4)
/-- The signedness of the integer side of a conversion: imm14[2] = 0 (R143). -/
def cvtSigned (w : VWord) : Bool := decide (w.imm.toNat / 4 % 2 = 0)

/-- The format of the elements at vs1. -/
def efA (op : Vop) (w : VWord) (t : VT) : EF :=
  match op with
  | .vnsrl => .int t.isSigned (2 * t.w)
  | .vnsra => .int t.isSigned (2 * t.w)
  | .vsext => .int t.isSigned (t.w / extFactor w)
  | .vzext => .int t.isSigned (t.w / extFactor w)
  | .vfcvtItof => .int (cvtSigned w) t.w
  | .vfwcvtItof => .int (cvtSigned w) t.w
  | .vfncvtFtof => .fl (wideFmt t.fl)
  | .vfncvtFtoi => .fl (fmtOfWidth (2 * t.w))
  | .vfncvtItof => .int (cvtSigned w) (2 * t.w)
  | _ => t.ef
/-- The format of the result elements, and of the old vd where it is a source. -/
def efD (op : Vop) (w : VWord) (t : VT) : EF :=
  match op with
  | .vwadd => .int t.isSigned (2 * t.w)
  | .vwmul => .int t.isSigned (2 * t.w)
  | .vfcvtFtoi => .int (cvtSigned w) t.w
  | .vfcvtItof => .fl t.fl
  | .vfwcvtFtof => .fl (wideFmt t.fl)
  | .vfwcvtFtoi => .int (cvtSigned w) (2 * t.w)
  | .vfwcvtItof => .fl (fmtOfWidth (2 * t.w))
  | .vfncvtFtoi => .int (cvtSigned w) t.w
  | .vfncvtItof => .fl t.fl
  | .vfwma => .fl (wideFmt t.fl)
  | .vfclass => .int false t.w
  | _ => t.ef

/-- Modifier codes 10 and 11 (R131). -/
def EF.negAbs (f : EF) (code v : Nat) : Nat :=
  match f with
  | .int signed w =>
    if code = 10 then (2 ^ w - v % 2 ^ w) % 2 ^ w
    else if signed ∧ 2 ^ (w - 1) ≤ v then (2 ^ w - v) % 2 ^ w else v
  | .fl f => if code = 10 then v ^^^ 2 ^ (f.width - 1) else v % 2 ^ (f.width - 1)
/-- VSUB converted to an element format (R131). -/
def EF.substitute (f : EF) (vsub : Word) : Nat :=
  match f with
  | .int _ w => vsub.toNat % 2 ^ w
  | .fl g => (g.ofV .rne 0 false (f64.value vsub.toNat)).1

/-- The source element of a modifier code for element i with modifier group G, if it may be read (R44). -/
def modIndex (code k g i vl : Nat) : Option Nat :=
  let b := i - i % g
  let p := i % g
  let in_ (j : Nat) : Option Nat := if j < vl then some j else none
  match code with
  | 1 => if g ≤ k then none else in_ (b + k)
  | 2 => in_ (b + (p + g - k % g) % g)
  | 3 => in_ (b + (p + k) % g)
  | 4 => in_ (b + (g - 1 - p))
  | 5 => if g = 1 then none else in_ (if i % 2 = 0 then i + 1 else i - 1)
  | 6 => if g ≤ p ^^^ k then none else in_ (b + (p ^^^ k))
  | 7 => in_ k
  | 8 => if i < k then none else in_ (i - k)
  | 9 => in_ (i + k)
  | _ => in_ i

/-! Values. -/

/-- A pattern of width w as a signed number. -/
def sgnN (w v : Nat) : Int := if 2 ^ (w - 1) ≤ v % 2 ^ w then ((v % 2 ^ w : Nat) : Int) - 2 ^ w else (v % 2 ^ w : Nat)
/-- A number modulo 2^w. -/
def wrapN (w : Nat) (v : Int) : Nat := (v % (2 : Int) ^ w).toNat
/-- A pattern as a number, by signedness. -/
def numN (signed : Bool) (w v : Nat) : Int := if signed then sgnN w v else (v % 2 ^ w : Nat)
/-- The shift amount of VSLL, VSRL and VSRA (R136). -/
def shAmt (w b : Nat) : Nat := b % (if w = 4 then 4 else if w ≤ 8 then 8 else w)

/-- An element's result. -/
structure ERes where
  v : Nat
  flags : Flags
  rng : Rng
deriving DecidableEq, Repr

/-- What an element's computation starts from: the word, the type, the rounding state, the element number, its bit of
the MSK register, and the patterns of its sources. -/
structure EIn where
  w : VWord
  t : VT
  rng : Rng
  i : Nat
  mbit : Bool
  a : Nat
  b : Nat
  c : Nat
deriving DecidableEq, Repr

/-- A result without flags. -/
def EIn.is (x : EIn) (v : Nat) : ERes := { v := v, flags := 0, rng := x.rng }
/-- A 0 or 1 for a mask bit. -/
def EIn.bool (x : EIn) (b : Bool) : ERes := x.is (if b then 1 else 0)
/-- An integer result modulo 2^w. -/
def EIn.wrap (x : EIn) (v : Int) : ERes := x.is (wrapN x.t.w v)
/-- A saturated integer result (R75). -/
def EIn.sat (x : EIn) (signed : Bool) (v : Int) : ERes :=
  let (r, fl) := satInt signed x.t.w v
  { v := wrapN x.t.w r, flags := fl, rng := x.rng }
/-- A result that is rounded once: one draw (R82). -/
def EIn.rounded (x : EIn) (f : Rm → Nat → FRes) : ERes :=
  let (q, r) := x.rng.draw
  let (v, fl) := f x.rng.rm q
  { v := v, flags := fl, rng := r }
/-- A result with flags and no rounding. -/
def EIn.fres (x : EIn) (r : FRes) : ERes := { v := r.1, flags := r.2, rng := x.rng }
/-- a, b and c as signed numbers, and as numbers of VTYPE's signedness. -/
def EIn.sa (x : EIn) : Int := sgnN x.t.w x.a
def EIn.sb (x : EIn) : Int := sgnN x.t.w x.b
def EIn.ta (x : EIn) : Int := numN x.t.isSigned x.t.w x.a
def EIn.tb (x : EIn) : Int := numN x.t.isSigned x.t.w x.b
/-- a, b and c as floating values of VTYPE's format. -/
def EIn.fa (x : EIn) : FVal := x.t.fl.value x.a
def EIn.fb (x : EIn) : FVal := x.t.fl.value x.b
def EIn.fc (x : EIn) : FVal := x.t.fl.value x.c

/-- A narrowing shift (R137). -/
def EIn.narrow (x : EIn) (signed : Bool) : ERes :=
  let w := x.t.w
  let (q, r) := x.rng.draw
  let v := roundInt x.rng.rm q (numN signed (2 * w) x.a) (x.b % (2 * w))
  if x.w.satf = 1 then
    let (y, fl) := satInt signed w v
    { v := wrapN w y, flags := fl, rng := r }
  else { v := wrapN w v, flags := 0, rng := r }

/-- A conversion between element formats (R84, R143). -/
def convert (src dst : EF) (satf : Bool) (v : Nat) (rm : Rm) (q : Nat) : FRes :=
  match src, dst with
  | .fl f, .fl g => g.ofV rm q satf (f.value v)
  | .fl f, .int s w => let (r, fl) := toIntV rm q s w (f.value v); (wrapN w r, fl)
  | .int s w, .fl g => g.ofInt rm q satf (numN s w v)
  | .int s w, .int _ w' => (wrapN w' (numN s w v), 0)

/-- A floating comparison of elements (R115). -/
def EIn.cmp (x : EIn) (r : Rel) : ERes :=
  let (b, fl) := x.t.fl.cmp r x.a x.b
  { v := if b then 1 else 0, flags := fl, rng := x.rng }

/-- VFWMA: d + a × b, rounded once to the wide format (R144). -/
def EIn.wma (x : EIn) : ERes :=
  let g := wideFmt x.t.fl
  x.rounded fun rm q => g.fmaV rm q x.fa x.fb (g.value x.c)

/-- What one active element computes (R135-R144). c is the old vd of the accumulating forms and vs3 of the fused ones. -/
def elemResult (op : Vop) (x : EIn) : ERes :=
  let w := x.t.w
  let f := x.t.fl
  match op with
  | .vadd => x.wrap ((x.a : Int) + x.b)
  | .vsub => x.wrap ((x.a : Int) - x.b)
  | .vrsub => x.wrap ((x.b : Int) - x.a)
  | .vmul => x.wrap ((x.a : Int) * x.b)
  | .vmulh => x.wrap (x.sa * x.sb / 2 ^ w)
  | .vmulhn => x.is (x.a * x.b / 2 ^ w)
  | .vmacc => x.wrap ((x.c : Int) + x.a * x.b)
  | .vnmsac => x.wrap ((x.c : Int) - x.a * x.b)
  | .vdiv => if x.b = 0 then x.is (2 ^ w - 1) else x.wrap (x.sa.tdiv x.sb)
  | .vdivn => if x.b = 0 then x.is (2 ^ w - 1) else x.is (x.a / x.b)
  | .vrem => if x.b = 0 then x.is x.a else x.wrap (x.sa.tmod x.sb)
  | .vremn => if x.b = 0 then x.is x.a else x.is (x.a % x.b)
  | .vmin => x.is (if x.sb < x.sa then x.b else x.a)
  | .vmax => x.is (if x.sa < x.sb then x.b else x.a)
  | .vminn => x.is (if x.b < x.a then x.b else x.a)
  | .vmaxn => x.is (if x.a < x.b then x.b else x.a)
  | .vsadd => x.sat true (x.sa + x.sb)
  | .vsaddn => x.sat false ((x.a : Int) + x.b)
  | .vssub => x.sat true (x.sa - x.sb)
  | .vssubn => x.sat false ((x.a : Int) - x.b)
  | .vavg => x.rounded fun rm q => (wrapN w (roundInt rm q (x.ta + x.tb) 1), 0)
  | .vabsd => x.wrap ((x.ta - x.tb).natAbs : Nat)
  | .vsll => x.is (x.a * 2 ^ shAmt w x.b % 2 ^ w)
  | .vsrl => x.is (x.a / 2 ^ shAmt w x.b)
  | .vsra => x.wrap (x.sa / 2 ^ shAmt w x.b)
  | .vnsrl => x.narrow false
  | .vnsra => x.narrow true
  | .vwadd => x.is (wrapN (2 * w) (x.ta + x.tb))
  | .vwmul => x.is (wrapN (2 * w) (x.ta * x.tb))
  | .vclz => x.is (if x.a = 0 then w else w - 1 - Nat.log2 x.a)
  | .vcpop => x.is (((List.range w).filter fun i => x.a.testBit i).length)
  | .vsext => x.wrap (sgnN (w / extFactor x.w) x.a)
  | .vzext => x.is x.a
  | .vand => x.is (x.a &&& x.b)
  | .vor => x.is (x.a ||| x.b)
  | .vxor => x.is (x.a ^^^ x.b)
  | .vnot => x.is (2 ^ w - 1 - x.a)
  | .vmerge => x.is (if x.mbit then x.b else x.a)
  | .vmv => x.is x.a
  | .vmsEq => x.bool (decide (x.a = x.b))
  | .vmsNe => x.bool (decide (x.a ≠ x.b))
  | .vmsLt => x.bool (decide (x.sa < x.sb))
  | .vmsLtn => x.bool (decide (x.a < x.b))
  | .vmsLe => x.bool (decide (x.sa ≤ x.sb))
  | .vmsLen => x.bool (decide (x.a ≤ x.b))
  | .vmsGt => x.bool (decide (x.sb < x.sa))
  | .vmsGtn => x.bool (decide (x.b < x.a))
  | .vmand => x.is (x.a &&& x.b)
  | .vmor => x.is (x.a ||| x.b)
  | .vmxor => x.is (x.a ^^^ x.b)
  | .vmandn => x.is (x.a &&& (1 - x.b))
  | .vmnot => x.is (1 - x.a)
  | .vmset => x.is 1
  | .vmclr => x.is 0
  | .vid => x.is (x.i % 2 ^ w)
  | .vfadd => x.rounded fun rm q => f.addV rm q x.fa x.fb
  | .vfsub => x.rounded fun rm q => f.addV rm q x.fa x.fb.neg
  | .vfmul => x.rounded fun rm q => f.mulVR rm q x.fa x.fb
  | .vfdiv => x.rounded fun rm q => f.divV rm q x.fa x.fb
  | .vfsqrt => x.rounded fun rm q => f.sqrtV rm q x.fa
  | .vfma => x.rounded fun rm q => f.fmaV rm q x.fa x.fb x.fc
  | .vfms => x.rounded fun rm q => f.fmaV rm q x.fa x.fb x.fc.neg
  | .vfnma => x.rounded fun rm q => f.fmaV rm q x.fa.neg x.fb x.fc.neg
  | .vfnms => x.rounded fun rm q => f.fmaV rm q x.fa.neg x.fb x.fc
  | .vfmin => x.fres (f.minmax false x.a x.b)
  | .vfmax => x.fres (f.minmax true x.a x.b)
  | .vfsgnj => x.is (f.withSign x.a (f.signBit x.b))
  | .vfsgnjn => x.is (f.withSign x.a (!f.signBit x.b))
  | .vfsgnjx => x.is (f.withSign x.a (f.signBit x.a != f.signBit x.b))
  | .vfclass => x.is (f.classOf x.a)
  | .vmfEq => x.cmp .eq
  | .vmfNe => x.cmp .ne
  | .vmfLt => x.cmp .lt
  | .vmfLe => x.cmp .le
  | .vmfGt => x.cmp .gt
  | .vmfGe => x.cmp .ge
  | .vfwma => x.wma
  | .vfcvtFtoi | .vfcvtItof | .vfwcvtFtof | .vfwcvtFtoi | .vfwcvtItof | .vfncvtFtof | .vfncvtFtoi | .vfncvtItof =>
    x.rounded fun rm q => convert (efA op x.w x.t) (efD op x.w x.t) (decide (x.w.satf = 1)) x.a rm q
  | _ => x.is x.a

end Sys2Proof.Machine
end

