-- ==== Sys2Proof/Machine/VecCheck.lean ====
section
/-! DEFINITION. The vop map, the fields and types each member uses, and the checks of R48 that concern one member or the
dependence of members (spec/02 R42-R49; spec/06 R129-R146; spec/07 R151-R156, R172; spec/08 R175; spec/09 R220; spec/10
R245). -/


namespace Sys2Proof.Machine

/-! Field use. -/

/-- What an operand field holds. -/
inductive FU where
  /-- Unused: zero (R32). -/
  | no
  /-- A group of the VTYPE size (R11). -/
  | vec
  /-- A group of twice that size (R132). -/
  | wide
  /-- The source of VSEXT and VZEXT (R138). -/
  | half
  /-- The binary side of VSXPACK and VSXUNPK (R145). -/
  | pack
  /-- An index group (R153). -/
  | idx
  /-- The groups of a segment form (R156). -/
  | seg
  /-- Whole registers, by a count code (R166, R220, R250). -/
  | regs
  /-- The eight registers of MCENS (R195). -/
  | eight
  /-- A mask register (R133). -/
  | mask
  /-- A scalar register, any number. -/
  | xreg
  /-- A bank, accumulator, scale, stream, route or route-set number below a limit. -/
  | lim (n : Nat)
deriving DecidableEq, Repr

/-- The fields of a member: vd, vs1, vs2 and [27:23]. -/
structure Fields where
  vd : FU
  vs1 : FU
  vs2 : FU
  x : FU
deriving DecidableEq, Repr

end Sys2Proof.Machine

namespace Sys2Proof

open Sys2Proof.Machine

/-! The vop map (R47) and what each operation uses. -/

/-- The vop values (R47). -/
def Vop.code : Vop → Nat
  | .vadd => 0x00
  | .vsub => 0x01
  | .vrsub => 0x02
  | .vmul => 0x03
  | .vmulh => 0x04
  | .vmulhn => 0x05
  | .vmacc => 0x06
  | .vnmsac => 0x07
  | .vdiv => 0x08
  | .vdivn => 0x09
  | .vrem => 0x0A
  | .vremn => 0x0B
  | .vmin => 0x0C
  | .vmax => 0x0D
  | .vminn => 0x0E
  | .vmaxn => 0x0F
  | .vsadd => 0x10
  | .vsaddn => 0x11
  | .vssub => 0x12
  | .vssubn => 0x13
  | .vavg => 0x14
  | .vabsd => 0x15
  | .vsll => 0x16
  | .vsrl => 0x17
  | .vsra => 0x18
  | .vnsrl => 0x19
  | .vnsra => 0x1A
  | .vwadd => 0x1B
  | .vwmul => 0x1C
  | .vclz => 0x1D
  | .vcpop => 0x1E
  | .vsext => 0x1F
  | .vzext => 0x1F
  | .vand => 0x20
  | .vor => 0x21
  | .vxor => 0x22
  | .vnot => 0x23
  | .vmerge => 0x24
  | .vmv => 0x25
  | .vmsEq => 0x26
  | .vmsNe => 0x27
  | .vmsLt => 0x28
  | .vmsLtn => 0x29
  | .vmsLe => 0x2A
  | .vmsLen => 0x2B
  | .vmsGt => 0x2C
  | .vmsGtn => 0x2D
  | .vmand => 0x2E
  | .vmor => 0x2F
  | .vmxor => 0x30
  | .vmandn => 0x31
  | .vmnot => 0x32
  | .vmset => 0x33
  | .vmclr => 0x34
  | .vmsbf => 0x35
  | .vmsif => 0x36
  | .vmsof => 0x37
  | .viota => 0x38
  | .vid => 0x39
  | .vfadd => 0x40
  | .vfsub => 0x41
  | .vfmul => 0x42
  | .vfdiv => 0x43
  | .vfsqrt => 0x44
  | .vfma => 0x45
  | .vfms => 0x46
  | .vfnma => 0x47
  | .vfnms => 0x48
  | .vfmin => 0x49
  | .vfmax => 0x4A
  | .vfsgnj => 0x4B
  | .vfsgnjn => 0x4C
  | .vfsgnjx => 0x4D
  | .vfclass => 0x4E
  | .vmfEq => 0x4F
  | .vmfNe => 0x50
  | .vmfLt => 0x51
  | .vmfLe => 0x52
  | .vmfGt => 0x53
  | .vmfGe => 0x54
  | .vfcvtFtoi => 0x55
  | .vfcvtItof => 0x55
  | .vfwcvtFtof => 0x56
  | .vfwcvtFtoi => 0x56
  | .vfwcvtItof => 0x56
  | .vfncvtFtof => 0x57
  | .vfncvtFtoi => 0x57
  | .vfncvtItof => 0x57
  | .vfwma => 0x58
  | .vsxpack => 0x59
  | .vsxunpk => 0x5A
  | .vexp2 => 0xA0
  | .vlog2 => 0xA1
  | .vrcp => 0xA2
  | .vrsq => 0xA3
  | .vsin => 0xA4
  | .vcos => 0xA5
  | .vtanh => 0xA6
  | .vsigm => 0xA7
  | .verf => 0xA8
  | .vle => 0x60
  | .vse => 0x61
  | .vlse => 0x62
  | .vsse => 0x63
  | .vlxe => 0x64
  | .vsxe => 0x65
  | .vlgl => 0x66
  | .vssc => 0x67
  | .vlseg => 0x68
  | .vsseg => 0x69
  | .vleff => 0x6A
  | .vlwr => 0x6B
  | .vswr => 0x6C
  | .vsxadd => 0x6D
  | .vlst => 0x6E
  | .vredSum => 0x80
  | .vredMax => 0x81
  | .vredMin => 0x82
  | .vredAnd => 0x83
  | .vredOr => 0x84
  | .vredXor => 0x85
  | .vfredsum => 0x86
  | .vfredosum => 0x87
  | .vfredmax => 0x88
  | .vfredmin => 0x89
  | .vslideup => 0x8A
  | .vslidedn => 0x8B
  | .vperm => 0x8C
  | .vcompress => 0x8D
  | .vexpand => 0x8E
  | .vmvsx => 0x8F
  | .vzip => 0x90
  | .vunzip => 0x91
  | .vtrn => 0x92
  | .mbld => 0xC0
  | .mbinv => 0xC1
  | .mma => 0xC2
  | .mmas => 0xC3
  | .mzero => 0xC4
  | .mxtr => 0xC5
  | .mxtrz => 0xC6
  | .mcens => 0xC7
  | .mscl => 0xC8
  | .cpv => 0xE0
  | .cpvs => 0xE1
  | .cprrSend => 0xE2
  | .cprrArm => 0xE2
  | .vrsend => 0xE3
  | .vrredAdd => 0xE4
  | .vrredMin => 0xE4
  | .vrredMax => 0xE4
  | .venq => 0xE5
  | .vrld => 0xE6

/-- The operation of a vop with the immediate that tells the halves of a split vop apart (R47, R143, R245). -/
def vopOf (code imm : Nat) : Option Vop :=
  match code with
  | 0x00 => some .vadd
  | 0x01 => some .vsub
  | 0x02 => some .vrsub
  | 0x03 => some .vmul
  | 0x04 => some .vmulh
  | 0x05 => some .vmulhn
  | 0x06 => some .vmacc
  | 0x07 => some .vnmsac
  | 0x08 => some .vdiv
  | 0x09 => some .vdivn
  | 0x0A => some .vrem
  | 0x0B => some .vremn
  | 0x0C => some .vmin
  | 0x0D => some .vmax
  | 0x0E => some .vminn
  | 0x0F => some .vmaxn
  | 0x10 => some .vsadd
  | 0x11 => some .vsaddn
  | 0x12 => some .vssub
  | 0x13 => some .vssubn
  | 0x14 => some .vavg
  | 0x15 => some .vabsd
  | 0x16 => some .vsll
  | 0x17 => some .vsrl
  | 0x18 => some .vsra
  | 0x19 => some .vnsrl
  | 0x1A => some .vnsra
  | 0x1B => some .vwadd
  | 0x1C => some .vwmul
  | 0x1D => some .vclz
  | 0x1E => some .vcpop
  | 0x1F => if imm / 4 % 2 = 0 then some .vsext else some .vzext
  | 0x20 => some .vand
  | 0x21 => some .vor
  | 0x22 => some .vxor
  | 0x23 => some .vnot
  | 0x24 => some .vmerge
  | 0x25 => some .vmv
  | 0x26 => some .vmsEq
  | 0x27 => some .vmsNe
  | 0x28 => some .vmsLt
  | 0x29 => some .vmsLtn
  | 0x2A => some .vmsLe
  | 0x2B => some .vmsLen
  | 0x2C => some .vmsGt
  | 0x2D => some .vmsGtn
  | 0x2E => some .vmand
  | 0x2F => some .vmor
  | 0x30 => some .vmxor
  | 0x31 => some .vmandn
  | 0x32 => some .vmnot
  | 0x33 => some .vmset
  | 0x34 => some .vmclr
  | 0x35 => some .vmsbf
  | 0x36 => some .vmsif
  | 0x37 => some .vmsof
  | 0x38 => some .viota
  | 0x39 => some .vid
  | 0x40 => some .vfadd
  | 0x41 => some .vfsub
  | 0x42 => some .vfmul
  | 0x43 => some .vfdiv
  | 0x44 => some .vfsqrt
  | 0x45 => some .vfma
  | 0x46 => some .vfms
  | 0x47 => some .vfnma
  | 0x48 => some .vfnms
  | 0x49 => some .vfmin
  | 0x4A => some .vfmax
  | 0x4B => some .vfsgnj
  | 0x4C => some .vfsgnjn
  | 0x4D => some .vfsgnjx
  | 0x4E => some .vfclass
  | 0x4F => some .vmfEq
  | 0x50 => some .vmfNe
  | 0x51 => some .vmfLt
  | 0x52 => some .vmfLe
  | 0x53 => some .vmfGt
  | 0x54 => some .vmfGe
  | 0x55 => if imm % 4 = 1 then some .vfcvtFtoi else if imm % 4 = 2 then some .vfcvtItof else none
  | 0x56 => if imm % 4 = 0 then some .vfwcvtFtof else if imm % 4 = 1 then some .vfwcvtFtoi else if imm % 4 = 2 then some .vfwcvtItof else none
  | 0x57 => if imm % 4 = 0 then some .vfncvtFtof else if imm % 4 = 1 then some .vfncvtFtoi else if imm % 4 = 2 then some .vfncvtItof else none
  | 0x58 => some .vfwma
  | 0x59 => some .vsxpack
  | 0x5A => some .vsxunpk
  | 0x60 => some .vle
  | 0x61 => some .vse
  | 0x62 => some .vlse
  | 0x63 => some .vsse
  | 0x64 => some .vlxe
  | 0x65 => some .vsxe
  | 0x66 => some .vlgl
  | 0x67 => some .vssc
  | 0x68 => some .vlseg
  | 0x69 => some .vsseg
  | 0x6A => some .vleff
  | 0x6B => some .vlwr
  | 0x6C => some .vswr
  | 0x6D => some .vsxadd
  | 0x6E => some .vlst
  | 0x80 => some .vredSum
  | 0x81 => some .vredMax
  | 0x82 => some .vredMin
  | 0x83 => some .vredAnd
  | 0x84 => some .vredOr
  | 0x85 => some .vredXor
  | 0x86 => some .vfredsum
  | 0x87 => some .vfredosum
  | 0x88 => some .vfredmax
  | 0x89 => some .vfredmin
  | 0x8A => some .vslideup
  | 0x8B => some .vslidedn
  | 0x8C => some .vperm
  | 0x8D => some .vcompress
  | 0x8E => some .vexpand
  | 0x8F => some .vmvsx
  | 0x90 => some .vzip
  | 0x91 => some .vunzip
  | 0x92 => some .vtrn
  | 0xA0 => some .vexp2
  | 0xA1 => some .vlog2
  | 0xA2 => some .vrcp
  | 0xA3 => some .vrsq
  | 0xA4 => some .vsin
  | 0xA5 => some .vcos
  | 0xA6 => some .vtanh
  | 0xA7 => some .vsigm
  | 0xA8 => some .verf
  | 0xC0 => some .mbld
  | 0xC1 => some .mbinv
  | 0xC2 => some .mma
  | 0xC3 => some .mmas
  | 0xC4 => some .mzero
  | 0xC5 => some .mxtr
  | 0xC6 => some .mxtrz
  | 0xC7 => some .mcens
  | 0xC8 => some .mscl
  | 0xE0 => some .cpv
  | 0xE1 => some .cpvs
  | 0xE2 => if imm / 4 % 2 = 0 then some .cprrSend else some .cprrArm
  | 0xE3 => some .vrsend
  | 0xE4 => if imm % 4 = 0 then some .vrredAdd else if imm % 4 = 1 then some .vrredMin else if imm % 4 = 2 then some .vrredMax else none
  | 0xE5 => some .venq
  | 0xE6 => some .vrld
  | _ => none

/-- The unit code (R46). -/
def Vop.unit (op : Vop) : Nat := op.code / 32

/-- The vector word of 64 bits, and its vop (R42). -/
def VWord.ofBits (v : Word) : VWord :=
  { imm := v.extractLsb' 50 14, scal := v.extractLsb' 49 1, satf := v.extractLsb' 48 1, rnd := v.extractLsb' 46 2,
    k := v.extractLsb' 40 6, mod2 := v.extractLsb' 36 4, mod1 := v.extractLsb' 32 4, men := v.extractLsb' 31 1,
    msk := v.extractLsb' 28 3, vs3 := v.extractLsb' 23 5, vs2 := v.extractLsb' 18 5, vs1 := v.extractLsb' 13 5,
    vd := v.extractLsb' 8 5 }
/-- The 64 bits of a vector word with its vop (R42). -/
def VWord.bits (w : VWord) (vop : BitVec 8) : Word :=
  w.imm ++ w.scal ++ w.satf ++ w.rnd ++ w.k ++ w.mod2 ++ w.mod1 ++ w.men ++ w.msk ++ w.vs3 ++ w.vs2 ++ w.vs1 ++ w.vd ++ vop

/-- Field use by operation (R135-R147, R151, R172, R175, R220, R245). -/
def Vop.fields (op : Vop) : Fields :=
  match op with
  | .vnsrl | .vnsra => ⟨.vec, .wide, .vec, .no⟩
  | .vwadd | .vwmul | .vfwma => ⟨.wide, .vec, .vec, .no⟩
  | .vsext | .vzext => ⟨.vec, .half, .no, .no⟩
  | .vclz | .vcpop | .vnot | .vmv | .vfsqrt | .vfclass | .vfcvtFtoi | .vfcvtItof => ⟨.vec, .vec, .no, .no⟩
  | .vexp2 | .vlog2 | .vrcp | .vrsq | .vsin | .vcos | .vtanh | .vsigm | .verf => ⟨.vec, .vec, .no, .no⟩
  | .vmsEq | .vmsNe | .vmsLt | .vmsLtn | .vmsLe | .vmsLen | .vmsGt | .vmsGtn => ⟨.mask, .vec, .vec, .no⟩
  | .vmfEq | .vmfNe | .vmfLt | .vmfLe | .vmfGt | .vmfGe => ⟨.mask, .vec, .vec, .no⟩
  | .vmand | .vmor | .vmxor | .vmandn => ⟨.mask, .mask, .mask, .no⟩
  | .vmnot | .vmsbf | .vmsif | .vmsof => ⟨.mask, .mask, .no, .no⟩
  | .vmset | .vmclr => ⟨.mask, .no, .no, .no⟩
  | .viota => ⟨.vec, .mask, .no, .no⟩
  | .vid => ⟨.vec, .no, .no, .no⟩
  | .vfma | .vfms | .vfnma | .vfnms => ⟨.vec, .vec, .vec, .vec⟩
  | .vfwcvtFtof | .vfwcvtFtoi | .vfwcvtItof => ⟨.wide, .vec, .no, .no⟩
  | .vfncvtFtof | .vfncvtFtoi | .vfncvtItof => ⟨.vec, .wide, .no, .no⟩
  | .vsxpack => ⟨.vec, .pack, .no, .no⟩
  | .vsxunpk => ⟨.pack, .vec, .no, .no⟩
  | .vle | .vse | .vleff => ⟨.vec, .no, .no, .xreg⟩
  | .vlse | .vsse => ⟨.vec, .xreg, .no, .xreg⟩
  | .vlxe | .vsxe | .vlgl | .vsxadd => ⟨.vec, .no, .idx, .xreg⟩
  | .vssc => ⟨.vec, .mask, .idx, .xreg⟩
  | .vlseg | .vsseg => ⟨.seg, .no, .no, .xreg⟩
  | .vlwr | .vswr => ⟨.regs, .no, .no, .xreg⟩
  | .vlst => ⟨.vec, .lim 8, .no, .no⟩
  | .vslideup | .vslidedn => ⟨.vec, .vec, .no, .no⟩
  | .vcompress | .vexpand => ⟨.vec, .vec, .mask, .no⟩
  | .vmvsx => ⟨.vec, .no, .no, .xreg⟩
  | .vzip => ⟨.wide, .vec, .vec, .no⟩
  | .vunzip => ⟨.vec, .wide, .no, .no⟩
  | .mbld => ⟨.lim 4, .xreg, .xreg, .xreg⟩
  | .mbinv => ⟨.lim 4, .no, .no, .no⟩
  | .mma | .mmas => ⟨.lim 2, .vec, .lim 4, .xreg⟩
  | .mzero => ⟨.lim 2, .no, .no, .no⟩
  | .mxtr | .mxtrz => ⟨.vec, .lim 2, .no, .xreg⟩
  | .mcens => ⟨.eight, .no, .no, .no⟩
  | .mscl => ⟨.lim 8, .no, .no, .xreg⟩
  | .cpv | .cpvs => ⟨.regs, .no, .no, .xreg⟩
  | .cprrSend => ⟨.regs, .lim 16, .no, .xreg⟩
  | .cprrArm => ⟨.regs, .no, .no, .no⟩
  | .vrsend => ⟨.vec, .lim 4, .no, .xreg⟩
  | .vrredAdd | .vrredMin | .vrredMax => ⟨.vec, .lim 16, .no, .xreg⟩
  | .venq => ⟨.vec, .no, .no, .xreg⟩
  | .vrld => ⟨.regs, .lim 16, .no, .xreg⟩
  | _ => ⟨.vec, .vec, .vec, .no⟩

/-- vd is a source and no destination: stores and sends. -/
def Vop.vdSource : Vop → Bool
  | .vse | .vsse | .vsxe | .vssc | .vsseg | .vswr | .vsxadd | .cpvs | .cprrSend | .vrsend | .vrredAdd | .vrredMin
  | .vrredMax | .venq => true
  | _ => false
/-- The result reads the old vd (R133). -/
def Vop.accumulates : Vop → Bool
  | .vmacc | .vnmsac | .vfwma => true
  | _ => false
/-- Ops that use RND (R135, R142, R151, R172, R175). -/
def Vop.usesRnd : Vop → Bool
  | .vavg | .vnsrl | .vnsra | .vfadd | .vfsub | .vfmul | .vfdiv | .vfsqrt | .vfma | .vfms | .vfnma | .vfnms | .vfcvtFtoi
  | .vfcvtItof | .vfwcvtFtof | .vfwcvtFtoi | .vfwcvtItof | .vfncvtFtof | .vfncvtFtoi | .vfncvtItof | .vfwma | .vsxpack
  | .vsxunpk | .vsxadd | .vfredsum | .vfredosum | .mxtr | .mxtrz => true
  | _ => false
/-- Ops that use SATF. -/
def Vop.usesSatf : Vop → Bool
  | .vnsrl | .vnsra | .vfncvtFtof | .vfncvtFtoi | .vfncvtItof | .vsxunpk | .mma | .mmas | .mxtr | .mxtrz => true
  | _ => false
/-- Ops that only a convoy of one may hold (R47). -/
def Vop.standalone (op : Vop) : Bool :=
  let c := op.code
  decide (op.unit ∈ [4, 6, 7]) || (decide (0x35 ≤ c) && decide (c ≤ 0x38)) || (decide (0x59 ≤ c) && decide (c ≤ 0x5A)) ||
    (decide (0x66 ≤ c) && decide (c ≤ 0x6D))
/-- Ops that do not depend on VTYPE: exempt from check 5 (R166, R176, R220, R245). -/
def Vop.typeless : Vop → Bool
  | .vlwr | .vswr | .mbld | .mbinv | .mzero | .mcens | .mscl | .cpv | .cpvs | .cprrSend | .cprrArm | .vrld => true
  | _ => false
/-- Ops that start at VSTART = 0 only (R141, R167, R172). -/
def Vop.vstartZero (op : Vop) : Bool :=
  decide (op.unit = 4) || (match op with | .vmsbf | .vmsif | .vmsof | .viota | .vlgl | .vssc => true | _ => false)
/-- Reductions (R173). -/
def Vop.isRed (op : Vop) : Bool := decide (0x80 ≤ op.code) && decide (op.code ≤ 0x89)
/-- Mask logic (R139). -/
def Vop.maskLogic : Vop → Bool
  | .vmand | .vmor | .vmxor | .vmandn | .vmnot | .vmset | .vmclr => true
  | _ => false

/-- Second source may be the scalar X[xs]: the element-wise forms with a group at vs2 and none at [27:23] (R43, R130). -/
def Vop.scalSource (op : Vop) : Bool := decide (op.unit ≤ 2) && decide (op.fields.vs2 = .vec) && decide (op.fields.x = .no)
/-- The field [27:23] holds a scalar register under SCAL = 1. -/
def Vop.takesScal (op : Vop) : Bool := op.scalSource || (match op with | .vslideup | .vslidedn | .vmvsx => true | _ => false)

/-- Ops whose MEN must be 0 whatever the type (R139, R145, R146, R166, R172, R174, R175, R220, R245). -/
def Vop.noMask (op : Vop) : Bool :=
  op.maskLogic || decide (op.unit = 7) ||
  (match op with
   | .vsxpack | .vsxunpk | .vmvsx | .vcompress | .vexpand | .vlwr | .vswr | .mbld | .mbinv | .mma | .mmas | .mzero
   | .mcens | .mscl => true
   | _ => false)

end Sys2Proof

namespace Sys2Proof.Machine

/-- One member of a convoy: its word, operation and fields. -/
structure Member where
  word : Word
  op : Vop
  w : VWord
deriving DecidableEq, Repr

/-- Check 3 and the vop map of a 64-bit word; its unit must be the one the header gives (R46-R48). -/
def Member.ofWord (v : Word) (unit : Nat) : Option Member :=
  let w := VWord.ofBits v
  match vopOf (v.toNat % 256) w.imm.toNat with
  | none => none
  | some op => if op.unit = unit then some { word := v, op := op, w := w } else none

/-! Types (R129). -/

/-- A binary floating type of VTYPE. -/
def VT.isFl (t : VT) : Bool := decide (t.cls = .fp) || decide (t.cls = .fp8)

/-- The types a member accepts (R129). -/
def typesOk (op : Vop) (w : VWord) (t : VT) : Bool :=
  let int := t.isInt
  let any := !t.isSx
  let fp := decide (t.cls = .fp)
  let w8 := decide (8 ≤ t.w)
  if op.unit = 0 then int
  else if op.unit = 5 then fp && decide (t.w ≤ 32)
  else match op with
    | .vmsEq | .vmsNe | .vmsLt | .vmsLtn | .vmsLe | .vmsLen | .vmsGt | .vmsGtn | .viota | .vid => int
    | .vmv => any || decide (w.men = 0)
    | .vand | .vor | .vxor | .vnot | .vmerge => any
    | .vmand | .vmor | .vmxor | .vmandn | .vmnot | .vmset | .vmclr | .vmsbf | .vmsif | .vmsof => true
    | .vfadd | .vfsub | .vfmul | .vfdiv | .vfsqrt | .vfma | .vfms | .vfnma | .vfnms | .vfredsum | .vfredosum => fp
    | .vfmin | .vfmax | .vfsgnj | .vfsgnjn | .vfsgnjx | .vfclass | .vmfEq | .vmfNe | .vmfLt | .vmfLe | .vmfGt | .vmfGe
    | .vfredmax | .vfredmin | .vfcvtFtoi | .vfcvtItof => t.isFl
    | .vfwcvtFtof | .vfwcvtFtoi | .vfncvtFtof | .vfncvtItof | .vfwma => t.isFl && decide (t.w ≤ 32)
    | .vfwcvtItof | .vfncvtFtoi => int && w8 && decide (t.w ≤ 32)
    | .vsxpack | .vsxunpk => t.isSx
    | .vle | .vse | .vleff => true
    | .vlse | .vsse | .vlst | .vrsend => w8 || t.isSx
    | .vlxe | .vsxe | .vlgl | .vssc | .vlseg | .vsseg | .venq => w8
    | .vsxadd | .vrredAdd | .vrredMin | .vrredMax => decide (t.w = 32 ∨ t.w = 64) && (int || fp)
    | .vredSum | .vredMax | .vredMin | .vredAnd | .vredOr | .vredXor => int
    | .mma => (t.isSx || decide (t.w = 8) || decide (t.w = 16 ∧ t.isFl = true)) && (int || decide (w.satf = 0))
    | .mmas => (t.isSx || decide (t.w = 8 ∧ t.isFl = true) || decide (t.w = 16 ∧ t.isFl = true)) && decide (w.satf = 0)
    | .mxtr | .mxtrz =>
      (if int then w8 && decide (t.w ≤ 32) else decide (w.imm = 0)) && (!t.isSx || decide (w.satf = 0))
    | _ => op.typeless || any

/-! Groups. -/

/-- The smallest power of two not below n. -/
def pow2Up (n : Nat) : Nat := if n ≤ 1 then 1 else if n ≤ 2 then 2 else if n ≤ 4 then 4 else if n ≤ 8 then 8 else 16
/-- Width of the binary side of VSXPACK and VSXUNPK (R145). -/
def packWidth (w : VWord) : Nat := if w.imm.toNat % 4 = 0 then 32 else 16
/-- Format of that side. -/
def packFmt (w : VWord) : Fmt := if w.imm.toNat % 4 = 0 then f32 else if w.imm.toNat % 4 = 1 then bf16 else f16
/-- Width of an index (R152). -/
def idxWidth (w : VWord) : Nat := 8 * 2 ^ (w.imm.toNat % 4)
/-- Registers named by a count code (R152, R220). -/
def countCode (w : VWord) : Nat := 2 ^ (w.imm.toNat % 4)
/-- Fields of a segment form (R152). -/
def segFields (w : VWord) : Nat := w.imm.toNat % 8 + 1

/-- The registers a field's group spans; none where the group is illegal; 0 for what is no group. -/
def FU.span (f : FU) (op : Vop) (w : VWord) (t : VT) : Option Nat :=
  let cap (n : Nat) : Option Nat := if n ≤ 8 then some n else none
  match f with
  | .vec => some t.regs
  | .wide => if op = .vzip ∨ op = .vunzip ∨ t.w ∈ [4, 8, 16, 32] then cap (2 * t.regs) else none
  | .half =>
    let k := extFactor w
    if 2 ≤ k ∧ t.w % k = 0 ∧ t.w / k ∈ [4, 8, 16, 32] then some (Nat.max 1 (t.regs / k)) else none
  | .pack => if w.imm.toNat % 4 = 3 then none else cap (pow2Up ((t.vlmax * packWidth w + 2047) / 2048))
  | .idx => cap (pow2Up ((t.vlmax * idxWidth w + 2047) / 2048))
  | .seg => cap (segFields w * t.regs)
  | .regs => some (countCode w)
  | .eight => some 8
  | .no | .mask | .xreg | .lim _ => some 0

/-- A field is legal: zero where unused, below its limit, or a multiple of its group's size (R11, R32, R133). -/
def FU.ok (f : FU) (op : Vop) (w : VWord) (t : VT) (v : Nat) : Bool :=
  match f with
  | .no => decide (v = 0)
  | .xreg => true
  | .lim n => decide (v < n)
  | .mask => decide (v < 8)
  | .seg => match f.span op w t with
    | some n => decide (v % t.regs = 0) && decide (v + n ≤ 32)
    | none => false
  | _ => match f.span op w t with
    | some n => decide (v % n = 0)
    | none => false

/-- A run of vector registers, or a mask register. -/
structure RSpan where
  isMask : Bool
  first : Nat
  count : Nat
deriving DecidableEq, Repr

/-- Two runs share a register. -/
def RSpan.overlaps (a b : RSpan) : Bool :=
  decide (a.isMask = b.isMask) && decide (a.first < b.first + b.count) && decide (b.first < a.first + a.count)

/-- The registers a field names. -/
def FU.regsOf (f : FU) (op : Vop) (w : VWord) (t : VT) (v : Nat) : List RSpan :=
  match f with
  | .mask => [{ isMask := true, first := v, count := 1 }]
  | _ => match f.span op w t with
    | some (n + 1) => [{ isMask := false, first := v, count := n + 1 }]
    | _ => []

/-- A modifier that selects another element (R44, R49). -/
def modSelects (code : BitVec 4) : Bool := decide (1 ≤ code.toNat) && decide (code.toNat ≤ 9)

/-- Destinations of a member (R49). -/
def Member.dests (m : Member) (t : VT) : List RSpan :=
  let f := m.op.fields
  if m.op = .vssc then f.vs1.regsOf m.op m.w t m.w.vs1.toNat
  else if m.op.vdSource then [] else f.vd.regsOf m.op m.w t m.w.vd.toNat
/-- Sources of a member, each with whether a modifier of codes 1 to 9 applies: its vector source groups and the mask
register of MEN = 1; the mask operands of the mask instructions are none (R49, R133). -/
def Member.sources (m : Member) (t : VT) : List (RSpan × Bool) :=
  let f := m.op.fields
  let g (k : FU) (v : Reg) (md : Bool) := ((k.regsOf m.op m.w t v.toNat).filter fun r => !r.isMask).map fun r => (r, md)
  (if m.op = .vssc then [] else g f.vs1 m.w.vs1 (modSelects m.w.mod1)) ++
  (if m.w.scal = 1 then [] else g f.vs2 m.w.vs2 (modSelects m.w.mod2) ++ g f.x m.w.vs3 false) ++
  (if m.op.vdSource || m.op.accumulates then g f.vd m.w.vd false else []) ++
  (if m.w.men = 1 then [({ isMask := true, first := m.w.msk.toNat, count := 1 }, false)] else [])

/-! Check 4 of R48. -/

/-- Modifiers stand only on used vector operands of the element-wise units, and K only where a modifier uses it (R32,
R43). -/
def modsOk (op : Vop) (w : VWord) : Bool :=
  let unit := decide (op.unit ≤ 2) || decide (op.unit = 5)
  let vecLike (f : FU) : Bool := match f with | .vec | .wide | .half => true | _ => false
  let may1 := unit && vecLike op.fields.vs1
  let may2 := unit && vecLike op.fields.vs2 && decide (w.scal = 0)
  let usesK (c : BitVec 4) : Bool := decide (c.toNat ∈ [1, 2, 3, 6, 7, 8, 9])
  decide (w.mod1.toNat < 12) && decide (w.mod2.toNat < 12) && (may1 || decide (w.mod1 = 0)) && (may2 || decide (w.mod2 = 0)) &&
    (usesK w.mod1 || usesK w.mod2 || decide (w.k = 0))

/-- The immediate of a member (R47, R143, R145, R152, R172, R175, R220, R245). -/
def immOk (op : Vop) (w : VWord) : Bool :=
  let v := w.imm.toNat
  match op with
  | .vsext | .vzext => decide (v < 8)
  | .vfcvtFtoi | .vfcvtItof | .vfwcvtFtoi | .vfwcvtItof | .vfncvtFtoi | .vfncvtItof => decide (v < 8)
  | .vfwcvtFtof | .vfncvtFtof => decide (v = 0)
  | .vsxpack | .vsxunpk => decide (v < 3)
  | .vle | .vse | .vlse | .vsse | .vleff => true
  | .vlxe | .vsxe | .vlgl | .vssc | .vsxadd => decide (v < 32)
  | .vlseg | .vsseg => decide (1 ≤ v) && decide (v ≤ 7)
  | .vlwr | .vswr | .cpv | .vrld => decide (v < 4)
  | .vslideup | .vslidedn => decide (w.scal = 0) || decide (v = 0)
  | .vunzip | .vtrn => decide (v < 2)
  | .mbld => decide (v < 128) && decide (w.vd.toNat + v / 32 + 1 ≤ 4) &&
      decide (v % 32 ∈ [2, 8, 12, 15, 16, 17, 18, 19, 20])
  | .mmas => decide (v < 64)
  | .mxtr | .mxtrz => decide (v < 32)
  | .mcens => decide (v < 2)
  | .cpvs => decide (v < 128) && (decide (v / 4 % 2 = 1) || decide (v / 8 = 0))
  | .cprrSend => decide (v < 4)
  | .cprrArm => decide (v < 8)
  | .vrredAdd | .vrredMin | .vrredMax => decide (v < 3)
  | _ => decide (v = 0)

/-- Groups of one member that may not overlap (R132, R138, R145, R153, R172). -/
def overlapOk (m : Member) (t : VT) : Bool :=
  let f := m.op.fields
  let at_ (k : FU) (v : Reg) := (k.regsOf m.op m.w t v.toNat).filter fun r => !r.isMask
  let d := at_ f.vd m.w.vd
  let a := at_ f.vs1 m.w.vs1
  let b := if m.w.scal = 1 then [] else at_ f.vs2 m.w.vs2
  let clash (xs ys : List RSpan) : Bool := xs.any fun x => ys.any x.overlaps
  let special (k : FU) : Bool := match k with | .wide | .half | .pack => true | _ => false
  let dSplit := special f.vd || special f.vs1 || (decide (m.op.unit = 4) && !m.op.isRed)
  !(dSplit && (clash d a || (clash d b && (decide (m.op.unit = 4) || special f.vd)))) &&
  !(special f.vs1 && clash a b) &&
  !(decide (m.op = .vlxe ∨ m.op = .vlgl) && clash d b) &&
  (match m.op with
   | .vmsbf | .vmsif | .vmsof => decide (m.w.vd ≠ m.w.vs1) && (decide (m.w.men = 0) || decide (m.w.vd.toNat ≠ m.w.msk.toNat))
   | _ => true)

/-- Checks 4 and 5 of R48 for one member, with the types it accepts and the limits on VSTART its entry gives. -/
def Member.ok (m : Member) (t : VT) (vstart : Nat) : Bool :=
  let w := m.w
  let f := m.op.fields
  let scal := decide (w.scal = 1)
  (decide (w.men = 1) || decide (w.msk = 0)) &&
  (!m.op.noMask || decide (w.men = 0)) &&
  (decide (m.op ≠ .vmerge) || decide (w.men = 1)) &&
  (!scal || m.op.takesScal) && (decide (m.op ≠ .vmvsx) || scal) &&
  modsOk m.op w && immOk m.op w &&
  (m.op.usesRnd || decide (w.rnd = 0)) && (m.op.usesSatf || decide (w.satf = 0)) &&
  (m.op.typeless || (!t.ill && typesOk m.op w t)) &&
  f.vd.ok m.op w t w.vd.toNat && f.vs1.ok m.op w t w.vs1.toNat &&
  (if scal then decide (w.vs2 = 0) else f.vs2.ok m.op w t w.vs2.toNat && f.x.ok m.op w t w.vs3.toNat) &&
  overlapOk m t &&
  (!m.op.vstartZero || decide (vstart = 0)) &&
  (m.op.typeless || !t.isSx ||
    (decide (w.mod1 = 0) && decide (w.mod2 = 0) && (decide (m.op.unit ≠ 3) || decide (w.men = 0)) &&
      (decide (m.op = .mma ∨ m.op = .mmas) || decide (vstart % 16 = 0))))

/-! Check 6 of R48 (R49). -/

/-- A member against all and those before it: its modified sources meet no destination, and what it shares with an earlier member is
allowed by CHAIN. A member with a modified source fails for a destination of any member, an overlap that CHAIN forbids fails the
later of the two (log 68). -/
def dependOk (t : VT) (chain : Bool) (all before : List Member) (m : Member) : Bool :=
  let dests := all.flatMap fun n => n.dests t
  let may (a b : RSpan) : Bool := !a.overlaps b || (chain && decide (a = b))
  (m.sources t).all (fun e => !e.2 || dests.all fun d => !e.1.overlaps d) &&
  before.all (fun n =>
    (n.dests t).all (fun d => (m.sources t).all (fun e => may d e.1) && (m.dests t).all (may d)) &&
    (n.sources t).all fun e => (m.dests t).all fun d => may d e.1)

/-- The lowest-numbered failing member of a convoy under checks 3 to 6 (R48, R51). -/
def failing (t : VT) (vstart : Nat) (chain : Bool) (ms : List (Option Member)) : Option Nat :=
  let many := decide (2 ≤ ms.length)
  (List.range ms.length).find? fun j =>
    match ms.getD j none with
    | none => true
    | some m => !m.ok t vstart || (many && (m.op.standalone || !dependOk t chain (ms.filterMap id) ((ms.take j).filterMap id) m))

end Sys2Proof.Machine
end

