-- ==== Sys2Proof/Machine/VecElem.lean ====
section
/-! DEFINITION. One element of one member of units 0, 1, 2 and 5: operands with their modifiers, the result, flags,
padding, masks and the census (spec/02 R44, R45, R50; spec/06 R125-R131, R135-R147; spec/08 R193). -/

namespace Sys2Proof.Machine

/-- What is fixed while a convoy executes: its header and address, its members, the vector type and length at issue, and
the vector file as it stood then. -/
structure Cvy where
  hdr : BitVec 32
  pc : Word
  ms : List Member
  t : VT
  vl : Nat
  vpad : Nat
  vsub : Word
  snap : VecFile
  vstart : Nat
  /-- In a timed phase: member, element group, word of the scratchpad window, and cycles after the first (R278). -/
  sched : List (Nat × Nat × Nat × Nat)
deriving DecidableEq, Repr

/-- A convoy of one. -/
def Cvy.single (c : Cvy) : Bool := decide (c.ms.length = 1)
/-- Elements below this index are no padding. -/
def Cvy.real (c : Cvy) : Nat := c.vl - c.vpad
/-- TVAL2 of a failing member j (R51). -/
def failTval2 (hdr : BitVec 32) (j : Nat) : Word := BitVec.ofNat 64 (j * 2 ^ 32 + hdr.toNat)
/-- ILLEGAL_INSTRUCTION of member j (R51). -/
def Cvy.illegal (c : Cvy) (j : Nat) (m : Member) : Exc := .trap Cause.illegal m.word (failTval2 c.hdr j)
/-- Address of member j's word. -/
def Cvy.memberPc (c : Cvy) (j : Nat) : Word := c.pc + BitVec.ofNat 64 (4 + 8 * j)
/-- The census entry of a word's address (R193). -/
def censusEntry (pc : Word) : Nat := bits pc 9 2 ^^^ bits pc 17 10

/-- Active(i): the mask bit, or 1 with MEN = 0 (R22, R126). -/
def Member.active (m : Member) (f : VecFile) (i : Nat) : Bool :=
  decide (m.w.men = 0) || (f.mreg m.w.msk.toNat).getLsbD i
/-- Active for the test of R44: VMERGE counts every element (R139). -/
def Member.reaches (m : Member) (f : VecFile) (i : Nat) : Bool := decide (m.op = .vmerge) || m.active f i
/-- The file in which the test of R44 reads the mask: as the instruction began, where it overwrites its own mask (R140). -/
def Member.maskFile (m : Member) (c : Cvy) (f : VecFile) : VecFile :=
  if m.op.fields.vd = .mask ∧ m.w.vd.toNat = m.w.msk.toNat then c.snap else f

/-- A source element with its modifier: codes 1 to 9 read the file as it stood at issue (R44, R45, R131). -/
def Member.operand (m : Member) (c : Cvy) (f : VecFile) (e : EF) (base : Reg) (code : BitVec 4) (i : Nat) : Nat :=
  if modSelects code then
    match modIndex code.toNat m.w.k.toNat (2 ^ c.t.mgrp) i c.vl with
    | none => e.substitute c.vsub
    | some j => if m.reaches (m.maskFile c f) j then c.snap.elem base.toNat e.width j else e.substitute c.vsub
  else
    let v := f.elem base.toNat e.width i
    if 10 ≤ code.toNat then e.negAbs code.toNat v else v

/-- The rounding state of a member: RND, or FRM (R81, R83). -/
def State.rngOf (s : State) (w : VWord) : Rng :=
  { rm := Rm.ofRnd w.rnd (s.csr Csr.frm).toNat, s0 := s.me.a.s0, s1 := s.me.a.s1 }
/-- Adds census counts to the open chunk: counters 0 NaN, 1 infinite, 2 saturated, 3 underflow (R193). -/
def State.countCensus (s : State) (entry : Nat) (ks : List Nat) : State :=
  if ks.isEmpty then s else s.onChunk fun c => { c with census := c.census ++ ks.map fun k => (entry, k) }
/-- What a floating result and its flags count (R193). -/
def censusOf (v : FVal) (fl : Flags) : List Nat :=
  (if v.isNan then [0] else []) ++ (match v with | .inf _ => [1] | _ => []) ++
  (if fl &&& fSAT ≠ 0 then [2] else []) ++ (if fl &&& fUF ≠ 0 then [3] else [])
/-- VFNCVT counts in the census. -/
def countsCensus : Vop → Bool
  | .vfncvtFtof | .vfncvtFtoi | .vfncvtItof => true
  | _ => false

/-- The SFU's function (R90, R147). -/
def sfuFn : Vop → Fmt → FVal → FRes
  | .vexp2 => sfExp2
  | .vlog2 => sfLog2
  | .vrcp => sfRcp
  | .vrsq => sfRsq
  | .vsin => sfSin
  | .vcos => sfCos
  | .vtanh => sfTanh
  | .vsigm => sfSigm
  | _ => sfErf

/-- Writes element i of a destination. -/
def Member.write (m : Member) (c : Cvy) (f : VecFile) (i v : Nat) : VecFile :=
  if m.op.fields.vd = .mask then f.setMbit m.w.vd.toNat i (decide (v ≠ 0))
  else f.setElem m.w.vd.toNat (efD m.op m.w c.t).width i v

/-- Element i of a mask operand as 0 or 1. -/
def maskBit (f : VecFile) (r : Reg) (i : Nat) : Nat := if (f.mreg r.toNat).getLsbD i then 1 else 0

/-- What the computation of element i starts from. -/
def Member.input (m : Member) (c : Cvy) (s : State) (i : Nat) : EIn :=
  let f := s.vf
  let u := m.op.fields
  let w := m.w
  let a := match u.vs1 with
    | .mask => maskBit f w.vs1 i
    | .no => 0
    | _ => m.operand c f (efA m.op w c.t) w.vs1 w.mod1 i
  let b := if w.scal = 1 then (s.x w.vs3).toNat % 2 ^ c.t.ef.width
    else match u.vs2 with
      | .mask => maskBit f w.vs2 i
      | .vec => m.operand c f c.t.ef w.vs2 w.mod2 i
      | _ => 0
  let d := if u.x = .vec then f.elem w.vs3.toNat c.t.w i
    else if m.op.accumulates then f.elem w.vd.toNat (efD m.op w c.t).width i else 0
  { w := w, t := c.t, rng := s.rngOf w, i := i, mbit := (f.mreg w.msk.toNat).getLsbD i, a := a, b := b, c := d }

/-- The result of element i. -/
def Member.result (m : Member) (x : EIn) : ERes :=
  if m.op.unit = 5 then x.fres (sfuFn m.op x.t.fl x.fa) else elemResult m.op x

/-- Element i of a member of units 0, 1, 2 or 5 under a type that is not SX: its flags and the state (R125, R126, R128). -/
def Member.compute (m : Member) (c : Cvy) (j i : Nat) (s : State) : Flags × State :=
  if m.reaches s.vf i then
    let r := m.result (m.input c s i)
    let pad := decide (c.real ≤ i)
    let s := (s.keepRng r.rng).onVf fun f => m.write c f i r.v
    let s := if countsCensus m.op && !pad then
        let v := match efD m.op m.w c.t with | .fl g => g.value r.v | _ => .zero false
        s.countCensus (censusEntry (c.memberPc j)) (censusOf v r.flags)
      else s
    (if pad then 0 else r.flags, s)
  else (0, if c.t.mpol then s.onVf fun f => m.write c f i 0 else s)

/-- Sixteen mask bits, or one block of VMV, under an SX type (R139). -/
def Member.computeSx (m : Member) (c : Cvy) (i : Nat) (s : State) : State :=
  if m.op = .vmv then
    let ub := blockBits c.t.m
    s.onVf fun f => f.setElem m.w.vd.toNat ub (i / 16) (f.elem m.w.vs1.toNat ub (i / 16))
  else (List.range 16).foldl (fun s k => (s.onVf fun f => m.write c f (i + k) (m.result (m.input c s (i + k))).v)) s

/-- Tail of a destination group of elements of w bits (R126, R127). -/
def Member.finishGroup (m : Member) (c : Cvy) (regs w units : Nat) (f : VecFile) : VecFile :=
  f.endGroup m.w.vd.toNat regs w units c.t.tpol

/-- What a completed member leaves in the registers it writes (R126, R127). -/
def Member.finish (m : Member) (c : Cvy) (vl : Nat) (f : VecFile) : VecFile :=
  if m.op.vdSource then f
  else match m.op.fields.vd with
    | .mask => f.endMask m.w.vd.toNat vl c.t.tpol
    | .vec =>
      if c.t.isSx then m.finishGroup c c.t.regs (blockBits c.t.m) (vl / 16) f
      else m.finishGroup c c.t.regs c.t.w vl f
    | .wide => m.finishGroup c (2 * c.t.regs) (2 * c.t.w) vl f
    | .seg => (List.range (segFields m.w)).foldl
        (fun f k => f.endGroup (m.w.vd.toNat + k * c.t.regs) c.t.regs c.t.w vl c.t.tpol) f
    | _ => f

end Sys2Proof.Machine
end

