-- ==== Sys2Proof/Machine/VecMem.lean ====
section
/-! DEFINITION. The vector memory unit: element addresses and accesses, the done mask of on-demand paging, fault-only-first
loads, gather-linked and scatter-conditional, scatter-add and stream pops (spec/07 R151-R171; spec/22 R379-R382). -/

namespace Sys2Proof.Machine

/-! Addresses (R152-R154, R162). -/

/-- ea of a byte-offset form, or the base register alone. -/
def Member.ea (m : Member) (s : State) : Word :=
  match m.op with
  | .vle | .vse | .vleff | .vlse | .vsse => s.x m.w.vs3 + imm14 m.w.imm
  | _ => s.x m.w.vs3

/-- idx(i) (R153). -/
def Member.idx (m : Member) (f : VecFile) (i : Nat) : Word :=
  let wi := idxWidth m.w
  let v := f.elem m.w.vs2.toNat wi i
  if m.w.imm.toNat / 4 % 2 = 0 then BitVec.ofInt 64 (sgnN wi v) else BitVec.ofNat 64 v

/-- Bytes of one element of at least 8 bits, or of one SX block. -/
def VT.unitBytes (t : VT) : Nat := if t.isSx then blockBits t.m / 8 else t.w / 8

/-- The address of element i; of block i / 16 under an SX type; of field f of record i (R154). -/
def Member.addr (m : Member) (c : Cvy) (s : State) (i f : Nat) : Word :=
  let k := if c.t.isSx then i / 16 else i
  let at_ (n : Nat) := m.ea s + BitVec.ofNat 64 n
  match m.op with
  | .vlse | .vsse => m.ea s + BitVec.ofNat 64 k * s.x m.w.vs1
  | .vlxe | .vsxe | .vlgl | .vssc | .vsxadd => m.ea s + (m.idx s.vf i) * BitVec.ofNat 64 (2 ^ (m.w.imm.toNat / 8 % 4))
  | .vlseg | .vsseg => at_ ((i * segFields m.w + f) * c.t.unitBytes)
  | .vlwr | .vswr => at_ (i * 8)
  | _ => if c.t.isSx || decide (8 ≤ c.t.w) then at_ (k * c.t.unitBytes) else at_ (i * c.t.w / 8)

/-- Bytes that element i touches. -/
def Member.size (m : Member) (c : Cvy) (i : Nat) : Nat :=
  match m.op with
  | .vlwr | .vswr => 8
  | _ =>
    if c.t.isSx || decide (8 ≤ c.t.w) then c.t.unitBytes
    else if c.t.w = 4 then 1 else if i * 6 % 8 ≤ 2 then 1 else 2
/-- The alignment of an element (R155). -/
def Member.align (m : Member) (c : Cvy) : Nat :=
  match m.op with
  | .vlwr | .vswr => 8
  | _ => if c.t.isSx then 2 else if 8 ≤ c.t.w then c.t.w / 8 else 1

/-- The footprint that is compared with BYPTH, in 1/16 bytes for SX types and bytes otherwise, as a number of bytes
(R162). -/
def Member.footprint (m : Member) (c : Cvy) (s : State) : Nat :=
  let n := c.vl - c.vstart
  let bytes (k : Nat) := if c.t.isSx then k * c.t.unitBytes / 16 else k * c.t.w / 8
  match m.op with
  | .vlse | .vsse =>
    let st := (s.x m.w.vs1).toInt.natAbs
    if c.t.isSx then n * Nat.max (16 * st) c.t.unitBytes / 16 else n * Nat.max st (c.t.w / 8)
  | .vlxe | .vsxe | .vlgl | .vssc | .vsxadd => n * 64
  | .vlseg | .vsseg => bytes (n * segFields m.w)
  | .vlwr | .vswr => countCode m.w * 256
  | _ => bytes n
/-- How the access inserts into the L2 (R162, R280). -/
def Member.insert (m : Member) (c : Cvy) (s : State) : Insert :=
  if (s.csr Csr.bypth).toNat < m.footprint c s then .bypass else .vector

/-! Bank timing in a timed phase (R171, R278). -/

/-- The element group of 128 bytes in which element i is served. -/
def Member.group (m : Member) (c : Cvy) (i : Nat) : Nat :=
  match m.op with
  | .vlwr | .vswr => i / 16
  | .vlseg | .vsseg => i * segFields m.w * c.t.w / 1024
  | _ => if c.t.isSx then i / 16 * c.t.unitBytes / 128 else i * c.t.w / 1024

/-- The words of the scratchpad window that element i asks for. -/
def Member.lspWordsOf (m : Member) (c : Cvy) (s : State) (i : Nat) : List Nat :=
  let fields := match m.op with | .vlseg | .vsseg => List.range (segFields m.w) | _ => [0]
  nub (fields.flatMap fun f => match lspOffset? (m.addr c s i f) with
    | some o => (List.range (m.size c i)).map fun b => (o + b) / 8
    | none => [])

/-- The bank of a word at a window offset in words, under an LSPSWZ (R276). -/
def bankOfWord (swz : Word) (a : Nat) : Nat :=
  if bit swz 3 then (a % 16) ^^^ (a * 8 / 2 ^ (7 + bits swz 2 0) % 16) else a % 16

/-- The cycles of the words of one group from cycle `t` on, and the cycle after it: each bank serves one word a cycle. -/
def groupCycles (swz : Word) (t : Nat) : List Nat → List (Nat × Nat) → List (Nat × Nat) × Nat
  | [], done => (done, done.foldl (fun n e => Nat.max n (e.2 + 1)) t)
  | a :: as, done =>
    let k := (done.filter fun e => decide (bankOfWord swz e.1 = bankOfWord swz a)).length
    groupCycles swz t as (done ++ [(a, t + k)])

/-- The schedule of the groups of a convoy's memory members, group by group and member by member. -/
def scheduleAux (swz : Word) : Nat → List (Nat × Nat × List Nat) → List (Nat × Nat × Nat × Nat)
  | _, [] => []
  | t, (j, g, ws) :: gs =>
    let (l, t) := groupCycles swz t (nub ws) []
    l.map (fun e => (j, g, e.1, e.2)) ++ scheduleAux swz t gs

/-- The unit is VM and the operation touches memory. -/
def Vop.isMem (op : Vop) : Bool := decide (op.unit = 3) && decide (op ≠ .vlst)

/-- The schedule of a convoy: nothing outside a timed phase. -/
def Cvy.schedule (c : Cvy) (s : State) : List (Nat × Nat × Nat × Nat) :=
  if s.timed then
    let mems := c.ms.zipIdx.filter fun e => Vop.isMem e.1.op
    let step := if c.t.isSx then 16 else 1
    let limit (m : Member) := if m.op = .vlwr ∨ m.op = .vswr then countCode m.w * 32 else c.real
    let elems (m : Member) := (List.range (limit m)).filter fun i =>
      decide (c.vstart ≤ i) && decide (i % step = 0) && m.active s.vf i
    let all := mems.flatMap fun e => (elems e.1).map fun i => (e.2, e.1.group c i, e.1.lspWordsOf c s i)
    let gmax := all.foldl (fun n e => Nat.max n (e.2.1 + 1)) 0
    let groups := (List.range gmax).flatMap fun g => mems.map fun e =>
      (e.2, g, (all.filter fun a => decide (a.1 = e.2) && decide (a.2.1 = g)).flatMap fun a => a.2.2)
    scheduleAux (s.csr Csr.lspswz) 0 groups
  else []

/-- What the schedule adds for the scratchpad word `l` of an access of member j at va, whose first location is `first`. -/
def Cvy.later (c : Cvy) (j g : Nat) (va : Word) (first l : Nat) : Nat :=
  match lspOffset? va with
  | none => 0
  | some o => match c.sched.find? fun e => decide (e.1 = j) && decide (e.2.1 = g) && decide (e.2.2.1 = o / 8 + (l - first / 8)) with
    | some e => e.2.2.2
    | none => 0

/-! Accesses of an element. -/

/-- v with bits [lo + w − 1 : lo] replaced. -/
def putField (v lo w x : Nat) : Nat := v - v / 2 ^ lo % 2 ^ w * 2 ^ lo + x % 2 ^ w * 2 ^ lo

/-- Where a loaded element goes: element k of `unit` bits of the register group at `base`, from bit `sh` of the bytes read
on, `width` bits. -/
structure Dst where
  base : Nat
  unit : Nat
  k : Nat
  sh : Nat
  width : Nat

/-- Reads n bytes for element i of member j: the bytes, and whether the page is host-shared (R107, R161, R163). -/
def Member.read (m : Member) (c : Cvy) (j i : Nat) (va : Word) (n : Nat) (d : Dst) (s : State) :
    Except Exc (List Byte × Bool × State) := do
  let (a, s) ← s.check (s.who s.cur) .load (m.align c) j va n
  let op (w : Nat) : BankOp := .vec d.base d.unit d.k d.sh d.width
    ((a.locs.zipIdx.filter fun e => decide (e.1 / 8 = w)).map fun e => (e.1 % 8, e.2))
  let (bs, s) := s.readAcc a (m.insert c s) 1 (c.later j (m.group c i) va (a.locs.headD 0)) op
  return (bs, a.hshared, s)

/-- Writes the n low bytes of v for element i of member j, but for the bits of `keep`, which stay as they stand at the
memory port or in the scratchpad (R157). -/
def Member.store (m : Member) (c : Cvy) (j i : Nat) (va : Word) (n v keep : Nat) (s : State) : Except Exc (Bool × State) := do
  let (a, s) ← s.check (s.who s.cur) .store (m.align c) j va n
  return (a.hshared, s.writeAcc a va (leBytes n v) (m.insert c s) 1 (c.later j (m.group c i) va (a.locs.headD 0))
    (if keep = 0 then [] else leBytes n keep))

/-- Clears the sign and magnitude of elements from `from_` on of a block (R87, R157). -/
def clearPadding (m v from_ : Nat) : Nat := v % 2 ^ (16 + (1 + m) * Nat.min from_ 16)
/-- The bits of a block that holds `real` elements: header, signs and magnitudes (R87). -/
def blockBitsOf (m real : Nat) : Nat := 16 + (1 + m) * Nat.min real 16

/-- An element load of a type of at least 4 bits (R154, R157). -/
def Member.loadElem (m : Member) (c : Cvy) (j i : Nat) (s : State) : Except Exc (Bool × State) := do
  let put (s : State) (v : Nat) := s.onVf fun f => f.setElem m.w.vd.toNat c.t.w i v
  if !m.active s.vf i then return (false, if c.t.mpol then put s 0 else s)
  if c.real ≤ i then return (false, put s 0)
  let sh := if c.t.w < 8 then i * c.t.w % 8 else 0
  let (bs, h, s) ← m.read c j i (m.addr c s i 0) (m.size c i) ⟨m.w.vd.toNat, c.t.w, i, sh, c.t.w⟩ s
  return (h, put s (leNat bs / 2 ^ sh % 2 ^ c.t.w))

/-- An element store (R154, R157). -/
def Member.storeElem (m : Member) (c : Cvy) (j i : Nat) (s : State) : Except Exc (Bool × State) :=
  if m.active s.vf i && decide (i < c.real) then
    let v := s.vf.elem m.w.vd.toNat c.t.w i
    let n := m.size c i
    if c.t.w < 8 then
      let lo := i * c.t.w % 8
      m.store c j i (m.addr c s i 0) n (v % 2 ^ c.t.w * 2 ^ lo) (2 ^ (8 * n) - 1 - (2 ^ c.t.w - 1) * 2 ^ lo) s
    else m.store c j i (m.addr c s i 0) n v 0 s
  else .ok (false, s)

/-- A block load under an SX type (R157). -/
def Member.loadBlock (m : Member) (c : Cvy) (j i : Nat) (s : State) : Except Exc (Bool × State) := do
  let ub := blockBits c.t.m
  let put (s : State) (v : Nat) := s.onVf fun f => f.setElem m.w.vd.toNat ub (i / 16) v
  if c.real ≤ i then return (false, put s 0)
  let (bs, h, s) ← m.read c j i (m.addr c s i 0) (m.size c i) ⟨m.w.vd.toNat, ub, i / 16, 0, blockBitsOf c.t.m (c.real - i)⟩ s
  return (h, put s (clearPadding c.t.m (leNat bs) (c.real - i)))

/-- A block store under an SX type: header and real elements; padding elements write nothing (R157). -/
def Member.storeBlock (m : Member) (c : Cvy) (j i : Nat) (s : State) : Except Exc (Bool × State) :=
  if c.real ≤ i then .ok (false, s)
  else
    let v := s.vf.elem m.w.vd.toNat (blockBits c.t.m) (i / 16)
    let k := blockBitsOf c.t.m (c.real - i)
    let n := (k + 7) / 8
    m.store c j i (m.addr c s i 0) n (v % 2 ^ k) (2 ^ (8 * n) - 2 ^ k) s

/-- The fields of record i, from field f on (R156). -/
def Member.segElem (m : Member) (c : Cvy) (j i : Nat) : Nat → Nat → Bool → State → Except Exc (Bool × State)
  | 0, _, h, s => .ok (h, s)
  | n + 1, f, h, s =>
    let base := m.w.vd.toNat + f * c.t.regs
    let put (s : State) (v : Nat) := s.onVf fun x => x.setElem base c.t.w i v
    let on := m.active s.vf i
    if m.op = .vlseg then
      if !on then m.segElem c j i n (f + 1) h (if c.t.mpol then put s 0 else s)
      else if c.real ≤ i then m.segElem c j i n (f + 1) h (put s 0)
      else match m.read c j i (m.addr c s i f) (m.size c i) ⟨base, c.t.w, i, 0, c.t.w⟩ s with
        | .error e => .error e
        | .ok (bs, h', s) => m.segElem c j i n (f + 1) (h || h') (put s (leNat bs))
    else if on && decide (i < c.real) then
      match m.store c j i (m.addr c s i f) (m.size c i) (s.vf.elem base c.t.w i) 0 s with
      | .error e => .error e
      | .ok (h', s) => m.segElem c j i n (f + 1) (h || h') s
    else .ok (h, s)

/-- The stage-2 misses of a record's fields beyond the first that misses (R164, R380). -/
def Member.segMisses (m : Member) (c : Cvy) (j i : Nat) (s : State) : List PageReq :=
  (List.range (segFields m.w)).flatMap fun f =>
    match s.check14 (s.who s.cur) (if m.op.vdSource then .store else .load) (m.align c) j (m.addr c s i f) (m.size c i) with
    | .error (.pageMiss _ rs) => rs
    | _ => []

/-- Word i of a whole-register transfer (R166). -/
def Member.wordElem (m : Member) (c : Cvy) (j i : Nat) (s : State) : Except Exc (Bool × State) := do
  let n := m.w.vd.toNat + i / 32
  if m.op = .vlwr then
    let (bs, h, s) ← m.read c j i (m.addr c s i 0) 8 ⟨n, 64, i % 32, 0, 64⟩ s
    return (h, s.onVf fun f => f.setReg n (setRegBits (f.reg n) (i % 32 * 64) 64 (leNat bs)))
  else m.store c j i (m.addr c s i 0) 8 (regBits (s.vf.reg n) (i % 32 * 64) 64) 0 s

/-- VLST pops for element i, or for block i / 16 under an SX type (R170). -/
def Member.popElem (m : Member) (c : Cvy) (j i : Nat) (s : State) : Except Exc (Bool × State) :=
  let n := m.w.vs1.toNat
  let ub := if c.t.isSx then blockBits c.t.m else c.t.w
  let put (s : State) (v : Nat) := s.onVf fun f => f.setElem m.w.vd.toNat ub (if c.t.isSx then i / 16 else i) v
  if c.real ≤ i then .ok (false, if m.active s.vf i then put s 0 else if c.t.mpol then put s 0 else s)
  else
    let st := s.stream n
    match st.active with
    | none => .error (c.illegal j m)
    | some b =>
      if st.total ≤ st.taken + s.popsOf n then .error (c.illegal j m)
      else match s.popStream j n b.esize b.global fun v s =>
          .ok (if m.active s.vf i then put s (if c.t.isSx then clearPadding c.t.m v (c.real - i) else v)
               else if c.t.mpol then put s 0 else s) with
        | .error e => .error e
        | .ok s => .ok (false, s)

/-- VLST before its first element: its stream is bound inbound with elements of its size; and the open chunk ends before it
where its pops would not fit (R170, R289). -/
def Member.checkStream (m : Member) (c : Cvy) (j : Nat) (s : State) : Except Exc Unit :=
  let n := m.w.vs1.toNat
  match (s.stream n).active with
  | none => .error (c.illegal j m)
  | some b =>
    let pops := if c.t.isSx then (c.real + 15) / 16 - c.vstart / 16 else c.real - c.vstart
    if b.hart ≠ s.cur ∨ b.outbound ∨ b.esize ≠ c.t.unitBytes then .error (c.illegal j m)
    else if 0 < s.popsOf n ∧ 64 < s.popsOf n + pops then .error .endChunk
    else .ok ()

/-- Element i of a memory member: whether the page is host-shared, and the state. -/
def Member.memElem (m : Member) (c : Cvy) (j i : Nat) (s : State) : Except Exc (Bool × State) :=
  match m.op with
  | .vlst => m.popElem c j i s
  | .vlwr | .vswr => m.wordElem c j i s
  | .vlseg | .vsseg =>
    match m.segElem c j i (segFields m.w) 0 false s with
    | .error (.pageMiss t _) => .error (.pageMiss t (m.segMisses c j i s))
    | r => r
  | .vse | .vsse | .vsxe => if c.t.isSx then m.storeBlock c j i s else m.storeElem c j i s
  | _ => if c.t.isSx then m.loadBlock c j i s else m.loadElem c j i s

/-! Gather-linked and scatter-conditional (R167, R168). -/

/-- The group's registers as 64-bit words, lowest first, and back. -/
def VecFile.words (f : VecFile) (base regs : Nat) : List Word :=
  (List.range (regs * 32)).map fun k => BitVec.ofNat 64 (regBits (f.reg (base + k / 32)) (k % 32 * 64) 64)
def VecFile.setWords (f : VecFile) (base : Nat) (ws : List Word) : VecFile :=
  ws.zipIdx.foldl (fun f e =>
    let n := base + e.2 / 32
    f.setReg n (setRegBits (f.reg n) (e.2 % 32 * 64) 64 e.1.toNat)) f

/-- Adds a line to the executing hart's link set, while it holds fewer than 128 (R167). -/
def State.addLink (s : State) (line : Nat) : State :=
  s.onMe fun x => if line ∈ x.links ∨ 128 ≤ x.links.length then x else { x with links := x.links ++ [line] }

/-- The vector registers and mask registers among spans. -/
def vregsOf (l : List RSpan) : List Nat := l.flatMap fun r => if r.isMask then [] else (List.range r.count).map (r.first + ·)
def mregsOf (l : List RSpan) : List Nat := l.flatMap fun r => if r.isMask then [r.first] else []

/-- Ends the open chunk inside a convoy with these destinations and opens the next; false where the chunk waits (R161). -/
def State.cutChunk (s : State) (dests : List RSpan) : State × Bool :=
  match s.endChunk s.cur with
  | (t, true) => ((t.openChunk false).onChunk fun q => { q with vwr := nub (vregsOf dests), mwr := nub (mregsOf dests) }, true)
  | (t, false) => (t, false)

/-- The load of VLGL's element i; one on a host-shared page has a chunk of its own, in an unreplicated launch (R161, log 124). -/
def Member.linkedElem (m : Member) (c : Cvy) (i : Nat) (last : Bool) (s : State) : Except Exc State :=
  let cut (s : State) : Except Exc State := match s.cutChunk (m.dests c.t) with
    | (t, true) => .ok t
    | (t, false) => .error (.become t)
  match m.loadElem c 0 i s with
  | .error e => .error e
  | .ok (h, t) =>
    if h && s.me.group.isNone then do
      let s ← cut s
      let (_, s) ← m.loadElem c 0 i s
      let s := s.onChunk fun q => { q with close := some .core }
      if last then return s else cut s
    else .ok t

/-- VLGL's elements from i on (R167). An element in the scratchpad window traps PERMISSION before check 1 looks at its
alignment (DEDUCED: log 127). -/
def Member.gatherLinked (m : Member) (c : Cvy) : Nat → Nat → State → Except Exc State
  | 0, _, s => .ok s
  | n + 1, i, s =>
    let on := m.active s.vf i && decide (i < c.real)
    let va := m.addr c s i 0
    if on && (lspOffset? va).isSome then .error (.trap Cause.permission va 0)
    else match m.linkedElem c i (decide (n = 0)) s with
      | .error e => .error e
      | .ok s =>
        let s := if on then
            match s.locate (s.who s.cur) .load 0 2 va 1 Acc.none with
            | .ok (a, _) => if isHbm (a.locs.headD 0) then s.addLink (lineOf (a.locs.headD 0)) else s
            | .error _ => s
          else s
        m.gatherLinked c n (i + 1) s

/-- VLGL: the lead sets the links and forwards the loaded group (R167, R168). -/
def Member.vlgl (m : Member) (c : Cvy) (s : State) : Res :=
  forwarded s 0
    (fun s => do
      let s := s.onMe fun x => { x with links := [] }
      let s ← m.gatherLinked c c.vl 0 s
      let f := m.finish c c.vl s.vf
      return (f.words m.w.vd.toNat c.t.regs, s))
    (fun v s => .ok (s.onVf fun f => f.setWords m.w.vd.toNat v))

/-- The candidates of VSSC with their places: checks 1 to 6 of every active element; two that overlap leave the later one
(R168). An element in the scratchpad window traps PERMISSION before check 1 looks at its alignment (DEDUCED: log 127). -/
def Member.scCandidates (m : Member) (c : Cvy) : Nat → Nat → State → Except Exc (List (Nat × List Nat) × State)
  | 0, _, s => .ok ([], s)
  | n + 1, i, s =>
    if m.active s.vf i && decide (i < c.real) then
      let va := m.addr c s i 0
      if (lspOffset? va).isSome then .error (.trap Cause.permission va 0)
      else match s.check (s.who s.cur) .store (m.align c) 0 va (m.size c i) with
        | .error e => .error e
        | .ok (a, s) => match m.scCandidates c n (i + 1) s with
          | .error e => .error e
          | .ok (l, s) => .ok (if l.any fun e => e.2.any (· ∈ a.locs) then l else (i, a.locs) :: l, s)
    else m.scCandidates c n (i + 1) s

/-- VSSC: one action at the slice, which waits while another chunk of the cluster holds a line that it writes (R294, R306);
the lead forwards the success mask (R168). -/
def Member.vssc (m : Member) (c : Cvy) (s : State) : Res :=
  forwarded s 0
    (fun s => do
      let (cs, s) ← m.scCandidates c c.vl 0 s
      let ok := cs.filter fun e => decide (lineOf (e.2.headD 0) ∈ s.me.links)
      let bytes := ok.flatMap fun e => e.2.zip (leBytes (m.size c e.1) (s.vf.elem m.w.vd.toNat c.t.w e.1))
      let buf : FMap Byte := bytes.foldl (fun b e => mapPut b e.1 e.2) []
      if meets (linesOf (bytes.map Prod.fst)) (s.heldLines (clusterOf s.cur) (some s.cur)) then throw .stall
      let s := s.touchAll (clusterOf s.cur) (bytes.map Prod.fst) (m.insert c s)
      let s := s.commitBytes s.cur (s.hartMark s.cur) buf []
      let s := s.onMe fun x => { x with links := [] }
      let mask := ok.foldl (fun v e => v ||| ((1#4096) <<< e.1)) (0#4096)
      return ((List.range 64).map fun k => (mask >>> (64 * k)).setWidth 64, s))
    (fun v s =>
      let mask := v.zipIdx.foldl (fun (a : BitVec 4096) (e : Word × Nat) => a ||| (e.1.setWidth 4096) <<< (64 * e.2)) (0#4096)
      .ok ((s.onMe fun x => { x with links := [] }).onVf fun f => f.setMreg m.w.vs1.toNat mask))

/-! The done mask (R164, R380, R382). -/

/-- The standalone operations that park on every missing page at once (R164). -/
def Vop.pagesAtOnce : Vop → Bool
  | .vle | .vse | .vlse | .vsse | .vlxe | .vsxe | .vlseg | .vsseg | .vlwr | .vswr | .vsxadd => true
  | _ => false
/-- The done bits of this instruction. -/
def Cvy.doneBits (c : Cvy) (s : State) : BitVec 4096 := if s.me.a.doneAt = c.pc then s.me.a.doneMask else 0
/-- Keeps done bits for this instruction. -/
def Cvy.keepDone (c : Cvy) (m : BitVec 4096) (s : State) : State :=
  s.onMe fun x => { x with a := { x.a with doneMask := m, doneAt := c.pc } }
/-- Clears this instruction's done bits. -/
def Cvy.clearDone (c : Cvy) (s : State) : State :=
  if s.me.a.doneAt = c.pc then s.onMe fun x => { x with a := { x.a with doneMask := 0, doneField := 0 } } else s

end Sys2Proof.Machine
end

