-- ==== Sys2Proof/Machine/VecPermute.lean ====
section
/-! DEFINITION. Vector operations performed as a whole: mask prefixes and VIOTA, packing and unpacking of SX blocks,
permutations and reductions (spec/06 R141, R145, R146; spec/07 R172-R174; spec/04 R88, R89, R96). -/

namespace Sys2Proof.Machine

/-- FP_TRAP at element e of a standalone member, whose flags are ORed into FFLAGS (R51, R128). -/
def fpStop (s : State) (e : Nat) (fl : Flags) : Exc :=
  .trapIn ((s.onVf fun f => { f with vstart := BitVec.ofNat 64 e }).orFlags fl) Cause.fpTrap (BitVec.ofNat 64 e) 0
/-- The hart's convoy stops before element or row e for an event that waits (R395). -/
def State.stopsAt (s : State) (e : Nat) : Bool := decide (s.me.stopAt = some e)
/-- That stop: VSTART := e, and the open chunk ends (R51, R395). -/
def eventStop (s : State) (e : Nat) : Exc :=
  let t := s.onVf fun f => { f with vstart := BitVec.ofNat 64 e }
  .become (t.endChunk t.cur).1
/-- Some of the flags are enabled in FTRAPEN (R17). -/
def State.trapsOn (s : State) (fl : Flags) : Bool := decide ((fl.setWidth 64 : Word) &&& s.csr Csr.ftrapen ≠ 0)

/-! Mask prefixes and VIOTA (R141). -/

/-- f: the lowest active i below VL with ms.bit(i) = 1, or VL. -/
def Member.firstSet (m : Member) (c : Cvy) (f : VecFile) : Nat :=
  ((List.range c.vl).find? fun i => m.active f i && (f.mreg m.w.vs1.toNat).getLsbD i).getD c.vl
/-- VMSBF, VMSIF and VMSOF. -/
def Member.maskPrefix (m : Member) (c : Cvy) (f : VecFile) : VecFile :=
  let n := m.firstSet c f
  let sel (i : Nat) : Bool := match m.op with
    | .vmsbf => decide (i < n)
    | .vmsif => decide (i ≤ n)
    | _ => decide (i = n)
  m.finish c c.vl ((List.range c.vl).foldl (fun g i =>
    if m.active f i then g.setMbit m.w.vd.toNat i (sel i) else if c.t.mpol then g.setMbit m.w.vd.toNat i false else g) f)
/-- VIOTA: count of the bits below, element by element. -/
def Member.iota (m : Member) (c : Cvy) (f : VecFile) : VecFile :=
  let r := (List.range c.vl).foldl (fun (p : VecFile × Nat) i =>
    if m.active f i then
      (p.1.setElem m.w.vd.toNat c.t.w i p.2, if (f.mreg m.w.vs1.toNat).getLsbD i then p.2 + 1 else p.2)
    else (if c.t.mpol then p.1.setElem m.w.vd.toNat c.t.w i 0 else p.1, p.2)) (f, 0)
  m.finish c c.vl r.1

/-! SX packing (R145, R146, R88, R89). -/

/-- ORs the flags of the elements of block k that are no padding. -/
def Cvy.blockFlags (c : Cvy) (k : Nat) (fls : List Flags) : Flags :=
  (fls.zipIdx.filter fun e => decide (16 * k + e.2 < c.real)).foldl (fun a e => a ||| e.1) 0

/-- One block of VSXPACK or of MXTR under an SX type: sixteen values packed (R88); `live` says which positions count in
the census (R193). -/
def Member.packBlock (m : Member) (c : Cvy) (k : Nat) (xs : List FVal) (live : Nat → Bool) (s : State) : Res :=
  let r := s.rngOf m.w
  let (qs, r) := Rng.draws 16 r
  let (v, fls) := packSx c.t.m r.rm qs xs
  let fls := fls.zipIdx.map fun e => if live e.2 then e.1 else 0
  let fl := c.blockFlags k fls
  if s.stopsAt (16 * k) then .error (eventStop s (16 * k))
  else if s.trapsOn fl then .error (fpStop s (16 * k) fl)
  else
    let s := (s.keepRng r).onVf fun f => f.setElem m.w.vd.toNat (blockBits c.t.m) k v
    let count (s : State) (e : Flags × Nat) :=
      if live e.2 ∧ 16 * k + e.2 < c.real then
        s.countCensus (censusEntry (c.memberPc 0)) (if v % 256 = 255 then [0] else censusOf (.zero false) e.1)
      else s
    .ok ((fls.zipIdx.foldl count s).orFlags fl)

/-- VSXPACK from block k on (R145); padding reads +0 (R125). -/
def Member.sxpack (m : Member) (c : Cvy) : Nat → Nat → State → Res
  | 0, _, s => .ok s
  | n + 1, k, s =>
    let g := packFmt m.w
    let xs := (List.range 16).map fun e =>
      if c.real ≤ 16 * k + e then FVal.zero false else g.value (s.vf.elem m.w.vs1.toNat (packWidth m.w) (16 * k + e))
    match m.packBlock c k xs (fun _ => true) s with
    | .error e => .error e
    | .ok s => m.sxpack c n (k + 1) s

/-- The values of block k of VSXUNPK, each rounded once in element order: bits and flags (R89, R146). -/
def unpackVals (g : Fmt) (satf : Bool) : List FVal → Rng → List FRes × Rng
  | [], r => ([], r)
  | x :: xs, r =>
    let (q, r) := r.draw
    let (l, r') := unpackVals g satf xs r
    (g.ofV r.rm q satf x :: l, r')

/-- VSXUNPK from block k on (R146). -/
def Member.sxunpk (m : Member) (c : Cvy) : Nat → Nat → State → Res
  | 0, _, s => .ok s
  | n + 1, k, s =>
    let b := SxBlock.ofBits c.t.m (s.vf.elem m.w.vs1.toNat (blockBits c.t.m) k)
    let xs := (List.range 16).map fun e => b.value c.t.m e (decide (c.real ≤ 16 * k + e))
    let (rs, r) := unpackVals (packFmt m.w) (decide (m.w.satf = 1)) xs (s.rngOf m.w)
    let fl := c.blockFlags k (rs.map Prod.snd)
    if s.stopsAt (16 * k) then .error (eventStop s (16 * k))
    else if s.trapsOn fl then .error (fpStop s (16 * k) fl)
    else m.sxunpk c n (k + 1)
      (((s.keepRng r).onVf fun f => f.setElems m.w.vd.toNat (packWidth m.w) (16 * k) (rs.map Prod.fst)).orFlags fl)

/-! Permutations (R172, R174). -/

/-- Writes positions 0 to n − 1 of a group from a function; inactive ones follow MPOL (R126). -/
def Member.permute (m : Member) (c : Cvy) (f : VecFile) (n : Nat) (active : Nat → Bool) (val : Nat → Nat) : VecFile :=
  (List.range n).foldl (fun g i =>
    if active i then g.setElem m.w.vd.toNat c.t.w i (val i)
    else if c.t.mpol then g.setElem m.w.vd.toNat c.t.w i 0 else g) f

/-- The permutations other than VMVSX (R172, R174). -/
def Member.lanes (m : Member) (c : Cvy) (s : State) (f : VecFile) : VecFile :=
  let w := c.t.w
  let a (i : Nat) := f.elem m.w.vs1.toNat w i
  let b (i : Nat) := f.elem m.w.vs2.toNat w i
  let sub := c.t.substitute c.vsub
  let k := if m.w.scal = 1 then (s.x m.w.vs3).toNat else m.w.imm.toNat
  let p := m.w.imm.toNat % 2
  let ms (i : Nat) := decide (i < c.real) && (f.mreg m.w.vs2.toNat).getLsbD i
  let set := (List.range c.vl).filter ms
  let done (n : Nat) (active : Nat → Bool) (val : Nat → Nat) := m.finish c c.vl (m.permute c f n active val)
  match m.op with
  | .vslideup => done c.vl (m.active f) fun i => if k ≤ i then a (i - k) else sub
  | .vslidedn => done c.vl (m.active f) fun i => if i + k < c.vl then a (i + k) else sub
  | .vperm => done c.vl (m.active f) fun i => if b i < c.vl then a (b i) else sub
  | .vcompress => done c.vl (fun i => decide (i < set.length)) fun i => a (set.getD i 0)
  | .vexpand => done c.vl ms fun i => a (set.idxOf i)
  | .vunzip => done c.vl (m.active f) fun i => a (2 * i + p)
  | .vtrn => done c.vl (m.active f) fun i =>
      if i % 2 = 1 then b (i - 1 + p) else if i + 1 < c.vl then a (i + p) else sub
  | _ =>
    (m.permute c f (2 * c.vl) (m.active f) fun i => if i % 2 = 0 then a (i / 2) else b (i / 2)).endGroup
      m.w.vd.toNat (2 * c.t.regs) w (2 * c.vl) c.t.tpol

/-- Writes the one element of VMVSX or of a reduction; positions 1 and up are tail (R172, R173). -/
def Member.putFirst (m : Member) (c : Cvy) (f : VecFile) (v : Nat) : VecFile :=
  (f.setElem m.w.vd.toNat c.t.w 0 v).endGroup m.w.vd.toNat c.t.regs c.t.w 1 c.t.tpol

/-! Reductions (R96, R173). -/

/-- An element that enters a reduction: its bits and whether it is padding, which enters as zero. -/
def Member.redElem (m : Member) (c : Cvy) (f : VecFile) (i : Nat) : Option (Nat × Bool) :=
  if m.active f i then
    some (if c.real ≤ i then (0, true) else (f.elem m.w.vs1.toNat c.t.w i, false))
  else none

/-- One addition of a floating reduction: bits, flags but for those of a padding element's addition, rounding state. -/
def redAdd (g : Fmt) (a b : Nat × Bool) (r : Rng) : Nat × Flags × Rng :=
  let (q, r') := r.draw
  let (v, fl) := g.addV r.rm q (g.value a.1) (g.value b.1)
  (v, if a.2 || b.2 then 0 else fl, r')

/-- One level of the pairwise tree (R96). -/
def redLevel (g : Fmt) : List (Nat × Bool) → Flags → Rng → List (Nat × Bool) × Flags × Rng
  | a :: b :: l, fl, r =>
    let (v, f1, r) := redAdd g a b r
    let (l, fl, r) := redLevel g l (fl ||| f1) r
    ((v, false) :: l, fl, r)
  | l, fl, r => (l, fl, r)
/-- The tree, level by level. -/
def redTree (g : Fmt) : Nat → List (Nat × Bool) → Flags → Rng → (Nat × Bool) × Flags × Rng
  | 0, l, fl, r => (l.headD (0, false), fl, r)
  | n + 1, l, fl, r =>
    match l with
    | _ :: _ :: _ => let (l, fl, r) := redLevel g l fl r; redTree g n l fl r
    | _ => (l.headD (0, false), fl, r)

/-- The smallest power of two not below n, and at least 1. -/
def pow2Ceil (n : Nat) : Nat := if n ≤ 1 then 1 else 2 ^ (Nat.log2 (n - 1) + 1)

/-- The combination of an integer reduction (R173). -/
def redInt (op : Vop) (t : VT) (a b : Nat) : Nat :=
  match op with
  | .vredSum => (a + b) % 2 ^ t.w
  | .vredMax => if numN t.isSigned t.w a < numN t.isSigned t.w b then b else a
  | .vredMin => if numN t.isSigned t.w b < numN t.isSigned t.w a then b else a
  | .vredAnd => a &&& b
  | .vredOr => a ||| b
  | _ => a ^^^ b

/-- A reduction's result, flags and rounding state (R96, R173). -/
def Member.reduce (m : Member) (c : Cvy) (f : VecFile) (r : Rng) : Nat × Flags × Rng :=
  let g := c.t.fl
  let init := f.elem m.w.vs2.toNat c.t.w 0
  let els := (List.range c.vl).map (m.redElem c f)
  let live := els.filterMap id
  match m.op with
  | .vfredsum =>
    let neg0 := (g.signed true 0, false)
    let n := pow2Ceil c.vl
    let leaves := els.map (·.getD neg0) ++ List.replicate (n - c.vl) neg0
    let (t, fl, r) := redTree g (Nat.log2 n + 1) leaves 0 r
    let (v, f1, r) := redAdd g (init, false) (t.1, false) r
    (v, fl ||| f1, r)
  | .vfredosum =>
    live.foldl (fun p e => let (v, f1, r) := redAdd g (p.1, false) e p.2.2; (v, p.2.1 ||| f1, r)) (init, 0, r)
  | .vfredmax | .vfredmin =>
    live.foldl (fun p e =>
      let (v, f1) := g.minmax (decide (m.op = .vfredmax)) p.1 e.1
      (v, p.2.1 ||| (if e.2 then 0 else f1), p.2.2)) (init, 0, r)
  | _ => (live.foldl (fun a e => redInt m.op c.t a e.1) init, 0, r)

/-! All of them. -/

/-- The whole-vector operations of this file. -/
def Member.whole (m : Member) (c : Cvy) (s : State) : Res :=
  match m.op with
  | .vmsbf | .vmsif | .vmsof => .ok (s.onVf (m.maskPrefix c))
  | .viota => .ok (s.onVf (m.iota c))
  | .vsxpack => match m.sxpack c (c.vl / 16 - c.vstart / 16) (c.vstart / 16) s with
    | .error e => .error e
    | .ok s => .ok (s.onVf (m.finish c c.vl))
  | .vsxunpk => match m.sxunpk c (c.vl / 16 - c.vstart / 16) (c.vstart / 16) s with
    | .error e => .error e
    | .ok s => .ok (s.onVf fun f => f.endGroup m.w.vd.toNat ((FU.pack.span m.op m.w c.t).getD 0) (packWidth m.w) c.vl c.t.tpol)
  | .vmvsx => .ok (s.onVf fun f => m.putFirst c f ((s.x m.w.vs3).toNat % 2 ^ c.t.w))
  | _ =>
    if m.op.isRed then
      let (v, fl, r) := m.reduce c s.vf (s.rngOf m.w)
      if s.trapsOn fl then .error (fpStop s 0 fl)
      else .ok (((s.keepRng r).onVf fun f => m.putFirst c f v).orFlags fl)
    else .ok (s.onVf (m.lanes c s))

end Sys2Proof.Machine
end

