-- ==== Sys2Proof/Machine/Matrix.lean ====
section
/-! DEFINITION. The matrix unit: B tiles and their records, MMA and MMAS with their arithmetic, extraction, scale registers
and the census (spec/08 R175-R195; spec/04 R91-R95). -/

namespace Sys2Proof.Machine

/-! B tiles (R177, R178). -/

/-- The type a code names, as a vector type of one register (R36). -/
def typeOfCode (code : Nat) : VT :=
  let (f, wc) := (typeCode? code).getD (0, 0)
  { ill := false, mgrp := 0, mpol := false, tpol := false, regs := 1, fmt := f, wcode := wc, gran := 0 }
/-- Bytes of a column of k rows. -/
def VT.colBytes (t : VT) (k : Nat) : Nat := if t.isSx then k / 16 * (blockBits t.m / 8) else k * (t.w / 8)
/-- A record's bits (R178). -/
def mkRec (base st : Word) (k n code first count rlt : Nat) : BitVec 256 :=
  BitVec.ofNat 256 (base.toNat + st.toNat * 2 ^ 64 + k * 2 ^ 128 + n * 2 ^ 160 + code * 2 ^ 169 + first * 2 ^ 174 +
    count * 2 ^ 176 + rlt * 2 ^ 178 + 2 ^ 182)
/-- Fields of a record by name. -/
def recBase (r : BitVec 256) : Word := r.extractLsb' 0 64
def recStride (r : BitVec 256) : Word := r.extractLsb' 64 64
def recK (r : BitVec 256) : Nat := recBits r 138 128
def recN (r : BitVec 256) : Nat := recBits r 168 160
def recType (r : BitVec 256) : Nat := recBits r 173 169
def recFirst (r : BitVec 256) : Nat := recBits r 175 174
def recCount (r : BitVec 256) : Nat := recBits r 177 176

/-- The limits of R177. -/
def tileOk (t : VT) (shape base st : Word) (banks : Nat) : Bool :=
  let k := bits shape 10 0
  let n := bits shape 24 16
  let colb := t.colBytes k
  let unit := if t.isSx then 2 else t.w / 8
  decide (shape.toNat = k + n * 65536) && decide (16 ≤ k) && decide (k ≤ 1024) && decide (k % 16 = 0) &&
  decide (1 ≤ n) && decide (n ≤ 384) && (decide (n = 1) || (decide (colb ≤ st.toNat) && decide (st.toNat % unit = 0))) &&
  decide (base.toNat % unit = 0) && decide (n * colb ≤ banks * 131072)

/-- Checks 1 to 6 of n bytes from va, as loads in ascending order: a lower byte's stall comes before a higher byte's fault. Runs of
2,048 bytes lie in one page, and inside or outside a scratchpad segment (R107, R179). -/
def State.runLocs (s : State) : Nat → Word → Nat → Acc → Except Exc (Acc × State)
  | 0, _, _, acc => .ok (acc, s)
  | fuel + 1, va, n, acc =>
    if n = 0 then .ok (acc, s)
    else
      let len := Nat.min n (2048 - va.toNat % 2048)
      match s.check14 (s.who s.cur) .load 1 0 va len with
      | .error e => .error e
      | .ok (a, s) => match s.checkLocks (s.who s.cur) .load 0 va len with
        | .error e => .error e
        | .ok () => s.runLocs fuel (va + BitVec.ofNat 64 len) (n - len) { acc with locs := acc.locs ++ a.locs, efs := a.efs ++ acc.efs }

/-- The same for the columns from c on: the locations of each (R179). -/
def State.tileLocs (s : State) (base st : Word) (colb : Nat) : Nat → Nat → List Acc → Except Exc (List Acc × State)
  | 0, _, acc => .ok (acc, s)
  | n + 1, c, acc =>
    match s.runLocs (colb / 2048 + 2) (base + BitVec.ofNat 64 c * st) colb Acc.none with
    | .error e => .error e
    | .ok (a, s) => s.tileLocs base st colb n (c + 1) (acc ++ [a])

/-- Check 7 on the bytes of the columns from c on; TVAL is the failing byte's address (R180, R183). -/
def State.tileData (s : State) (base st : Word) : Nat → List Acc → Except Exc Unit
  | _, [] => .ok ()
  | c, a :: as => match s.checkData 0 (base + BitVec.ofNat 64 c * st) a.locs with
    | .error e => .error e
    | .ok () => s.tileData base st (c + 1) as

/-- Sets LOADED in every record of the tile that starts at bank f. -/
def Core.setLoaded (k : Core) (f : Nat) : Core :=
  (List.range (recCount (k.bRec f) + 1)).foldl
    (fun k i => { k with brec := mapSet 0 k.brec (f + i) (k.bRec (f + i) ||| (1#256) <<< 183) }) k

/-- Fills a tile's banks from bytes in column order and sets LOADED (R177, R179). -/
def Core.fillTile (k : Core) (f : Nat) (bs : List Byte) : Core :=
  ({ k with cim := bs.zipIdx.foldl (fun (m : FMap Byte) (e : Byte × Nat) => mapSet 0 m (f * 131072 + e.2) e.1) k.cim,
            loads := mapErase k.loads f }).setLoaded f

/-- The scratchpad words of a hart's engine access on which it meets timed accesses (R277). -/
def State.timedWords (s : State) (locs : List Nat) : List Nat :=
  if locs.any fun l => isLsp l && s.timedAt l then lspWords locs else []

/-- An engine access of hart h through port 2 comes too late in this cycle (R278). -/
def State.engineLate (s : State) (h : Nat) (locs : List Nat) : Bool :=
  s.portLate 2 (s.hart h).ctx ((s.hart h).csr Csr.lspswz) (s.timedWords locs)

/-- An engine read on a hart's behalf, as the hart's cluster sees the bytes (R302), through port 2 (R277, R278). -/
def State.engineRead (s : State) (h : Nat) (seen efs locs : List Nat) : List Byte × State :=
  let s := s.touchNew (clusterOf h) seen locs .scalar efs
  let x := s.hart h
  let (lost, s) := s.portRequests 2 x.ctx (x.csr Csr.lspswz) (bit (x.csr Csr.phase) 1) (s.timedWords locs)
  ((movedLocs lost locs).map (s.clusterByte (clusterOf h) (s.hartMark h)), s)

/-- MBLD (R179). -/
def Member.mbld (m : Member) (c : Cvy) (s : State) : Res := do
  let w := m.w
  let f := w.vd.toNat
  let n := w.imm.toNat / 32 % 4 + 1
  let code := w.imm.toNat % 32
  let t := typeOfCode code
  let shape := s.x w.vs1; let st := s.x w.vs2; let base := s.x w.vs3
  if !tileOk t shape base st n then throw (c.illegal 0 m)
  let k := bits shape 10 0
  let cols := bits shape 24 16
  let colb := t.colBytes k
  let (as, s) ← s.tileLocs base st colb cols 0 []
  let s := s.onMyCore fun q => (List.range n).foldl (fun q i => q.dropTile (f + i)) q
  let hi := base.toNat + (cols - 1) * st.toNat + colb
  match s.myCore.freeRlt with
  | none => .error (.become (s.setStatus .stalled))
  | some e =>
    return s.onMyCore fun q =>
      { q with rlt := mapPut q.rlt e { lo := base.toNat, hi := hi, source := true, ctx := s.me.ctx },
               brec := (List.range n).foldl
                 (fun r i => mapSet 0 r (f + i) (mkRec base st k cols code f (n - 1) e)) q.brec,
               loads := mapPut q.loads f { hart := s.cur, locs := as.flatMap (·.locs), efs := as.flatMap (·.efs), failed := none } }

/-! Arithmetic (R91-R95). -/

/-- What the products of one accumulator element add up to: terms (P, X), a NaN, an invalid product, infinities by
sign. -/
structure Terms where
  ts : List (Int × Int)
  nan : Bool
  inv : Bool
  pinf : Bool
  ninf : Bool
deriving DecidableEq, Repr

/-- No products. -/
def Terms.none : Terms := { ts := [], nan := false, inv := false, pinf := false, ninf := false }

/-- The term of a block pair (R91). -/
def blockTerm (m : Nat) (x : Terms) (a b : SxBlock) : Terms :=
  if a.e = 255 ∨ b.e = 255 then { x with nan := true }
  else if a.e = 0 ∨ b.e = 0 then x
  else
    let p := (List.range 16).foldl (fun (p : Int) i =>
      let v : Int := ((a.mag.getD i 0 * 2 ^ a.muOf i) * (b.mag.getD i 0 * 2 ^ b.muOf i) : Nat)
      if a.sgn.getD i false != b.sgn.getD i false then p - v else p + v) 0
    { x with ts := (p, ((a.e : Int) - 127 - m) + ((b.e : Int) - 127 - m)) :: x.ts }

/-- The term of a floating product (R91). -/
def floatTerm (x : Terms) (a b : FVal) : Terms :=
  match a, b with
  | .nan s, _ => { x with nan := true, inv := x.inv || s || b.snan }
  | _, .nan s => { x with nan := true, inv := x.inv || s }
  | .inf _, .zero _ => { x with nan := true, inv := true }
  | .zero _, .inf _ => { x with nan := true, inv := true }
  | .zero _, _ => x
  | _, .zero _ => x
  | .inf s, _ => if s != b.sign then { x with ninf := true } else { x with pinf := true }
  | _, .inf s => if a.sign != s then { x with ninf := true } else { x with pinf := true }
  | .fin s m e, .fin t n d =>
    let p : Int := (m * n : Nat)
    { x with ts := (if s != t then -p else p, e + d) :: x.ts }

/-- The block partial sum S × 2^(Xmax − F), truncating toward zero what lies below (R92). -/
def partialSum (f : Nat) (ts : List (Int × Int)) : FVal :=
  match ts with
  | [] => .zero false
  | t :: _ =>
    let xmax := ts.foldl (fun m e => max m e.2) t.2
    let sum := ts.foldl (fun (a : Int) e =>
      let k := e.2 - xmax + f
      a + (if 0 ≤ k then e.1 * 2 ^ k.toNat else e.1.tdiv (2 ^ (-k).toNat))) 0
    if sum = 0 then .zero false else .fin (decide (sum < 0)) sum.natAbs (xmax - f)

/-- What an accumulator element's update counts in the census (R193). -/
structure AccRes where
  v : Nat
  flags : Flags
  counts : List Nat
deriving DecidableEq, Repr

/-- The fused update acc + W × s (R94): results below 2^−126 are flushed. -/
def fusedUpdate (acc : Nat) (x : Terms) (frac : Nat) (sc : Nat) : AccRes :=
  let both := x.pinf && x.ninf
  let a := f32.value acc
  let s := f32.value sc
  if x.nan || both then
    { v := f32.nan, flags := if x.inv || both || a.snan || s.snan then fNV else 0, counts := [0] }
  else
    let w := if x.pinf then FVal.inf false else if x.ninf then .inf true else partialSum frac x.ts
    let (v, fl) := f32.fmaV .rne 0 w s a
    if v / 2 ^ 23 % 256 = 0 ∧ (v % 2 ^ 23 ≠ 0 ∨ fl &&& fUF ≠ 0) then
      { v := v / 2 ^ 31 * 2 ^ 31, flags := fNX ||| fUF, counts := [3] }
    else { v := v, flags := fl, counts := match f32.value v with | .nan _ => [0] | .inf _ => [1] | _ => [] }

/-- The integer update (R95). -/
def intUpdate (acc : Nat) (sum : Int) (satf : Bool) : AccRes :=
  let v := sgnN 32 acc + sum
  if satf then
    let (r, fl) := satInt true 32 v
    { v := wrapN 32 r, flags := fl, counts := if fl = 0 then [] else [2] }
  else { v := wrapN 32 v, flags := 0, counts := [] }

/-- F of R92. -/
def fracWidth (t : VT) : Nat := if t.isSx then 45 else if t.fl = f16 then 39 else 45

/-- Pairs of Table: Operand pairings (R184): A by VTYPE, B by the record's code. -/
def pairs (t : VT) (code : Nat) : Bool :=
  let b := typeOfCode code
  match t.cls with
  | .sx => decide (b.fmt = t.fmt)
  | .fp8 => decide (b.cls = .fp8)
  | .int => decide (b.cls = .int ∧ b.w = 8)
  | .fp => decide (b.fmt = t.fmt ∧ b.wcode = t.wcode)

/-- n bytes of a tile from offset `off` of its first bank. -/
def Core.cimNat (k : Core) (f off n : Nat) : Nat :=
  leNat ((List.range n).map fun i => mapGet 0 k.cim (f * 131072 + off + i))

/-- One accumulator element of row r and column col: A's elements from the group, B's from the banks (R185). -/
def Member.accElem (m : Member) (c : Cvy) (k : Core) (tile : BitVec 256) (sc r col : Nat) : AccRes :=
  let t := c.t
  let b := typeOfCode (recType tile)
  let kk := recK tile
  let f := recFirst tile
  let row := mapGet 0 k.vf.acc (16 * m.w.vd.toNat + r)
  let acc := row.toNat / 2 ^ (32 * col) % 2 ^ 32
  let colOff := col * b.colBytes kk
  let base := m.w.vs1.toNat
  let satf := decide (m.w.satf = 1)
  if t.isSx then
    let ub := blockBits t.m
    let x := (List.range (kk / 16)).foldl (fun x j =>
      let i := r * kk / 16 + j
      let av := k.vf.elem base ub i
      let av := if c.real < 16 * i + 16 then clearPadding t.m av (c.real - 16 * i) else av
      blockTerm t.m x (SxBlock.ofBits t.m av) (SxBlock.ofBits t.m (k.cimNat f (colOff + j * (ub / 8)) (ub / 8)))) Terms.none
    fusedUpdate acc x (fracWidth t) sc
  else
    let bb := b.w / 8
    let pair (j : Nat) : Nat × Nat :=
      (if c.real ≤ r * kk + j then 0 else k.vf.elem base t.w (r * kk + j), k.cimNat f (colOff + j * bb) bb)
    if t.isInt then
      intUpdate acc ((List.range kk).foldl (fun (a : Int) j =>
        let (x, y) := pair j
        a + numN t.isSigned 8 x * numN b.isSigned 8 y) 0) satf
    else
      fusedUpdate acc ((List.range kk).foldl (fun x j =>
        let (u, v) := pair j
        floatTerm x (t.fl.value u) (b.fl.value v)) Terms.none) (fracWidth t) sc

/-- Row r of an instruction, not yet written: the new row, its flags and counts (R185, R187). -/
def Member.accRow (m : Member) (c : Cvy) (k : Core) (tile : BitVec 256) (sc r : Nat) : BitVec 12288 × Flags × List Nat :=
  let row := mapGet 0 k.vf.acc (16 * m.w.vd.toNat + r)
  (List.range (recN tile)).foldl (fun p col =>
    let e := m.accElem c k tile sc r col
    let keep := p.1 &&& ~~~(BitVec.ofNat 12288 ((2 ^ 32 - 1) * 2 ^ (32 * col)))
    (keep ||| BitVec.ofNat 12288 (e.v * 2 ^ (32 * col)), p.2.1 ||| e.flags, p.2.2 ++ e.counts)) (row, 0, [])

/-- The scale of MMA, 1.0, or the scale product of MMAS with its flags (R93). -/
def Member.scale (m : Member) (f : VecFile) : FRes :=
  if m.op = .mmas then
    let sc (n : Nat) := f32.value (mapGet 0 f.sc n).toNat
    f32.mulVR .rne 0 (sc (m.w.imm.toNat % 8)) (sc (m.w.imm.toNat / 8 % 8))
  else (0x3F800000, 0)

/-- Rows from r on. The scale product's flags count with the first row; a row that raises an enabled flag, or before which
the gang stops, ends the instruction (R187, R188). -/
def Member.rows (m : Member) (c : Cvy) (tile : BitVec 256) (sc : Nat) : Nat → Nat → Flags → State → Res
  | 0, _, _, s => .ok s
  | n + 1, r, extra, s =>
    let (row, fl, counts) := m.accRow c s.myCore tile sc r
    let fl := fl ||| extra
    let at_ (s : State) := s.onVf fun f => { f with vstart := BitVec.ofNat 64 r }
    if s.stopsAt r then .error (eventStop s r)
    else if s.trapsOn fl then .error (.trapIn ((at_ s).orFlags fl) Cause.fpTrap (BitVec.ofNat 64 r) 0)
    else if s.me.rowStop = some r then .error (.trapIn (at_ s) Cause.fpTrap (BitVec.ofNat 64 r) 1)
    else
      let s := s.onVf fun f => { f with acc := mapSet 0 f.acc (16 * m.w.vd.toNat + r) row }
      m.rows c tile sc n (r + 1) 0 ((s.countCensus (censusEntry (c.memberPc 0)) counts).orFlags fl)

/-- The run-time limits of R185, and the record of the tile. -/
def Member.mmaRec (m : Member) (c : Cvy) (s : State) : Except Exc (BitVec 256) :=
  let b := m.w.vs2.toNat
  let tile := s.myCore.bRec b
  let rows := (s.x m.w.vs3).toNat
  if 16 < rows ∨ recValid tile = false ∨ recFirst tile ≠ b ∨ pairs c.t (recType tile) = false ∨ c.vl < rows * recK tile then
    .error (c.illegal 0 m)
  else .ok tile

/-- The tile in its banks: waits for the MBLD load, or reloads after a swap (R179, R180, R183). -/
def tileReady (tile : BitVec 256) (s : State) : Res :=
  let f := recFirst tile
  if recLoaded tile then .ok s
  else match mapFind? s.myCore.loads f with
    | some l => match l.failed with
      | some a => .error (.trapIn (s.onMyCore fun k => { k with loads := mapErase k.loads f }) Cause.dataError a 0)
      | none => .error .stall
    | none =>
      let t := typeOfCode (recType tile)
      match s.tileLocs (recBase tile) (recStride tile) (t.colBytes (recK tile)) (recN tile) 0 [] with
      | .error e => .error e
      | .ok (as, s) => match s.tileData (recBase tile) (recStride tile) 0 as with
        | .error e => .error e
        | .ok () =>
          let locs := as.flatMap (·.locs)
          if s.engineLate s.cur locs then .error .stall
          else
            let (bs, s) := s.engineRead s.cur [] (as.flatMap (·.efs)) locs
            .ok (s.onMyCore fun k => k.fillTile f bs)

/-- MMA and MMAS (R185). -/
def Member.mma (m : Member) (c : Cvy) (s : State) : Res := do
  let tile ← m.mmaRec c s
  let s ← tileReady tile s
  let (sc, fl) := m.scale s.vf
  m.rows c tile sc ((s.x m.w.vs3).toNat - c.vstart) c.vstart fl s

/-- The first row from VSTART on before which a member would trap (R188). -/
def Member.firstTrap (m : Member) (c : Cvy) (tile : BitVec 256) (s : State) : Option Nat :=
  let (sc, fl) := m.scale s.vf
  ((List.range ((s.x m.w.vs3).toNat - c.vstart)).map (c.vstart + ·)).find? fun r =>
    let (_, f, _) := m.accRow c s.myCore tile sc r
    s.trapsOn (if r = c.vstart then f ||| fl else f)

/-! Extraction (R191, R192). -/

/-- An accumulator element. -/
def VecFile.accAt (f : VecFile) (a r col : Nat) : Nat := (mapGet 0 f.acc (16 * a + r)).toNat / 2 ^ (32 * col) % 2 ^ 32
/-- Zeroes an accumulator element. -/
def VecFile.accZero (f : VecFile) (a r col : Nat) : VecFile :=
  let row := mapGet 0 f.acc (16 * a + r) &&& ~~~(BitVec.ofNat 12288 ((2 ^ 32 - 1) * 2 ^ (32 * col)))
  { f with acc := mapSet 0 f.acc (16 * a + r) row }

/-- One extracted element: INT rounds x / 2^shift, a floating type converts (R191). -/
def Member.extract (m : Member) (c : Cvy) (x : Nat) (r : Rng) : FRes × Rng :=
  let (q, r') := r.draw
  let satf := decide (m.w.satf = 1)
  if c.t.isInt then
    let v := roundInt r.rm q (sgnN 32 x) (m.w.imm.toNat % 32)
    let (v, fl) := if satf then satInt c.t.isSigned c.t.w v else (v, 0)
    ((wrapN c.t.w v, fl), r')
  else (c.t.fl.ofV r.rm q satf (f32.value x), r')

/-- MXTR and MXTRZ from element i on, element by element or block by block (R191, R192). -/
def Member.extractFrom (m : Member) (c : Cvy) (row c0 : Nat) : Nat → Nat → State → Res
  | 0, _, s => .ok s
  | n + 1, i, s =>
    let a := m.w.vs1.toNat
    let zero (s : State) (len : Nat) : State :=
      if m.op = .mxtrz then
        s.onVf fun f => (List.range len).foldl (fun f k => f.accZero a row (c0 + i + k)) f
      else s
    if c.t.isSx then
      let xs := (List.range 16).map fun e =>
        if c.real ≤ i + e ∨ m.active s.vf (i + e) = false then FVal.zero false else f32.value (s.vf.accAt a row (c0 + i + e))
      match m.packBlock c (i / 16) xs (fun e => m.active s.vf (i + e)) s with
      | .error e => .error e
      | .ok s => m.extractFrom c row c0 n (i + 16) (zero s 16)
    else if s.stopsAt i then .error (eventStop s i)
    else if m.active s.vf i then
      let ((v, fl), r) := m.extract c (s.vf.accAt a row (c0 + i)) (s.rngOf m.w)
      let pad := decide (c.real ≤ i)
      let fl := if pad then 0 else fl
      if s.trapsOn fl then .error (fpStop s i fl)
      else
        let s := ((s.keepRng r).onVf fun f => f.setElem m.w.vd.toNat c.t.w i v).orFlags fl
        let val := if c.t.isInt then FVal.zero false else c.t.fl.value v
        let s := if pad then s else s.countCensus (censusEntry (c.memberPc 0)) (censusOf val fl)
        m.extractFrom c row c0 n (i + 1) (zero s 1)
    else
      let s := if c.t.mpol then s.onVf fun f => f.setElem m.w.vd.toNat c.t.w i 0 else s
      m.extractFrom c row c0 n (i + 1) (zero s 1)

/-- MXTR and MXTRZ (R191, R192). c0 = 384 is outside the range that R191 gives c0 and traps ILLEGAL_INSTRUCTION also with
VL = 0 (DEDUCED: log 130). -/
def Member.mxtr (m : Member) (c : Cvy) (s : State) : Res :=
  let pos := s.x m.w.vs3
  let row := bits pos 3 0
  let c0 := bits pos 24 16
  if pos.toNat ≠ row + c0 * 65536 ∨ 384 < c0 + c.vl ∨ 384 ≤ c0 then .error (c.illegal 0 m)
  else
    let step := if c.t.isSx then 16 else 1
    match m.extractFrom c row c0 ((c.vl - c.vstart) / step) c.vstart s with
    | .error e => .error e
    | .ok s => .ok (s.onVf (m.finish c c.vl))

/-! The other operations. -/

/-- MCENS: the table in eight registers, and its clearing (R195). -/
def Member.mcens (m : Member) (s : State) : State :=
  let k := s.myCore
  let reg (j : Nat) : VReg := BitVec.ofNat 2048
    ((List.range 32).foldl (fun n e => n + mapGet 0 k.census (32 * j + e) % 2 ^ 64 * 2 ^ (64 * e)) 0)
  let s := s.onVf fun f => (List.range 8).foldl (fun f j => f.setReg (m.w.vd.toNat + j) (reg j)) f
  if m.w.imm.toNat % 2 = 1 then s.onMyCore fun k => { k with census := [] } else s

/-- The operations of unit 6. -/
def Member.matrix (m : Member) (c : Cvy) (s : State) : Res :=
  match m.op with
  | .mbld => m.mbld c s
  | .mbinv => .ok (s.onMyCore fun k => k.dropTile m.w.vd.toNat)
  | .mma | .mmas => m.mma c s
  | .mzero => .ok (s.onVf fun f =>
      { f with acc := (List.range 16).foldl (fun a r => mapSet 0 a (16 * m.w.vd.toNat + r) 0) f.acc })
  | .mcens => .ok (m.mcens s)
  | .mscl => .ok (s.onVf fun f => { f with sc := mapSet 0 f.sc m.w.vd.toNat ((s.x m.w.vs3).setWidth 32) })
  | _ => m.mxtr c s

end Sys2Proof.Machine
end

