-- ==== Sys2Proof/Machine/VecSend.lean ====
section
/-! DEFINITION. The unit-7 members as they issue: copies between memory and vector registers, copies between vector
files, striped sends, remote reductions, vector enqueues and remote loads; and the elements of VSXADD (spec/09 R220-R222;
spec/10 R245-R251; spec/07 R169; spec/16 R320). -/

namespace Sys2Proof.Machine

/-! Copies (R220-R222). -/

/-- CPV and CPVS: checks 1 to 4 and 6 on every byte, a free RLT entry, and the copy is registered; it keeps its
translations. CPV marks its registers written (R10). A CPVS contributes its stores to the signature (R367). -/
def Member.copy (m : Member) (c : Cvy) (s : State) : Res := do
  let store := decide (m.op = .cpvs)
  let ea := s.x m.w.vs3
  let regs := countCode m.w
  let n := regs * 256
  let v := m.w.imm.toNat
  let wm : Option Nat := if v / 4 % 2 = 1 then some (v / 8 % 16) else none
  match wm with
  | some k => if (mapFind? s.myCore.wm k).isNone then throw (c.illegal 0 m)
  | none => pure ()
  let (acc, s) ← s.check14 (s.who s.cur) (if store then .store else .load) 8 0 ea n
  if !store && (s.myCore.rltHit s.me.ctx false ea.toNat (ea.toNat + n)).isSome && !s.myCore.marked s.me.ctx ea n then
    throw .stall
  let (i, s) ← s.registerRange (!store) ea.toNat (ea.toNat + n)
  let vd := m.w.vd.toNat
  let words := (List.range (regs * 32)).map fun k => acc.locs.getD (8 * k) 0
  let cp : Copy := { idx := s.tagCtr, hart := s.cur, store := store, vd := vd, regs := regs, ea := ea, locs := words, efs := acc.efs, done := 0,
                     rlt := i, wm := wm, seen := [] }
  let s : State := { s with tagCtr := s.tagCtr + 1 }
  let s := s.onMyCore fun k => { k with copies := k.copies ++ [cp] }
  if store then
    let bs := (List.range regs).flatMap fun k => leBytes 256 (s.vf.reg (vd + k)).toNat
    return s.onChunk fun q => { q with sig := (storeItems ea bs).foldl sigAdd q.sig, engines := [.copy cp.idx] }
  else
    let s := s.onChunk fun q => { q with engines := [.copy cp.idx] }
    return s.onVf fun f => (List.range regs).foldl (fun f k => f.setReg (vd + k) (f.reg (vd + k))) f

/-! What the sends share (R245). -/

/-- The route checks of a unit-7 form: the offset is a multiple of `al` too (R234, R245). -/
def State.checkSend (s : State) (r : Nat) (classes : List Nat) (right : Right) (o n al : Nat) : Except Exc Unit := do
  s.checkRoute r classes right o n al false
  if o % al ≠ 0 then throw (.trap Cause.misaligned (BitVec.ofNat 64 o) (BitVec.ofNat 64 r))
  if s.phaseBad then throw (.trap Cause.phaseViolation (BitVec.ofNat 64 o) (BitVec.ofNat 64 r))

/-- The magnitudes of a block from element `real` on, cleared: sent padding (R87, R246). -/
def sendBlock (m v real : Nat) : Nat :=
  (List.range 16).foldl (fun v i => if real ≤ i then putField v (16 + (1 + m) * i) m 0 else v) v

/-- The L bytes of the data group (R246). -/
def Member.dataBytes (m : Member) (c : Cvy) (f : VecFile) : List Byte :=
  let vd := m.w.vd.toNat
  if c.t.isSx then
    let ub := blockBits c.t.m
    (List.range (c.vl / 16)).flatMap fun k => leBytes (ub / 8) (sendBlock c.t.m (f.elem vd ub k) (c.real - 16 * k))
  else (List.range c.real).flatMap fun i => leBytes (c.t.w / 8) (f.elem vd c.t.w i)

/-- Group g of register n: 128 bytes. -/
def VecFile.group (f : VecFile) (n g : Nat) : BitVec 1024 := BitVec.ofNat 1024 (regBits (f.reg n) (1024 * g) 1024)
/-- Replaces a group. -/
def VecFile.setGroup (f : VecFile) (n g : Nat) (v : BitVec 1024) : VecFile :=
  f.setReg n (setRegBits (f.reg n) (1024 * g) 1024 v.toNat)

/-- Marks the groups of r registers from vd as unfilled. -/
def Core.awaitFill (k : Core) (vd regs : Nat) (by_ : Nat → FillBy) : Core :=
  { k with fills := (List.range (2 * regs)).foldl (fun f g => mapPut f (2 * vd + g) (by_ g)) k.fills }

/-- CPRR, arm form (R251). -/
def Member.arm (m : Member) (s : State) : Res :=
  let s := s.onChunk fun q => { q with engines := [.fill] }
  .ok (s.onMyCore fun k => k.awaitFill m.w.vd.toNat (countCode m.w) fun _ => .arm)

/-- CPRR, send form: one packet for each element group, read at issue (R251). -/
def Member.cprr (m : Member) (s : State) : Res :=
  let r := m.w.vs1.toNat
  let o := (s.x m.w.vs3).toNat
  let regs := countCode m.w
  forwarded s 0
    (fun s => do
      s.checkSend r [6] .store o (256 * regs) 256
      let t := s.me.rt r
      let first := (tokWbase t + tokNoff t + o) / 256
      return ([], (List.range (2 * regs)).foldl (fun s g =>
        (s.send r (.cprr (first + g / 2) (g % 2)) (o + 128 * g) 128
          (leBytes 128 (s.vf.group (m.w.vd.toNat + g / 2) (g % 2)).toNat)).2) s))
    (fun _ s => .ok s)

/-- VRLD: one request for each element group; the groups are unfilled until their data arrives. The number of the first
request is what the lead hands to the other replicas; the loaded data is no part of the signature (R250, R364). -/
def Member.vrld (m : Member) (s : State) : Res :=
  let r := m.w.vs1.toNat
  let o := (s.x m.w.vs3).toNat
  let regs := countCode m.w
  let vd := m.w.vd.toNat
  forwarded s 0
    (fun s => do
      s.checkSend r [0, 1] .load o (256 * regs) 8
      let tag0 := s.tagCtr
      return ([BitVec.ofNat 64 tag0], (List.range (2 * regs)).foldl (fun s g =>
        (s.send r (.vload (vd + g / 2) (g % 2)) (o + 128 * g) 128 []).2) s))
    (fun v s =>
      let tag0 := (v.headD 0).toNat
      let s := s.onChunk fun q => { q with engines := [.fill] }
      let s := s.onMyCore fun k => k.awaitFill vd regs fun g => .vrld (tag0 + g) r (o + 128 * g)
      .ok (s.onVf fun f => (List.range regs).foldl (fun f k => f.setReg (vd + k) (f.reg (vd + k))) f))
    (fun _ => [])

/-- VRSEND: every member of the set passes R234, the group is read, and the stripes leave in the background (R246, R320). -/
def Member.vrsend (m : Member) (c : Cvy) (s : State) : Res :=
  let n := m.w.vs1.toNat
  let ov := s.x m.w.vs3
  let o := ov.toNat
  let data := m.dataBytes c s.vf
  forwarded s 0
    (fun s => do
      let set := (mapFind? s.me.a.rsets n).getD { members := [], failed := [] }
      match set.members with
      | [] => throw (.trap Cause.routeTag ov 0)
      | first :: _ =>
        for r in set.members do
          s.checkSend r [0, 1] .store o data.length 8
        let live := set.members.filter fun r => decide (r ∉ set.failed)
        if live.isEmpty then throw (.trap Cause.routeRevoked ov (BitVec.ofNat 64 first))
        let q := live.flatMap fun r => List.replicate (tokStripe (s.me.rt r)) r
        let stripes := (data.length + 255) / 256
        if stripes = 0 then return ([], s)
        let tokens : FMap Line := set.members.foldl (fun t r => mapPut t r (s.me.rt r)) []
        let j : SendJob := { id := s.tagCtr, hart := s.cur, ctx := s.me.ctx, set := n, off := o, data := data, q := q, sent := 0, stripes := stripes,
                             failed := set.failed, resend := [], resendPos := 0, tokens := tokens }
        return ([], { s with tagCtr := s.tagCtr + 1, jobs := s.jobs ++ [j] }))
    (fun _ s => .ok s)

/-- VRRED: the elements travel to the target's scatter-add unit; they are unordered among themselves (R248, R328). -/
def Member.vrred (m : Member) (c : Cvy) (op : Nat) (s : State) : Res :=
  let r := m.w.vs1.toNat
  let o := (s.x m.w.vs3).toNat
  let data := m.dataBytes c s.vf
  forwarded s 0
    (fun s => do
      s.checkSend r [3] .reduce o data.length 8
      if data.isEmpty then return ([], s)
      return ([], s.sendAll r (.reduce op c.t.fmt c.t.wcode) o data))
    (fun _ s => .ok s)

/-- VENQ: elements in order up to the first that would park; a release when it accepts one (R249); the phase rules hold first (R258). -/
def Member.venq (m : Member) (c : Cvy) (s : State) : Res :=
  let qva := s.x m.w.vs3
  let data := m.dataBytes c s.vf
  forwarded s qva
    (fun s => do
      if s.phaseBad then throw (.trap Cause.phaseViolation 0 0)
      let (q, s) ← s.qAddr qva
      let a := s.actor
      s.homeCheck a qva q
      s.kindCheck a qva q .enq
      let es := (s.qcb a.mark q).esize
      if data.length % es ≠ 0 then throw (.trap Cause.illegal m.word qva)
      let n := data.length / es
      let (k, s') ← s.enqMany a q es n data
      if k = 0 then return ([0, BitVec.ofNat 64 es], s')
      let (k, s') ← (s.qRelease q).enqMany a q es n data
      return ([BitVec.ofNat 64 k, BitVec.ofNat 64 es], s'))
    (fun v s =>
      let got := (v.headD 0).toNat * (v.getD 1 0).toNat
      .ok (if got < data.length then
          s.onVf fun f => { f with vl := BitVec.ofNat 64 (got / (c.t.w / 8)), vpad := 0 }
        else s))
    (fun v => v.take 1)

/-- The members of unit 7. -/
def Member.sendOp (m : Member) (c : Cvy) (s : State) : Res :=
  match m.op with
  | .cpv | .cpvs => m.copy c s
  | .cprrArm => m.arm s
  | .cprrSend => m.cprr s
  | .vrsend => m.vrsend c s
  | .vrredAdd => m.vrred c 0 s
  | .vrredMin => m.vrred c 1 s
  | .vrredMax => m.vrred c 2 s
  | .venq => m.venq c s
  | _ => m.vrld s

/-! VSXADD (R169). -/

/-- The FRM code of a mode (R16). -/
def Rm.frm : Rm → Nat
  | .rne => 0
  | .rtz => 1
  | .rdn => 2
  | .rup => 3
  | .rmm => 4
  | .rsr => 5

/-- Element i of VSXADD: checked as a load and as a store, and sent to the port that homes it. The scratchpad and host
memory have no scatter-add unit: an element there traps PERMISSION, for the scratchpad window before check 1 looks at its
alignment (DEDUCED: log 127). -/
def Member.scatterElem (m : Member) (c : Cvy) (i : Nat) (s : State) : Except Exc (Bool × State) :=
  if m.active s.vf i && decide (i < c.real) then
    let va := m.addr c s i 0
    if (lspOffset? va).isSome then .error (.trap Cause.permission va 0)
    else do
      let n := c.t.w / 8
      let (_, s) ← s.check14 (s.who s.cur) .load (m.align c) 0 va n
      let (acc, s) ← s.check (s.who s.cur) .store (m.align c) 0 va n
      if acc.host then throw (.trap Cause.permission va 0)
      s.checkData 0 va acc.locs
      -- an addition to a host-shared page is performed after every earlier one and before every later one (R161)
      if acc.hshared && s.scatter.any (fun e => decide (e.hart = s.cur)) then throw .stall
      if s.scatter.any fun e => decide (e.hart = s.cur) && e.host then throw .stall
      let s := s.touchAll (clusterOf s.cur) acc.locs (acc.insert (m.insert c s))
      let r := s.rngOf m.w
      let (q, r) := if c.t.isInt then (0, r) else r.draw
      let e : Scatter := { hart := s.cur, elem := i, loc := acc.locs.headD 0, mark := s.hartMark s.cur, host := acc.hshared, ty := c.t.fmt * 8 + c.t.wcode,
                           rm := r.rm.frm, q := q, v := BitVec.ofNat 64 (s.vf.elem m.w.vd.toNat c.t.w i) }
      let s : State := { s.keepRng r with scatter := s.scatter ++ [e] }
      let (left, fl) := s.me.scatter.getD (0, [])
      return (false, s.onMe fun x => { x with scatter := some (left + 1, fl) })
  else .ok (false, s)

end Sys2Proof.Machine
end

