-- ==== Sys2Proof/Machine/Convoy.lean ====
section
/-! DEFINITION. The convoy: its checks, its element loop, and how it stops and completes (spec/02 R40-R53; spec/06
R125-R128; spec/07 R161-R169; spec/22 R380-R382). -/

namespace Sys2Proof.Machine


/-- How an element of the loop ends other than by completing in every member. -/
inductive ElemStop where
  | exc (e : Exc)
  /-- FP_TRAP at member j, with the flags of the members that ran (R51). -/
  | fp (j : Nat) (fl : Flags)
  /-- The chunk ends at this element boundary (R161). -/
  | boundary

/-- Element i of the members from member j on: whether a page was host-shared, the flags, and the state (R50). -/
def Cvy.element (c : Cvy) (i : Nat) : Nat → List Member → Flags → Bool → State → Except ElemStop (Bool × Flags × State)
  | _, [], fl, h, s => .ok (h, fl, s)
  | j, m :: ms, fl, h, s =>
    if m.op.unit = 3 then
      match (if m.op = .vsxadd then m.scatterElem c i s else m.memElem c j i { s with member := j }) with
      | .error e => .error (.exc e)
      | .ok (h', s) => c.element i (j + 1) ms fl (h || h') s
    else if c.t.isSx then c.element i (j + 1) ms fl h (m.computeSx c i s)
    else
      let (f, s) := m.compute c j i s
      if s.trapsOn f then .error (.fp j (fl ||| f)) else c.element i (j + 1) ms (fl ||| f) h s

/-- The loop so far: elements performed, before this execution too (`prev`), stage-2 misses, whether a chunk ended on the way,
and where it stopped. -/
structure Run where
  s : State
  prev : BitVec 4096
  done : BitVec 4096
  reqs : List PageReq
  split : Bool
  stop : Option (Nat × ElemStop)

/-- The loop before its first element. -/
def Run.start (s : State) (prev : BitVec 4096) : Run := { s := s, prev := prev, done := prev, reqs := [], split := false, stop := none }

/-- Elements a pass of the loop takes at once: a block under an SX type. -/
def Cvy.step (c : Cvy) : Nat := if c.t.isSx && c.ms.any (fun m => !m.op.typeless) then 16 else 1
/-- The end of the loop: VL, or the words of a whole-register transfer (R166). -/
def Cvy.limit (c : Cvy) : Nat :=
  match c.ms with
  | [m] => if m.op = .vlwr ∨ m.op = .vswr then countCode m.w * 32 else c.vl
  | _ => c.vl

/-- Adds the misses of element i, one request for each granule (R164, R380). -/
def addMisses (i : Nat) (reqs : List PageReq) (rs : List PageReq) : List PageReq :=
  rs.foldl (fun l (r : PageReq) =>
    if l.any fun q => decide (q.gpa / 4096 = r.gpa / 4096) then l else l ++ [{ r with elem := i, vec := true }]) reqs

/-- The request of the instruction at PC for its element e, or for a scalar access, was answered "failed" (R164, R382). -/
def State.failedReq (s : State) (vec : Bool) (e : Nat) : Option PageReq :=
  if s.pageReqs.isEmpty then none
  else s.pageReqs.find? fun r => decide (r.hart = s.cur) && decide (r.ctx = s.me.ctx) && decide (r.pc = s.pc) && decide (r.vec = vec) &&
    decide (r.elem = e) && decide (r.answer = some false)

/-- The trap of a failed reply (R163, R382). -/
def PageReq.trap (r : PageReq) : Exc :=
  .trap Cause.guestPage r.gva (BitVec.ofNat 64 (r.member * 2 ^ 61 + r.gpa % 2 ^ 57))

/-- VSTART := e. -/
def State.setVstart (s : State) (e : Nat) : State := s.onVf fun f => { f with vstart := BitVec.ofNat 64 e }

/-- The convoy has completed: VSTART := 0, and the next instruction follows the last member. -/
def Cvy.advance (c : Cvy) (s : State) : State := (s.setVstart 0).next (4 + 8 * c.ms.length)

/-- Completes the loop for VL elements: tails, and the done mask cleared (R126, R164). -/
def Cvy.complete (c : Cvy) (vl : Nat) (s : State) : State :=
  c.advance (c.clearDone (s.onVf fun f => c.ms.foldl (fun f m => m.finish c vl f) f))

/-- The convoy is a VLEFF; a segment transfer. -/
def Cvy.isLeff (c : Cvy) : Bool := match c.ms with | [m] => decide (m.op = .vleff) | _ => false
def Cvy.segment? (c : Cvy) : Option Member := match c.ms with | [m] => if m.op = .vlseg ∨ m.op = .vsseg then some m else none | _ => none

/-- The state of the run at a stop at element e. Done bits of an earlier park are kept, those of a VLEFF on its way, and all of
them where elements missed (R51, R164, R165, R382). -/
def Cvy.stopAt (c : Cvy) (e : Nat) (r : Run) : State :=
  if !r.reqs.isEmpty then c.keepDone r.done r.s
  else
    let s := r.s.setVstart e
    if r.prev ≠ 0 ∨ (c.isLeff = true ∧ r.done ≠ 0) then c.keepDone r.done s else s

/-- Ends the open chunk at element e with `f` fields of its record performed, and opens the next (R161). -/
def Cvy.part (c : Cvy) (e f : Nat) (r : Run) : State × Bool :=
  let s := c.stopAt e r
  let s := if c.segment?.isSome then s.onMe fun x =>
      { x with a := { x.a with doneMask := if x.a.doneAt = c.pc then x.a.doneMask else 0, doneAt := c.pc, doneField := f } }
    else s
  s.cutChunk (c.ms.flatMap fun m => m.dests c.t)

/-- Element i is done. -/
def Cvy.took (c : Cvy) (i : Nat) (r : Run) (s : State) : Run :=
  { r with s := s, done := r.done ||| (BitVec.ofNat 4096 (2 ^ c.step - 1)) <<< i }

/-- The chunk ends after a host-shared element: at once, or with the instruction (R161). -/
def Cvy.after (c : Cvy) (e f : Nat) (last : Bool) (r : Run) : Run :=
  let r := { r with s := r.s.onChunk fun q => { q with close := some .core } }
  if last then r
  else match c.part e f r with
    | (t, true) => { r with s := t }
    | (t, false) => { r with stop := some (e, .exc (.become t)) }

/-- Element i with an access to a host-shared page, in a chunk of its own (R161). -/
def Cvy.alone (c : Cvy) (i : Nat) (last : Bool) (r : Run) : Run :=
  match c.part i 0 r with
  | (t, false) => { r with stop := some (i, .exc (.become t)) }
  | (t, true) =>
    let r := { r with s := t, split := true }
    match c.element i 0 c.ms 0 false t with
    | .error st => { r with stop := some (i, st) }
    | .ok (_, fl, s) => c.after (i + c.step) 0 last (c.took i r (s.orFlags fl))

/-- The fields of record i from field f on, each on a host-shared page in a chunk of its own (R161). -/
def Cvy.aloneFields (c : Cvy) (m : Member) (i : Nat) (last : Bool) : Nat → Nat → Run → Run
  | 0, _, r => c.took i r r.s
  | n + 1, f, r =>
    match m.segElem c 0 i 1 f false r.s with
    | .error e => { r with stop := some (i, .exc e) }
    | .ok (false, s) => c.aloneFields m i last n (f + 1) { r with s := s }
    | .ok (true, _) =>
      match c.part i f r with
      | (t, false) => { r with stop := some (i, .exc (.become t)) }
      | (t, true) =>
        let r := { r with s := t, split := true }
        match m.segElem c 0 i 1 f false t with
        | .error e => { r with stop := some (i, .exc e) }
        | .ok (_, s) =>
          let r := if n = 0 then c.after (i + 1) 0 last (c.took i r s) else c.after i (f + 1) false { r with s := s }
          if r.stop.isSome then r else c.aloneFields m i last n (f + 1) r

/-- The element loop over the given elements; `collect` goes on past stage-2 misses. A failed page reply traps at its element
(R50, R161, R164, R382). -/
def Cvy.loop (c : Cvy) (collect : Bool) : List Nat → Run → Run
  | [], r => r
  | i :: is, r =>
    let go (r : Run) : Run := if r.stop.isSome then r else c.loop collect is r
    let field := if c.segment?.isSome ∧ r.s.me.a.doneAt = c.pc ∧ i = c.vstart then r.s.me.a.doneField else 0
    if r.s.stopsAt i then { r with stop := some (i, .boundary) }
    else match r.s.failedReq true i with
    | some q => { r with stop := some (i, .exc q.trap) }
    | none =>
      if 0 < field then
        match c.segment? with
        | some m => go (c.aloneFields m i is.isEmpty (segFields m.w - field) field r)
        | none => go r
      else match c.element i 0 c.ms 0 false r.s with
        | .ok (true, _, _) =>
          match c.segment? with
          | some m => go (c.aloneFields m i is.isEmpty (segFields m.w) 0 r)
          | none => go (c.alone i is.isEmpty r)
        | .ok (false, fl, s) => c.loop collect is (c.took i r (s.orFlags fl))
        | .error (.exc (.pageMiss t rs)) =>
          if collect then c.loop collect is { r with reqs := addMisses i r.reqs rs }
          else { r with stop := some (i, .exc (.pageMiss t (addMisses i [] rs))) }
        | .error st => { r with stop := some (i, st) }

/-- VLEFF ends before element e instead of trapping, parking or stalling on a watermark there (R165). -/
def Cvy.leffEnds (c : Cvy) (e : Nat) (st : ElemStop) (r : Run) : Bool :=
  match c.ms with
  | [m] => decide (m.op = .vleff) && (decide (c.vstart < e) || decide (c.doneBits r.s ≠ 0)) &&
      (match st with
       | .exc (.trap _ _ _) => true
       | .exc (.pageMiss _ _) => true
       | .exc (.hostMiss _ _ _) => true
       | .exc .stall => !r.s.myCore.belowMark r.s.me.ctx (m.addr c r.s e 0) (m.size c e)
       | _ => false)
  | _ => false

/-- What a finished or stopped loop leaves (R51, R164, R165). -/
def Cvy.settle (c : Cvy) (r : Run) : Res :=
  let cut (s : State) : Exc := .become (s.endChunk s.cur).1
  match r.stop with
  | some (_, .exc (.become t)) => .error (.become t)
  | stop =>
    if !r.reqs.isEmpty then
      match stop with
      | some (_, .boundary) => .error (cut (c.keepDone r.done r.s))
      | _ => .error (.pageMiss (c.keepDone r.done r.s) r.reqs)
    else match stop with
      | none => .ok (c.complete c.vl r.s)
      | some (e, st) =>
        if c.leffEnds e st r then
          let t := { c with t := { c.t with tpol := false } }
          let s := r.s.onVf fun f => { f with vl := BitVec.ofNat 64 e, vpad := 0 }
          .ok (t.complete e s)
        else
          let s := c.stopAt e r
          match st with
          | .boundary => .error (cut s)
          | .fp j fl => .error (.trapIn (s.orFlags fl) Cause.fpTrap (BitVec.ofNat 64 e) (BitVec.ofNat 64 j))
          | .exc (.trap k v w) => .error (.trapIn s k v w)
          | .exc (.trapFwd k v w) => .error (.become (s.takeTrapFwd k v w))
          | .exc (.park p) => .error (.become (s.parkOn p))
          | .exc (.pageMiss _ rs) => .error (.pageMiss s rs)
          | .exc (.hostMiss a v w) => .error (.become (s.parkOnHost a v w))
          | .exc .endChunk => .error (cut s)
          | .exc (.trapIn t k v w) => .error (.trapIn t k v w)
          | .exc (.become t) => .error (.become t)
          | .exc .stall => .error (if r.split then .become (s.setStatus .stalled) else .stall)

/-- The elements that this execution has still to perform. -/
def Cvy.elems (c : Cvy) (prev : BitVec 4096) : List Nat :=
  (List.range c.limit).filter fun i => decide (c.vstart ≤ i) && decide (i % c.step = 0) && !prev.getLsbD i

/-- The element-wise execution of a convoy (R50, R164). -/
def Cvy.run (c : Cvy) (s : State) : Res :=
  let collect := match c.ms with | [m] => Vop.pagesAtOnce m.op | _ => false
  let prev := if collect then c.doneBits s else 0
  c.settle (c.loop collect (c.elems prev) (Run.start s prev))

/-! VSXADD as a whole (R169). -/

/-- All flags of the additions performed. -/
def flagsOf (l : List (Nat × BitVec 6)) : Flags := l.foldl (fun a e => a ||| e.2) 0

/-- VSXADD sends its additions, waits for them, and hands on what came of it: 0, the flags and the lowest element that
raised an enabled one; or 1, a trap's cause, TVAL and TVAL2, its element and the flags (R164, R169). A trap ends the record
of the additions before it: FFLAGS keeps their flags, and FP_TRAP of the resumed instruction is judged by its own additions
(DEDUCED: log 128). -/
def Cvy.scatter (c : Cvy) (s : State) : Except Exc (List Word × State) :=
  let prev := c.doneBits s
  let r := c.loop true (c.elems prev) (Run.start s prev)
  let kept := c.keepDone r.done r.s
  let (left, fls) := r.s.me.scatter.getD (0, [])
  let fl : Word := (flagsOf fls).setWidth 64
  let wait : Exc := .become (kept.setStatus .stalled)
  let ended (s : State) := s.onMe fun x => { x with scatter := none }
  if !r.reqs.isEmpty then .error (.pageMiss kept r.reqs)
  else match r.stop with
    | some (e, .exc (.trap k v w)) =>
      if 0 < left then .error wait
      else .ok ([1, BitVec.ofNat 64 k, v, w, BitVec.ofNat 64 e, fl], ended (if prev = 0 then r.s else kept))
    | some (_, .exc (.hostMiss a v w)) => .error (.become (kept.parkOnHost a v w))
    | some _ => .error wait
    | none =>
      if 0 < left then .error wait
      else
        let hit := (fls.filter fun e => s.trapsOn e.2).map Prod.fst
        .ok ([0, fl, BitVec.ofNat 64 (hit.foldl Nat.min 4096)], ended r.s)

/-- VSXADD: performed by the lead; an enabled flag traps after the instruction (R169, R364). -/
def Cvy.vsxadd (c : Cvy) (s : State) : Res :=
  forwarded s 0 c.scatter
    (fun v s =>
      if v.headD 0 = 0 then
        let fl : Flags := (v.getD 1 0).setWidth 6
        let t := (c.complete c.vl s).orFlags fl
        if s.trapsOn fl then .error (trapAfter t Cause.fpTrap (v.getD 2 0) 1 2) else .ok t
      else
        .error (.trapIn ((s.setVstart (v.getD 4 0).toNat).orFlags ((v.getD 5 0).setWidth 6))
          (v.getD 1 0).toNat (v.getD 2 0) (v.getD 3 0)))
    (fun v => if v.headD 0 = 0 then (v.drop 1).take 1 else [])

/-! The convoy. -/

/-- A member of a convoy of one that is performed as a whole, not element by element. -/
def Vop.isWhole (op : Vop) : Bool :=
  op.vstartZero || op.standalone && (decide (op.unit ∈ [4, 6, 7]) || (match op with | .vsxpack | .vsxunpk => true | _ => false))

/-- The effect of a checked convoy. -/
def Cvy.exec (c : Cvy) (s : State) : Res :=
  match c.ms with
  | [m] =>
    if m.op = .vsxadd then c.vsxadd s
    else if m.op = .vlgl then (m.vlgl c s).map c.advance
    else if m.op = .vssc then (m.vssc c s).map c.advance
    else if m.op.unit = 6 then (m.matrix c s).map c.advance
    else if m.op.unit = 7 then (m.sendOp c s).map c.advance
    else if Vop.isWhole m.op then (m.whole c s).map c.advance
    else c.run s
  | _ => c.run s

/-- Where a convoy stands toward chunks (R52, R160, R241, R289, R419); the chunk holds nothing but its own earlier elements if it
holds no instruction. -/
def convoyShape (s : State) (ms : List Member) : Shape :=
  let n := 1 + ms.length
  match ms with
  | [m] =>
    match m.op with
    | .mbld | .mbinv | .mma | .mmas | .mzero | .mxtrz | .mcens | .mscl | .cpv | .cpvs =>
      { before := s.chunkBusy, after := true, own := false, n := n }
    | .vssc | .vsxadd => { before := true, after := true, own := true, n := n }
    | op => if op.unit = 7 then { before := true, after := true, own := true, n := n } else { Shape.plain with n := n }
  | _ => { Shape.plain with n := n }

/-- The unit field of member j in a header (R40). -/
def headerUnit (hdr : BitVec 32) (j : Nat) : Nat := hdr.toNat / 2 ^ (11 + 3 * j) % 8
/-- Check 1 of R48: COUNT matches the members, CHAIN is legal, the unit fields beyond COUNT are zero, and the header
stands 4 beyond a multiple of 8 (R40, R41). -/
def headerOk (hdr : BitVec 32) (count : Nat) (pc : Word) : Bool :=
  decide (hdr.toNat % 256 = 255) && decide (hdr.toNat / 256 % 8 + 1 = count) && decide (count ≤ 6) &&
  decide (hdr.toNat / 2 ^ 29 ≤ 1) && ((List.range 6).all fun j => decide (j < count) || decide (headerUnit hdr j = 0)) &&
  decide (pc.toNat % 8 = 4)

/-- Accumulators that a member reads and overwrites whole, as numbers from 32 on (R374). -/
def accReads (m : Member) : List Nat :=
  match m.op with
  | .mma | .mmas => [32 + m.w.vd.toNat]
  | .mxtr | .mxtrz => [32 + m.w.vs1.toNat]
  | _ => []
def accWrites (m : Member) : List Nat := match m.op with | .mzero => [32 + m.w.vd.toNat] | _ => []

/-- The element groups of a group of the VTYPE size that hold elements VSTART to VL − 1; whole SX blocks. -/
def Cvy.bodyGroups (c : Cvy) (r : RSpan) : List Nat :=
  let (w, lo, hi) := if c.t.isSx then (blockBits c.t.m, c.vstart / 16, (c.vl + 15) / 16) else (c.t.w, c.vstart, c.vl)
  (List.range r.count).flatMap fun k =>
    let a := Nat.max lo (k * perReg w) - k * perReg w
    let b := Nat.min hi ((k + 1) * perReg w) - k * perReg w
    if a < b then (List.range 2).filterMap fun g =>
      if a * w / 1024 ≤ g ∧ g ≤ (b * w - 1) / 1024 then some (2 * (r.first + k) + g) else none
    else []

/-- The member goes element by element through groups of the VTYPE size only, so that it reaches no others (R222). -/
def Member.bodyOnly (m : Member) : Bool :=
  let vecs (f : FU) : Bool := match f with | .vec | .no | .mask | .xreg | .lim _ => true | _ => false
  let f := m.op.fields
  decide (m.op.unit ∈ [0, 1, 2, 3, 5]) && !m.op.standalone && !m.op.vstartZero && !modSelects m.w.mod1 && !modSelects m.w.mod2 &&
  vecs f.vd && vecs f.vs1 && vecs f.vs2 && vecs f.x

/-- The element groups that a member reads, and those that it writes: under a zeroed tail, and where a register has bits that hold
no element, whole registers (R74, R87, R126, R222). -/
def Cvy.groupReads (c : Cvy) (m : Member) : List Nat :=
  let spans := (m.sources c.t).map Prod.fst
  (if m.bodyOnly then spans.flatMap fun r => if r.isMask then [] else c.bodyGroups r else bothGroups (vregsOf spans)) ++
  bothGroups (accReads m)
def Cvy.groupWrites (c : Cvy) (m : Member) : List Nat :=
  let spans := m.dests c.t
  if m.bodyOnly && !c.t.tpol && !c.t.isSx && decide (c.t.w ≠ 6) then spans.flatMap fun r => if r.isMask then [] else c.bodyGroups r
  else bothGroups (vregsOf spans)

/-- Groups written anew: an unfilled group's rejection traps no more (R250); and registers written anew hold no error any longer
(R374). -/
def State.rewritten (s : State) (groups regs : List Nat) : State :=
  let s := if s.vf.upset.isEmpty then s else s.onVf fun f => { f with upset := f.upset.filter fun n => decide (n ∉ regs) }
  let s := if s.myCore.fills.isEmpty then s else s.onMyCore fun k => { k with fills := k.fills.filter fun e =>
    !(decide (e.1 ∈ groups) && (match e.2 with | .failed _ _ _ => true | _ => false)) }
  if s.me.fillWait.isNone then s else s.onMe fun x => { x with fillWait := none }

/-- The stream checks of VLST members before the first element (R170). -/
def Cvy.checkStreams (c : Cvy) (s : State) : Nat → List Member → Except Exc Unit
  | _, [] => .ok ()
  | j, m :: ms =>
    match (if m.op = .vlst then m.checkStream c j s else .ok ()) with
    | .error e => .error e
    | .ok () => c.checkStreams s (j + 1) ms

/-- The checks of R48 on a convoy at PC, and what is fixed for its execution; TVAL and TVAL2 as R51 gives. -/
def State.checkConvoy (s : State) (hdr : BitVec 32) (words : List Word) : Except Exc Cvy :=
  let ms := words.zipIdx.map fun (e : Word × Nat) => Member.ofWord e.1 (headerUnit hdr e.2)
  let f := s.vf
  if !headerOk hdr words.length s.pc || !s.owns then .error (.trap Cause.illegal (hdr.setWidth 64) (failTval2 hdr 7))
  else match failing s.vt f.vstart.toNat (decide (hdr.toNat / 2 ^ 29 = 1)) ms with
    | some j => .error (.trap Cause.illegal (words.getD j 0) (failTval2 hdr j))
    | none => .ok { hdr := hdr, pc := s.pc, ms := ms.filterMap id, t := s.vt, vl := f.vl.toNat, vpad := f.vpad.toNat,
                    vsub := f.vsub, snap := f, vstart := f.vstart.toNat, sched := [] }

/-- A convoy: its checks, the interlocks, and its execution. -/
def State.runConvoy (s : State) (hdr : BitVec 32) (words : List Word) : State :=
  let good := words.zipIdx.filterMap fun (e : Word × Nat) => Member.ofWord e.1 (headerUnit hdr e.2)
  s.run (convoyShape s good) fun s => do
    let c ← s.checkConvoy hdr words
    let dests := c.ms.flatMap fun m => m.dests c.t
    let writes := c.ms.flatMap c.groupWrites
    s.vecReady (c.ms.flatMap c.groupReads) writes
    c.checkStreams s 0 c.ms
    let c := { c with sched := c.schedule s }
    let s := s.onChunk fun q => { q with vwr := nub (vregsOf dests ++ q.vwr), mwr := nub (mregsOf dests ++ q.mwr) }
    let s ← c.exec s
    return s.rewritten writes (vregsOf dests ++ c.ms.flatMap accWrites)

/-- CONVOY (R50). -/
def execConvoy (header : BitVec 32) (words : List (BitVec 64)) (s : State) : Out := .next (s.runConvoy header words)

/-- A vector word on its own: a convoy of one, whose header stands at PC (R69). -/
def State.runMember (s : State) (op : Vop) (w : VWord) : State :=
  let v := w.bits (BitVec.ofNat 8 op.code)
  if vopOf op.code w.imm.toNat = some op then s.runConvoy (BitVec.ofNat 32 (0xFF + 2048 * op.unit)) [v]
  else s.run .plain fun _ => .error (.trap Cause.illegal v (failTval2 (BitVec.ofNat 32 (0xFF + 2048 * op.unit)) 0))

end Sys2Proof.Machine
end

