-- ==== Sys2Proof/Machine/Engines.lean ====
section
/-! DEFINITION. Events of the engines: chunk commit, bank loads, copies, stream ports, watermark advances, scatter-adds and
errored read returns (spec/14 R290, R301; spec/08 R179, R180; spec/09 R218-R225; spec/12 R282, R283; spec/21 R373). -/

namespace Sys2Proof.Machine

/-- An event that the state does not enable. -/
def notNow (what : String) : Out := .fault (.notEnabled what)

/-- Forgets everything known of the executing hart's own choice: events act on no hart's behalf but the one they name. -/
def State.forHart (s : State) (h : Nat) (f : State → State) : State := { f { s with cur := h } with cur := s.cur }

/-! The commit arbiter (R290, R294). -/

/-- The open chunk matches falsely at the arbiter; a chunk of R419 and the priority chunk are never squashed. -/
def State.doom (s : State) (h : Nat) (b : Bool) : State :=
  if b then s.onHart h fun x => { x with chunk := x.chunk.map fun c => { c with doomed := true } } else s

/-- CHUNK_COMMIT (R290): a chunk that waits at the arbiter for the priority grant goes on; with `falseMatch` its lines
match another's by their hash. -/
def execChunkCommit (hart : Nat) (falseMatch : Bool) (s : State) : Out :=
  let x := s.hart hart
  match x.status, x.chunk with
  | .arbiter, some c =>
    if x.sent.isSome ∨ s.heldByGrant hart c = true then notNow "CHUNK_COMMIT"
    else .next ((s.doom hart falseMatch).endChunk hart).1
  | .running, some c =>
    if falseMatch ∧ c.own = false then .next (s.doom hart true) else notNow "CHUNK_COMMIT"
  | _, _ => notNow "CHUNK_COMMIT"

/-! Errors of read returns (R283, R373). -/

/-- The first of some locations whose line failed twice: its index. -/
def State.hardAt (s : State) (locs : List Nat) : Option Nat := locs.findIdx? fun l => decide (lineOf l ∈ s.badHard)
/-- Some location's line waits for its refetch. -/
def State.refetching (s : State) (locs : List Nat) : Bool :=
  locs.any fun l => (mapFind? s.bad (lineOf l)).isSome && decide (lineOf l ∉ s.badHard)
/-- The cause of a line that failed twice. -/
def State.hardCause (s : State) (loc : Nat) : Nat := if mapGet false s.bad (lineOf loc) then Cause.checkMismatch else Cause.dataError

/-- A read return whose bits `flip` have changed fails its check after decryption: the CRC-8 of a word, and the CRC-32C of the line,
are not those of the stored plaintext (R283, R284, log 137). -/
def State.flipSeen (s : State) (mark line : Nat) (flip : Line) : Bool :=
  let good := (span (line * 64) 64).map (s.homeByte mark)
  let got := good.zipWith (· ^^^ ·) (leBytes 64 flip.toNat)
  decide (wordCodes got ≠ wordCodes good) && decide (crc32c got ≠ crc32c good)

/-- READ_RETURN_ERROR (R373): the next reads of the line carry an error, of the check code, where the changed bits show, or of the
ECC; the instructions that would consume it have had no effect. -/
def execReadReturnError (hart line : Nat) (check : Bool) (flip : Line) (s : State) : Out :=
  if (mapFind? s.bad line).isSome || (check && !s.flipSeen (s.hartMark hart) line flip) then notNow "READ_RETURN_ERROR"
  else .next { s with bad := mapPut s.bad line check }

/-- REFETCH_RETURN (R373): the line has been fetched once more. -/
def execRefetchReturn (line : Nat) (good : Bool) (s : State) : Out :=
  if (mapFind? s.bad line).isNone ∨ line ∈ s.badHard then notNow "REFETCH_RETURN"
  else if good then .next { s with bad := mapErase s.bad line } else .next { s with badHard := line :: s.badHard }

/-! Bank loads (R179, R180). -/

/-- MBLD_LOAD_COMPLETE (R179): the banks take the tile's bytes and LOADED is set, or the load has failed. Every byte is
taken at this moment, the load's end, which R180 leaves open between issue and end (DESIGN CHOICE: log 129). -/
def execMbldLoadComplete (core bank : Nat) (s : State) : Out :=
  match mapFind? (s.core core).loads bank with
  | none => notNow "MBLD_LOAD_COMPLETE"
  | some l =>
    let r := (s.core core).bRec bank
    let colb := (typeOfCode (recType r)).colBytes (recK r)
    let lo := (recBase r).toNat
    -- a source that a registered destination overlaps waits for that operation (R227)
    let waits := ((s.core core).rltHit (s.hart l.hart).ctx false lo (lo + (recN r - 1) * (recStride r).toNat + colb)).isSome
    if l.failed.isSome ∨ s.refetching l.locs = true ∨ waits = true ∨ s.engineLate l.hart l.locs = true then notNow "MBLD_LOAD_COMPLETE"
    else match s.hardAt l.locs with
      | some i =>
        let va := recBase r + BitVec.ofNat 64 (i / colb) * recStride r + BitVec.ofNat 64 (i % colb)
        .next (s.onCore core fun k => { k with loads := mapPut k.loads bank { l with failed := some va } })
      | none =>
        let (bs, s) := s.engineRead l.hart [] l.efs l.locs
        .next (s.onCore core fun k => k.fillTile bank bs)

/-! Copies (R221, R222). -/

/-- The cell of a core's watermark register. -/
def Core.cellOf (k : Core) (wm : Nat) : Option Nat := (mapFind? k.wm wm).map WmReg.cell

/-- Registers the advance of a published write with the cell it goes to; a follower publishes nothing (R225, R363). -/
def State.publish (s : State) (hart core : Nat) (wm : Option Nat) (lo hi : Word) : State :=
  match wm.bind fun n => (s.core core).cellOf n with
  | some cell => if s.follower hart then s else { s with advances := s.advances ++ [{ cell := cell, lo := lo, hi := hi }] }
  | none => s

/-- An engine write on a hart's behalf through port 2; a follower's reaches only its own scratchpad (R218, R277, R363). -/
def State.engineWrite (s : State) (hart : Nat) (seen efs : List Nat) (bytes : List (Nat × Byte)) : State :=
  let x := s.hart hart
  (s.touchNew (clusterOf hart) seen (bytes.map Prod.fst) .scalar efs).portWrite 2 (s.hartMark hart) x.ctx (x.csr Csr.lspswz)
    (bit (x.csr Csr.phase) 1) (if s.follower hart then bytes.filter fun e => isLsp e.1 else bytes)

/-- An arrival in a core's vector file: it also stands in what a squash of the owner's open chunk would restore. -/
def State.intoFile (s : State) (core : Nat) (f : VecFile → VecFile) : State :=
  let s := s.onCore core fun k => { k with vf := f k.vf }
  match (s.core core).owner with
  | some h => s.onHart h fun x =>
      { x with chunk := x.chunk.map fun c => { c with snap := { c.snap with vf := c.snap.vf.map f } } }
  | none => s

/-- What an access does when it has its bank: it stores its bits, or reads the word at `at_`: a losing read gets the winner's
word, a losing write is dropped (R277, R278). -/
def State.occupy (s : State) (core : Nat) (u : BankUse) (lost : Bool) (at_ : Nat) : State :=
  let word (mark : Nat) : List Byte := (List.range 8).map fun i => s.homeByte mark (at_ + i)
  match u.op with
  | .done => s
  | .write d m mark =>
    if lost then s
    else s.homeWrite mark ((List.range 8).filterMap fun i =>
      let keep : Byte := ~~~(m >>> (8 * i)).setWidth 8
      if keep = 0xFF then none else some (u.loc + i, keepBits keep (s.homeByte mark (u.loc + i)) ((d >>> (8 * i)).setWidth 8)))
  | .scalar isF reg due off n sx =>
    let v := loadExt sx n (((word (s.hartMark u.hart)).drop off).take n)
    let fix (a : HartArch) : HartArch :=
      { a with delayed := a.delayed.map fun e => if e.1 = due ∧ e.2.1 = isF ∧ e.2.2.1 = reg then (due, isF, reg, v) else e }
    s.onHart u.hart fun x => { x with a := fix x.a }
  | .vec base unit k sh width bytes =>
    let bs := word (s.hartMark u.hart)
    s.intoFile core fun f =>
      let img := bytes.foldl (fun img (e : Nat × Nat) => putField img (8 * e.2) 8 (bs.getD e.1 0).toNat) (f.elem base unit k * 2 ^ sh)
      f.setElem base unit k (img / 2 ^ sh % 2 ^ width)

/-- Accesses in the order of their cycles, and of their ports within one. -/
def bankOrder (l : List BankUse) : List BankUse :=
  l.mergeSort fun a b => decide (a.cycle < b.cycle) || (decide (a.cycle = b.cycle) && decide (a.port ≤ b.port))

/-- The accesses to a core's banks up to a cycle are settled, word by word, the lowest-numbered port winning a bank (R278). Those
of that cycle stay known for the requests of the engines and of remote ingress. -/
def State.settleBanks (s : State) (core cycle : Nat) : State :=
  let all := (s.core core).banks
  if all.isEmpty then s
  else
    let due := bankOrder (all.filter fun u => decide (u.cycle ≤ cycle) && decide (u.op ≠ .done))
    let s := s.onCore core fun k =>
      { k with banks := (all.filter fun u => decide (cycle ≤ u.cycle)).map fun u => if u.cycle ≤ cycle then { u with op := .done } else u }
    due.foldl (fun s u =>
      match due.find? fun v => decide (v.cycle = u.cycle) && decide (v.bank = u.bank) && decide (v.port < u.port) with
      | none => s.occupy core u false u.loc
      | some v => (s.occupy core u true v.loc).countConflicts core 1) s

/-- The engine instruction of hart h is not over yet: its chunk still waits at the arbiter (R219, R306). -/
def State.engineHeld (s : State) (h : Nat) : Bool :=
  match (s.hart h).chunk with
  | some c => !c.engines.isEmpty
  | none => false

/-- COPY_GROUP_TRANSFER (R221): the next element group moves; the last one frees the range. -/
def execCopyGroupTransfer (core idx : Nat) (s : State) : Out :=
  let k := s.core core
  match k.copies.find? fun c => decide (c.idx = idx) with
  | none => notNow "COPY_GROUP_TRANSFER"
  | some c =>
    let g := c.done
    let locs := ((c.locs.drop (16 * g)).take 16).flatMap fun l => span l 8
    if s.engineHeld c.hart || s.engineLate c.hart locs then notNow "COPY_GROUP_TRANSFER" else
    let va := c.ea + BitVec.ofNat 64 (128 * g)
    let reg := c.vd + g / 2
    let ctx := (s.hart c.hart).ctx
    let finish (s : State) : State :=
      s.onCore core fun k =>
        if g + 1 = 2 * c.regs then { k with copies := k.copies.filter (fun d => decide (d.idx ≠ idx)), rlt := mapErase k.rlt c.rlt }
        else { k with copies := k.copies.map fun d => if d.idx = idx then { d with done := g + 1, seen := nub (linesOf locs ++ d.seen) } else d }
    if c.store then
      let bs := leBytes 128 (k.vf.group reg (g % 2)).toNat
      let s := s.engineWrite c.hart c.seen c.efs (locs.zip bs)
      .next (finish (s.publish c.hart core c.wm va (va + 128)))
    else if k.sourceWaits ctx va.toNat 128 || s.refetching locs then notNow "COPY_GROUP_TRANSFER"
    else match s.hardAt locs with
      | some i =>
        let bad : FillBy := .failed (s.hardCause (locs.getD i 0)) 0 (va + BitVec.ofNat 64 i).toNat
        .next (finish (s.onCore core fun k => { k with fills := mapPut k.fills (2 * reg + g % 2) bad }))
      | none =>
        let (b, s) := s.engineRead c.hart c.seen c.efs locs
        .next (finish (s.intoFile core fun f => f.setGroup reg (g % 2) (BitVec.ofNat 1024 (leNat b))))

/-! Stream ports (R218). -/

/-- STREAM_ELEMENT_FETCH (R218): an inbound port reads its next element. -/
def execStreamElementFetch (core port : Nat) (s : State) : Out :=
  let k := s.core core
  let no := notNow "STREAM_ELEMENT_FETCH"
  match mapFind? k.streams port with
  | none => no
  | some st => match st.active with
    | none => no
    | some b =>
      let (va, locs) := st.element st.done
      let ctx := (s.hart b.hart).ctx
      if s.engineHeld b.hart = true ∨ b.outbound ∨ st.total ≤ st.done ∨ 64 ≤ st.buf.length ∨ k.sourceWaits ctx va.toNat b.esize = true ∨
          s.refetching locs = true ∨ s.engineLate b.hart locs = true then no
      else
        let ahead := st.list.takeWhile fun b => decide (b.total ≤ b.done)
        let p := (st.list.drop ahead.length).headD b
        let seen := p.seen
        let (bs, s) := s.engineRead b.hart seen (efPages p.pieces) locs
        let seen := nub (linesOf locs ++ seen)
        let v := BitVec.ofNat 144 (leNat bs)
        let bs := ahead ++ { p with done := p.done + 1, seen := seen } :: st.list.drop (ahead.length + 1)
        let st' : Stream := { active := bs.head?, rest := bs.drop 1, buf := st.buf ++ [v] }
        .next (s.onCore core fun k => { k with streams := mapPut k.streams port st' })

/-- STREAM_ELEMENT_WRITE (R218): an outbound port writes the oldest supplied element. -/
def execStreamElementWrite (core port : Nat) (s : State) : Out :=
  let no := notNow "STREAM_ELEMENT_WRITE"
  match mapFind? (s.core core).streams port with
  | none => no
  | some st => match st.active, st.buf with
    | some b, e :: rest =>
      let (va, locs) := st.element b.done
      if !b.outbound || s.engineLate b.hart locs then no
      else
        let s := s.engineWrite b.hart b.seen (efPages b.pieces) (locs.zip (leBytes b.esize e.toNat))
        let s := s.publish b.hart core b.wm va (va + BitVec.ofNat 64 b.esize)
        let st' : Stream := { st with active := some { b with done := b.done + 1, seen := nub (linesOf locs ++ b.seen) }, buf := rest }
        .next (s.onCore core fun k => ({ k with streams := mapPut k.streams port st' } : Core).endBinding port)
    | _, _ => no

/-! Watermarks (R225, R282). -/


/-- WATERMARK_ADVANCE (R225): a published write whose lower bytes are published advances MARK at the cell's home. -/
def execWatermarkAdvance (idx : Nat) (s : State) : Out :=
  match s.advances[idx]? with
  | none => notNow "WATERMARK_ADVANCE"
  | some a =>
    let key := s.markAt a.cell
    let (_, _, m) := s.cellAt key a.cell
    if m.ult a.lo then notNow "WATERMARK_ADVANCE"
    else .next (({ s with advances := s.advances.eraseIdx idx } : State).advanceMark key a.cell a.hi).2

/-- WATERMARK_NOTIFY (R282, R349): the oldest advance sent to the register, or to a waiting launch, arrives. -/
def execWatermarkNotify (core wm : Nat) (s : State) : Out :=
  let mine (e : Nat × Nat × Word) : Bool := decide (e.1 = core) && decide (e.2.1 = wm)
  match s.notify.findIdx? mine with
  | none => notNow "WATERMARK_NOTIFY"
  | some i =>
    let m := (s.notify.getD i (0, 0, 0)).2.2
    let s : State := { s with notify := s.notify.eraseIdx i }
    if 1024 ≤ core then
      match mapFind? s.launches (core - 1024) with
      | none => .next s
      | some l =>
        let ready := if l.readyAt.isNone ∧ m.ult l.wmThr = false then some s.time else l.readyAt
        .next { s with launches := mapPut s.launches (core - 1024) { l with readyAt := ready } }
    else
      .next (s.onCore core fun k => match mapFind? k.wm wm with
        | some r => { k with wm := mapPut k.wm wm { r with mark := m } }
        | none => k)

/-! The scatter-add unit (R169, R248, R301). -/

/-- One element's operation at the port: 0 add, 1 min, 2 max, as elements of the type; the new bits and flags. -/
def scatterOp (t : VT) (op : Nat) (rm : Rm) (q old v : Nat) : Nat × Flags :=
  if t.isInt then
    let pick (a b : Nat) (less : Bool) : Nat := if less then a else b
    let lt : Bool := if t.isSigned then decide (sgnN t.w old < sgnN t.w v) else decide (old < v)
    match op with
    | 0 => ((old + v) % 2 ^ t.w, 0)
    | 1 => (pick old v lt, 0)
    | _ => (pick v old lt, 0)
  else match op with
    | 0 => t.fl.addV rm q (t.fl.value old) (t.fl.value v)
    | 1 => t.fl.minmax false old v
    | _ => t.fl.minmax true old v

/-- A type of a format and width code, as a vector type of one register. -/
def plainType (fmt wcode : Nat) : VT :=
  { ill := false, mgrp := 0, mpol := false, tpol := false, regs := 1, fmt := fmt, wcode := wcode, gran := 0 }

/-- One element's operation at the home of its address (R169, R248). -/
def State.scatterHome (s : State) (mark loc : Nat) (t : VT) (op : Nat) (rm : Rm) (q v : Nat) : Flags × State :=
  let locs := span loc (t.w / 8)
  let (r, fl) := scatterOp t op rm q (leNat (locs.map (s.homeByte mark))) v
  (fl, s.homeWrite mark (locs.zip (leBytes (t.w / 8) r)))

/-- The same for a hart of this device: dirty bytes that its cluster holds are written to the home first (R296). -/
def State.scatterAt (s : State) (hart mark loc : Nat) (t : VT) (op : Nat) (rm : Rm) (q v : Nat) : Flags × State :=
  (s.atHome hart mark (span loc (t.w / 8))).2.scatterHome mark loc t op rm q v

/-- SCATTER_ADD_PERFORM (R301): the port performs one element addition of a VSXADD; in any order. -/
def execScatterAddPerform (idx : Nat) (s : State) : Out :=
  match s.scatter[idx]? with
  | none => notNow "SCATTER_ADD_PERFORM"
  | some e =>
    let (fl, t) := s.scatterAt e.hart e.mark e.loc (plainType (e.ty / 8) (e.ty % 8)) 0 (Rm.ofFrm e.rm) e.q e.v.toNat
    let t : State := { t with scatter := t.scatter.eraseIdx idx }
    .next (t.onHart e.hart fun x =>
      { x with scatter := x.scatter.map fun p => (p.1 - 1, if fl = 0 then p.2 else p.2 ++ [(e.elem, fl)]) })

end Sys2Proof.Machine
end

