-- ==== Sys2Proof/Machine/Fabric.lean ====
section
/-! DEFINITION. The fabric: packets through switches and back, the checks at a target, what a target performs, arrivals at
the sender, striped sends, cipher streams, timeouts and links (spec/10 R235, R240-R251; spec/16 R319; spec/17
R322-R332, R337-R339; spec/13 R286, R287; spec/18 R341). -/

namespace Sys2Proof.Machine

/-! Packets and the harts that sent them. -/

/-- The packet with a number. -/
def State.packet? (s : State) (tag : Nat) : Option Packet := s.packets.find? fun p => decide (p.tag = tag)
/-- Replaces a packet in its place. -/
def State.putPacket (s : State) (p : Packet) : State :=
  { s with packets := s.packets.map fun q => if q.tag = p.tag then p else q }
/-- Removes a packet. -/
def State.dropPacket (s : State) (tag : Nat) : State :=
  { s with packets := s.packets.filter fun q => decide (q.tag ≠ tag) }
/-- The packet was sent by this device. -/
def State.isOwn (s : State) (p : Packet) : Bool := decide (p.src = s.dev.id)

/-- The key of the image that a swap made of a context on a core. -/
def imageKey (swap ctx core : Nat) : Nat := swap * 2 ^ 24 + coreKey ctx core
/-- The swap, the context and the core of an image. -/
def keySwap (k : Nat) : Nat := k / 2 ^ 24
/-- The context of an image. -/
def keyCtx (k : Nat) : Nat := k / 1024 % 2 ^ 14
/-- The core of an image. -/
def keyCore (k : Nat) : Nat := k % 1024

/-- A context's images on a core. -/
def State.imagesOn (s : State) (ctx core : Nat) : List (Nat × Image) :=
  s.images.filter fun e => decide (keyCtx e.1 = ctx) && decide (keyCore e.1 = core)
/-- The oldest image that holds hart h of a context. -/
def State.imageOf (s : State) (ctx h : Nat) : Option (Nat × Image) :=
  (s.imagesOn ctx (coreOf h)).find? fun e => (mapFind? e.2.harts h).isSome

/-- Hart h of a context, on its core or in the context's saved image (R242). -/
def State.savedHart (s : State) (ctx h : Nat) : Hart :=
  if (s.hart h).ctx = ctx then s.hart h
  else ((s.imageOf ctx h).bind fun e => mapFind? e.2.harts h).getD Hart.init

/-- Changes hart h of a context, on its core or in the context's saved image (R242). -/
def State.onSaved (s : State) (ctx h : Nat) (f : Hart → Hart) : State :=
  if (s.hart h).ctx = ctx then s.onHart h f
  else match s.imageOf ctx h with
    | none => s
    | some (k, im) =>
      let im : Image := { im with harts := im.harts.map fun e => if e.1 = h then (h, f e.2) else e }
      { s with images := mapPut s.images k im }

/-- The replicas of hart h of a context. -/
def State.savedReplicas (s : State) (ctx h : Nat) : List Nat :=
  match (s.savedHart ctx h).group.bind (mapFind? s.groups) with
  | some g => g.harts.map Prod.snd
  | none => [h]

/-- Changes hart h of a context and its replicas. -/
def State.onReplicas (s : State) (ctx h : Nat) (f : Hart → Hart) : State :=
  (s.savedReplicas ctx h).foldl (fun s r => s.onSaved ctx r f) s

/-- The deferred route error record takes the first rejection (R242). -/
def State.deferError (s : State) (p : Packet) (cause : Nat) : State :=
  s.onReplicas p.sctx p.hart fun x =>
    { x with deferred := if x.deferred.isSome then x.deferred
                         else some { cause := cause, rt := p.route, off := BitVec.ofNat 64 p.off } }

/-! Ports and generations (R323-R325, R330, R339). -/

/-- Port and stored generation of hop h of a packet's path. -/
def Packet.hop (p : Packet) (h : Nat) : Nat × Nat :=
  (pathPort p.src (fun i => (tokHop p.token i).1) h, (tokHop p.token h).2)

/-- The fabric key is rotated; every live context's mailbox receives a notice (R323). -/
def State.rotateKey (s : State) : State :=
  let key := s.fabricKey + 1
  let notice := (List.range 64).map (Config.rotationNotice key)
  { s with fabricKey := key, outbox := s.outbox ++ (s.ctxs.filter fun e => !e.2.exited).map fun e => (e.1, notice) }

/-- A port's generation advances; before it would pass 255 the fabric key is rotated (R323). -/
def State.advanceGen (s : State) (port : Nat) : State :=
  if s.gen port = 255 then { s.rotateKey with gens := mapPut s.gens port 1 }
  else { s with gens := mapPut s.gens port (s.gen port + 1) }

/-- The checks of a switch, in their order (R325). -/
def State.hopCause (s : State) (p : Packet) (h : Nat) : Option Nat :=
  let (port, g) := p.hop h
  if !tagOk s.fabricKey p.token then some Cause.routeTag
  else if s.gen port ≠ g then some Cause.routeRevoked
  else if tokHops p.token ≤ h then some Cause.routeTag
  else none

/-- A packet of this device has crossed a port on its way to its target. -/
def Packet.crossed (p : Packet) (port : Nat) : Bool :=
  let hops := match p.at_ with
    | .going h => h
    | .held => 0
    | .wait => 0
    | .back => 0
    | .lost => 0
    | .target => tokHops p.token
    | .home _ => tokHops p.token
    | .reply n => n
  (List.range hops).any fun i => decide ((p.hop i).1 = port)

/-- A port's generation advances at one instant: what crossed it before is answered as usual (R319). -/
def State.advancePort (s : State) (port : Nat) : State :=
  ({ s with packets := s.packets.map fun p => if p.crossed port then { p with grace := port :: p.grace } else p } : State).advanceGen port

/-- The answer of a packet stands n hops from its sender; there it concerns nobody where the sender has given it up, or is
another module. -/
def State.replyAt (s : State) (p : Packet) (n : Nat) : State :=
  if n = 0 ∧ (s.isOwn p && !p.orphan) = false then s.dropPacket p.tag else s.putPacket { p with at_ := .reply n }

/-- A packet is answered: the answer starts on its way back over the hops crossed (R325). -/
def State.answerPacket (s : State) (p : Packet) (hops : Nat) (a : RemoteAnswer) (flags : BitVec 6) : State :=
  s.replyAt { p with answer := some a, flags := flags } hops

/-- A stale reply, or a stale request of a peer's old incarnation, is dropped and counted (R325, R339). -/
def State.countStale (s : State) (port : Nat) : State :=
  { s with staleDrops := mapPut s.staleDrops port (Nat.min (mapGet 0 s.staleDrops port + 1) (2 ^ 64 - 1)) }

/-- SWITCH_FORWARD (R319, R325): judged by its own hop's generation as it arrives; forwarded or rejected. -/
def execSwitchForward (tag : Nat) (s : State) : Out :=
  match s.packet? tag with
  | none => notNow "SWITCH_FORWARD"
  | some p => match p.at_ with
    | .going h =>
      match s.hopCause p h with
      | some c =>
        if !s.isOwn p && p.orphan then .next ((s.countStale (p.hop h).1).dropPacket tag)
        else .next (s.answerPacket p h (.rejected (BitVec.ofNat 8 c)) 0)
      | none =>
        if (p.hop h).1 ∈ s.portsDown then notNow "SWITCH_FORWARD"
        else .next (s.putPacket { p with at_ := if tokHops p.token ≤ h + 1 then .target else .going (h + 1) })
    | _ => notNow "SWITCH_FORWARD"

/-- REPLY_HOP (R319, R325): a reply crosses a switch of the reverse path; a stale one is dropped and counted. -/
def execReplyHop (tag : Nat) (s : State) : Out :=
  match s.packet? tag with
  | none => notNow "REPLY_HOP"
  | some p => match p.at_ with
    | .reply (n + 1) =>
      let (port, g) := p.hop n
      if s.gen port ≠ g ∧ port ∉ p.grace then
        .next ((if s.isOwn p && !p.orphan then s.putPacket { p with at_ := .lost } else s.dropPacket tag).countStale port)
      else .next (s.replyAt p n)
    | _ => notNow "REPLY_HOP"

/-! The target (R286, R287, R326, R327, R331, R332). -/

/-- What BASE of an access entry counts in for a class (log 17). -/
def classSpace (c : Nat) : Nat := if c = 1 then 1 else if c = 6 then 6 else 0

/-- The right an operation needs at the target (R240, R245). -/
def PktOp.right : PktOp → Right
  | .load _ _ => .load
  | .vload _ _ => .load
  | .amo _ _ _ _ => .atomic
  | .enq _ => .enqueue
  | .enqm _ _ => .enqueue
  | .reduce _ _ _ => .reduce
  | .delegate _ _ _ => .delegate
  | _ => .store

/-- The first byte a packet names at its target, before relocation (R233). -/
def Packet.addr (p : Packet) : Nat :=
  if tokClass p.token = 2 then tokWbase p.token else tokWbase p.token + tokNoff p.token + p.off

/-- Where the ingress sends an address of this device: an old page's lines go to the new page (R337). -/
def State.relocated (s : State) (a : Nat) : Nat :=
  match mapFind? s.reloc (a / 4096) with
  | some n => n * 4096 + a % 4096
  | none => a

/-- The locations of a packet's bytes at this device. -/
def State.packetLocs (s : State) (p : Packet) : List Nat :=
  if tokClass p.token = 1 then (List.range p.len).map fun i => lspLoc (tokCore p.token) (p.addr + i)
  else (List.range p.len).map fun i => s.relocated (p.addr + i)

/-- An entry admits the packet (R327, check 3). -/
def AccessEntry.admits (e : AccessEntry) (p : Packet) : Bool :=
  let t := p.token
  decide (e.device = p.src) && decide (e.ctx = p.sctx) && decide (e.space = classSpace (tokClass t)) &&
    decide (e.base ≤ p.addr) && decide (p.addr + p.len ≤ e.base + e.len) && decide (e.rights / 2 ^ p.op.right.bit % 2 = 1) &&
    decide (e.keyid = tokKeyid t) && decide (e.c = tokC t) && (decide (tokClass t ≠ 1) || decide (e.tcore = tokCore t))

/-- The context of an entry's window has exited (R327, check 4; R335). -/
def State.ctxExited (s : State) (ctx : Nat) : Bool :=
  match s.ctx? ctx with
  | some c => c.exited
  | none => true

/-- The class rules (R327, check 5): a cause, and for a corrupt queue the poisoned state. -/
def State.classRule (s : State) (p : Packet) (e : AccessEntry) : Option (Nat × State) :=
  let locs := s.packetLocs p
  let mark := s.keyMark e.keyid
  match tokClass p.token with
  | 4 => some (Cause.routeWindow, s)
  | 5 => some (Cause.routeWindow, s)
  | 2 =>
    let q := s.relocated p.addr
    let c := s.qcb mark q
    if !isHbm q || decide (q % 64 ≠ 0) then some (Cause.routeWindow, s)
    else if !c.sound q then some (Cause.queueCorrupt, s.poison mark q)
    else if c.esize ≠ tokWlen p.token then some (Cause.routeWindow, s)
    else if c.kind = 1 ∨ c.kind = 3 ∨ c.kind = 4 then some (Cause.permission, s)
    else none
  | 6 =>
    match p.op with
    | .cprr reg grp =>
      let k := s.core (tokCore p.token)
      let quiet := match k.owner with | some h => !s.engineHeld h | none => false
      let armed := quiet && decide (reg < 32) && decide (mapFind? k.fills (2 * reg + grp) = some .arm) &&
        (match k.owner with | some h => decide ((s.hart h).ctx = tokCtx p.token) | none => false)
      if armed then none else some (Cause.routeWindow, s)
    | _ => some (Cause.routeWindow, s)
  | 1 => if locs.all (fun l => decide (l < lspLoc (tokCore p.token) 0x80000)) then none else some (Cause.routeWindow, s)
  | _ => if locs.all (fun l => if e.keyid = 0 then isHostLoc l else isHbm l) then none else some (Cause.routeWindow, s)

/-- A counter is acceptable to the target's window (R332); `high` is H + 1, 0 before the first packet. -/
def GcmStream.accepts (g : GcmStream) (p : Packet) : Bool :=
  decide (g.high ≤ p.counter + 64) && decide (p.counter ∉ g.seen)
/-- The window after a counter was accepted. -/
def GcmStream.take (g : GcmStream) (c : Nat) : GcmStream :=
  let high := Nat.max g.high (c + 1)
  { g with high := high, seen := c :: g.seen.filter fun d => decide (high ≤ d + 64) }

/-- The stream of a packet. -/
def Packet.stream (p : Packet) : Nat := streamKey p.src (coreOf p.hart) (tokNode p.token) (tokKeyid p.token)
/-- CIPHER_SYNC makes the RKC re-key the stream; new packets of it are held meanwhile (R332). -/
def State.startRekey (s : State) (p : Packet) : State :=
  let g := s.gcmOf p.src (coreOf p.hart) (tokNode p.token) (tokKeyid p.token)
  { s with gcm := mapPut s.gcm p.stream { g with rekeying := true } }
/-- The GCM tag holds under the stream's present key; one made in another epoch does not (R331, R332). -/
def State.gcmHolds (s : State) (p : Packet) (epoch : Nat) : Bool :=
  decide (p.epoch = epoch) && decide (p.gcmTag = gcmTag (s.cipherKey p epoch) p.nonce p.aad p.payload)
/-- A tag failure is reported to the RKC (R332). -/
def State.noteTagFail (s : State) (p : Packet) : State :=
  let g := s.gcmOf p.src (coreOf p.hart) (tokNode p.token) (tokKeyid p.token)
  { s with gcm := mapPut s.gcm p.stream { g with tagFails := g.tagFails + 1 } }
/-- The payload in the clear (R331). -/
def State.opened (s : State) (p : Packet) : List Byte :=
  if tokC p.token then gcmCrypt (s.cipherKey p p.epoch) p.nonce p.payload else p.payload

/-- The RELOC of a packet is 0, or the line to which a relocation entry leads its address (R337). -/
def State.relocOk (s : State) (p : Packet) : Bool :=
  decide (p.reloc = 0) || (decide (s.relocated p.addr ≠ p.addr) && decide (p.reloc = s.relocated p.addr / 64 * 64))

/-- The checks of the target in their order: the admitting entry, or the cause; and the state after them (R327). A RELOC that
matches no entry is ROUTE_WINDOW (R337, log 138). -/
def State.targetCheck (s : State) (p : Packet) : Except Nat AccessEntry × State :=
  if !tagOk s.fabricKey p.token then (.error Cause.routeTag, s)
  else if p.sctx ≠ tokCtx p.token then (.error Cause.routeTag, s)
  else if !s.relocOk p then (.error Cause.routeWindow, s)
  else match s.access.find? fun e => e.admits p with
    | none => (.error Cause.routeWindow, s)
    | some e =>
      if s.ctxExited e.tctx then (.error Cause.routeRevoked, s)
      else if (e.keyid ≠ 0 ∨ (tokClass p.token ≠ 0 ∧ tokClass p.token ≠ 3)) ∧ (s.key e.keyid).state ≠ .live then (.error Cause.routeWindow, s)
      else match s.classRule p e with
        | some (c, t) => (.error c, t)
        | none =>
          if tokC p.token then
            let g := s.gcmOf p.src (coreOf p.hart) (tokNode p.token) (tokKeyid p.token)
            if !s.gcmHolds p g.epoch then (.error Cause.cipherSync, (s.noteTagFail p).startRekey p)
            else if g.accepts p then (.ok e, { s with gcm := mapPut s.gcm p.stream (g.take p.counter) })
            else (.error Cause.cipherSync, s.startRekey p)
          else (.ok e, s)

/-- Bytes read at their home by remote ingress; port 3 of a scratchpad (R277). -/
def State.ingressRead (s : State) (mark ctx : Nat) (locs : List Nat) : List Byte × State :=
  let (lost, s) := s.portRequests 3 ctx 0 false (lspWords locs)
  ((movedLocs lost locs).map (s.homeByte mark), s)

/-- The elements of a remote reduction, each as one atomic at its address (R248). -/
def State.reduceAll (s : State) (mark : Nat) (t : VT) (op : Nat) : List Nat → List Byte → Flags → Flags × State
  | [], _, fl => (fl, s)
  | loc :: locs, bs, fl =>
    let n := t.w / 8
    let (f, s) := s.scatterHome mark loc t op .rne 0 (leNat (bs.take n))
    s.reduceAll mark t op locs (bs.drop n) (fl ||| f)

/-- The operation of a packet admitted to a window of context `tctx`, as one action at the target (R240, R246, R248, R250,
R251, R259, R287, R341). -/
def State.performPacket (s : State) (p : Packet) (tctx : Nat) : RemoteAnswer × Flags × State :=
  let p := { p with payload := s.opened p }
  let mark := s.keyMark (tokKeyid p.token)
  let locs := s.packetLocs p
  let a : Actor := { s.ctxActor tctx with mark := mark }
  let q := s.relocated p.addr
  let write (s : State) : State := s.portWrite 3 mark tctx 0 false (locs.zip p.payload)
  match p.op with
  | .load _ _ =>
    let (b, s) := s.ingressRead mark tctx locs
    (.performed (leWord b), 0, s)
  | .vload _ _ =>
    let (b, s) := s.ingressRead mark tctx locs
    (.bytes b, 0, s)
  | .store => (.performed 0, 0, write s)
  | .stripe _ _ => (.performed 0, 0, write s)
  | .tsend =>
    let s := write s
    let s := if tokClass p.token = 1 then
        (hartsOfCore (tokCore p.token)).foldl (fun s h => s.onSaved tctx h fun x => { x with recvBytes := x.recvBytes + p.len }) s
      else s
    (.performed 0, 0, s)
  | .amo op n _ cmp =>
    let (b, s) := s.ingressRead mark tctx locs
    let (new, fl) := amoNew op n (leWord b) (leWord p.payload) cmp
    (.performed (leWord b), fl, s.portWrite 3 mark tctx 0 false (locs.zip (leBytes n new.toNat)))
  | .enq _ => match s.enqAt a q p.payload with
    | .ok (some t) => (.performed 0, 0, t)
    | .ok none => (.performed 1, 0, s)
    | .error _ => (.rejected (BitVec.ofNat 8 Cause.routeWindow), 0, s)
  | .enqm _ k => match s.enqMany a q p.len k p.payload with
    | .ok (n, t) => (.performed (BitVec.ofNat 64 n), 0, t)
    | .error _ => (.rejected (BitVec.ofNat 8 Cause.routeWindow), 0, s)
  | .reduce op fmt wcode =>
    let t := plainType fmt wcode
    let n := t.w / 8
    let starts := (List.range (p.len / n)).map fun i => locs.getD (i * n) 0
    let (fl, s) := s.reduceAll mark t op starts p.payload 0
    (.performed 0, fl, s)
  | .cprr reg grp =>
    let core := tokCore p.token
    let s := s.intoFile core fun f => f.setGroup reg grp (BitVec.ofNat 1024 (leNat p.payload))
    (.performed 0, 0, s.onCore core fun k => { k with fills := mapErase k.fills (2 * reg + grp) })
  | .delegate _ _ _ => (.rejected (BitVec.ofNat 8 Cause.routeWindow), 0, s)

/-! Minting (R322). -/

/-- PATH and HOPS for ports in hop order, with their current generations, from a holder on device `self`. -/
def State.pathBits (s : State) (self : Nat) (ports : List Nat) : Nat :=
  (ports.zipIdx.foldl (fun (v : Nat) (e : Nat × Nat) =>
    v + (e.1 % 64 + 64 * s.gen (pathPort self (fun h => ports.getD h 0 % 64) e.2)) * 2 ^ (68 + 14 * e.2)) 0) + ports.length * 2 ^ 64

/-- The sealed token of a grant, with fresh narrowing fields (R232, R322). -/
def State.makeToken (s : State) (self cls node wbase wlen rights keyid : Nat) (c : Bool) (ctx stripe : Nat)
    (ports : List Nat) : Line :=
  let v := s.pathBits self ports + cls % 16 * 2 ^ 180 + node % 2 ^ 23 * 2 ^ 184 + wbase % 2 ^ 48 * 2 ^ 208 +
    wlen % 2 ^ 40 * 2 ^ 256 + rights % 64 * 2 ^ 296 + ctx % 2 ^ 14 * 2 ^ 304 + keyid % 4096 * 2 ^ 318 +
    (if c then 2 ^ 330 else 0) + stripe % 256 * 2 ^ 332 + wlen % 2 ^ 40 * 2 ^ 380 + 0x3F * 2 ^ 420
  sealTok s.fabricKey (BitVec.ofNat 512 v)

/-- Installs or extends the access entry of a window; none where the pair holds 64 entries and none can be extended
(R322, R326). An entry is extended only over the bytes it and the window cover together. -/
def State.installEntry (s : State) (n : AccessEntry) : Option State :=
  let bare (e : AccessEntry) : AccessEntry := { e with base := 0, len := 0, rights := 0, via := [] }
  let alike (e : AccessEntry) : Bool := decide (bare e = bare n)
  let joined (e : AccessEntry) : List Nat := e.via ++ n.via.filter fun v => decide (v ∉ e.via)
  let covers (e : AccessEntry) : Bool :=
    alike e && decide (e.base ≤ n.base) && decide (n.base + n.len ≤ e.base + e.len) && decide (e.rights &&& n.rights = n.rights)
  let joins (e : AccessEntry) : Bool :=
    alike e && decide (e.rights = n.rights) && decide (e.base ≤ n.base + n.len) && decide (n.base ≤ e.base + e.len)
  match s.access.findIdx? covers with
  | some i => let e := s.access.getD i n; some { s with access := s.access.set i { e with via := joined e } }
  | none => match s.access.findIdx? joins with
    | some i =>
      let e := s.access.getD i n
      let lo := Nat.min e.base n.base
      let hi := Nat.max (e.base + e.len) (n.base + n.len)
      some { s with access := s.access.set i { e with base := lo, len := hi - lo, via := joined e } }
    | none =>
      if 64 ≤ (s.access.filter fun e => decide (e.device = n.device) && decide (e.ctx = n.ctx)).length then none
      else some { s with access := s.access ++ [n] }

/-- A path that the RKC may choose: 1 to 8 hops, the first by one of the 24 Iluen ports of the source (R2, R322). -/
def pathOk (ports : List Nat) : Bool :=
  decide (1 ≤ ports.length) && decide (ports.length ≤ 8) && (ports.all fun p => decide (p < 64)) && decide (ports.headD 0 < 24)

/-- The last port of a path from a device: the one that the RKC advances to revoke the route alone at its end (R315, log 132). -/
def lastPort (self : Nat) (ports : List Nat) : Nat := pathPort self (fun h => ports.getD h 0) (ports.length - 1)

/-- A live context that consents to debugging has the core (R336). -/
def State.consents (s : State) (core : Nat) : Bool :=
  s.ctxs.any fun e => e.2.consent && !e.2.exited && decide (core ∈ e.2.cores)

/-- The RKC's answer to RTDLG: the re-minted token; or a reason or the cause of a bad seal (R235, R238). `device` is the target
context's device and `ports` the path it chose for it. -/
def State.remintFor (s : State) (p : Packet) (target : Nat) (again : Bool) (device : Nat) (ports : List Nat) :
    Except Nat (Line × State) :=
  let t := p.token
  let cls := tokClass t
  let rights := if again then tokEff t else tokEff t &&& 0x1F
  let tk := s.makeToken device cls (tokNode t) (effStart t) (effLen t) rights (tokKeyid t) (tokC t) target (tokStripe t) ports
  if !tagOk s.fabricKey t then .error Cause.routeTag
  else if device = s.dev.id ∧ s.ctxExited target = true then .error 1
  else if cls = 4 ∨ (cls = 5 ∧ tokDevice t = s.dev.id ∧ s.consents (tokCore t) = false) then .error 2
  else if tokDevice t ≠ s.dev.id ∨ cls = 5 then .ok (tk, s)
  else
    let own (e : AccessEntry) : Bool :=
      decide (e.device = s.dev.id) && decide (e.ctx = p.sctx) && decide (e.space = classSpace cls) && decide (e.base ≤ effStart t) &&
        decide (effStart t + effLen t ≤ e.base + e.len) && decide (e.keyid = tokKeyid t) && decide (e.c = tokC t) &&
        (decide (cls ≠ 1) || decide (e.tcore = tokCore t))
    match s.access.find? own with
    | none => .error 2
    | some e => match s.installEntry { e with device := device, ctx := target, base := effStart t, len := effLen t, rights := rights,
                                              via := [lastPort device ports] } with
      | none => .error 3
      | some s => .ok (tk, s)

/-! TARGET_PERFORM. -/

/-- When a packet's instruction was issued, among those of its device: stripes count from their VRSEND. -/
def Packet.issued (p : Packet) : Nat := match p.op with | .stripe j _ => j | _ => p.wire

/-- The members of a striped send's set that have failed, by its own rejections or by the marks of the set (R246). -/
def State.failedMembers (s : State) (j : SendJob) : List Nat :=
  let set := (mapFind? (s.savedHart j.ctx j.hart).a.rsets j.set).getD { members := [], failed := [] }
  let same := set.members.all (fun r => (mapFind? j.tokens r).isSome) && decide (set.members.length = j.tokens.length)
  j.failed ++ if same then set.failed else []

/-- The stripes of a send that have not left, each with the route register it is to take now (R246). -/
def State.unsentStripes (s : State) (j : SendJob) : List (Nat × Nat) :=
  let q := j.q.filter fun r => decide (r ∉ s.failedMembers j)
  (j.resend.zipIdx.map fun e => (e.1, q.getD ((j.resendPos + e.2) % q.length) 0)) ++
    (((List.range j.stripes).filter fun i => decide (j.sent ≤ i)).map fun i => (i, j.q.getD (i % j.q.length) 0)).filter
      fun e => decide (e.2 ∉ j.failed)

/-- An earlier operation of the same hart through the same route to overlapping bytes has not been performed or rejected yet
(R244). -/
def State.mustFollow (s : State) (p : Packet) : Bool :=
  (s.packets.any fun q =>
    decide (q.src = p.src) && decide (q.hart = p.hart) && decide (q.sctx = p.sctx) && decide (q.route = p.route) &&
      decide (q.issued < p.issued) && q.answer.isNone && decide (q.addr < p.addr + p.len) && decide (p.addr < q.addr + q.len)) ||
  (s.isOwn p && s.jobs.any fun j =>
    decide (j.hart = p.hart) && decide (j.ctx = p.sctx) && decide (j.id < p.issued) && (s.unsentStripes j).any fun e =>
      let t := mapGet 0 j.tokens e.2
      let a := tokWbase t + tokNoff t + j.off + 256 * e.1
      decide (e.2 = p.route) && decide (a < p.addr + p.len) && decide (p.addr < a + (j.data.length - 256 * e.1)))

/-- The causes that a target may answer (R235, R240, R327). -/
def remoteCauses : List (BitVec 8) := [0x06, 0x08, 0x09, 0x0A, 0x0B, 0x18]

/-- The answer of another device fits the operation. -/
def PktOp.fits (op : PktOp) (a : RemoteAnswer) : Bool :=
  match a with
  | .here => false
  | .path _ _ => false
  | .rejected c => decide (c ∈ remoteCauses)
  | .moved _ => true
  | .bytes b => match op with
    | .vload _ _ => decide (b.length = 128)
    | _ => false
  | .performed v => match op with
    | .vload _ _ => false
    | .enq _ => decide (v.toNat ≤ 1)
    | .enqm _ k => decide (v.toNat ≤ k)
    | _ => true

/-- The target of a CPRR group is a context that owns the core's vector file in a saved image: not resident (R251). -/
def State.cprrAway (s : State) (p : Packet) : Bool :=
  match p.op with
  | .cprr _ _ =>
    let resident := match (s.core (tokCore p.token)).owner with | some h => decide ((s.hart h).ctx = tokCtx p.token) | none => false
    !resident && (s.imagesOn (tokCtx p.token) (tokCore p.token)).any fun e => e.2.owner.isSome
  | _ => false

/-- The RKC answers an RTDLG: with the path it chose for the target context's device, or with a reason (R238). -/
def State.delegated (s : State) (p : Packet) (target : Nat) (again : Bool) (answer : RemoteAnswer) : Option State :=
  let done (s : State) (a : RemoteAnswer) : State :=
    if p.orphan then s.dropPacket p.tag else s.putPacket { p with answer := some a, at_ := .back }
  let choice : Option (Nat × List Nat) := match answer with
    | .here => some (s.dev.id, (List.range (tokHops p.token)).map fun h => (tokHop p.token h).1)
    | .path d ports => if pathOk ports then some (d % 4096, ports) else none
    | _ => none
  match answer, choice with
  | .rejected c, _ =>
    if (1 ≤ c.toNat ∧ c.toNat ≤ 3) ∧ (c = 1 → s.ctxExited target = true) then
      some (done s (.rejected (if tagOk s.fabricKey p.token then c else BitVec.ofNat 8 Cause.routeTag))) else none
  | _, some (d, ports) => match s.remintFor p target again d ports with
    | .ok (t, u) => some (done u (.bytes (leBytes 64 t.toNat)))
    | .error r => some (done s (.rejected (BitVec.ofNat 8 r)))
  | _, none => none

/-- The line at which a page of this device holds a byte of a packet now, where the page moved after the packet passed the
ingress (R337). -/
def State.movedLine (s : State) (p : Packet) : Option Nat :=
  if tokClass p.token = 1 ∨ tokClass p.token = 6 then none
  else ((List.range (Nat.max 1 p.len)).find? fun i => decide (s.relocated (p.addr + i) ≠ p.addr + i)).map fun _ =>
    s.relocated p.addr / 64 * 64

/-- A packet passes the ingress of this device, unless an old page's lines are sent on there; its home performs it later
(R327, R337). -/
def State.enterHome (s : State) (tag : Nat) : Option State :=
  match s.packet? tag with
  | none => none
  | some p =>
    let rkc := match p.op with | .delegate _ _ _ => true | _ => false
    if p.at_ ≠ .target ∨ rkc = true ∨ tokDevice p.token ≠ s.dev.id ∨ (!s.isOwn p && p.orphan) = true ∨ s.mustFollow p = true ∨
        s.cprrAway p = true ∨ (s.movedLine p).isSome = true then none
    else match s.targetCheck p with
      | (.error _, _) => none
      | (.ok e, t) => some (t.putPacket { p with at_ := .home e.tctx })

/-- TARGET_PERFORM (R327): checked and performed by this device; by another module, or by the RKC for RTDLG, with the
answer that `answer` brings. A request of a peer's old incarnation is dropped and counted (R339). -/
def execTargetPerform (tag : Nat) (answer : RemoteAnswer) (s : State) : Out :=
  let no := notNow "TARGET_PERFORM"
  let perform (s : State) (p : Packet) (tctx : Nat) : Out :=
    let (a, fl, t) := s.performPacket p tctx
    .next (t.answerPacket p (tokHops p.token) a fl)
  match s.packet? tag with
  | none => no
  | some p => match p.at_, p.op with
    | .home tctx, _ =>
      if answer ≠ .here then no
      else match s.movedLine p with
        | some line => .next (s.answerPacket p (tokHops p.token) (.moved line) 0)
        | none => perform s p tctx
    | .target, .delegate _ target again => match s.delegated p target again answer with
      | some t => .next t
      | none => no
    | .target, op =>
      if s.mustFollow p then no
      else if tokDevice p.token = s.dev.id then
        if answer ≠ .here then no
        else if !s.isOwn p && p.orphan then .next ((s.countStale (p.hop (tokHops p.token - 1)).1).dropPacket tag)
        else if s.cprrAway p then .next (s.putPacket { p with at_ := .wait, sentAt := s.time })
        else match s.targetCheck p with
          | (.error c, s) => .next (s.answerPacket p (tokHops p.token) (.rejected (BitVec.ofNat 8 c)) 0)
          | (.ok e, s) => perform s p e.tctx
      else if op.fits answer then
        let fl : Flags := match op, answer with
          | .reduce _ _ _, .performed v => v.setWidth 6
          | _, _ => 0
        let s := if answer = .rejected 0x18 then s.startRekey p else s
        .next (s.answerPacket p (tokHops p.token) answer fl)
      else no
    | _, _ => no

/-! Arrivals at the sender. -/

/-- A packet whose answer has come all the way back. -/
def State.arrived (s : State) (tag : Nat) : Option (Packet × RemoteAnswer) :=
  match s.packet? tag with
  | none => none
  | some p => if p.at_ = .reply 0 then p.answer.map fun a => (p, a) else none

/-- The rejection of an earlier packet through the same route register may still arrive (R319). -/
def State.earlierRejection (s : State) (p : Packet) : Bool :=
  (s.packets.takeWhile fun q => decide (q.tag ≠ p.tag)).any fun q =>
    decide (q.src = p.src) && decide (q.hart = p.hart) && decide (q.sctx = p.sctx) && decide (q.route = p.route) && !q.orphan &&
      decide (q.at_ ≠ .lost) && decide (q.at_ ≠ .back) && (match q.answer with | none => true | some (.rejected _) => true | _ => false)

/-- REMOTE_REPLY_ARRIVAL (R241): the waiting instruction finds its reply when it is re-issued. A rejection comes behind those of
earlier packets through its register (R319). -/
def execRemoteReplyArrival (tag : Nat) (s : State) : Out :=
  match s.arrived tag with
  | some (_, .moved _) => notNow "REMOTE_REPLY_ARRIVAL"
  | some (p, .rejected _) =>
    if p.op.waits && !s.earlierRejection p then .next (s.putPacket { p with at_ := .back }) else notNow "REMOTE_REPLY_ARRIVAL"
  | some (p, _) => if p.op.waits then .next (s.putPacket { p with at_ := .back }) else notNow "REMOTE_REPLY_ARRIVAL"
  | none => notNow "REMOTE_REPLY_ARRIVAL"

/-- A striped send with nothing left to send and nothing outstanding is over. -/
def State.endJob (s : State) (id : Nat) : State :=
  let busy := s.packets.any fun p => match p.op with | .stripe j _ => decide (j = id) && !p.orphan | _ => false
  { s with jobs := s.jobs.filter fun j =>
      decide (j.id ≠ id) || busy || !j.resend.isEmpty ||
        (List.range j.stripes).any fun i => decide (j.sent ≤ i) && decide (j.q.getD (i % j.q.length) 0 ∉ j.failed) }

/-- REMOTE_ACK_ARRIVAL (R243): a posted operation was performed; flags of a reduction are ORed into FFLAGS (R248). -/
def execRemoteAckArrival (tag : Nat) (s : State) : Out :=
  match s.arrived tag with
  | some (p, .performed _) =>
    if p.op.waits then notNow "REMOTE_ACK_ARRIVAL"
    else
      let s := s.dropPacket tag
      let s := if p.flags = 0 then s else
        s.onReplicas p.sctx p.hart fun x => x.async fun a =>
          { a with csr := mapSet 0 a.csr Csr.fflags (mapGet 0 a.csr Csr.fflags ||| p.flags.setWidth 64) }
      .next (match p.op with | .stripe j _ => s.endJob j | _ => s)
  | _ => notNow "REMOTE_ACK_ARRIVAL"

/-- RSETSTAT takes the first report; later ones set OVF (R246, R247). -/
def rsetReport (old : Word) (stripe set route cause : Nat) : Word :=
  if bit old 32 then old ||| 0x200000000
  else BitVec.ofNat 64 (2 ^ 32 + stripe % 65536 * 2 ^ 16 + set * 2 ^ 12 + route * 2 ^ 8 + cause)

/-- A rejected stripe: its member is marked failed, RSETSTAT reports, and the stripe and the member's unsent ones join
the re-send list; where no member is left, or the cause is another, the error is deferred (R246). -/
def State.stripeRejected (s : State) (p : Packet) (id i cause : Nat) : State :=
  match s.jobs.find? fun j => decide (j.id = id) with
  | none => s.deferError p cause
  | some j =>
    let k := p.route
    if cause = Cause.routeTag ∨ cause = Cause.routeRevoked ∨ cause = Cause.cipherSync then
      let unsent := if k ∈ j.failed then [] else
        (List.range j.stripes).filter fun n => decide (j.sent ≤ n) && decide (j.q.getD (n % j.q.length) 0 = k)
      let batch := (unsent.filter fun n => decide (n < i)) ++ [i] ++ unsent.filter fun n => decide (i < n)
      let failed := if k ∈ j.failed then j.failed else k :: j.failed
      let left := j.q.any fun r => decide (r ∉ k :: s.failedMembers j)
      let j' : SendJob := { j with failed := failed, resend := if left then j.resend ++ batch else [] }
      let s : State := { s with jobs := s.jobs.map fun q => if q.id = id then j' else q }
      let s := s.onReplicas p.sctx p.hart fun x => x.async fun a =>
        { a with
          rsets := a.rsets.map fun e =>
            if e.1 = j.set ∧ k ∈ e.2.members ∧ k ∉ e.2.failed then (e.1, { e.2 with failed := k :: e.2.failed }) else e,
          csr := mapSet 0 a.csr Csr.rsetstat (rsetReport (mapGet 0 a.csr Csr.rsetstat) i j.set k cause) }
      (if left then s else s.deferError p cause).endJob id
    else (s.deferError p cause).endJob id

/-- The groups of a remote load are taken by every replica that still stands for the hart. -/
def State.loadHolders (s : State) (p : Packet) : List Nat :=
  match (s.savedHart p.sctx p.hart).group.bind (mapFind? s.groups) with
  | some g => (g.harts.filter fun e => decide (e.1 ∈ g.live)).map Prod.snd
  | none => [p.hart]

/-- The unfilled groups of the core on which hart h of a context runs or is saved. -/
def State.fillsOf (s : State) (ctx h : Nat) : FMap FillBy :=
  if (s.hart h).ctx = ctx then (s.core (coreOf h)).fills
  else ((s.imageOf ctx h).map fun e => e.2.fills).getD []

/-- Hart h of a context has issued the remote load whose group this is. -/
def State.awaits (s : State) (ctx h key tag : Nat) : Bool :=
  match mapFind? (s.fillsOf ctx h) key with
  | some (.vrld t _ _) => decide (t = tag) && ((s.savedHart ctx h).chunk.all fun c => c.engines.isEmpty)
  | _ => false

/-- Fills a group, or marks it failed, in the vector file of hart h of a context or in its saved image (R250). -/
def State.fillGroup (s : State) (ctx h key : Nat) (v : Option (BitVec 1024)) (failed : FillBy) : State :=
  let reg := key / 2
  let grp := key % 2
  let fills (m : FMap FillBy) : FMap FillBy := match v with | some _ => mapErase m key | none => mapPut m key failed
  let file (f : VecFile) : VecFile := f.setGroup reg grp (v.getD 0)
  if (s.hart h).ctx = ctx then
    (s.intoFile (coreOf h) file).onCore (coreOf h) fun k => { k with fills := fills k.fills }
  else match s.imageOf ctx h with
    | none => s
    | some (k, im) =>
      { s with images := mapPut s.images k { im with vf := file im.vf, fills := fills im.fills } }

/-- A remote load's group is settled in every replica; afterwards a failed group reads as zero (R250). -/
def State.settleLoad (s : State) (p : Packet) (key : Nat) (v : Option (BitVec 1024)) (cause : Nat) : State :=
  (s.loadHolders p).foldl (fun s h => s.fillGroup p.sctx h key v (.failed cause p.route p.off)) (s.dropPacket p.tag)

/-- VRLD_GROUP_ARRIVAL (R250). -/
def execVrldGroupArrival (tag grp : Nat) (s : State) : Out :=
  match s.arrived tag with
  | some (p, .bytes b) => match p.op with
    | .vload reg g =>
      if g = grp ∧ (s.loadHolders p).all (fun h => s.awaits p.sctx h (2 * reg + g) tag) = true then
        .next (s.settleLoad p (2 * reg + g) (some (BitVec.ofNat 1024 (leNat b))) 0)
      else notNow "VRLD_GROUP_ARRIVAL"
    | _ => notNow "VRLD_GROUP_ARRIVAL"
  | _ => notNow "VRLD_GROUP_ARRIVAL"

/-- A posted operation was rejected (R242, R246, R250). -/
def State.posted (s : State) (p : Packet) (cause : Nat) : State :=
  match p.op with
  | .stripe j i => (s.dropPacket p.tag).stripeRejected p j i cause
  | .vload reg g => s.settleLoad p (2 * reg + g) none cause
  | _ => (s.dropPacket p.tag).deferError p cause

/-- The replicas of a remote load have all issued it. -/
def State.loadReady (s : State) (p : Packet) : Bool :=
  match p.op with
  | .vload reg g => (s.loadHolders p).all fun h => s.awaits p.sctx h (2 * reg + g) p.tag
  | _ => true

/-- NEGATIVE_ACK_ARRIVAL (R242, R246): rejections through one register arrive in the order their packets left (R319). -/
def execNegativeAckArrival (tag : Nat) (s : State) : Out :=
  match s.arrived tag with
  | some (p, .rejected c) =>
    if p.op.waits ∨ s.earlierRejection p = true ∨ s.loadReady p = false then notNow "NEGATIVE_ACK_ARRIVAL"
    else .next (s.posted p c.toNat)
  | _ => notNow "NEGATIVE_ACK_ARRIVAL"

/-- MOVED_RESEND (R337): the request is sent again with the new line's address. -/
def execMovedResend (tag : Nat) (s : State) : Out :=
  match s.arrived tag with
  | some (p, .moved line) =>
    let (p, s) := s.stamp { p with reloc := line, answer := none }
    .next (s.putPacket p)
  | _ => notNow "MOVED_RESEND"

/-- CPRR_GROUP_ARRIVAL (R251): a group that another module sent arrives at an armed register. -/
def execCprrGroupArrival (core reg grp ctx : Nat) (data : BitVec 1024) (s : State) : Out :=
  let k := s.core core
  let owner := match k.owner with | some h => decide ((s.hart h).ctx = ctx) | none => false
  let quiet := match k.owner with | some h => !s.engineHeld h | none => false
  if owner = true ∧ quiet = true ∧ reg < 32 ∧ grp < 2 ∧ mapFind? k.fills (2 * reg + grp) = some .arm then
    let s := s.intoFile core fun f => f.setGroup reg grp data
    .next (s.onCore core fun k => { k with fills := mapErase k.fills (2 * reg + grp) })
  else notNow "CPRR_GROUP_ARRIVAL"

/-- CPRR_RESEND_TIMER (R251): 1 µs after the attempt the group is sent again. -/
def execCprrResendTimer (tag : Nat) (s : State) : Out :=
  match s.packet? tag with
  | some p =>
    if p.at_ = .wait ∧ p.sentAt + 1000 ≤ s.time then
      let (p, s) := s.stamp { p with sentAt := s.time }
      .next (s.putPacket p)
    else notNow "CPRR_RESEND_TIMER"
  | none => notNow "CPRR_RESEND_TIMER"

/-- REMOTE_TIMEOUT (R339): 2 ms without a reply complete the operation with ROUTE_REVOKED; a request that is still on its
way goes on without its sender, under its own tag (R324). -/
def execRemoteTimeout (tag : Nat) (s : State) : Out :=
  match s.packet? tag with
  | none => notNow "REMOTE_TIMEOUT"
  | some p =>
    if !s.isOwn p || p.orphan || decide (p.at_ = .back) || decide (s.time < p.sentAt + 2000000) || !s.loadReady p then
      notNow "REMOTE_TIMEOUT"
    else
      let q := { p with tag := s.tagCtr }
      let s : State := { s with tagCtr := s.tagCtr + 1 }
      let s := match p.answer, p.at_ with
        | none, .going _ => s.putPacket { p with orphan := true }
        | none, .target => s.putPacket { p with orphan := true }
        | none, .home _ => s.putPacket { p with orphan := true }
        | some _, .reply (_ + 1) => s.putPacket { p with orphan := true }
        | _, _ => s.dropPacket tag
      if p.op.waits then .next { s with packets := s.packets ++ [{ q with answer := some (.rejected 0x09), at_ := .back }] }
      else .next (s.posted q Cause.routeRevoked)

/-! Striped sends (R246). -/

/-- The next stripe of a send leaves: from the re-send list through Q', else the next that was not sent. -/
def State.sendStripe (s : State) (id : Nat) : Option State :=
  match s.jobs.find? fun j => decide (j.id = id) with
  | none => none
  | some j =>
    let leave (i r : Nat) (j : SendJob) : State :=
      let s : State := { s with jobs := s.jobs.map fun q => if q.id = id then j else q }
      let b := (j.data.drop (256 * i)).take 256
      (s.sendAs j.hart j.ctx r (mapGet 0 j.tokens r) (.stripe id i) (j.off + 256 * i) b.length b).2
    let dead := !j.q.any fun r => decide (r ∉ s.failedMembers j)
    match j.resend, s.unsentStripes j with
    | _ :: _, (i, r) :: _ =>
      -- where the last member failed for another send of the set, the stripes to send again go with it; the error is deferred
      if dead then some (({ s with jobs := s.jobs.map fun q => if q.id = id then { j with resend := [] } else q } : State).endJob id)
      else some (leave i r { j with resend := j.resend.drop 1, resendPos := j.resendPos + 1 })
    | [], (i, r) :: _ => some (leave i r { j with sent := i + 1 })
    | _, [] => none

/-- A packet of another module reaches this one (R328): it stands at one of the target's own hops, or at the target; one of an
old incarnation of its sender meets a generation first (R339). A request of RENQM is all its packets together (R287). -/
def State.receive (s : State) (p : Packet) : Option State :=
  let place := match p.at_ with
    | .going h => decide (1 ≤ h) && decide (h < tokHops p.token)
    | .target => !p.orphan
    | _ => false
  let most := match p.op with | .enqm _ _ => 16384 | _ => 256
  if place && !s.isOwn p && decide (tokDevice p.token = s.dev.id) && p.answer.isNone && p.grace.isEmpty &&
      decide (p.payload.length ≤ most) then
    some { s with packets := s.packets ++ [{ p with tag := s.tagCtr }], tagCtr := s.tagCtr + 1 }
  else none

/-! Links, peers and cipher streams. -/

/-- LINK_FLIT_REPLAY (R330): the flit that waits at a port is sent again; `good` tells whether it came through this time. The
packet is delivered exactly once. -/
def execLinkFlitReplay (port : Nat) (good : Bool) (s : State) : Out :=
  let n := mapGet 0 s.linkFails port
  if port ∈ s.portsDown ∨ 16 ≤ n then notNow "LINK_FLIT_REPLAY"
  else .next { s with linkFails := if good then mapErase s.linkFails port else mapPut s.linkFails port (n + 1) }

/-- LINK_DOWN (R330): after 16 failed replays of one flit the link goes down and the generations of both its ports advance. -/
def execLinkDown (portA portB : Nat) (s : State) : Out :=
  if portA ∈ s.portsDown ∨ portB ∈ s.portsDown ∨ portA = portB ∨
      (mapGet 0 s.linkFails portA < 16 ∧ mapGet 0 s.linkFails portB < 16) then notNow "LINK_DOWN"
  else
    let s := (s.advancePort portA).advancePort portB
    .next { s with portsDown := portA :: portB :: s.portsDown, linkFails := mapErase (mapErase s.linkFails portA) portB }

/-- A device has rejoined under its id: every port of its hub and every port that leads to it is a generation on, and no packet
that crossed one before is spared (R339). Where the count of rejoins would carry a generation past 255, the fabric key is
rotated (R323, log 141). -/
def State.rejoined (s : State) (device : Nat) : State :=
  let ports := (s.gens.map Prod.fst).filter (facesDevice device)
  let s : State := { s with packets := s.packets.map fun p => { p with grace := p.grace.filter fun g => !facesDevice device g } }
  let n := mapGet 0 s.rejoins device + 1
  if n = 127 then { s.rotateKey with gens := [], rejoins := [] }
  else { ports.foldl State.advanceGen s with rejoins := mapPut s.rejoins device n }

/-- PEER_REJOIN (R339): the generations of the reset device's ports advance; its old packets count as stale. `ports` are those
whose links are up again. -/
def execPeerRejoin (device : Nat) (ports : List Nat) (s : State) : Out :=
  if device = s.dev.id ∨ 4096 ≤ device ∨ ports.any (fun p => !facesDevice device p) = true then notNow "PEER_REJOIN"
  else
    let s := s.rejoined device
    .next { s with
      portsDown := s.portsDown.filter fun p => decide (p ∉ ports),
      packets := s.packets.map fun p => if p.src = device then { p with orphan := true } else p }

/-- CIPHER_REKEY (R332): the next epoch, counters at 0, and the held packets of the stream leave in their order. -/
def execCipherRekey (stream : Nat) (s : State) : Out :=
  match mapFind? s.gcm stream with
  | none => notNow "CIPHER_REKEY"
  | some g =>
    if !g.rekeying then notNow "CIPHER_REKEY"
    else
      let g := { g with epoch := (g.epoch + 1) % 65536, counter := 0, high := 0, seen := [], rekeying := false }
      let s : State := { s with gcm := mapPut s.gcm stream g }
      .next (s.packets.foldl (fun s p =>
        if p.at_ = .held ∧ p.stream = stream then
          let (q, s) := s.stamp p
          s.putPacket q
        else s) s)

end Sys2Proof.Machine
end

