-- ==== Sys2Proof/Machine/VectorInstr.lean ====
section
/-! DEFINITION. The vector, matrix and send operations, each as a convoy of one (spec/02 R46, R47, R69): every meaning names its
operation, which `Member.result`, `Member.memElem`, `Member.whole`, `Member.matrix` and `Member.sendOp` give. -/

namespace Sys2Proof.Machine

/-- VADD (R135): Element-wise integer add. -/
def execVadd (w : VWord) (s : State) : Out := .next (s.runMember .vadd w)
/-- VSUB (R135): Element-wise integer subtract. -/
def execVsub (w : VWord) (s : State) : Out := .next (s.runMember .vsub w)
/-- VRSUB (R135): Element-wise reverse subtract, b - a. -/
def execVrsub (w : VWord) (s : State) : Out := .next (s.runMember .vrsub w)
/-- VMUL (R135): Low part of the element product. -/
def execVmul (w : VWord) (s : State) : Out := .next (s.runMember .vmul w)
/-- VMULH (R135): High part of the signed element product. -/
def execVmulh (w : VWord) (s : State) : Out := .next (s.runMember .vmulh w)
/-- VMULHN (R135): High part of the natural element product. -/
def execVmulhn (w : VWord) (s : State) : Out := .next (s.runMember .vmulhn w)
/-- VMACC (R135): d + a x b. -/
def execVmacc (w : VWord) (s : State) : Out := .next (s.runMember .vmacc w)
/-- VNMSAC (R135): d - a x b. -/
def execVnmsac (w : VWord) (s : State) : Out := .next (s.runMember .vnmsac w)
/-- VDIV (R135): Element signed division. -/
def execVdiv (w : VWord) (s : State) : Out := .next (s.runMember .vdiv w)
/-- VDIVN (R135): Element natural division. -/
def execVdivn (w : VWord) (s : State) : Out := .next (s.runMember .vdivn w)
/-- VREM (R135): Element signed remainder. -/
def execVrem (w : VWord) (s : State) : Out := .next (s.runMember .vrem w)
/-- VREMN (R135): Element natural remainder. -/
def execVremn (w : VWord) (s : State) : Out := .next (s.runMember .vremn w)
/-- VMIN (R135): Element signed minimum. -/
def execVmin (w : VWord) (s : State) : Out := .next (s.runMember .vmin w)
/-- VMAX (R135): Element signed maximum. -/
def execVmax (w : VWord) (s : State) : Out := .next (s.runMember .vmax w)
/-- VMINN (R135): Element natural minimum. -/
def execVminn (w : VWord) (s : State) : Out := .next (s.runMember .vminn w)
/-- VMAXN (R135): Element natural maximum. -/
def execVmaxn (w : VWord) (s : State) : Out := .next (s.runMember .vmaxn w)
/-- VSADD (R135): Signed saturating add. -/
def execVsadd (w : VWord) (s : State) : Out := .next (s.runMember .vsadd w)
/-- VSADDN (R135): Natural saturating add. -/
def execVsaddn (w : VWord) (s : State) : Out := .next (s.runMember .vsaddn w)
/-- VSSUB (R135): Signed saturating subtract. -/
def execVssub (w : VWord) (s : State) : Out := .next (s.runMember .vssub w)
/-- VSSUBN (R135): Natural saturating subtract. -/
def execVssubn (w : VWord) (s : State) : Out := .next (s.runMember .vssubn w)
/-- VAVG (R135): Rounded average. -/
def execVavg (w : VWord) (s : State) : Out := .next (s.runMember .vavg w)
/-- VABSD (R135): Absolute difference. -/
def execVabsd (w : VWord) (s : State) : Out := .next (s.runMember .vabsd w)
/-- VSLL (R136): Element left shift. -/
def execVsll (w : VWord) (s : State) : Out := .next (s.runMember .vsll w)
/-- VSRL (R136): Element logical right shift. -/
def execVsrl (w : VWord) (s : State) : Out := .next (s.runMember .vsrl w)
/-- VSRA (R136): Element arithmetic right shift. -/
def execVsra (w : VWord) (s : State) : Out := .next (s.runMember .vsra w)
/-- VNSRL (R137): Narrowing logical right shift with rounding. -/
def execVnsrl (w : VWord) (s : State) : Out := .next (s.runMember .vnsrl w)
/-- VNSRA (R137): Narrowing arithmetic right shift with rounding. -/
def execVnsra (w : VWord) (s : State) : Out := .next (s.runMember .vnsra w)
/-- VWADD (R138): Widening add. -/
def execVwadd (w : VWord) (s : State) : Out := .next (s.runMember .vwadd w)
/-- VWMUL (R138): Widening multiply. -/
def execVwmul (w : VWord) (s : State) : Out := .next (s.runMember .vwmul w)
/-- VCLZ (R135): Leading zero count per element. -/
def execVclz (w : VWord) (s : State) : Out := .next (s.runMember .vclz w)
/-- VCPOP (R135): Population count per element. -/
def execVcpop (w : VWord) (s : State) : Out := .next (s.runMember .vcpop w)
/-- VSEXT (R138): Sign extension from a narrower source group. -/
def execVsext (w : VWord) (s : State) : Out := .next (s.runMember .vsext w)
/-- VZEXT (R138): Zero extension from a narrower source group. -/
def execVzext (w : VWord) (s : State) : Out := .next (s.runMember .vzext w)
/-- VAND (R139): Bitwise AND of elements. -/
def execVand (w : VWord) (s : State) : Out := .next (s.runMember .vand w)
/-- VOR (R139): Bitwise OR of elements. -/
def execVor (w : VWord) (s : State) : Out := .next (s.runMember .vor w)
/-- VXOR (R139): Bitwise XOR of elements. -/
def execVxor (w : VWord) (s : State) : Out := .next (s.runMember .vxor w)
/-- VNOT (R139): Bitwise NOT of elements. -/
def execVnot (w : VWord) (s : State) : Out := .next (s.runMember .vnot w)
/-- VMERGE (R139): Selects b or a by the mask. -/
def execVmerge (w : VWord) (s : State) : Out := .next (s.runMember .vmerge w)
/-- VMV (R139): Element move, including whole SX blocks. -/
def execVmv (w : VWord) (s : State) : Out := .next (s.runMember .vmv w)
/-- VMS_EQ (R139): Integer equal compare into a mask. -/
def execVmsEq (w : VWord) (s : State) : Out := .next (s.runMember .vmsEq w)
/-- VMS_NE (R139): Integer not-equal compare into a mask. -/
def execVmsNe (w : VWord) (s : State) : Out := .next (s.runMember .vmsNe w)
/-- VMS_LT (R139): Signed less-than compare into a mask. -/
def execVmsLt (w : VWord) (s : State) : Out := .next (s.runMember .vmsLt w)
/-- VMS_LTN (R139): Natural less-than compare into a mask. -/
def execVmsLtn (w : VWord) (s : State) : Out := .next (s.runMember .vmsLtn w)
/-- VMS_LE (R139): Signed less-or-equal compare into a mask. -/
def execVmsLe (w : VWord) (s : State) : Out := .next (s.runMember .vmsLe w)
/-- VMS_LEN (R139): Natural less-or-equal compare into a mask. -/
def execVmsLen (w : VWord) (s : State) : Out := .next (s.runMember .vmsLen w)
/-- VMS_GT (R139): Signed greater-than compare into a mask. -/
def execVmsGt (w : VWord) (s : State) : Out := .next (s.runMember .vmsGt w)
/-- VMS_GTN (R139): Natural greater-than compare into a mask. -/
def execVmsGtn (w : VWord) (s : State) : Out := .next (s.runMember .vmsGtn w)
/-- VMAND (R139): Mask AND. -/
def execVmand (w : VWord) (s : State) : Out := .next (s.runMember .vmand w)
/-- VMOR (R139): Mask OR. -/
def execVmor (w : VWord) (s : State) : Out := .next (s.runMember .vmor w)
/-- VMXOR (R139): Mask XOR. -/
def execVmxor (w : VWord) (s : State) : Out := .next (s.runMember .vmxor w)
/-- VMANDN (R139): Mask AND NOT. -/
def execVmandn (w : VWord) (s : State) : Out := .next (s.runMember .vmandn w)
/-- VMNOT (R139): Mask NOT. -/
def execVmnot (w : VWord) (s : State) : Out := .next (s.runMember .vmnot w)
/-- VMSET (R139): Sets the mask bits. -/
def execVmset (w : VWord) (s : State) : Out := .next (s.runMember .vmset w)
/-- VMCLR (R139): Clears the mask bits. -/
def execVmclr (w : VWord) (s : State) : Out := .next (s.runMember .vmclr w)
/-- VMSBF (R141): Sets the mask bits before the first set source bit. -/
def execVmsbf (w : VWord) (s : State) : Out := .next (s.runMember .vmsbf w)
/-- VMSIF (R141): Sets the mask bits up to and including the first set source bit. -/
def execVmsif (w : VWord) (s : State) : Out := .next (s.runMember .vmsif w)
/-- VMSOF (R141): Sets only the mask bit of the first set source bit. -/
def execVmsof (w : VWord) (s : State) : Out := .next (s.runMember .vmsof w)
/-- VIOTA (R141): Writes the prefix count of set mask bits per element. -/
def execViota (w : VWord) (s : State) : Out := .next (s.runMember .viota w)
/-- VID (R139): Writes each element's index. -/
def execVid (w : VWord) (s : State) : Out := .next (s.runMember .vid w)
/-- VFADD (R142): Floating add of elements. -/
def execVfadd (w : VWord) (s : State) : Out := .next (s.runMember .vfadd w)
/-- VFSUB (R142): Floating subtract of elements. -/
def execVfsub (w : VWord) (s : State) : Out := .next (s.runMember .vfsub w)
/-- VFMUL (R142): Floating multiply of elements. -/
def execVfmul (w : VWord) (s : State) : Out := .next (s.runMember .vfmul w)
/-- VFDIV (R142): Floating divide of elements. -/
def execVfdiv (w : VWord) (s : State) : Out := .next (s.runMember .vfdiv w)
/-- VFSQRT (R142): Floating square root of elements. -/
def execVfsqrt (w : VWord) (s : State) : Out := .next (s.runMember .vfsqrt w)
/-- VFMA (R142): Fused a x b + c per element. -/
def execVfma (w : VWord) (s : State) : Out := .next (s.runMember .vfma w)
/-- VFMS (R142): Fused a x b - c per element. -/
def execVfms (w : VWord) (s : State) : Out := .next (s.runMember .vfms w)
/-- VFNMA (R142): Fused -(a x b) - c per element. -/
def execVfnma (w : VWord) (s : State) : Out := .next (s.runMember .vfnma w)
/-- VFNMS (R142): Fused -(a x b) + c per element. -/
def execVfnms (w : VWord) (s : State) : Out := .next (s.runMember .vfnms w)
/-- VFMIN (R142): Element minimumNumber. -/
def execVfmin (w : VWord) (s : State) : Out := .next (s.runMember .vfmin w)
/-- VFMAX (R142): Element maximumNumber. -/
def execVfmax (w : VWord) (s : State) : Out := .next (s.runMember .vfmax w)
/-- VFSGNJ (R142): Element sign injection. -/
def execVfsgnj (w : VWord) (s : State) : Out := .next (s.runMember .vfsgnj w)
/-- VFSGNJN (R142): Element negated sign injection. -/
def execVfsgnjn (w : VWord) (s : State) : Out := .next (s.runMember .vfsgnjn w)
/-- VFSGNJX (R142): Element XOR sign injection. -/
def execVfsgnjx (w : VWord) (s : State) : Out := .next (s.runMember .vfsgnjx w)
/-- VFCLASS (R142): Class number of each element. -/
def execVfclass (w : VWord) (s : State) : Out := .next (s.runMember .vfclass w)
/-- VMF_EQ (R142): Floating equal compare into a mask. -/
def execVmfEq (w : VWord) (s : State) : Out := .next (s.runMember .vmfEq w)
/-- VMF_NE (R142): Floating not-equal compare into a mask. -/
def execVmfNe (w : VWord) (s : State) : Out := .next (s.runMember .vmfNe w)
/-- VMF_LT (R142): Floating less-than compare into a mask. -/
def execVmfLt (w : VWord) (s : State) : Out := .next (s.runMember .vmfLt w)
/-- VMF_LE (R142): Floating less-or-equal compare into a mask. -/
def execVmfLe (w : VWord) (s : State) : Out := .next (s.runMember .vmfLe w)
/-- VMF_GT (R142): Floating greater-than compare into a mask. -/
def execVmfGt (w : VWord) (s : State) : Out := .next (s.runMember .vmfGt w)
/-- VMF_GE (R142): Floating greater-or-equal compare into a mask. -/
def execVmfGe (w : VWord) (s : State) : Out := .next (s.runMember .vmfGe w)
/-- VFCVT_FTOI (R143): Same-width conversion from floating to integer. -/
def execVfcvtFtoi (w : VWord) (s : State) : Out := .next (s.runMember .vfcvtFtoi w)
/-- VFCVT_ITOF (R143): Same-width conversion from integer to floating. -/
def execVfcvtItof (w : VWord) (s : State) : Out := .next (s.runMember .vfcvtItof w)
/-- VFWCVT_FTOF (R143): Widening floating-to-floating conversion. -/
def execVfwcvtFtof (w : VWord) (s : State) : Out := .next (s.runMember .vfwcvtFtof w)
/-- VFWCVT_FTOI (R143): Widening floating-to-integer conversion. -/
def execVfwcvtFtoi (w : VWord) (s : State) : Out := .next (s.runMember .vfwcvtFtoi w)
/-- VFWCVT_ITOF (R143): Widening integer-to-floating conversion. -/
def execVfwcvtItof (w : VWord) (s : State) : Out := .next (s.runMember .vfwcvtItof w)
/-- VFNCVT_FTOF (R143): Narrowing floating-to-floating conversion. -/
def execVfncvtFtof (w : VWord) (s : State) : Out := .next (s.runMember .vfncvtFtof w)
/-- VFNCVT_FTOI (R143): Narrowing floating-to-integer conversion. -/
def execVfncvtFtoi (w : VWord) (s : State) : Out := .next (s.runMember .vfncvtFtoi w)
/-- VFNCVT_ITOF (R143): Narrowing integer-to-floating conversion. -/
def execVfncvtItof (w : VWord) (s : State) : Out := .next (s.runMember .vfncvtItof w)
/-- VFWMA (R144): Widening fused multiply-add into the wide group. -/
def execVfwma (w : VWord) (s : State) : Out := .next (s.runMember .vfwma w)
/-- VSXPACK (R145): Packs binary values into SX blocks. -/
def execVsxpack (w : VWord) (s : State) : Out := .next (s.runMember .vsxpack w)
/-- VSXUNPK (R146): Unpacks SX blocks to binary values. -/
def execVsxunpk (w : VWord) (s : State) : Out := .next (s.runMember .vsxunpk w)
/-- VEXP2 (R147): Correctly rounded 2^a. -/
def execVexp2 (w : VWord) (s : State) : Out := .next (s.runMember .vexp2 w)
/-- VLOG2 (R147): Correctly rounded log2 a. -/
def execVlog2 (w : VWord) (s : State) : Out := .next (s.runMember .vlog2 w)
/-- VRCP (R147): Correctly rounded reciprocal. -/
def execVrcp (w : VWord) (s : State) : Out := .next (s.runMember .vrcp w)
/-- VRSQ (R147): Correctly rounded reciprocal square root. -/
def execVrsq (w : VWord) (s : State) : Out := .next (s.runMember .vrsq w)
/-- VSIN (R147): Correctly rounded sine. -/
def execVsin (w : VWord) (s : State) : Out := .next (s.runMember .vsin w)
/-- VCOS (R147): Correctly rounded cosine. -/
def execVcos (w : VWord) (s : State) : Out := .next (s.runMember .vcos w)
/-- VTANH (R147): Correctly rounded tanh. -/
def execVtanh (w : VWord) (s : State) : Out := .next (s.runMember .vtanh w)
/-- VSIGM (R147): Correctly rounded logistic sigmoid. -/
def execVsigm (w : VWord) (s : State) : Out := .next (s.runMember .vsigm w)
/-- VERF (R147): Correctly rounded erf. -/
def execVerf (w : VWord) (s : State) : Out := .next (s.runMember .verf w)
/-- VLE (R157): Unit-stride vector load. -/
def execVle (w : VWord) (s : State) : Out := .next (s.runMember .vle w)
/-- VSE (R157): Unit-stride vector store. -/
def execVse (w : VWord) (s : State) : Out := .next (s.runMember .vse w)
/-- VLSE (R154): Strided vector load. -/
def execVlse (w : VWord) (s : State) : Out := .next (s.runMember .vlse w)
/-- VSSE (R154): Strided vector store. -/
def execVsse (w : VWord) (s : State) : Out := .next (s.runMember .vsse w)
/-- VLXE (R154): Indexed vector gather. -/
def execVlxe (w : VWord) (s : State) : Out := .next (s.runMember .vlxe w)
/-- VSXE (R154): Indexed vector scatter. -/
def execVsxe (w : VWord) (s : State) : Out := .next (s.runMember .vsxe w)
/-- VLGL (R167): Gather that also sets links in the hart's link set. -/
def execVlgl (w : VWord) (s : State) : Out := .next (s.runMember .vlgl w)
/-- VSSC (R168): Scatter-conditional on the links, writing a success mask. -/
def execVssc (w : VWord) (s : State) : Out := .next (s.runMember .vssc w)
/-- VLSEG (R156): Segment load of nf fields per record. -/
def execVlseg (w : VWord) (s : State) : Out := .next (s.runMember .vlseg w)
/-- VSSEG (R156): Segment store of nf fields per record. -/
def execVsseg (w : VWord) (s : State) : Out := .next (s.runMember .vsseg w)
/-- VLEFF (R165): Fault-only-first load that shortens VL at a later fault. -/
def execVleff (w : VWord) (s : State) : Out := .next (s.runMember .vleff w)
/-- VLWR (R166): Whole-register load. -/
def execVlwr (w : VWord) (s : State) : Out := .next (s.runMember .vlwr w)
/-- VSWR (R166): Whole-register store. -/
def execVswr (w : VWord) (s : State) : Out := .next (s.runMember .vswr w)
/-- VSXADD (R169): Scatter-add of elements as device-scope atomics at the memory ports. -/
def execVsxadd (w : VWord) (s : State) : Out := .next (s.runMember .vsxadd w)
/-- VLST (R170): Pops stream elements into a vector group. -/
def execVlst (w : VWord) (s : State) : Out := .next (s.runMember .vlst w)
/-- VRED_SUM (R173): Integer sum reduction. -/
def execVredSum (w : VWord) (s : State) : Out := .next (s.runMember .vredSum w)
/-- VRED_MAX (R173): Integer maximum reduction. -/
def execVredMax (w : VWord) (s : State) : Out := .next (s.runMember .vredMax w)
/-- VRED_MIN (R173): Integer minimum reduction. -/
def execVredMin (w : VWord) (s : State) : Out := .next (s.runMember .vredMin w)
/-- VRED_AND (R173): AND reduction. -/
def execVredAnd (w : VWord) (s : State) : Out := .next (s.runMember .vredAnd w)
/-- VRED_OR (R173): OR reduction. -/
def execVredOr (w : VWord) (s : State) : Out := .next (s.runMember .vredOr w)
/-- VRED_XOR (R173): XOR reduction. -/
def execVredXor (w : VWord) (s : State) : Out := .next (s.runMember .vredXor w)
/-- VFREDSUM (R96): Floating tree-sum reduction. -/
def execVfredsum (w : VWord) (s : State) : Out := .next (s.runMember .vfredsum w)
/-- VFREDOSUM (R96): Floating ordered-sum reduction. -/
def execVfredosum (w : VWord) (s : State) : Out := .next (s.runMember .vfredosum w)
/-- VFREDMAX (R173): Floating maximum reduction. -/
def execVfredmax (w : VWord) (s : State) : Out := .next (s.runMember .vfredmax w)
/-- VFREDMIN (R173): Floating minimum reduction. -/
def execVfredmin (w : VWord) (s : State) : Out := .next (s.runMember .vfredmin w)
/-- VSLIDEUP (R172): Slides elements up by k. -/
def execVslideup (w : VWord) (s : State) : Out := .next (s.runMember .vslideup w)
/-- VSLIDEDN (R172): Slides elements down by k. -/
def execVslidedn (w : VWord) (s : State) : Out := .next (s.runMember .vslidedn w)
/-- VPERM (R172): Permutes elements by an index group. -/
def execVperm (w : VWord) (s : State) : Out := .next (s.runMember .vperm w)
/-- VCOMPRESS (R174): Packs the selected elements to the front. -/
def execVcompress (w : VWord) (s : State) : Out := .next (s.runMember .vcompress w)
/-- VEXPAND (R174): Spreads packed elements to the selected positions. -/
def execVexpand (w : VWord) (s : State) : Out := .next (s.runMember .vexpand w)
/-- VMVSX (R172): Moves a scalar into element 0. -/
def execVmvsx (w : VWord) (s : State) : Out := .next (s.runMember .vmvsx w)
/-- VZIP (R172): Interleaves two groups into a wide group. -/
def execVzip (w : VWord) (s : State) : Out := .next (s.runMember .vzip w)
/-- VUNZIP (R172): Takes the even or the odd elements of a wide group. -/
def execVunzip (w : VWord) (s : State) : Out := .next (s.runMember .vunzip w)
/-- VTRN (R172): Transposes element pairs. -/
def execVtrn (w : VWord) (s : State) : Out := .next (s.runMember .vtrn w)
/-- MBLD (R179): Registers a B tile and starts its load into the CIM banks. -/
def execMbld (w : VWord) (s : State) : Out := .next (s.runMember .mbld w)
/-- MBINV (R181): Drops the tile that holds a bank. -/
def execMbinv (w : VWord) (s : State) : Out := .next (s.runMember .mbinv w)
/-- MMA (R185): Accumulates A rows times the resident B, row by row. -/
def execMma (w : VWord) (s : State) : Out := .next (s.runMember .mma w)
/-- MMAS (R185): Scaled matrix accumulate using two scale registers. -/
def execMmas (w : VWord) (s : State) : Out := .next (s.runMember .mmas w)
/-- MZERO (R189): Zeroes an accumulator. -/
def execMzero (w : VWord) (s : State) : Out := .next (s.runMember .mzero w)
/-- MXTR (R191): Extracts and narrows an accumulator row segment. -/
def execMxtr (w : VWord) (s : State) : Out := .next (s.runMember .mxtr w)
/-- MXTRZ (R192): Extracts and zeroes an accumulator row segment. -/
def execMxtrz (w : VWord) (s : State) : Out := .next (s.runMember .mxtrz w)
/-- MCENS (R195): Reads the census table into eight registers, optionally clearing it. -/
def execMcens (w : VWord) (s : State) : Out := .next (s.runMember .mcens w)
/-- MSCL (R190): Writes a scale register from a scalar. -/
def execMscl (w : VWord) (s : State) : Out := .next (s.runMember .mscl w)
/-- CPV (R221): Starts a background copy from memory into registers. -/
def execCpv (w : VWord) (s : State) : Out := .next (s.runMember .cpv w)
/-- CPVS (R221): Starts a background copy from registers to memory. -/
def execCpvs (w : VWord) (s : State) : Out := .next (s.runMember .cpvs w)
/-- CPRR_SEND (R251): Sends registers to another vector file through a CLASS 6 route. -/
def execCprrSend (w : VWord) (s : State) : Out := .next (s.runMember .cprrSend w)
/-- CPRR_ARM (R251): Marks registers as receiving a CPRR transfer. -/
def execCprrArm (w : VWord) (s : State) : Out := .next (s.runMember .cprrArm w)
/-- VRSEND (R246): Sends a vector group striped across a route set, in the background. -/
def execVrsend (w : VWord) (s : State) : Out := .next (s.runMember .vrsend w)
/-- VRRED_ADD (R248): Remote scatter-add of elements into a reduce sink. -/
def execVrredAdd (w : VWord) (s : State) : Out := .next (s.runMember .vrredAdd w)
/-- VRRED_MIN (R248): Remote minimum of elements into a reduce sink. -/
def execVrredMin (w : VWord) (s : State) : Out := .next (s.runMember .vrredMin w)
/-- VRRED_MAX (R248): Remote maximum of elements into a reduce sink. -/
def execVrredMax (w : VWord) (s : State) : Out := .next (s.runMember .vrredMax w)
/-- VENQ (R249): Enqueues a vector group as queue elements. -/
def execVenq (w : VWord) (s : State) : Out := .next (s.runMember .venq w)
/-- VRLD (R250): Remote load of whole registers through a route. -/
def execVrld (w : VWord) (s : State) : Out := .next (s.runMember .vrld w)

end Sys2Proof.Machine
end

