-- ==== Sys2Proof/Machine/Fetch.lean ====
section
/-! DEFINITION. Fetching the instruction at PC through the core's instruction cache, and what stands there (spec/02
R23-R25, R38-R41; spec/12 R271). -/

namespace Sys2Proof.Machine

/-- An instruction cache of 1,024 lines with one line more; a full one gives up another (R271). -/
def codePut (victim line : Nat) (d : Line) (m : FMap Line) : FMap Line :=
  mapPut (if m.length < 1024 then m else m.eraseIdx (victim % 1024)) line d

/-- Brings a line of code into the executing hart's instruction cache, where it is not held (R271); `ins` is how it enters the
L2 (R280). -/
def State.cacheLine (ins : Insert) (s : State) (line : Nat) : State :=
  match mapFind? s.myCore.icache line with
  | some _ => s
  | none =>
    let k := clusterOf s.cur
    let s := if isHbm (line * 64) then s.touch k line ins else s
    let d := (List.range 64).foldl
      (fun d i => setLineByte d i (s.clusterByte k (s.hartMark s.cur) (line * 64 + i))) (0 : Line)
    s.onMyCore fun q => { q with icache := codePut (Config.victim s.freeCtr) line d q.icache }

/-- A byte of code as the instruction cache holds it. -/
def Core.codeByte (k : Core) (loc : Nat) : Byte := lineByte (mapGet 0 k.icache (lineOf loc)) (loc % 64)

/-- n bytes of code at PC (R25, R271); a line whose update waits for a chunk that holds it is not read (R294). -/
def State.codeBytes (s : State) (n : Nat) : Except Exc (List Byte × State) := do
  let (acc, s) ← s.locate (s.who s.cur) .fetch 0 (n + 2) s.pc n Acc.none
  let fresh := acc.locs.filter fun l => (mapFind? s.myCore.icache (lineOf l)).isNone
  if s.waitsUpdate s.cur fresh then throw .stall
  s.checkData 0 s.pc fresh
  let s := (linesOf acc.locs).foldl (State.cacheLine (acc.insert .scalar)) s
  return (acc.locs.map s.myCore.codeByte, s)

/-- What a fetch yields: something to execute, or bits that no entry assigns with their TVAL2 (R38, R39, R51). -/
inductive Fetched where
  | ready (d : Decoded)
  | bad (bits tval2 : Word)
deriving DecidableEq, Repr

/-- Decodes fetched bytes (R23, R38, R39). -/
def decodeFetched (b : List Byte) : Fetched :=
  match decode b with
  | .ok (d, _) => .ready d
  | .error .reservedCount => .bad (leWord (b.take 4)) (failTval2 (BitVec.ofNat 32 (leNat (b.take 4))) 7)
  | .error _ => .bad (leWord (b.take (if leNat (b.take 1) % 4 = 3 then 4 else 2))) 0

/-- Fetches the instruction or the whole convoy at PC (R23, R25). -/
def State.fetch (s : State) : Except Exc (Fetched × State) := do
  let (b, s) ← s.codeBytes 2
  if leNat (b.take 1) % 4 ≠ 3 then return (decodeFetched b, s)
  let (b, s) ← s.codeBytes 4
  let n := leNat (b.drop 1 |>.take 1) % 8 + 1
  if leNat (b.take 1) ≠ 255 ∨ 6 < n then return (decodeFetched b, s)
  let (b, s) ← s.codeBytes (4 + 8 * n)
  return (decodeFetched b, s)

/-- ILLEGAL_INSTRUCTION (R38, R39): the trap of an encoding that no entry assigns. -/
def execIllegalInstruction (bits : Word) (s : State) : Out := .next (s.run .plain fun _ => .error (illegal bits))

/-- L2HINT: the row that X[rs2][63:60] names; the other operations are not assigned (R231). -/
def execL2hint (rd rs1 rs2 : Reg) (s : State) : Out :=
  match bits (s.x rs2) 63 60 with
  | 0 => execL2hintFetch rd rs1 rs2 s
  | 1 => execL2hintDemote rd rs1 rs2 s
  | 2 => execL2hintCounters rd rs1 rs2 s
  | _ => execIllegalInstruction (hintBits rd rs1 rs2) s

end Sys2Proof.Machine
end

