-- ==== Sys2Proof/Machine/Replication.lean ====
section
/-! DEFINITION. The cupping unit: forwarded values, signatures and their comparison, votes, timeouts, and the boundary at
which replicas take an event (spec/20 R359-R361; spec/21 R362-R371; spec/14 R306). -/

namespace Sys2Proof.Machine

/-- Changes a group. -/
def State.onGroup (s : State) (g : Nat) (f : Group → Group) : State :=
  match mapFind? s.groups g with
  | none => s
  | some G => { s with groups := mapPut s.groups g (f G) }

/-- The harts of the live replicas, by index. -/
def Group.liveHarts (g : Group) : List (Nat × Nat) := g.live.map fun r => (r, mapGet 0 g.harts r)

/-- FORWARD_VALUE_ARRIVAL (R317, R364): the value that a parked replica waits for is in the log, or the replica has become
the lead. -/
def execForwardValueArrival (hart : Nat) (s : State) : Out :=
  let t := s.as hart
  match s.groupOf hart with
  | some g =>
    let subs := match (s.hart hart).chunk with | some c => c.fwdSubs | none => []
    let log := g.received hart
    let more := subs.zipIdx.any fun e => match log[t.fwdStart + e.2]? with | some (.val v) => decide (e.1.2 < v.length) | _ => false
    if (s.hart hart).status = .parked .forward ∧ (t.fwdPos < log.length ∨ more = true ∨ s.follower hart = false) then
      .next (s.onHart hart (·.setStatus .running))
    else notNow "FORWARD_VALUE_ARRIVAL"
  | none => notNow "FORWARD_VALUE_ARRIVAL"

/-- Both or all replicas execute the chunk once more, with forwarded values from the log (R369, R370). -/
def State.again (s : State) (g : Nat) (tries : Nat) (hs : List Nat) : State :=
  let s := hs.foldl (fun s h => (s.squash h).onHart h fun x => { x with tries := tries }) s
  s.onGroup g fun G => { G with sigs := [], tries := tries, timer := none }

/-- The chunk that the lead of a group holds does not pass the arbiter: it became the lead while its chunk waited (R290, R306). -/
def State.leadFails (s : State) (G : Group) : Bool :=
  let lead := mapGet 0 G.harts G.lead
  match (s.hart lead).chunk with
  | some c => s.heldByGrant lead c || s.conflicts lead c
  | none => false

/-- The agreed chunk commits: the lead's first, then the scratchpad stores of the others, whose clusters invalidate every
line it wrote (R363, R368). The log and the signatures start anew. A new lead's chunk that conflicts is squashed, and all execute it
again. -/
def State.commitGroup (s : State) (g : Nat) : State :=
  match mapFind? s.groups g with
  | none => s
  | some G =>
    if s.leadFails G then s.again g G.tries (G.liveHarts.map Prod.snd) else
    let lead := mapGet 0 G.harts G.lead
    let lines := match (s.hart lead).chunk with
      | some c => linesOf ((c.buf.map Prod.fst).filter isHbm)
      | none => []
    let followers := (G.liveHarts.map Prod.snd).filter (· ≠ lead)
    let s := s.commit lead
    let s := followers.foldl (fun s h => s.commit h) s
    let s := followers.foldl (fun s h =>
      if clusterOf h = clusterOf lead then s else lines.foldl (fun s l => s.evict (clusterOf h) l) s) s
    let s := lines.foldl (fun s l => s.writeBack (clusterOf lead) l) s
    let s := (G.liveHarts.map Prod.snd).foldl (fun s h => s.onHart h fun x => { x with fwdBase := 0 }) s
    s.onGroup g fun G => { G with
      log := [], lost := [], sigs := [], tries := 0, timer := none, vote := none,
      cut := G.cut.map fun c => { c with ordinal := c.ordinal + 1, count := 0 } }

/-- A trap of hart h before its next instruction. -/
def State.trapAtNext (s : State) (h cause : Nat) (tval tval2 : Word) : State :=
  { (s.as h).takeTrap cause tval tval2 with cur := s.cur }

/-- The second disagreement: every replica traps REPL_MISMATCH at the chunk's first instruction; nothing is performed
(R369, R370). -/
def State.mismatch (s : State) (g : Nat) (hs : List Nat) (a b : BitVec 128) : State :=
  let s := hs.foldl (fun s h => (s.rewind h).onHart h fun x => { x with tries := 0, fwdBase := 0 }) s
  let s := s.onGroup g fun G => { G with sigs := [], tries := 0, timer := none, log := [], lost := [] }
  hs.foldl (fun s h => s.trapAtNext h Cause.replMismatch (a.setWidth 64) (b.setWidth 64)) s

/-- The chunk of the surviving replicas commits and each traps before its next instruction (R361, R371, R375); the vote is over. -/
def State.commitAndTrap (s : State) (g cause : Nat) (tval tval2 : Word) : State :=
  match mapFind? s.groups g with
  | none => s
  | some G => (G.liveHarts.map Prod.snd).foldl (fun s h => s.trapAtNext h cause tval tval2)
      ((s.commitGroup g).onGroup g fun G => { G with vote := none })

/-- A vote finds replica r in the minority (R361, R370). -/
def State.voteOut (s : State) (g r : Nat) (x : BitVec 128) : State :=
  (s.stopReplica g r Cause.replVote).commitAndTrap g Cause.replVote (BitVec.ofNat 64 r) (x.setWidth 64)

/-- The comparison, once every live replica has sent its signature (R368-R370). -/
def State.compare (s : State) (g : Nat) : State :=
  match mapFind? s.groups g with
  | none => s
  | some G =>
    let sg (r : Nat) : BitVec 128 := mapGet 0 G.sigs r
    let hs := G.liveHarts.map Prod.snd
    let retry (a b : BitVec 128) : State := if G.tries = 0 then s.again g 1 hs else s.mismatch g hs a b
    match G.live with
    | [a, b] =>
      if sg a = sg b then
        match G.vote with
        | some r => s.commitAndTrap g Cause.replVote (BitVec.ofNat 64 r) 0
        | none => s.commitGroup g
      else retry (sg G.lead) (sg (if G.lead = a then b else a))
    | [a, b, c] =>
      if sg a = sg b ∧ sg b = sg c then s.commitGroup g
      else if sg a = sg b then s.voteOut g c (sg c ^^^ sg a)
      else if sg a = sg c then s.voteOut g b (sg b ^^^ sg a)
      else if sg b = sg c then s.voteOut g a (sg a ^^^ sg b)
      else retry (sg a) (sg b)
    | _ => s

/-- SIGNATURE_ARRIVAL (R368): a live replica's signature reaches the lead's cupping unit, which a closed channel rejects (R371);
the last one decides. -/
def execSignatureArrival (group replica : Nat) (s : State) : Out :=
  match mapFind? s.groups group with
  | none => notNow "SIGNATURE_ARRIVAL"
  | some G =>
    match (s.hart (mapGet 0 G.harts replica)).sent with
    | some sg =>
      if replica ∉ G.live ∨ (mapFind? G.sigs replica).isSome ∨ s.channelOpen G replica G.lead = false then notNow "SIGNATURE_ARRIVAL"
      else
        let sigs := mapPut G.sigs replica sg
        let s := s.onGroup group fun G => { G with sigs := sigs, timer := some (G.timer.getD 0) }
        .next (if G.live.all fun r => (mapFind? sigs r).isSome then s.compare group else s)
    | none => notNow "SIGNATURE_ARRIVAL"

/-- The timer of R371 counts: every live replica is placed and none is parked on a forwarded value, but for
a value that its channel rejected, which counts as its lateness. -/
def State.timerRuns (s : State) (g : Group) : Bool :=
  g.liveHarts.all fun e =>
    let x := s.hart e.2
    decide (x.status ≠ .free) && decide (x.status ≠ .yielded) && (decide (x.status ≠ .parked .forward) || (mapFind? g.lost e.1).isSome) && x.group.isSome

/-- REPLICA_TIMEOUT (R371): 100 µs after the first signature the late replicas are stopped. -/
def execReplicaTimeout (group : Nat) (s : State) : Out :=
  match mapFind? s.groups group with
  | none => notNow "REPLICA_TIMEOUT"
  | some G =>
    let late := G.live.filter fun r => (mapFind? G.sigs r).isNone
    if G.timer.getD 0 < 100000 then notNow "REPLICA_TIMEOUT"
    else match late with
      | [] => notNow "REPLICA_TIMEOUT"
      | r :: more =>
        let tval : Word := BitVec.ofNat 64 r
        let tval2 : Word := match more with | q :: _ => BitVec.ofNat 64 (q + 1) | [] => 0
        let rest := G.liveHarts.filter fun e => decide (e.1 ∉ late)
        let s := late.foldl (fun s r => s.stopReplica group r Cause.replTimeout) s
        match rest with
        | [(_, h)] => .next ((s.squash h).trapAtNext h Cause.replTimeout tval tval2)
        | [(a, _), (b, _)] =>
          if mapGet 0 G.sigs a = mapGet 0 G.sigs b then .next (s.commitAndTrap group Cause.replTimeout tval 0)
          else .next (s.compare group)
        | _ => notNow "REPLICA_TIMEOUT"

/-- An interrupt or a pre-emption waits for some replica of the group. -/
def Hart.eventWaits (x : Hart) : Bool :=
  x.preempt || x.haltReq || (bit (x.csr Csr.tstat) 1 && (x.irqTimer || x.irqPreempt || x.irqCall.isSome))

/-- REPLICA_EVENT_DELIVERY (R366): the cupping unit names the highest chunk that any replica has opened; every live
replica takes the event after it. -/
def execReplicaEventDelivery (group : Nat) (s : State) : Out :=
  match mapFind? s.groups group with
  | none => notNow "REPLICA_EVENT_DELIVERY"
  | some G =>
    let xs := G.liveHarts.map fun e => s.hart e.2
    let opened (x : Hart) : Nat := if x.chunkCount = 0 then x.ordinal else x.ordinal + 1
    if G.eventAt.isSome ∨ xs.all (fun x => !x.eventWaits) = true then notNow "REPLICA_EVENT_DELIVERY"
    else
      let n := xs.foldl (fun n x => Nat.max n (opened x)) 0
      let timer := xs.any Hart.irqTimer
      let call := xs.findSome? Hart.irqCall
      let notice := xs.any Hart.irqPreempt
      let swap := xs.any Hart.preempt
      let halt := xs.any Hart.haltReq
      let s := G.liveHarts.foldl (fun s e => s.onHart e.2 fun x =>
        { x with irqTimer := timer, irqCall := call, irqPreempt := notice, preempt := swap, haltReq := halt }) s
      .next (s.onGroup group fun G => { G with eventAt := some n })

/-- A replica that has completed the chunk an event was named for opens no other (R366). -/
def State.heldForEvent (s : State) (h : Nat) : Bool :=
  match (s.groupOf h).bind Group.eventAt with
  | some n => decide (n ≤ (s.hart h).ordinal) && decide ((s.hart h).chunkCount = 0)
  | none => false

end Sys2Proof.Machine
end

