-- ==== Sys2Proof/Machine/Launch.lean ====
section
/-! DEFINITION. The Dispatch Unit: launch records, the order of ready work, deficits and placement (spec/19 R342-R354,
R418; spec/01 R8, R14; spec/04 R83; spec/23 R386, R397). -/

namespace Sys2Proof.Machine

/-! Launch records (R345-R347). -/

/-- A launch record. -/
structure Record where
  entry : Word
  args : Word
  count : Nat
  shape : BitVec 32
  done : Word
  wmCell : Word
  wmThr : Word
  cq : Word
  check : Word
deriving DecidableEq, Repr

/-- The record in 64 bytes (R345). -/
def Record.ofBytes (b : List Byte) : Record :=
  let d (i : Nat) : Word := leWord ((b.drop (8 * i)).take 8)
  { entry := d 0, args := d 1, count := bits (d 2) 31 0, shape := (d 2 >>> 32).setWidth 32, done := d 3, wmCell := d 4,
    wmThr := d 5, cq := d 6, check := d 7 }

/-- Fields of SHAPE (R346). -/
def shapeLevel (v : BitVec 32) : Nat := field v.toNat 10 9
def shapePrio (v : BitVec 32) : Nat := field v.toNat 8 6
def shapeRepl (v : BitVec 32) : Nat := field v.toNat 5 4
def shapePair (v : BitVec 32) : Bool := decide (field v.toNat 3 3 = 1)
def shapeGang (v : BitVec 32) : Nat := field v.toNat 2 0
/-- Cores of one instance of a shape (R342). -/
def shapeCores (v : BitVec 32) : Nat := 2 ^ shapeGang v

/-- The cores of a grant that no fence has taken (R358). -/
def State.grantCores (s : State) (c : Ctx) : List Nat := c.cores.filter fun k => !(s.cluster (k / 16)).fenced
/-- The cores of a grant that take placements now (R352, R357). -/
def State.openCores (s : State) (c : Ctx) : List Nat :=
  (s.grantCores c).filter fun k => !(s.cluster (k / 16)).decanted && (s.cluster (k / 16)).visitAt.isNone

/-- The first cores of the aligned groups of a shape among some cores (R342). -/
def shapeBases (shape : BitVec 32) (cores : List Nat) : List Nat :=
  let g := shapeCores shape
  cores.filter fun c => decide (c % g = 0) && (List.range g).all fun i => decide (c + i ∈ cores)
/-- How many instances of a shape some cores hold at once. -/
def shapeRoom (shape : BitVec 32) (cores : List Nat) : Nat :=
  (shapeBases shape cores).length * (if shapePair shape then 2 else 4)

/-- The cores of the domain that a level confines co-scheduled instances to, around core c (R353). -/
def levelCores (level c : Nat) (cores : List Nat) : List Nat :=
  match level with
  | 1 => cores.filter fun k => decide (k / 16 = c / 16)
  | 2 => cores.filter fun k => decide (k / 256 = c / 256)
  | _ => cores

/-- Dies on which some cores hold an instance of a shape. -/
def shapeDies (shape : BitVec 32) (cores : List Nat) : List Nat :=
  (List.range 4).filter fun d => decide (0 < shapeRoom shape (cores.filter fun k => decide (k / 256 = d)))

/-- Some placement of a launch on these cores takes a hart of core c (R352, R353). -/
def placeable (shape : BitVec 32) (count : Nat) (cores : List Nat) (c : Nat) : Bool :=
  let g := shapeCores shape
  let here := decide (c / g * g ∈ shapeBases shape cores)
  if shapeLevel shape = 0 then here && decide (shapeRepl shape ≤ (shapeDies shape cores).length)
  else here && decide (count ≤ shapeRoom shape (levelCores (shapeLevel shape) c cores))

/-- The failed check of a record, but for its watermark cell (R347). -/
def State.recordFault (s : State) (c : Ctx) (queue : Nat) (b : List Byte) : Option Nat :=
  let r := Record.ofBytes b
  let cores := s.grantCores c
  if crc64 (b.take 56) ≠ r.check then some 1
  else if r.shape.toNat / 2 ^ 11 ≠ 0 ∨ shapeRepl r.shape = 0 ∨ 5 ≤ shapeGang r.shape ∨ bit r.entry 0 = true ∨ r.count = 0 ∨
      r.done.toNat % 8 ≠ 0 ∨ shapePrio r.shape ≠ queue then some 2
  else if (shapePair r.shape = true ∧ shapeGang r.shape ≠ 0) ∨ (1 < shapeRepl r.shape ∧ 1 ≤ shapeLevel r.shape) ∨
      cores.all (fun k => !placeable r.shape r.count cores k) = true then some 3
  else none

/-- The device acting for launch n of a context's queue: the queue's address space (R386). -/
def State.launchActor (s : State) (ctx queue n : Nat) : Actor :=
  let a := s.ctxActor ctx
  let asids := match s.ctx? ctx with | some c => c.asids | none => []
  { a with who := { a.who with hart := 2 ^ 20 + n, asid := (asids.map Prod.fst).getD (queue % asids.length) 0 } }

/-- Sets ERR and REASON in a launch's completion word, as one action at its home; a word that does not translate is not
written (R347, R348, R358). -/
def State.completionErr (s : State) (a : Actor) (done : Word) (reason : Nat) : State :=
  if done = 0 then s
  else match s.check14 a.who .store 8 0 done 8 with
    | .error _ => s
    | .ok (acc, s) =>
      let v := leNat (acc.locs.map (s.homeByte a.mark))
      let v' := setField (setField v 31 31 1) 30 24 reason
      s.homeWrite a.mark (acc.locs.zip (leBytes 8 v'))

/-- Refuses a launch: the report and the completion word (R347, R411). -/
def State.refuseLaunch (s : State) (n reason : Nat) : State :=
  match mapFind? s.launches n with
  | none => s
  | some l =>
    let s : State := { s with launches := mapErase s.launches n,
                              pageReqs := s.pageReqs.filter fun r => decide (r.hart ≠ 2 ^ 20 + n) }
    let s := s.report l.ctx 2 l.queue reason l.slotVa.toNat 0 0
    s.completionErr (s.launchActor l.ctx l.queue n) l.doneVa reason

/-- Binds a launch's dependence cell as WMBIND does; a stage-2 miss with on-demand paging requests the page and leaves
the record not ready (R223, R282, R349). -/
def State.bindLaunch (s : State) (n : Nat) : State :=
  match mapFind? s.launches n with
  | none => s
  | some l =>
    if l.wmVa = 0 then { s with launches := mapPut s.launches n { l with readyAt := some s.time } }
    else
      let a := s.launchActor l.ctx l.queue n
      match s.check14 a.who .load 32 0 l.wmVa 32 with
      | .error (.pageMiss t reqs) =>
        let fresh := reqs.filter fun r => t.pageReqs.all fun q =>
          !(decide (q.hart = r.hart) && decide (q.ctx = r.ctx) && decide (q.gpa / 4096 = r.gpa / 4096) && decide (q.answer = none))
        let num := (t.pageReqs.filter fun q => decide (q.hart = a.who.hart)).length
        { t with pageReqs := t.pageReqs ++ fresh.map fun r => { r with num := num } }
      | .error _ => s.refuseLaunch n 4
      | .ok (acc, t) =>
        let cell := acc.locs.headD 0
        let b := acc.locs.map (t.homeByte a.mark)
        let d (i : Nat) : Nat := leNat ((b.drop (8 * i)).take 8)
        if acc.host = false ∧ d 0 ≤ d 2 ∧ d 2 ≤ d 1 ∧ d 3 = 0 then
          let ready := if l.wmThr.toNat ≤ d 2 then some s.time else none
          { t with launches := mapPut t.launches n { l with wmCell := some cell, readyAt := ready },
                   pageReqs := t.pageReqs.filter fun r => decide (r.hart ≠ 2 ^ 20 + n) }
        else t.refuseLaunch n 4

/-- The device takes launches: it has come up, has not failed, and is not too hot (R376, R416, R417). -/
def Dev.serves (d : Dev) : Bool := d.booted && !d.failed && !d.tooHot

/-- A context that may run. -/
def Ctx.alive (c : Ctx) : Bool := !c.exited && c.dying.isNone

/-- LAUNCH_RECORD_TAKE (R347, R349): the head record of a queue is taken and checked, once every instance of the record
before it has been placed. -/
def execLaunchRecordTake (ctx queue : Nat) (s : State) : Out :=
  let no := notNow "LAUNCH_RECORD_TAKE"
  match s.ctx? ctx with
  | none => no
  | some c =>
    match c.queues[queue]? with
    | none => no
    | some q =>
      let held := s.launches.any fun e => decide (e.2.ctx = ctx) && decide (e.2.queue = queue) && decide (e.2.next < e.2.count)
      let n := s.tagCtr
      let a := s.launchActor ctx queue n
      let b := s.qcb a.mark q
      if !s.dev.serves || !c.alive || held || b.pois then no
      else if !b.sound q then .next (s.poison a.mark q)
      else match s.deqAt a q with
        | .ok (some (e, t)) =>
          let r := Record.ofBytes e
          let l : Launch :=
            { ctx := ctx, queue := queue, entry := r.entry, args := r.args, count := r.count, shape := r.shape, doneVa := r.done,
              wmVa := r.wmCell, wmCell := none, wmThr := r.wmThr, cqVa := r.cq,
              slotVa := BitVec.ofNat 64 (b.base + b.head % b.cap * b.esize), readyAt := none, next := 0 }
          let t : State := { t with tagCtr := t.tagCtr + 1, launches := mapPut t.launches n l }
          .next (match t.recordFault c queue e with
            | some reason => t.refuseLaunch n reason
            | none => t.bindLaunch n)
        | _ => no

/-! Selection (R350, R351, R354, R418). -/

/-- Ready work: a launch whose next instance waits, or a swapped-out instance. -/
structure Entry where
  key : Nat
  resumed : Bool
  ctx : Nat
  level : Nat
  since : Nat
deriving DecidableEq, Repr

/-- The effective level of work that became ready at a time (R350). -/
def State.aged (s : State) (prio since : Nat) : Nat := prio - (s.time - since) / (s.dev.ageLimit * 1000)

/-- The context of an instance. -/
def State.instCtx (s : State) (i : Instance) : Nat := match mapFind? s.launches i.launch with | some l => l.ctx | none => 0

/-- All ready work of live contexts. -/
def State.entries (s : State) : List Entry :=
  let live (n : Nat) : Bool := match s.ctx? n with | some c => c.alive | none => false
  let a := s.instances.filterMap fun e => e.2.swappedAt.map fun t =>
    ({ key := e.1, resumed := true, ctx := s.instCtx e.2, level := s.aged e.2.level t, since := t } : Entry)
  let b := s.launches.filterMap fun e =>
    if e.2.next < e.2.count then
      e.2.readyAt.map fun t => ({ key := e.1, resumed := false, ctx := e.2.ctx, level := s.aged (shapePrio e.2.shape) t, since := t } : Entry)
    else none
  (a ++ b).filter fun e => live e.ctx

/-- D of a context at a level on a die (R351). -/
def Ctx.deficit (c : Ctx) (die level : Nat) : Int := mapGet 0 c.deficits (die * 8 + level)
/-- Sets D. -/
def Ctx.setDeficit (c : Ctx) (die level : Nat) (d : Int) : Ctx := { c with deficits := mapSet 0 c.deficits (die * 8 + level) d }

/-- Rounds of share × 16 until D > 0. -/
def Ctx.rounds (c : Ctx) (die level : Nat) : Nat := ((-(c.deficit die level)).toNat + c.share * 16) / (c.share * 16)

/-- Replenishes the deficits of one level on a die: where no context with ready work there has D > 0, each gains
share × 16, capped at share × 64, until one has (R351). -/
def State.refillLevel (s : State) (die level : Nat) : State :=
  let cs := nub ((s.entries.filter fun e => decide (e.level = level)).map Entry.ctx)
  let ctxs := cs.filterMap s.ctx?
  if ctxs.isEmpty || ctxs.any fun c => decide (0 < c.deficit die level) then s
  else
    let r := ctxs.foldl (fun m c => Nat.min m (c.rounds die level)) ((ctxs.map fun c => c.rounds die level).foldl Nat.max 1)
    cs.foldl (fun s n => s.onCtx n fun c =>
      c.setDeficit die level (min (c.deficit die level + (c.share * 16 * r : Nat)) (c.share * 64 : Nat))) s
/-- Replenishes every level on a die. -/
def State.refill (s : State) (die : Nat) : State := (List.range 8).foldl (fun s l => s.refillLevel die l) s

/-- Within one context: the lower level, then the resumed instance, then the older (R350, R354). -/
def Entry.before (a b : Entry) : Bool :=
  if a.level ≠ b.level then decide (a.level < b.level)
  else if a.resumed ≠ b.resumed then a.resumed
  else if a.since ≠ b.since then decide (a.since < b.since) else decide (a.key < b.key)

/-- Between the first entries of two contexts: the lower level, then D > 0, then the older (R351). -/
def State.beats (s : State) (die : Nat) (a b : Entry) : Bool :=
  let pos (e : Entry) : Bool := match s.ctx? e.ctx with | some c => decide (0 < c.deficit die e.level) | none => false
  if a.level ≠ b.level then decide (a.level < b.level)
  else if pos a ≠ pos b then pos a
  else if a.since ≠ b.since then decide (a.since < b.since) else decide (a.ctx < b.ctx)

/-- Ready work in the order in which it is chosen on a die. -/
def State.orderAux (s : State) (die : Nat) : Nat → List Entry → List Entry
  | 0, _ => []
  | n + 1, es =>
    let heads := es.filter fun a => es.all fun b => decide (a.ctx ≠ b.ctx) || decide (a = b) || a.before b
    match heads.find? fun a => heads.all fun b => decide (a = b) || s.beats die a b with
    | none => []
    | some a => a :: s.orderAux die n (es.filter (· ≠ a))
/-- Ready work in the order in which it is chosen on a die. -/
def State.order (s : State) (die : Nat) : List Entry := s.orderAux die s.entries.length s.entries

/-- The harts of a swapped-out instance. -/
def Instance.all (i : Instance) : List Nat := i.harts.flatten

/-- Some placement of the entry could use hart h (R418). -/
def State.couldUse (s : State) (e : Entry) (h : Nat) : Bool :=
  if e.resumed then match mapFind? s.instances e.key with
    | some i => decide (h ∈ i.all)
    | none => false
  else match mapFind? s.launches e.key, s.ctx? e.ctx with
    | some l, some c => placeable l.shape (l.count - l.next) (s.openCores c) (coreOf h) && decide (coreOf h ∈ s.openCores c)
    | _, _ => false

/-- Entry `e` may take these harts: no entry chosen before it could use one of them (R350, R351, R418). -/
def State.mayTake (s : State) (die : Nat) (p : Entry → Bool) (hs : List Nat) : Bool :=
  match (s.order die).find? p with
  | none => false
  | some _ => ((s.order die).takeWhile fun e => !p e).all fun e => hs.all fun h => !s.couldUse e h

/-! Scratchpad segments of other contexts (R279, R397). -/

/-- Brings a saved segment back. -/
def State.restoreSeg (s : State) (ctx core : Nat) : State :=
  let key := coreKey ctx core
  match mapFind? s.spills key with
  | none => s
  | some sp =>
    let g := (s.core core).segOf ctx
    let lo := lspLoc core g.base
    let hi := lo + g.size
    let out (l : Nat) : Bool := decide (l < lo) || decide (hi ≤ l)
    let mem := sp.bytes.foldl (fun m e => mapSet 0 m e.1 e.2) (s.mem.filter fun e => out e.1)
    let keys := sp.keys.foldl (fun m e => mapPut m e.1 e.2) (s.memKey.filter fun e => out e.1)
    let s := s.onCore core fun k => { k with tags := sp.tags.foldl (fun m e => mapPut m e.1 e.2) k.tags }
    { s with mem := mem, memKey := keys, spills := mapErase s.spills key }

/-- The grants of two contexts on a core overlap. -/
def Core.grantClash (k : Core) (a b : Nat) : Bool :=
  let p := k.segOf a
  let q := k.segOf b
  decide (a ≠ b) && decide (p.grantBase < q.grantBase + q.grantSize) && decide (q.grantBase < p.grantBase + p.grantSize)

/-- No hart of another context whose grant overlaps is bound on the core, so that no segment can come to overlap a bound one
(R274, log 136). -/
def State.segFree (s : State) (ctx core : Nat) : Bool :=
  (hartsOfCore core).all fun h =>
    decide ((s.hart h).status = .free) || !(s.core core).grantClash ctx (s.hart h).ctx

/-- Before a context runs on a core, overlapping segments make room and its own is in place (R397, R398). -/
def State.ownSegment (s : State) (ctx core : Nat) : State := (s.makeRoom ctx core).restoreSeg ctx core

/-! Placement (R342, R352, R353). -/

/-- The harts of one instance of one replica have the shape (R342). -/
def shapeFits (shape : BitVec 32) (hs : List Nat) : Bool :=
  let g := shapeCores shape
  let cs := hs.map coreOf
  if shapePair shape then
    match hs with
    | [a, b] => decide (a ≠ b) && decide (coreOf a = coreOf b)
    | _ => false
  else decide (hs.length = g) && decide (cs.headD 0 % g = 0) && decide (cs = (List.range g).map (cs.headD 0 + ·))

/-- A hart that may be bound for a context now (R352). -/
def State.bindable (s : State) (n : Nat) (c : Ctx) (h : Nat) : Bool :=
  decide ((s.hart h).status = .free) && decide (coreOf h ∈ s.openCores c) && s.segFree n (coreOf h)

/-- The lists have no repeat. -/
def noRepeat (l : List Nat) : Bool := decide ((nub l).length = l.length)

/-- A placement of a launch's next instance, by replica, or of all its instances where it is co-scheduled (R352, R353). -/
def State.validPlace (s : State) (l : Launch) (c : Ctx) (harts : List (List Nat)) : Bool :=
  let level := shapeLevel l.shape
  let hs := harts.flatten
  let cores := hs.map coreOf
  harts.all (shapeFits l.shape) && noRepeat hs && hs.all (s.bindable l.ctx c) &&
    (if level = 0 then decide (harts.length = shapeRepl l.shape) && noRepeat (harts.map fun r => dieOf (r.headD 0))
     else decide (harts.length = l.count) &&
       cores.all fun k => decide (k ∈ levelCores level (cores.headD 0) cores))

/-- The state of a hart at task start (R8, R14, R83, R342). -/
def startArch (entry args tvec : Word) (idx pos code role repl of : Nat) : HartArch :=
  let csr := [(Csr.instidx, BitVec.ofNat 64 idx), (Csr.gangpos, BitVec.ofNat 64 (pos + code * 16)),
    (Csr.pairrole, BitVec.ofNat 64 role), (Csr.bypth, 0x40000), (Csr.replstat, BitVec.ofNat 64 (repl + 4 * of)),
    (Csr.tvec, tvec), (Csr.tstat, 2)]
  { HartArch.init with
    pc := entry,
    x := mapSet 0 [] 10 args,
    csr := csr.foldl (fun m (e : Nat × Word) => mapSet 0 m e.1 e.2) [],
    s0 := 0x9E3779B97F4A7C15#64 ^^^ BitVec.ofNat 64 idx,
    s1 := (entry ^^^ BitVec.ofNat 64 (pos * 2 ^ 56) ^^^ BitVec.ofNat 64 (role * 2 ^ 60)) ||| 1,
    lock := decide (code ≠ 0) }

/-- Starts hart h of an instance: replica r, position or pair member j (R342). The start is an acquire at device scope that
empties the instruction cache (R271), and unbinds the barrier registers for the hart (R204). -/
def State.startHart (s : State) (l : Launch) (c : Ctx) (id idx r j : Nat) (hs : List Nat) (group : Option Nat) (h : Nat) : State :=
  let pair := shapePair l.shape
  let code := shapeGang l.shape
  let asids := c.asids.map Prod.fst
  let a := startArch l.entry l.args c.tvec idx (if pair then 0 else j) code (if pair then j + 1 else 0) r (shapeRepl l.shape)
  let x : Hart := { Hart.init with
    a := a, ctx := l.ctx, asid := asids.getD (l.queue % asids.length) 0, inst := some id, status := .running,
    gang := if code = 0 then [] else hs, group := group }
  let unbound (b : BbReg) : BbReg := { b with harts := b.harts.filter fun g => decide (g ≠ h) }
  (((s.setHart h x).onCore (coreOf h) fun k =>
    { k with icache := [], bb := k.bb.map fun e => (e.1, unbound e.2) }).acquire h .device).ownSegment l.ctx (coreOf h)

/-- The CLASS 4 tokens between the replicas of a group: one from each to each other, for their context (R327, R362). The port
of the one hop is the RKC's choice (log 132). -/
def State.replicaRoutes (s : State) (ctx : Nat) (cores : List Nat) : List (Nat × Nat × Line) :=
  let keyid := match s.ctx? ctx with | some c => c.keyid | none => 0
  cores.zipIdx.flatMap fun a => (cores.zipIdx.filter fun b => decide (b.2 ≠ a.2)).map fun b =>
    (a.2, b.2, s.makeToken s.dev.id 4 (coreCoord s.dev.id b.1) 0 0 0 keyid false ctx 0
      [Config.replicaPort (coreCoord s.dev.id a.1) (coreCoord s.dev.id b.1) % 24])

/-- Creates the replica group of member j of a replicated instance (R362). -/
def State.newGroup (s : State) (ctx : Nat) (harts : List (List Nat)) (j : Nat) : State × Nat :=
  let hs := harts.map fun r => r.getD j 0
  let g : Group :=
    { harts := hs.zipIdx.map fun e => (e.2, e.1), live := List.range harts.length, lead := 0, log := [], lost := [], sigs := [],
      tries := 0, timer := none, eventAt := none, vote := none, cut := none, routes := s.replicaRoutes ctx (hs.map coreOf) }
  ({ s with groups := mapPut s.groups s.tagCtr g, tagCtr := s.tagCtr + 1 }, s.tagCtr)

/-- Starts one instance on its harts, by replica. -/
def State.startInstance (s : State) (n : Nat) (l : Launch) (c : Ctx) (idx level : Nat) (harts : List (List Nat)) : State :=
  let id := s.tagCtr
  let i : Instance :=
    { launch := n, idx := idx, harts := harts, live := harts.flatten, flags := 0, level := level, startedAt := s.time,
      swappedAt := none, counted := false, unpaired := [] }
  let s : State := { s with tagCtr := s.tagCtr + 1, instances := mapPut s.instances id i }
  (List.range (harts.headD []).length).foldl (fun (s : State) j =>
    let (s, g) : State × Option Nat := if harts.length ≤ 1 then (s, none) else
      let (s, g) := s.newGroup l.ctx harts j
      (s, some g)
    harts.zipIdx.foldl (fun s e => s.startHart l c id idx e.2 j e.1 g (e.1.getD j 0)) s) s

/-- INSTANCE_PLACE (R349-R353, R418). -/
def execInstancePlace (launch : Nat) (harts : List (List Nat)) (s : State) : Out :=
  let no := notNow "INSTANCE_PLACE"
  match mapFind? s.launches launch with
  | none => no
  | some l => match s.ctx? l.ctx, l.readyAt with
    | some c, some since =>
      let die := dieOf ((harts.headD []).headD 0)
      let s := s.refill die
      if s.dev.serves && c.alive && decide (l.next < l.count) && s.validPlace l c harts &&
          s.mayTake die (fun e => !e.resumed && decide (e.key = launch)) harts.flatten then
        let level := s.aged (shapePrio l.shape) since
        if shapeLevel l.shape = 0 then
          let s := s.startInstance launch l c l.next level harts
          .next { s with launches := mapPut s.launches launch { l with next := l.next + 1 } }
        else
          let s := harts.zipIdx.foldl (fun s e => s.startInstance launch l c e.2 level [e.1]) s
          .next { s with launches := mapPut s.launches launch { l with next := l.count } }
      else no
    | _, _ => no

/-- DEFICIT_TICK (R351): each hart that runs an instance on the die spends one hart-microsecond. -/
def execDeficitTick (die : Nat) (s : State) : Out :=
  let last := mapGet 0 s.dev.ticks die
  if s.time / 1000 ≤ last ∨ 4 ≤ die then notNow "DEFICIT_TICK"
  else
    let spend (s : State) (i : Instance) : State :=
      let n := (i.live.filter fun h => decide (dieOf h = die)).length
      s.onCtx (s.instCtx i) fun c => c.setDeficit die i.level (c.deficit die i.level - (n : Nat))
    let s := (s.instances.filter fun e => e.2.swappedAt.isNone).foldl (fun s e => spend s e.2) s
    .next ({ s with dev := { s.dev with ticks := mapPut s.dev.ticks die (last + 1) } } : State)

end Sys2Proof.Machine
end

