-- ==== Sys2Proof/Machine/Swap.lean ====
section
/-! DEFINITION. Pre-emption, interrupts, the swap of a context, self-test visits, and page requests (spec/19 R354-R358;
spec/23 R390, R394-R399; spec/21 R366, R376, R377; spec/22 R379-R382; spec/10 R257; spec/15 R316; spec/01 R20). -/

namespace Sys2Proof.Machine

/-! What is pre-empted together (R353, R354, R366). -/

/-- The context of an instance is n, and it has a hart on one of the cores. -/
def State.touches (s : State) (n : Nat) (cores : List Nat) (i : Instance) : Bool :=
  i.swappedAt.isNone && decide (s.instCtx i = n) && i.all.any fun h => decide (coreOf h ∈ cores)

/-- Instances that are pre-empted with some of a context on these cores: those that touch them, and with a co-scheduled
one all of its launch. -/
def State.joinedBy (s : State) (n : Nat) (cores : List Nat) : List Instance :=
  let hit := (s.instances.map Prod.snd).filter (s.touches n cores)
  let co (i : Instance) : Bool := match mapFind? s.launches i.launch with | some l => decide (1 ≤ shapeLevel l.shape) | none => false
  (s.instances.map Prod.snd).filter fun i => s.touches n cores i || hit.any fun j => decide (j.launch = i.launch) && co j

/-- Cores of a context that are swapped together with the given ones. -/
def State.joinedCores (s : State) (n : Nat) : Nat → List Nat → List Nat
  | 0, cs => cs
  | k + 1, cs => s.joinedCores n k (nub (cs ++ (s.joinedBy n cs).flatMap fun i => i.all.map coreOf))

/-- Cores of context n that are swapped together with core c. -/
def State.swapCores (s : State) (n c : Nat) : List Nat := s.joinedCores n s.instances.length [c]

/-- The harts of a context bound on some cores. -/
def State.boundHarts (s : State) (n : Nat) (cores : List Nat) : List Nat :=
  (cores.flatMap hartsOfCore).filter fun h => decide ((s.hart h).status ≠ .free) && decide ((s.hart h).ctx = n)

/-! Pre-emption points (R395, R366, R257). -/

/-- In a timed communication phase pre-emption of a member is deferred until PERIOD cycles after T (R257, R395). -/
def State.preemptDeferred (s : State) (h : Nat) : Bool := (s.as h).timedComm && !(s.hart h).deferOver

/-- TIMED_DEFERRAL_EXPIRY (R257): PERIOD cycles after T. -/
def execTimedDeferralExpiry (hart : Nat) (s : State) : Out :=
  let x := s.hart hart
  if s.preemptDeferred hart ∧ x.releaseT + bits (x.csr Csr.phase) 39 8 ≤ s.cycle then
    .next (s.onHart hart fun x => { x with deferOver := true })
  else notNow "TIMED_DEFERRAL_EXPIRY"

/-- Every live replica of the hart has come to the chunk boundary at which the group takes its event (R366). -/
def State.groupReady (s : State) (h : Nat) : Bool :=
  match s.groupOf h with
  | none => true
  | some g => g.eventAt.isSome && g.liveHarts.all fun e => s.heldForEvent e.2

/-- The members that must stand at one boundary with hart h (R343). -/
def State.lockMates (s : State) (h : Nat) : List Nat :=
  let x := s.hart h
  if x.a.lock ∧ 1 < x.gang.length then x.gang else [h]

/-- No member of the hart's gang has issued an instruction that another has not (R343). -/
def State.levelGang (s : State) (h : Nat) : Bool :=
  (s.lockMates h).all fun k => !(s.hart k).a.lock || decide ((s.hart k).a.seq = (s.hart h).a.seq)

/-- The hart stands where it may be pre-empted or interrupted: between two instructions, held by a stall, or parked, but
not in a remote operation that waits for its reply (R395, R241). -/
def State.atPoint (s : State) (h : Nat) : Bool :=
  let x := s.hart h
  (match x.status with
   | .running => true
   | .stalled => true
   | .parked (.reply _) => false
   | .parked .forward => x.group.isSome
   | .parked _ => true
   | _ => false) &&
  x.handoff.isNone && x.resumeTrap.isNone && !s.preemptDeferred h && s.groupReady h && s.levelGang h

/-- Takes a parked hart out of its park: the operation stays pending and is re-issued (R202, R215, R316, R355). -/
def State.leavePark (s : State) (h : Nat) : State :=
  match (s.hart h).status with
  | .parked p =>
    let s := s.leaveQueue h
    let s := s.onCore (coreOf h) fun k => { k with vacqWait := k.vacqWait.filter (· ≠ h) }
    let isWait := match p with | .wait _ _ => true | _ => false
    s.onHart h fun x => { x with status := .running, pending := some { pc := x.a.pc, isWait := isWait, timedOut := false } }
  | _ => s

/-- In a replicated gang in lockstep, another member has completed the chunk named for its event, and the hart stands at the
same instruction with a chunk open: it ends there too, as in every replica (R343, R366). -/
def State.endsWithGang (s : State) (h : Nat) : Bool :=
  let x := s.hart h
  x.group.isSome && decide (0 < x.chunkCount) && (decide (x.status = .running) || decide (x.status = .stalled)) &&
    (s.lockMates h).any fun k => decide (k ≠ h) && (s.hart k).a.lock && decide ((s.hart k).a.seq = x.a.seq) && s.heldForEvent k

/-- A hart that is to be swapped halts at its pre-emption point: its open chunk ends there (R395). One that is to stop as
HALT does stops there, parked or not, and the halt is reported (R404, R411, R417). -/
def State.haltPoint (s : State) (h : Nat) : Option State :=
  let x := s.hart h
  if s.endsWithGang h then some (s.endChunk h).1
  else if x.haltReq && s.atPoint h then
    match s.endChunk h with
    | (t, true) =>
      let t := (t.leavePark h).onHart h fun x => { x with haltReq := false, status := .halted }
      some (t.report x.ctx 0 (s.hartid h).toNat 0 (t.hart h).a.pc.toNat 0 0)
    | (t, false) => some t
  else if x.preempt && s.atPoint h && (decide (x.status = .running) || decide (x.status = .stalled)) then
    match s.endChunk h with
    | (t, true) => some (t.onHart h (·.setStatus .yielded))
    | (t, false) => some t
  else if x.preempt && decide (x.status = .held) && x.chunk.isSome then some (s.endChunk h).1
  else none

/-- The hart has halted for a swap: at its point, at HALT, or in a park that the swap takes (R396, R397). -/
def State.haltedFor (s : State) (h : Nat) : Bool :=
  let x := s.hart h
  match x.status with
  | .yielded => true
  | .halted => true
  | .stopped => true
  | .held => x.chunk.isNone
  | .parked _ => s.atPoint h && (x.preempt || (x.noticeUntil.isSome && !x.irqPreempt))
  | _ => false

/-! Requests (R354, R357, R396). -/

/-- Free harts of a core for a context. -/
def State.freeOn (s : State) (n : Nat) (c : Ctx) (core : Nat) : List Nat := (hartsOfCore core).filter (s.bindable n c)

/-- Elements two by two. -/
def pairUp : List Nat → List (List Nat)
  | a :: b :: l => [a, b] :: pairUp l
  | _ => []

/-- Disjoint placements of single instances of a shape on the free harts of some cores. -/
def State.rooms (s : State) (n : Nat) (c : Ctx) (shape : BitVec 32) (cores : List Nat) : List (List Nat) :=
  (shapeBases shape cores).flatMap fun b =>
    if shapePair shape then pairUp (s.freeOn n c b)
    else
      let fs := (List.range (shapeCores shape)).map fun i => s.freeOn n c (b + i)
      (List.range ((fs.map List.length).foldl Nat.min 4)).map fun j => fs.map fun f => f.getD j 0

/-- The first placement of a launch's next instance, or of all of a co-scheduled launch (R352, R353). -/
def State.firstPlace (s : State) (l : Launch) (c : Ctx) : Option (List (List Nat)) :=
  let rooms := s.rooms l.ctx c l.shape (s.openCores c)
  let level := shapeLevel l.shape
  if level = 0 then
    let byDie := (List.range 4).filterMap fun d => rooms.find? fun r => decide (dieOf (r.headD 0) = d)
    let repl := shapeRepl l.shape
    if repl ≤ 1 then rooms.head?.map fun r => [r]
    else if repl ≤ byDie.length then some (byDie.take repl) else none
  else
    let domain (r : List Nat) : List (List Nat) :=
      rooms.filter fun q => match level with
        | 1 => decide (clusterOf (q.headD 0) = clusterOf (r.headD 0))
        | 2 => decide (dieOf (q.headD 0) = dieOf (r.headD 0))
        | _ => true
    (rooms.find? fun r => decide (l.count ≤ (domain r).length)).map fun r => (domain r).take l.count

/-- The images that one swap made: they are swapped in together. -/
def State.swapImages (s : State) (swap : Nat) : List (Nat × Image) := s.images.filter fun e => decide (keySwap e.1 = swap)

/-- A saved image can be exchanged in now (R354, R397). -/
def State.imageFits (s : State) (e : Nat × Image) : Bool :=
  match s.ctx? (keyCtx e.1) with
  | some x =>
    (e.2.harts.map Prod.fst).all (s.bindable (keyCtx e.1) x) && (e.2.owner.isNone || (s.core (keyCore e.1)).owner.isNone)
  | none => false

/-- The image holds harts of an instance. -/
def Image.holds (im : Image) (id : Nat) : Bool := im.harts.any fun h => decide (h.2.inst = some id)

/-- The entry finds a placement now. -/
def State.findsPlace (s : State) (e : Entry) : Bool :=
  if e.resumed then match s.images.find? fun m => m.2.holds e.key with
    | some m => (s.swapImages (keySwap m.1)).all s.imageFits
    | none => false
  else match mapFind? s.launches e.key, s.ctx? e.ctx with
    | some l, some c => (s.firstPlace l c).isSome
    | _, _ => false

/-- Running instances. -/
def State.onHarts (s : State) : List (Nat × Instance) := s.instances.filter fun e => e.2.swappedAt.isNone

/-- Of some instances, the most recently started. -/
def newest (l : List (Nat × Instance)) : Option (Nat × Instance) :=
  l.foldl (fun m e => match m with
    | none => some e
    | some b => if b.2.startedAt ≤ e.2.startedAt then some e else some b) none

/-- The harts that a swapped-out instance waits for: those which its swap left, and the owners of the vector files it held
(R354). -/
def State.waitedHarts (s : State) (id : Nat) : List Nat :=
  match s.images.find? fun m => m.2.holds id with
  | some m => (s.swapImages (keySwap m.1)).flatMap fun q =>
      q.2.harts.map Prod.fst ++ if q.2.owner.isSome then (s.core (keyCore q.1)).owner.toList else []
  | none => []

/-- The instance that a waiting entry has pre-empted: of the largest level above the entry's, the most recently started; for a
resumed instance, among the work on the harts it left (R354, first case). -/
def State.victimOf (s : State) (e : Entry) : Option (Nat × Instance) :=
  if s.findsPlace e then none
  else
    let near (i : Instance) : Bool := !e.resumed || i.live.any fun h => decide (h ∈ s.waitedHarts e.key)
    let above := s.onHarts.filter fun i => decide (e.level < i.2.level) && near i.2
    let top := above.foldl (fun m i => Nat.max m i.2.level) 0
    newest (above.filter fun i => decide (i.2.level = top))

/-- The instance that an overdrawn context loses at a level of a die where another context waits with D > 0 (R354, second
case). -/
def State.overdrawn (s : State) (die level ctx : Nat) : Option (Nat × Instance) :=
  match s.ctx? ctx with
  | none => none
  | some c =>
    let waits := s.entries.any fun e => decide (e.level = level) && decide (e.ctx ≠ ctx) &&
      match s.ctx? e.ctx with | some d => decide (0 < d.deficit die level) | none => false
    if waits ∧ c.deficit die level < -((c.share * 64 : Nat) : Int) then
      newest (s.onHarts.filter fun i => decide (s.instCtx i.2 = ctx) && decide (i.2.level = level) &&
        i.2.live.any fun h => decide (dieOf h = die))
    else none

/-- The Dispatch Unit has grounds to pre-empt a context's harts on a core (R354, R357, R335). -/
def State.preemptGrounds (s : State) (n c : Nat) : Bool :=
  let cores := s.swapCores n c
  let hits (v : Option (Nat × Instance)) : Bool := match v with
    | some (_, i) => i.swappedAt.isNone && decide (s.instCtx i = n) && i.all.any fun h => decide (coreOf h ∈ cores)
    | none => false
  (match s.ctx? n with | some x => !x.alive | none => false) ||
  cores.any (fun k => (s.cluster (k / 16)).visitAt.isSome) ||
  s.entries.any (fun e => hits (s.victimOf e)) ||
  (List.range 4).any fun d => (List.range 8).any fun l => hits (s.overdrawn d l n)

/-- PREEMPTION_REQUEST (R396): the harts with notice and IE = 1 get PREEMPT and 50 µs; the others halt at their next
point. -/
def execPreemptionRequest (ctx core : Nat) (s : State) : Out :=
  let hs := s.boundHarts ctx (s.swapCores ctx core)
  let asked (x : Hart) : Bool := x.preempt || x.noticeUntil.isSome
  let notice := match s.ctx? ctx with | some c => c.notice | none => false
  if hs.all (fun h => asked (s.hart h)) = true ∨ s.preemptGrounds ctx core = false then notNow "PREEMPTION_REQUEST"
  else
    .next (hs.foldl (fun s h => s.onHart h fun x =>
      if asked x then x
      else if notice && bit (x.csr Csr.tstat) 1 then { x with irqPreempt := true, noticeUntil := some (s.time + 50000) }
      else { x with preempt := true }) s)

/-- PREEMPT_NOTICE_EXPIRY (R396): 50 µs after the notice the harts are swapped at their next point. -/
def execPreemptNoticeExpiry (ctx core : Nat) (s : State) : Out :=
  let late (h : Nat) : Bool := match (s.hart h).noticeUntil with | some t => decide (t ≤ s.time) | none => false
  let hs := (s.boundHarts ctx [core]).filter late
  if hs.isEmpty then notNow "PREEMPT_NOTICE_EXPIRY"
  else .next (hs.foldl (fun s h => s.onHart h fun x => { x with preempt := true, noticeUntil := none, irqPreempt := false }) s)

/-! Interrupts (R394, R395). -/

/-- The interrupt that a hart would take: SUPERVISOR_CALL_IN, PREEMPT, TIMER; cause and TVAL (R391, R394). -/
def Hart.irq (x : Hart) (time : Nat) : Option (Nat × Word) :=
  match x.irqCall with
  | some v => some (Cause.supervisorCall, v)
  | none =>
    if x.irqPreempt then some (Cause.preempt, 0)
    else if x.irqTimer then some (Cause.timer, BitVec.ofNat 64 time) else none

/-- An interrupt that was taken is pending no longer. -/
def Hart.ackIrq (x : Hart) (cause : Nat) : Hart :=
  if cause = Cause.supervisorCall then { x with irqCall := none }
  else if cause = Cause.preempt then { x with irqPreempt := false } else { x with irqTimer := false }

/-- The harts that take an interrupt of hart h with it: its gang in lockstep (R343), and their replicas (R366). -/
def State.irqHarts (s : State) (h : Nat) : List Nat :=
  nub ((s.lockMates h).flatMap fun k => match s.groupOf k with
    | some g => g.liveHarts.map Prod.snd
    | none => [k])

/-- Ends the chunks of some harts; all are over. -/
def State.endAll (s : State) : List Nat → State × Bool
  | [] => (s, true)
  | h :: hs => match s.endChunk h with
    | (t, true) => t.endAll hs
    | (t, false) => (t, false)

/-- INTERRUPT_TAKE (R19, R394, R395): every hart that takes the interrupt leaves its park, ends its chunk and enters
S-mode; where a chunk is squashed or held, the point moves back. -/
def execInterruptTake (hart : Nat) (s : State) : Out :=
  let hs := s.irqHarts hart
  let ready (h : Nat) : Bool := s.atPoint h && bit ((s.hart h).csr Csr.tstat) 1 && (s.hart h).trapAt.isNone
  match (s.hart hart).irq s.time with
  | none => notNow "INTERRUPT_TAKE"
  | some (cause, v) =>
    if hs.all ready = false then notNow "INTERRUPT_TAKE"
    else match s.endAll hs with
      | (t, false) => .next t
      | (t, true) =>
        let parked := hs.filter fun h => match (t.hart h).status with | .parked _ => true | _ => false
        let t := hs.foldl (fun t h => (t.leavePark h).onHart h fun x => x.ackIrq cause) t
        let t := hs.foldl (fun t h =>
          let u := t.as h
          { u.trapEntry (decide (h ∈ parked)) cause v 0 u.pc with cur := t.cur }) t
        let gs := hs.filterMap fun h => (s.hart h).group
        .next { t with groups := t.groups.map fun e => if e.1 ∈ gs then (e.1, { e.2 with eventAt := none }) else e }

/-- TIMER_TICK (R394): one TIMER becomes pending in every hart of the context, swapped out or not. -/
def execTimerTick (ctx : Nat) (s : State) : Out :=
  match s.ctx? ctx with
  | none => notNow "TIMER_TICK"
  | some c =>
    if c.tick = 0 ∨ s.time < c.nextTick then notNow "TIMER_TICK"
    else
      let s := s.onCtx ctx fun c => { c with nextTick := c.nextTick + c.tick * 1000 }
      let harts := s.harts.map fun e => if e.2.ctx = ctx ∧ e.2.status ≠ .free then (e.1, { e.2 with irqTimer := true }) else e
      let images := s.images.map fun e =>
        if keyCtx e.1 = ctx then
          let im : Image := { e.2 with harts := e.2.harts.map fun q => (q.1, { q.2 with irqTimer := true }) }
          (e.1, im)
        else e
      .next { s with harts := harts, images := images }

/-- WAIT_TIMEOUT (R202): the parked WAIT returns 1. -/
def execWaitTimeout (hart : Nat) (s : State) : Out :=
  match (s.hart hart).status with
  | .parked (.wait _ (some t)) =>
    if s.time < t then notNow "WAIT_TIMEOUT"
    else .next (s.onHart hart fun x =>
      { x with status := .running, pending := some { pc := x.a.pc, isWait := true, timedOut := true } })
  | _ => notNow "WAIT_TIMEOUT"

/-! The swap (R20, R316, R397, R398). -/

/-- The engine work that a swap waits for: copies and supplied outbound elements (R222, R397). -/
def Core.swapQuiet (k : Core) (hs : List Nat) : Bool :=
  (k.copies.all fun c => decide (c.hart ∉ hs)) &&
  k.streams.all fun e => match e.2.active with
    | some b => decide (b.hart ∉ hs) || !b.outbound || e.2.buf.isEmpty
    | none => true

/-- A stream as a swap saves it: buffered inbound elements are fetched again (R219). -/
def Stream.saved (st : Stream) : Stream :=
  match st.active with
  | some b => if b.outbound then st else
      { active := some { b with done := b.taken }, rest := st.rest.map fun p => { p with done := 0 }, buf := [] }
  | none => st

/-- A hart as a swap saves it: no chunk, no armed monitor, no links; it resumes where it left (R20, R396). -/
def Hart.saved (x : Hart) : Hart :=
  { x with chunk := none, monitor := none, links := [], preempt := false, noticeUntil := none, irqPreempt := false, sent := none,
           status := match x.status with | .yielded => .running | .stalled => .running | st => st }

/-- Bank residency without its contents (R183, R397). -/
def unloaded (m : FMap (BitVec 256)) : FMap (BitVec 256) := m.map fun e => (e.1, e.2 &&& ~~~((1#256) <<< 183))

/-- A stream is bound by one of some harts. -/
def Stream.of (hs : List Nat) (st : Stream) : Bool :=
  match st.active with | some b => decide (b.hart ∈ hs) | none => false

/-- Takes a hart that is swapped out of its park, and out of the line for the priority grant (R215, R355, R356). -/
def State.unpark (s : State) (h : Nat) : State :=
  let s := match (s.hart h).status with
    | .parked _ => (s.leavePark h).onHart h fun x => x.setCsr Csr.tstat (x.csr Csr.tstat ||| 0x20)
    | _ => s
  s.dropGrant h

/-- Moves the live state of context n on core c into its image; of a dying context it is dropped (R335, R397). -/
def State.saveCore (s : State) (swap n : Nat) (keep : Bool) (c : Nat) : State :=
  let hs := s.boundHarts n [c]
  let s := (s.core c).banks.foldl (fun (s : State) u => s.settleBanks c u.cycle) s
  let s := hs.foldl State.unpark s
  let k := s.core c
  let owner := k.owner.filter fun h => decide (h ∈ hs)
  let own := owner.isSome
  let im : Image :=
    { harts := hs.map fun h => (h, (s.hart h).saved), owner := owner, vf := if own then k.vf else VecFile.init,
      census := if own then k.census else [], brec := if own then unloaded k.brec else [],
      streams := (k.streams.filter fun e => e.2.of hs).map fun e => (e.1, e.2.saved),
      wm := k.wm.filter fun e => decide (e.2.ctx = n), bb := k.bb.filter fun e => decide (e.2.ctx = n),
      rlt := k.rlt.filter fun e => decide (e.2.ctx = n), fills := if own then k.fills else [], inShadow := true }
  let k' : Core := { k with
    owner := if own then none else k.owner, vf := if own then VecFile.init else k.vf, census := if own then [] else k.census,
    brec := if own then [] else k.brec, loads := k.loads.filter (fun e => decide (e.2.hart ∉ hs)),
    fills := if own then [] else k.fills, cim := if own then [] else k.cim,
    streams := k.streams.filter (fun e => !e.2.of hs), wm := k.wm.filter (fun e => decide (e.2.ctx ≠ n)),
    bb := k.bb.filter (fun e => decide (e.2.ctx ≠ n)), rlt := k.rlt.filter (fun e => decide (e.2.ctx ≠ n)), shadow := some n }
  let s := hs.foldl (fun s h => s.setHart h Hart.init) (s.setCore c k')
  let others := s.images.map fun e => if keyCore e.1 = c then (e.1, { e.2 with inShadow := false }) else e
  { s with
    notify := s.notify.filter fun e => decide (e.1 ≠ c) || (mapFind? im.wm e.2.1).isNone,
    images := if keep && !hs.isEmpty then mapPut others (imageKey swap n c) im else others }

/-- The number of the next swap. -/
def State.nextSwap (s : State) : Nat := (s.images.foldl (fun m e => Nat.max m (keySwap e.1)) 0) + 1

/-- SWAP_OUT (R397): every hart of the context on the cores that swap together has halted; their state goes to shadow
storage. The harts of a context that is destroyed are gone with it (R335). -/
def execSwapOut (ctx core : Nat) (s : State) : Out :=
  let cores := s.swapCores ctx core
  let hs := s.boundHarts ctx cores
  let asked := hs.any fun h => (s.hart h).preempt || (s.hart h).noticeUntil.isSome
  let alive := match s.ctx? ctx with | some c => c.alive | none => false
  if hs.isEmpty || !(asked || s.preemptGrounds ctx core) || !hs.all s.haltedFor || !cores.all (fun c => (s.core c).swapQuiet hs) then
    notNow "SWAP_OUT"
  else
    let ids := (s.instances.filter fun e => s.touches ctx cores e.2).map Prod.fst
    let gs := hs.filterMap fun h => (s.hart h).group
    let w := s.nextSwap
    let s := cores.foldl (fun s c => s.saveCore w ctx alive c) s
    let s : State := { s with
      groups := s.groups.map fun e => if e.1 ∈ gs then (e.1, { e.2 with eventAt := none }) else e }
    if alive then
      .next { s with instances := s.instances.map fun e => if e.1 ∈ ids then (e.1, { e.2 with swappedAt := some s.time }) else e }
    else
      .next { s with instances := s.instances.filter fun e => decide (e.1 ∉ ids),
                     groups := s.groups.filter fun e => decide (e.1 ∉ gs) }

/-- Brings an image back to its core: bound watermark registers receive the marks of their cells (R282, R398). -/
def State.loadCore (s : State) (e : Nat × Image) : State :=
    let n := keyCtx e.1
    let c := keyCore e.1
    let im := e.2
    let k := s.core c
    let own := im.owner.isSome
    let wm := im.wm.map fun e =>
      let (_, _, m) := s.cellAt (s.markAt e.2.cell) e.2.cell
      (e.1, { e.2 with mark := m })
    let join {α : Type} (a b : FMap α) : FMap α := b.foldl (fun m e => mapPut m e.1 e.2) a
    let k' : Core := { k with
      owner := if own then im.owner else k.owner, vf := if own then im.vf else k.vf, census := if own then im.census else k.census,
      brec := if own then im.brec else k.brec, fills := if own then im.fills else k.fills,
      streams := join k.streams im.streams, wm := join k.wm wm, bb := join k.bb im.bb, rlt := join k.rlt im.rlt,
      shadow := if k.shadow = some n then none else k.shadow }
    let s := im.harts.foldl (fun s e => s.setHart e.1 e.2) ((s.setCore c k').ownSegment n c)
    { s with images := mapErase s.images e.1 }

/-- The instances in some images. -/
def imageInsts (ims : List (Nat × Image)) : List Nat := nub (ims.flatMap fun e => e.2.harts.filterMap fun h => h.2.inst)

/-- The images of one swap can be exchanged in now: one of their instances is chosen and their harts are free (R354). -/
def State.mayReturn (s : State) (die : Nat) (ims : List (Nat × Image)) : Bool :=
  let hs := ims.flatMap fun e => e.2.harts.map Prod.fst
  ims.all s.imageFits && s.mayTake die (fun e => e.resumed && decide (e.key ∈ imageInsts ims)) hs

/-- SWAP_IN (R354, R398): a swapped-out instance is chosen and its context's images are exchanged in. -/
def execSwapIn (ctx core : Nat) (s : State) : Out :=
  let s := s.refill (core / 256)
  match (s.imagesOn ctx core).find? fun e => s.mayReturn (core / 256) (s.swapImages (keySwap e.1)) with
  | none => notNow "SWAP_IN"
  | some e =>
    let ims := s.swapImages (keySwap e.1)
    let ids := imageInsts ims
    let s := ims.foldl State.loadCore s
    .next { s with instances := s.instances.map fun e => if e.1 ∈ ids then (e.1, { e.2 with swappedAt := none }) else e }

/-! Self-test (R357, R358, R376, R377). -/

/-- The cluster of visit n: CD0/K0, CD1/K0, CD2/K0, CD3/K0, CD0/K1, … (R357). -/
def visitCluster (n : Nat) : Nat := n % 4 * 16 + n / 4 % 12

/-- The cores of a cluster. -/
def coresOfCluster (k : Nat) : List Nat := (List.range 16).map (k * 16 + ·)

/-- SELFTEST_VISIT (R357): at its time the visit of the next cluster begins to drain it; once no hart is bound there, the L2
is written back and invalidated, the scratchpad segments are spilled, and the cluster is decanted. The next visit is an interval
after this start. A fenced cluster's turn passes. -/
def execSelftestVisit (cluster : Nat) (s : State) : Out :=
  let q := s.cluster cluster
  let harts := (coresOfCluster cluster).flatMap hartsOfCore
  if q.visitAt.isSome ∧ q.decanted = false then
    if harts.all fun h => decide ((s.hart h).status = .free) then
      let s := (q.l2.map Prod.fst).foldl (fun s l => s.evict cluster l) s
      let s := (coresOfCluster cluster).foldl (fun (s : State) k => (s.core k).seg.foldl (fun s e => s.spillSeg e.1 k) s) s
      .next (s.onCluster cluster fun q => { q with decanted := true })
    else notNow "SELFTEST_VISIT"
  else if cluster = visitCluster s.dev.visits ∧ s.dev.nextVisit ≤ s.time ∧ s.dev.booted ∧ (s.clusters.all fun e => e.2.visitAt.isNone) then
    let s : State := { s with dev := { s.dev with visits := s.dev.visits + 1, nextVisit := s.time + s.dev.selftestMs * 1000000 } }
    if q.fenced then .next s else .next (s.onCluster cluster fun q => { q with visitAt := some s.time })
  else notNow "SELFTEST_VISIT"

/-- A replica of a swapped-out instance is lost with its cluster: the survivors trap when they resume (R377). -/
def State.fenceReplica (s : State) (id : Nat) (i : Instance) (cluster : Nat) : State :=
  let n := s.instCtx i
  let gone (h : Nat) : Bool := decide (clusterOf h = cluster)
  let s : State := { s with instances := mapPut s.instances id { i with live := i.live.filter fun h => !gone h } }
  (s.groups.filter fun g => g.2.harts.any fun e => decide (e.2 ∈ i.all)).foldl (fun s e =>
    let g := e.2
    match g.liveHarts.find? fun r => gone r.2 with
    | none => s
    | some (r, _) =>
      let g' := g.without r false
      let cause := if g.live.length = 3 then Cause.replVote else Cause.replTimeout
      let alone := decide (g'.live.length ≤ 1)
      let s := g'.liveHarts.foldl (fun s q => s.onSaved n q.2 fun x =>
        { x.setCsr Csr.replstat (x.csr Csr.replstat ||| 0x10) with
          resumeTrap := some (cause, BitVec.ofNat 64 r, 0), group := if alone then none else x.group }) s
      { s with groups := if alone then mapErase s.groups e.1 else mapPut s.groups e.1 g' }) s

/-- An instance that a fence leaves without its harts is lost (R358). -/
def State.loseInstance (s : State) (id : Nat) (i : Instance) : State :=
  let s : State := { s with instances := mapErase s.instances id,
                            groups := s.groups.filter fun g => g.2.harts.all fun e => decide (e.2 ∉ i.all) }
  match mapFind? s.launches i.launch with
  | none => s
  | some l => (s.completionErr (s.launchActor l.ctx l.queue i.launch) l.doneVa 5).dropLaunch i.launch

/-- The segments of a core that clash with no other come back after a visit; the rest come back with their contexts (R357,
R397). -/
def State.returnSegs (s : State) (core : Nat) : State :=
  let k := s.core core
  (k.seg.filter fun e => k.seg.all fun o => !k.segClash e.1 o.1).foldl (fun s e => s.restoreSeg e.1 core) s

/-- A record that was taken fails with reason 3 where the smaller grant has no placement for what is left of it; instances that
run go on (R347, R358, R418). -/
def State.recheckLaunch (s : State) (n : Nat) (l : Launch) : State :=
  let cores := match s.ctx? l.ctx with | some c => s.grantCores c | none => []
  if l.count ≤ l.next ∨ (cores.any fun k => placeable l.shape (l.count - l.next) cores k) = true then s
  else if l.next = 0 then s.refuseLaunch n 3
  else
    let s : State := { s with launches := mapPut s.launches n { l with count := l.next } }
    let s := s.report l.ctx 2 l.queue 3 l.slotVa.toNat 0 0
    (s.completionErr (s.launchActor l.ctx l.queue n) l.doneVa 3).dropLaunch n

/-- SELFTEST_RESULT (R357, R358, R376): a passing cluster returns; a failing one is fenced, and its sixteen load-store units count
as having acknowledged a kill (R334, log 29). -/
def execSelftestResult (cluster : Nat) (pass : Bool) (unit : Nat) (s : State) : Out :=
  let q := s.cluster cluster
  match q.visitAt with
  | none => notNow "SELFTEST_RESULT"
  | some t0 =>
    if q.decanted = false ∨ 5 ≤ unit then notNow "SELFTEST_RESULT"
    else if pass then
      let s := s.onCluster cluster fun q => { q with decanted := false, visitAt := none }
      .next ((coresOfCluster cluster).foldl State.returnSegs s)
    else
      let s := s.onCluster cluster fun q => { q with decanted := false, visitAt := none, fenced := true }
      let s := s.report 0 3 (cluster / 16 * 1024 + cluster % 16 * 64) unit 0 t0 0
      let hit := s.instances.filter fun e => e.2.live.any fun h => decide (clusterOf h = cluster)
      let s := hit.foldl (fun s e =>
        let rest := e.2.live.any fun h => decide (clusterOf h ≠ cluster)
        if rest then s.fenceReplica e.1 e.2 cluster else s.loseInstance e.1 e.2) s
      let s : State := { s with
        images := s.images.filter fun e => decide (keyCore e.1 / 16 ≠ cluster),
        pageReqs := s.pageReqs.filter fun r => decide (2 ^ 20 ≤ r.hart) || decide (clusterOf r.hart ≠ cluster),
        ctxs := s.ctxs.map fun e => (e.1, { e.2 with cores := e.2.cores.filter fun c => decide (c / 16 ≠ cluster) }),
        keys := s.keys.map (fun e => if e.2.state = .retiring then (e.1, { e.2 with acks := Nat.min (e.2.acks + 16) 857 }) else e),
        dev := { s.dev with failed := s.dev.failed || decide (unit = 4) } }
      .next (s.launches.foldl (fun s e => s.recheckLaunch e.1 e.2) s)

/-! Page requests (R379-R382, R390). -/

/-- HART of a page request: HARTID[24:0], or the number under which the Dispatch Unit asks (log 23). -/
def State.reqHart (s : State) (r : PageReq) : Nat := if 2 ^ 20 ≤ r.hart then r.hart % 2 ^ 25 else (s.hartid r.hart).toNat % 2 ^ 25

/-- TAG of a request (R379). -/
def State.reqTag (s : State) (r : PageReq) : Nat := r.num % 256 * 2 ^ 32 + s.reqHart r

/-- The page-request element (R379). -/
def State.reqElem (s : State) (r : PageReq) : List Byte :=
  leBytes 8 r.gpa ++ leBytes 8 r.gva.toNat ++
    leBytes 8 ((if r.write then 2 ^ 40 else 0) + r.func % 64 * 2 ^ 32 + r.asid % 2 ^ 14 * 2 ^ 16 + r.ctx % 2 ^ 14) ++
    leBytes 8 (s.reqTag r) ++ List.replicate 32 0

/-- The key of a queue-port handle. -/
def handleKey (function handle : Nat) : Nat := function * 1024 + handle

/-- PAGE_REQUEST_ENQUEUE (R380): the oldest request of the function that waits in the walker enters the queue. -/
def execPageRequestEnqueue (function : Nat) (s : State) : Out :=
  let no := notNow "PAGE_REQUEST_ENQUEUE"
  match mapFind? s.handles (handleKey 0 (64 + function)),
      s.pageReqs.findIdx? fun r => decide (r.func = function) && !r.queued with
  | some t, some i =>
    match s.pageReqs[i]? with
    | none => no
    | some r =>
      let a := s.ctxActor t.ctx
      if !(s.qcb a.mark t.qcb).sound t.qcb then no
      else match s.enqAt a t.qcb (s.reqElem r) with
        | .ok (some s) => .next { s with pageReqs := s.pageReqs.set i { r with queued := true } }
        | _ => no
  | _, _ => no

/-- PAGE_REPLY_RECEIVE (R381): a reply is recorded for its request, or counted as stale. A launch that waited for its cell
is looked at again (R349). -/
def execPageReplyReceive (function : Nat) (s : State) : Out :=
  let no := notNow "PAGE_REPLY_RECEIVE"
  match mapFind? s.handles (handleKey 0 (128 + function)) with
  | none => no
  | some t =>
    let a := s.ctxActor t.ctx
    if !(s.qcb a.mark t.qcb).sound t.qcb then no
    else match s.deqAt a t.qcb with
      | .ok (some (e, s)) =>
        let tag := leNat (e.take 8)
        let good := decide (leNat ((e.drop 8).take 1) % 4 = 0)
        match s.pageReqs.findIdx? fun r => decide (r.func = function) && r.queued && r.answer.isNone && decide (s.reqTag r = tag) with
        | none => .next (s.onFunc function fun f => { f with staleReplies := f.staleReplies + 1 })
        | some i =>
          match s.pageReqs[i]? with
          | none => no
          | some r =>
            let s : State := { s with pageReqs := s.pageReqs.set i { r with answer := some good } }
            let waits := s.pageReqs.any fun q => decide (q.hart = r.hart) && q.answer.isNone
            if 2 ^ 20 ≤ r.hart ∧ waits = false then
              .next (if good then s.bindLaunch (r.hart - 2 ^ 20) else s.refuseLaunch (r.hart - 2 ^ 20) 4)
            else .next s
      | _ => no

/-- HOST_PAGE_REQUEST_ANSWER (R390): the host answers one of the 256 requests of a function that are outstanding. -/
def execHostPageRequestAnswer (idx : Nat) (success : Bool) (s : State) : Out :=
  match s.hostReqs.find? fun r => decide (r.idx = idx) && r.answer.isNone with
  | none => notNow "HOST_PAGE_REQUEST_ANSWER"
  | some r =>
    let open_ := ((s.hostReqs.filter fun q => q.answer.isNone && decide (q.function = r.function)).take 256).map HostReq.idx
    if idx ∉ open_ then notNow "HOST_PAGE_REQUEST_ANSWER"
    else
      let page := r.addr / 4096
      .next { s with
        hostReqs := s.hostReqs.map fun q => if q.idx = idx then { q with answer := some success } else q,
        atc := if success then (page :: s.atc.filter (· ≠ page)).take 4096 else s.atc }

/-- A location lies in a range of host addresses. -/
def hostIn (lo len loc : Nat) : Bool :=
  isHostLoc loc && decide (lo ≤ loc - hostLoc0) && decide (loc - hostLoc0 < lo + len)

/-- An access to a range of host addresses is still to be performed: a store in an open chunk, a copy, a bank load or a stream
(R390). -/
def State.hostBusy (s : State) (lo len : Nat) : Bool :=
  let bound (b : Binding) : Bool := b.pieces.any fun p =>
    isHostLoc p.2.1 && decide (p.2.1 - hostLoc0 < lo + len) && decide (lo < p.2.1 - hostLoc0 + p.2.2.1)
  (s.harts.any fun e => match e.2.chunk with
    | some c => c.buf.any fun w => hostIn lo len w.1
    | none => false) ||
  (s.cores.any fun e =>
    (e.2.copies.any fun c => (c.locs.drop (16 * c.done)).any (hostIn lo len)) ||
    (e.2.loads.any fun l => l.2.failed.isNone && l.2.locs.any (hostIn lo len)) ||
    e.2.streams.any fun t => t.2.list.any bound) ||
  s.images.any fun e => e.2.streams.any fun t => t.2.list.any bound

/-- ATS_INVALIDATION (R390): completes once every access that a matching translation serves has been performed. -/
def execAtsInvalidation (lo len : Nat) (s : State) : Out :=
  if s.hostBusy (lo / 4096 * 4096) (len + lo % 4096) then notNow "ATS_INVALIDATION"
  else .next { s with atc := s.atc.filter fun p => decide (lo + len ≤ p * 4096) || decide (p * 4096 + 4096 ≤ lo) }

end Sys2Proof.Machine
end

