-- ==== Sys2Proof/Machine/HostPort.lean ====
section
/-! DEFINITION. What the host does through the link: queue ports, inbound windows, TDISP, SPDM, supervisor calls, restarts,
the thermal limits, reset and bring-up; and what the device sends of itself (spec/25 R402-R409, R411, R413, R416, R417;
spec/10 R265; spec/23 R394). -/

namespace Sys2Proof.Machine

/-! Functions. -/

/-- The context to which a function is assigned (R402). -/
def State.funcCtx (s : State) (f : Nat) : Nat :=
  ((s.ctxs.find? fun e => decide (e.2.function = some f)).map Prod.fst).getD 0

/-- The link completes a read: the bytes, or nothing for Unsupported Request (R402, R403). -/
def State.linkCompletes (s : State) (f : Nat) (b : List Byte) : State := { s with hostOut := s.hostOut ++ [(f, b)] }

/-- The queue port and windows of a function are served (R404): in RUN only on its IDE stream, which stands for every
access once the stream has its keys. -/
def State.portServed (s : State) (f : Nat) : Bool :=
  match (s.func f).tdi with
  | .configUnlocked => true
  | .run => decide (f ∈ s.spdm.ideKeyed)
  | _ => false

/-- Counts a dropped port access (R403, R415). -/
def State.portDrop (s : State) (f : Nat) : State :=
  s.onFunc f fun x => { x with portErrors := Nat.min (x.portErrors + 1) (2 ^ 64 - 1) }

/-- Drops a port access, counts it and reports it (R403, R411): code 1 to 4. -/
def State.portError (s : State) (f handle code offset : Nat) : State :=
  (s.portDrop f).report (if f = 0 then 0 else s.funcCtx f) 5 (f % 64 * 1024 + handle % 1024) code offset 0 0

/-- A port access to a handle: its target, or the state in which the access was dropped (R403). -/
def State.portTarget (s : State) (f handle offset : Nat) : Except State PortTarget :=
  if !s.portServed f then .error (s.portDrop f)
  else match mapFind? s.handles (handleKey f handle) with
    | none => .error (s.portError f handle 2 offset)
    | some t => .ok t

/-! Queue ports (R403). -/

/-- The device's ports are open, and the function exists. -/
def State.portOpen (s : State) (f handle : Nat) : Bool := s.dev.portsOpen && decide (f < 64) && decide (handle < 1024)

/-- The function's port holds an element for a full queue; later writes of the function wait behind it. -/
def State.portHolds (s : State) (f : Nat) : Bool :=
  s.waiters.any fun e => e.2.enq.any fun w => decide (w.kind = .port f)

/-- QUEUE_PORT_ENQUEUE (R403): ENQ of the first ESIZE bytes, as a release; a full queue holds the element at the port. No element
reaches the queues of a context that has exited (R315, log 26). -/
def execQueuePortEnqueue (function handle : Nat) (data : Line) (s : State) : Out :=
  if !s.portOpen function handle || s.portHolds function then notNow "QUEUE_PORT_ENQUEUE"
  else match s.portTarget function handle (64 * handle) with
    | .error t => .next t
    | .ok t =>
      let a := s.ctxActor t.ctx
      let c := s.qcb a.mark t.qcb
      let bad (code : Nat) (s : State) : Out := .next (s.portError function handle code (64 * handle))
      if t.ctx ≠ 0 ∧ s.ctxExited t.ctx = true then bad 2 s
      else if !c.sound t.qcb then bad 3 (s.poison a.mark t.qcb)
      else if c.kind = 3 ∨ (c.kind = 4 ∧ function ≠ 0) then bad 4 s
      else if 64 < c.esize then bad 1 s
      else
        let e := (leBytes 64 data.toNat).take c.esize
        match s.enqAt a t.qcb e with
        | .ok (some s) => .next s
        | .ok none =>
          let w := s.waitersOf t.qcb
          .next (s.setWaiters a.mark t.qcb { w with enq := w.enq ++ [{ hart := 0, kind := .port function, elem := e }] })
        | .error _ => bad 4 s

/-- The QSTAT snapshot of a queue, which poisons a failing one (R208, R214). -/
def State.snapshot (s : State) (a : Actor) (q : Nat) : Nat × State :=
  let c := s.qcb a.mark q
  let w := s.waitersOf q
  (c.occ + c.log2cap * 2 ^ 32 + (if c.sound q then 0 else 2 ^ 40) + (if w.enq.isEmpty then 0 else 2 ^ 41) +
     (if w.deq.isEmpty then 0 else 2 ^ 42),
   if c.sound q then s else s.poison a.mark q)

/-- QUEUE_PORT_QSTAT_READ (R403, R214). -/
def execQueuePortQstatRead (function handle : Nat) (s : State) : Out :=
  if !s.portOpen function handle then notNow "QUEUE_PORT_QSTAT_READ"
  else match s.portTarget function handle (64 * handle) with
    | .error t => .next (t.linkCompletes function [])
    | .ok t =>
      let (v, s) := s.snapshot (s.ctxActor t.ctx) t.qcb
      .next (s.linkCompletes function (leBytes 8 v ++ List.replicate 56 0))

/-- QUEUE_PORT_DEQUEUE_READ (R403): DEQNB at the home, as an acquire. -/
def execQueuePortDequeueRead (function handle : Nat) (s : State) : Out :=
  let offset := 0x10000 + 128 * handle
  if !s.portOpen function handle then notNow "QUEUE_PORT_DEQUEUE_READ"
  else match s.portTarget function handle offset with
    | .error t => .next (t.linkCompletes function [])
    | .ok t =>
      let a := s.ctxActor t.ctx
      let c := s.qcb a.mark t.qcb
      let bad (code : Nat) (s : State) : Out := .next ((s.portError function handle code offset).linkCompletes function [])
      if !c.sound t.qcb then bad 3 (s.poison a.mark t.qcb)
      else if c.kind = 1 ∨ c.kind = 4 then bad 4 s
      else if 64 < c.esize then bad 1 s
      else match s.deqAt a t.qcb with
        | .ok none => .next (s.linkCompletes function (leBytes 8 2 ++ List.replicate 120 0))
        | .ok (some (e, s)) => .next (s.linkCompletes function (List.replicate 64 0 ++ (e ++ List.replicate 64 0).take 64))
        | .error _ => bad 4 s

/-- QUEUE_PORT_BAD_ACCESS (R403): any other access of the port is dropped, counted and reported. -/
def execQueuePortBadAccess (function offset : Nat) (s : State) : Out :=
  if !s.portOpen function 0 then notNow "QUEUE_PORT_BAD_ACCESS"
  else
    let handle := if offset < 0x10000 then offset / 64 else (offset - 0x10000) / 128
    .next ((s.portError function handle 1 offset).linkCompletes function [])

/-! Inbound peer windows (R405, R406). -/

/-- Drops a window write, counts it and reports it (R406, R411). -/
def State.windowDrop (s : State) (n : Nat) (w : Window) (code offset : Nat) : State :=
  let s : State := { s with windows := mapPut s.windows n { w with drops := Nat.min (w.drops + 1) (2 ^ 64 - 1) } }
  s.report w.ctx 5 (2 ^ 16 + w.function % 64 * 1024 + n % 1024) code offset 0 0

/-- The virtual address of an offset in BAR2 under a window. -/
def Window.va (w : Window) (offset : Nat) : Nat := w.lo.toNat + (offset - w.offset)

/-- Advances MARK over the written lines that follow it without a gap (R406). -/
def markRun : Nat → List Nat → Nat → Nat
  | 0, _, m => m
  | n + 1, ls, m => if m / 64 ∈ ls then markRun n ls ((m / 64 + 1) * 64) else m

/-- MARK of a window's cell. -/
def State.windowMark (s : State) (w : Window) : Nat := ((s.cellAt (s.markAt w.cell) w.cell).2.2).toNat

/-- Performs the lines of one write as engine writes; a line that does not translate is dropped (R406). -/
def State.windowLines (s : State) (n offset : Nat) : Nat → List Byte → State
  | 0, _ => s
  | k + 1, data =>
    match mapFind? s.windows n with
    | none => s
    | some w =>
      let va := w.va offset
      let a := s.ctxActor w.ctx
      let s := match s.check14 { a.who with asid := w.asid, mode := .t } .store 64 0 (BitVec.ofNat 64 va) 64 with
        | .error _ => s.windowDrop n w 6 offset
        | .ok (acc, s) =>
          let s := s.homeWrite a.mark (acc.locs.zip (data.take 64))
          { s with windows := mapPut s.windows n { w with lines := nub (va / 64 :: w.lines) } }
      s.windowLines n (offset + 64) k (data.drop 64)

/-- Performs one write, and moves MARK (R225, R406). -/
def State.windowPerform (s : State) (n offset : Nat) (data : List Byte) : State :=
  let s := s.windowLines n offset (data.length / 64) data
  match mapFind? s.windows n with
  | none => s
  | some w =>
    let m := s.windowMark w
    let m' := markRun (w.lines.length + 1) w.lines m
    if m' = m then s
    else
      let s : State := { s with windows := mapPut s.windows n { w with lines := w.lines.filter fun l => decide (m' ≤ l * 64) } }
      (s.advanceMark (s.markAt w.cell) w.cell (BitVec.ofNat 64 m')).2

/-- Performs the waiting writes of a window that fit now, in their order. -/
def State.windowDrain (s : State) (n : Nat) : Nat → State
  | 0 => s
  | k + 1 =>
    match mapFind? s.windows n with
    | none => s
    | some w => match w.waiting with
      | [] => s
      | (offset, data) :: rest =>
        if s.windowMark w + 0x100000 < w.va offset + data.length then s
        else (({ s with windows := mapPut s.windows n { w with waiting := rest } } : State).windowPerform n offset data).windowDrain n k

/-- WINDOW_WRITE (R406): whole lines in [LO, HI); a write beyond MARK + 1 MiB waits, and a write without the relaxed
attribute waits behind it. -/
def execWindowWrite (window offset : Nat) (data : List Byte) (relaxed : Bool) (s : State) : Out :=
  match mapFind? s.windows window with
  | none => notNow "WINDOW_WRITE"
  | some w =>
    let lo := w.offset
    let hi := w.offset + (w.hi.toNat - w.lo.toNat)
    if !s.dev.portsOpen then notNow "WINDOW_WRITE"
    else if !s.portServed w.function then
      .next { s with windows := mapPut s.windows window { w with drops := Nat.min (w.drops + 1) (2 ^ 64 - 1) } }
    else if offset % 64 ≠ 0 ∨ data.length % 64 ≠ 0 ∨ data.isEmpty ∨ offset < lo ∨ hi < offset + data.length then
      .next (s.windowDrop window w 5 offset)
    else
      let far := decide (s.windowMark w + 0x100000 < w.va offset + data.length)
      if far || (!relaxed && !w.waiting.isEmpty) then
        .next { s with windows := mapPut s.windows window { w with waiting := w.waiting ++ [(offset, data)] } }
      else .next ((s.windowPerform window offset data).windowDrain window (w.waiting.length + 1))

/-! TDISP (R404). -/

/-- The code of a TDI state in a report (R411). -/
def tdiCode : TdiState → Nat
  | .configUnlocked => 0
  | .configLocked => 1
  | .run => 2
  | .error => 3

/-- TDI_ERROR (R404, R411): the function enters ERROR; the harts of its context halt and the error is reported. -/
def execTdiError (function : Nat) (s : State) : Out :=
  let old := (s.func function).tdi
  let ctx := s.funcCtx function
  if old = .error ∨ function = 0 ∨ 64 ≤ function ∨ ctx = 0 then notNow "TDI_ERROR"
  else
    let s := s.onFunc function fun f => { f with tdi := .error }
    let s := s.report ctx 6 function (tdiCode old) 0 0 0
    .next { s with
      harts := s.harts.map fun e =>
        if e.2.ctx = ctx ∧ e.2.status ≠ .free ∧ e.2.status ≠ .halted ∧ e.2.status ≠ .stopped then (e.1, { e.2 with haltReq := true }) else e,
      images := s.images.map fun e =>
        if keyCtx e.1 = ctx then
          let im : Image := { e.2 with harts := e.2.harts.map fun q => (q.1, { q.2 with haltReq := true }) }
          (e.1, im)
        else e }

/-- TDISP_REQUEST (R404): LOCK, START and STOP; another request changes nothing. -/
def execTdispRequest (function : Nat) (dest : TdiState) (s : State) : Out :=
  if function = 0 ∨ 64 ≤ function ∨ s.dev.portsOpen = false then notNow "TDISP_REQUEST"
  else
    let old := (s.func function).tdi
    let ok := match old, dest with
      | .configUnlocked, .configLocked => true
      | .configLocked, .run => true
      | _, .configUnlocked => true
      | _, _ => false
    .next (if ok then s.onFunc function fun f => { f with tdi := dest } else s)

/-! SPDM (R407-R409). Response codes are those of DSP0274 (log 25). -/

/-- Sends a response. -/
def State.spdmSend (s : State) (f : Nat) (b : List Byte) : State :=
  { s with spdm := { s.spdm with out := s.spdm.out ++ [(f, b)] } }
/-- ERROR with a code: 1 InvalidRequest, 3 Busy, 4 UnexpectedRequest, 7 UnsupportedRequest. -/
def State.spdmError (s : State) (f : Nat) (code : Byte) : State := s.spdmSend f [0x7F, code]
/-- SPDM messages of a function. -/
def spdmOf (f : Nat) (what : String) (go : State) : Out := if f < 64 then .next go else notNow what
/-- How far a function's negotiation has come: 1 version, 2 capabilities, 3 algorithms. -/
def State.spdmStage (s : State) (f n : Nat) : State :=
  { s with spdm := { s.spdm with version := mapPut s.spdm.version f n } }

/-- SPDM_GET_VERSION (R407): 1.2 and 1.3. -/
def execSpdmGetVersion (function : Nat) (s : State) : Out :=
  spdmOf function "SPDM_GET_VERSION" ((s.spdmStage function 1).spdmSend function [0x04, 0x12, 0x13])
/-- SPDM_GET_CAPABILITIES (R407). -/
def execSpdmGetCapabilities (function : Nat) (s : State) : Out :=
  spdmOf function "SPDM_GET_CAPABILITIES" ((s.spdmStage function 2).spdmSend function [0x61])
/-- SPDM_NEGOTIATE_ALGORITHMS (R407): ECDSA P-384, SHA-384, AES-256-GCM. -/
def execSpdmNegotiateAlgorithms (function : Nat) (s : State) : Out :=
  spdmOf function "SPDM_NEGOTIATE_ALGORITHMS" ((s.spdmStage function 3).spdmSend function [0x63, 0x80, 0x02, 0x02])

/-- The 48 bytes of a digest. -/
def digestBytes (d : BitVec 384) : List Byte := leBytes 48 d.toNat

/-- SPDM_GET_DIGESTS (R407): the slots that hold a chain, and their digests. -/
def execSpdmGetDigests (function : Nat) (s : State) : Out :=
  let mask := s.spdm.chains.foldl (fun m e => m + 2 ^ e.1) 0
  spdmOf function "SPDM_GET_DIGESTS"
    (s.spdmSend function (0x01 :: BitVec.ofNat 8 mask :: s.spdm.chains.flatMap fun e => digestBytes (sha384 e.2)))

/-- A request that names a slot: refused where the slot does not exist or holds nothing, Busy while a rewrite is held
(R409). -/
def State.slotChain (s : State) (f slot : Nat) : Except State (List Byte) :=
  if 8 ≤ slot then .error (s.spdmError f 1)
  else if (mapFind? s.spdm.heldRewrite slot).isSome then .error (s.spdmError f 3)
  else match mapFind? s.spdm.chains slot with
    | none => .error (s.spdmError f 1)
    | some c => .ok c

/-- SPDM_GET_CERTIFICATE (R409): a portion of the chain; a sequence that began earlier goes on with its own chain. -/
def execSpdmGetCertificate (function slot offset length : Nat) (s : State) : Out :=
  let key := function * 8 + slot
  let begun := if offset = 0 then none else mapFind? s.spdm.reading key
  let chain : Except State (List Byte) := match begun with | some c => .ok c | none => s.slotChain function slot
  spdmOf function "SPDM_GET_CERTIFICATE" (match chain with
    | .error t => t
    | .ok c =>
      if c.length ≤ offset then s.spdmError function 1
      else
        let part := (c.drop offset).take length
        let left := c.length - offset - part.length
        let s : State := { s with spdm := { s.spdm with
          reading := if left = 0 then mapErase s.spdm.reading key else mapPut s.spdm.reading key c } }
        s.spdmSend function (0x02 :: BitVec.ofNat 8 slot :: leBytes 2 part.length ++ leBytes 2 left ++ part))

/-- SPDM_CHALLENGE (R409): accepted with the current chain, and answered later. -/
def execSpdmChallenge (function slot : Nat) (nonce : BitVec 256) (s : State) : Out :=
  spdmOf function "SPDM_CHALLENGE" (match s.slotChain function slot with
    | .error t => t
    | .ok c =>
      let msg := BitVec.ofNat 8 slot :: digestBytes (sha384 c) ++ leBytes 32 nonce.toNat
      let r : SpdmReq := { function := function, slot := slot, kind := 3, reply := 0x03 :: msg ++ Config.sign c msg }
      { s with spdm := { s.spdm with open_ := s.spdm.open_ ++ [r] } })

/-- A measurement block (R408): blocks 1 to 3 as recorded at boot, 4 the configuration, 0x10 + f the context of function
f. -/
def State.measureBlock (s : State) (index : Nat) : Option (List Byte) :=
  if index = 0 then none
  else if index ≤ 3 then (mapFind? s.dev.measurements index).map digestBytes
  else if index = 4 then
    some ((if s.dev.testMode then 1 else 0) :: leBytes 4 s.dev.selftestMs ++ leBytes 4 s.dev.ageLimit ++
      leBytes 8 ((s.clusters.filter fun e => e.2.fenced).foldl (fun m e => m + 2 ^ e.1) 0))
  else if 0x10 ≤ index ∧ index < 0x50 then
    (s.ctxs.find? fun e => decide (e.2.function = some (index - 0x10))).map fun e =>
      leBytes 2 e.1 ++ (if e.2.consent then 1 else 0) :: leBytes 2 e.2.keyid ++ digestBytes e.2.measured ++
        [BitVec.ofNat 8 (tdiCode (s.func (index - 0x10)).tdi)]
  else none

/-- SPDM_GET_MEASUREMENTS (R408): a VF sees blocks 1 to 4 and its own. -/
def execSpdmGetMeasurements (function index : Nat) (s : State) : Out :=
  let sees := decide (function = 0) || decide (index ≤ 4) || decide (index = 0x10 + function)
  spdmOf function "SPDM_GET_MEASUREMENTS" (match (if sees then s.measureBlock index else none) with
    | some b => s.spdmSend function (0x60 :: BitVec.ofNat 8 index :: b)
    | none => s.spdmError function 1)

/-- SPDM_KEY_EXCHANGE (R407, R409): accepted with the current chain; its session secret is fresh. -/
def execSpdmKeyExchange (function slot : Nat) (nonce : BitVec 256) (s : State) : Out :=
  spdmOf function "SPDM_KEY_EXCHANGE" (match s.slotChain function slot with
    | .error t => t
    | .ok c =>
      let msg := BitVec.ofNat 8 slot :: digestBytes (sha384 c) ++ leBytes 32 nonce.toNat
      let r : SpdmReq := { function := function, slot := slot, kind := 4, reply := 0x64 :: msg ++ Config.sign c msg }
      { s with
        spdm := { s.spdm with open_ := s.spdm.open_ ++ [r], session := mapPut s.spdm.session function (Config.session s.freeCtr) },
        freeCtr := s.freeCtr + 1 })

/-- SPDM_FINISH (R404, R407): the session's keys stand, and those of the function's IDE stream with them. -/
def execSpdmFinish (function : Nat) (s : State) : Out :=
  let exchanged := (mapFind? s.spdm.session function).isSome &&
    s.spdm.open_.all fun r => decide (r.function ≠ function) || decide (r.kind ≠ 4)
  spdmOf function "SPDM_FINISH"
    (if exchanged then
       ({ s with spdm := { s.spdm with ideKeyed := nub (function :: s.spdm.ideKeyed) } } : State).spdmSend function [0x65]
     else s.spdmError function 4)

/-- Holds a rewrite of a slot (R409). -/
def State.holdRewrite (s : State) (slot : Nat) (r : Rewrite) : State :=
  { s with spdm := { s.spdm with heldRewrite := mapPut s.spdm.heldRewrite slot r } }

/-- SPDM_SET_CERTIFICATE (R409): slot 0 is refused; a rewrite is held. -/
def execSpdmSetCertificate (function slot : Nat) (chain : List Byte) (s : State) : Out :=
  spdmOf function "SPDM_SET_CERTIFICATE"
    (if slot = 0 ∨ 8 ≤ slot then s.spdmError function 1
     else if (mapFind? s.spdm.heldRewrite slot).isSome then s.spdmError function 3
     else s.holdRewrite slot { chain := chain, function := some function, done := none })

/-- SPDM_UNSUPPORTED (R407). -/
def execSpdmUnsupported (function _code : Nat) (s : State) : Out :=
  spdmOf function "SPDM_UNSUPPORTED" (s.spdmError function 7)

/-- The oldest accepted request is answered (R409). -/
def State.spdmAnswer (s : State) : Option State :=
  match s.spdm.open_ with
  | [] => none
  | r :: rest => some (({ s with spdm := { s.spdm with open_ := rest } } : State).spdmSend r.function r.reply)

/-! DONE (R410). -/

/-- Writes a DONE doubleword as a release at device scope: in the issuing context's address space, or at a device address
for the host; an address that is no doubleword of memory gets nothing (R388, R410, log 26). -/
def State.answerDone (s : State) (issuer : Issuer) (done : Word) (v : Nat) : State :=
  match issuer with
  | some c =>
    let a := s.ctxActor c
    match s.check14 a.who .store 8 0 done 8 with
    | .ok (acc, s) => s.homeWrite a.mark (acc.locs.zip (leBytes 8 v))
    | .error _ => s
  | none =>
    let l := done.toNat
    if l % 8 = 0 ∧ (isHbm l ∨ isHostLoc l) then s.homeWrite 0 ((span l 8).zip (leBytes 8 v)) else s

/-- CERTIFICATE_REWRITE_APPLY (R409): once the earlier requests that name the slot are answered, in one step. -/
def execCertificateRewriteApply (slot : Nat) (s : State) : Out :=
  match mapFind? s.spdm.heldRewrite slot with
  | none => notNow "CERTIFICATE_REWRITE_APPLY"
  | some r =>
    if (s.spdm.open_.any fun q => decide (q.slot = slot)) || s.spdm.reading.any fun e => decide (e.1 % 8 = slot) then
      notNow "CERTIFICATE_REWRITE_APPLY"
    else
      let s : State := { s with spdm := { s.spdm with
        chains := mapPut s.spdm.chains slot r.chain, heldRewrite := mapErase s.spdm.heldRewrite slot } }
      let s := match r.function with | some f => s.spdmSend f [0x6E, BitVec.ofNat 8 slot] | none => s
      .next (match r.done with | some d => s.answerDone none d 1 | none => s)

/-! Harts, heat, reset (R265, R394, R416, R417). -/

/-- The context of which hart h is bound or saved. -/
def State.ctxOfHart (s : State) (h : Nat) : Option Nat :=
  if (s.hart h).status ≠ .free then some (s.hart h).ctx
  else (s.images.find? fun e => (mapFind? e.2.harts h).isSome).map fun e => keyCtx e.1

/-- HART_RESTART (R265): a halted hart traps SUPERVISOR_CALL_IN at the instruction after its halt. -/
def execHartRestart (hart : Nat) (v : Word) (s : State) : Out :=
  if (s.hart hart).status ≠ .halted ∨ s.dev.portsOpen = false then notNow "HART_RESTART"
  else .next (s.onHart hart fun x =>
    { x with status := .running, atVec := false, resumeTrap := some (Cause.supervisorCall, v, 0) })

/-- HOST_SUPERVISOR_CALL (R394). -/
def execHostSupervisorCall (hart : Nat) (v : Word) (s : State) : Out :=
  match s.ctxOfHart hart with
  | none => notNow "HOST_SUPERVISOR_CALL"
  | some n =>
    if s.dev.portsOpen then .next (s.onSaved n hart fun x => { x with irqCall := some v }) else notNow "HOST_SUPERVISOR_CALL"

/-- The core clock steps down by 100 MHz; TIME goes on from where it is (R417). -/
def Dev.slower (d : Dev) (cycle time : Nat) : Dev :=
  { d with clockSteps := Nat.min (d.clockSteps + 1) 18, timeBase := time, cycleBase := cycle }

/-- THERMAL_EVENT (R411, R417): above the power cap or 105 °C the clock steps down; at 115 °C every hart halts. -/
def execThermalEvent (celsius : Nat) (s : State) : Out :=
  if 115 ≤ celsius then
    let s := s.report 0 7 0 celsius 0 s.dev.powerCap 0
    let s : State := { s with dev := { s.dev with tooHot := true } }
    .next { s with harts := s.harts.map fun e =>
      if e.2.status ≠ .free ∧ e.2.status ≠ .halted ∧ e.2.status ≠ .stopped then (e.1, { e.2 with haltReq := true }) else e }
  else .next { s with dev := s.dev.slower s.cycle s.time }

/-- Where the RKC keeps the control block of the PF's management mailbox (log 27). -/
def pfMailboxQcb : Nat := 0x5FFFFF0000

/-- The control block that the RKC writes for a queue: KIND, ESIZE, capacity, owner (R210, R308, R313, R318). -/
def freshQcb (kind esize log2cap base owner loc : Nat) : Qcb :=
  let c : Qcb := { ctr := 0, cfg := kind % 8 * 2 ^ 57 + log2cap % 256 * 2 ^ 48 + esize % 65536 * 2 ^ 32, base := base, waiters := 0,
                   ident := 0, enqs := 0, deqs := 0, check := 0 }
  c.fresh owner ((homeCode? loc).getD 0)

/-- DEVICE_RESET (R416): reset, and bring-up in its order. A failed check of the flash image leaves the device answering
SPDM and recovery writes only. Certificate slots, keys' serials and the entropy drawn so far are no part of what reset
returns to its start. The generations of the device's ports advance, as at every rejoin (R339). -/
def execDeviceReset (secureBoot : Bool) (links : List Nat) (s : State) : Out :=
  let blocks := [1, 2, 3].map fun n => (n, sha384 (Config.image n))
  let fresh : State := { State.reset with
    cur := s.cur, agenda := s.agenda, freeCtr := s.freeCtr, tagCtr := s.tagCtr, fabricKey := s.fabricKey, gens := s.gens,
    rejoins := s.rejoins, linkFails := s.linkFails,
    keys := s.keys.map fun e => (e.1, { KeySlot.init with serial := e.2.serial }),
    spdm := { State.reset.spdm with chains := s.spdm.chains },
    dev := { State.reset.dev with id := s.dev.id, measurements := blocks, recovery := s.dev.recovery } }
  let fresh := fresh.rejoined s.dev.id
  if !secureBoot then
    .next { fresh with dev := { fresh.dev with bootFailed := true } }
  else
    let up : State := { fresh with
      dev := { fresh.dev with links := links, portsOpen := true, booted := true },
      handles := [(handleKey 0 8, { qcb := pfMailboxQcb, ctx := 0 })] }
    .next (up.setQcb 0 pfMailboxQcb (freshQcb 0 64 8 (pfMailboxQcb + 64) 0 pfMailboxQcb))

/-- RECOVERY_WRITE (R416). -/
def execRecoveryWrite (data : List Byte) (done : Word) (s : State) : Out :=
  if s.dev.bootFailed then
    .next (({ s with dev := { s.dev with recovery := s.dev.recovery ++ data } } : State).answerDone none done 1)
  else .next (s.answerDone none done 3)

/-! What the device sends of itself (R411, R413). -/

/-- The mailbox of a context, or of the PF. -/
def State.mailboxOf (s : State) (ctx : Nat) : Option Nat :=
  if ctx = 0 then (mapFind? s.handles (handleKey 0 8)).map PortTarget.qcb else (s.ctx? ctx).map Ctx.mailbox

/-- Enqueues waiting elements in their order; those of a full mailbox stay, those without a usable mailbox are lost. -/
def State.deliverMail (s : State) (full : List Nat) : List (Nat × List Byte) → State
  | [] => s
  | (ctx, e) :: rest =>
    if ctx ∈ full then ({ s with outbox := s.outbox ++ [(ctx, e)] } : State).deliverMail full rest
    else match s.mailboxOf ctx with
      | none => s.deliverMail full rest
      | some q =>
        let a := s.ctxActor ctx
        if !(s.qcb a.mark q).sound q then s.deliverMail full rest
        else match s.enqAt a q e with
          | .ok (some s) => s.deliverMail full rest
          | .ok none => ({ s with outbox := s.outbox ++ [(ctx, e)] } : State).deliverMail (ctx :: full) rest
          | .error _ => s.deliverMail full rest

/-- Enqueues the trace records of committed chunks as ENQNB does; a record that finds no usable queue or no room is
dropped and counted (R413). -/
def State.deliverTrace (s : State) : List (Nat × Word × List Byte) → State
  | [] => { s with traceOut := [] }
  | (h, ctl, r) :: rest =>
    let n := (s.hart h).ctx
    let drop (s : State) : State :=
      { s with traceDrops := mapPut s.traceDrops n (Nat.min (mapGet 0 s.traceDrops n + 1) (2 ^ 64 - 1)) }
    let a : Actor := { who := { s.who h with mode := .s }, mark := s.hartMark h }
    let s := match s.check14 a.who .store 64 0 (ctl &&& ~~~63#64) 64 with
      | .error _ => drop s
      | .ok (acc, s) =>
        let q := acc.locs.headD 0
        let c := s.qcb a.mark q
        if c.sound q ∧ c.kind = 0 ∧ c.esize = 32 then
          match s.enqAt a q r with
          | .ok (some s) => s
          | _ => drop s
        else drop s
    s.deliverTrace rest

/-- Mailbox elements and trace records leave. -/
def State.deliver (s : State) : State :=
  let s := if s.outbox.isEmpty then s else ({ s with outbox := [] } : State).deliverMail [] s.outbox
  if s.traceOut.isEmpty then s else s.deliverTrace s.traceOut

end Sys2Proof.Machine
end

