-- ==== Sys2Proof/Machine/Mgmt.lean ====
section
/-! DEFINITION. Management: invalidation, contexts, keys, routes, migration, parameters, counters and debug (spec/25
R405, R409, R410, R414, R415; spec/23 R386, R388; spec/17 R321-R324, R334-R337). The elements' own queue is the issuer's;
an event row here is the acceptance of one element by the unit that serves it. -/

namespace Sys2Proof.Machine

/-- The unit that serves an element takes it from its requester's mailbox, where it stands at the head: OP in byte 0, the address of
DONE at +0x18 (R318, R410, log 28). -/
def State.takeRequest (s : State) (op : Nat) (issuer : Issuer) (done : Word) : State :=
  match s.mailboxOf (issuer.getD 0) with
  | none => s
  | some q =>
    let a := s.ctxActor (issuer.getD 0)
    if !(s.qcb a.mark q).sound q then s
    else match s.deqAt a q with
      | .ok (some (e, t)) => if leNat (e.take 1) = op ∧ leWord ((e.drop 24).take 8) = done then t else s
      | _ => s

/-- Management is served once the device has come up (R416): the element is taken, then acted on. -/
def managed (s : State) (what : String) (op : Nat) (issuer : Issuer) (done : Word) (go : State → State) : Out :=
  if s.dev.booted then .next (go (s.takeRequest op issuer done)) else notNow what

/-- An operation that only the host may ask for: a supervisor is refused (R321, R410). -/
def hostOnly (s : State) (what : String) (op : Nat) (issuer : Issuer) (done : Word) (go : State → State) : Out :=
  managed s what op issuer done fun s => if issuer.isSome then s.answerDone issuer done 3 else go s

/-- Answers a request of the host with DONE and changes nothing else. -/
def State.hostDone (s : State) (done : Word) (v : Nat) : State := s.answerDone none done v

/-- Returned data: an element on the requester's mailbox with OP at +0x00, the echoed doubleword at +0x08 and the data from
+0x10 (R410, log 28). -/
def State.returnData (s : State) (issuer : Issuer) (op : Nat) (echo : Word) (data : List Byte) : State :=
  { s with outbox := s.outbox ++
      [(issuer.getD 0, leBytes 8 op ++ leBytes 8 echo.toNat ++ (data ++ List.replicate 48 0).take 48)] }

/-! Invalidation (R388). -/

/-- Drops the cached translations of some contexts that a request names. -/
def State.dropTlb (s : State) (p : TlbEntry → Bool) : State :=
  { s with cores := s.cores.map fun e => (e.1, { e.2 with tlb := e.2.tlb.filter fun t => !p t }),
           clusters := s.clusters.map fun e => (e.1, { e.2 with tlb := e.2.tlb.filter fun t => !p t }) }

/-- An invalidation: matching entries go at once; DONE waits for the accesses they translated. -/
def State.invalidate (s : State) (issuer : Issuer) (ctxs : List Nat) (guest : Bool) (lo hi : Nat) (p : TlbEntry → Bool)
    (done : Word) : State :=
  let chunks := (s.harts.filter fun e => e.2.chunk.isSome && decide (e.2.ctx ∈ ctxs)).map fun e => (e.1, e.2.ordinal)
  let s := s.dropTlb p
  { s with mgmt := mapPut s.mgmt s.tagCtr (.invalidate ctxs guest lo hi chunks done issuer), tagCtr := s.tagCtr + 1 }

/-- An address range rounded outward to 4 KiB. -/
def roundOut (start length : Word) : Nat × Nat :=
  (start.toNat / 4096 * 4096, (start.toNat + length.toNat + 4095) / 4096 * 4096)

/-- A supervisor acts on its own context only. -/
def ownContext (issuer : Issuer) (ctx : Nat) : Bool := match issuer with | some c => decide (c = ctx) | none => true
/-- A supervisor acts on its own context's function only. -/
def State.ownFunction (s : State) (issuer : Issuer) (f : Nat) : Bool :=
  match issuer with
  | some c => decide (((s.ctx? c).bind Ctx.function) = some f)
  | none => true

/-- The contexts of a function. -/
def State.ctxsOf (s : State) (f : Nat) : List Nat := (s.ctxs.filter fun e => decide (e.2.function = some f)).map Prod.fst

/-- A translation of an address space overlaps a range; a global one belongs to every address space of its context. -/
def TlbEntry.inSpace (e : TlbEntry) (ctx asid lo hi : Nat) : Bool :=
  decide (e.ctx = ctx) && (e.global || decide (e.asid = asid)) && decide (lo < e.va * 4096 + 4096) && decide (e.va * 4096 < hi)

/-- INVALIDATE_VA_RANGE (R388, OP 1). -/
def execInvalidateVaRange (issuer : Issuer) (ctx asid : Nat) (start length done : Word) (s : State) : Out :=
  managed s "INVALIDATE_VA_RANGE" 1 issuer done (fun s =>
    if !ownContext issuer ctx || (s.ctx? ctx).isNone then s.answerDone issuer done 3
    else
      let (lo, hi) := roundOut start length
      s.invalidate issuer [ctx] false lo hi (·.inSpace ctx asid lo hi) done)

/-- INVALIDATE_ASID (R388, OP 2). -/
def execInvalidateAsid (issuer : Issuer) (ctx asid : Nat) (done : Word) (s : State) : Out :=
  managed s "INVALIDATE_ASID" 2 issuer done (fun s =>
    if !ownContext issuer ctx || (s.ctx? ctx).isNone then s.answerDone issuer done 3
    else s.invalidate issuer [ctx] false 0 (2 ^ 64) (·.inSpace ctx asid 0 (2 ^ 64)) done)

/-- INVALIDATE_CONTEXT (R388, OP 3). -/
def execInvalidateContext (issuer : Issuer) (ctx : Nat) (done : Word) (s : State) : Out :=
  managed s "INVALIDATE_CONTEXT" 3 issuer done (fun s =>
    if !ownContext issuer ctx || (s.ctx? ctx).isNone then s.answerDone issuer done 3
    else s.invalidate issuer [ctx] false 0 (2 ^ 64) (fun e => decide (e.ctx = ctx)) done)

/-- INVALIDATE_GPA_RANGE (R388, OP 4). -/
def execInvalidateGpaRange (issuer : Issuer) (function : Nat) (start length done : Word) (s : State) : Out :=
  managed s "INVALIDATE_GPA_RANGE" 4 issuer done (fun s =>
    if !s.ownFunction issuer function || decide (64 ≤ function) then s.answerDone issuer done 3
    else
      let (lo, hi) := roundOut start length
      let ctxs := s.ctxsOf function
      s.invalidate issuer ctxs true lo hi
        (fun e => decide (e.ctx ∈ ctxs) && decide (lo < e.gpa * 4096 + e.gsize) && decide (e.gpa * 4096 < hi)) done)

/-- INVALIDATE_FUNCTION (R388, OP 5). -/
def execInvalidateFunction (issuer : Issuer) (function : Nat) (done : Word) (s : State) : Out :=
  managed s "INVALIDATE_FUNCTION" 5 issuer done (fun s =>
    if !s.ownFunction issuer function || decide (64 ≤ function) then s.answerDone issuer done 3
    else
      let ctxs := s.ctxsOf function
      s.invalidate issuer ctxs true 0 (2 ^ 64) (fun e => decide (e.ctx ∈ ctxs)) done)

/-- A stream with a matching translation (log 15). -/
def Stream.holds (ctxOf : Nat → Nat) (ctxs : List Nat) (guest : Bool) (lo hi : Nat) (st : Stream) : Bool :=
  st.list.any fun b => decide (ctxOf b.hart ∈ ctxs) && b.pieces.any fun p => guest || (decide (p.1 < hi) && decide (lo < p.1 + p.2.2.1))

/-- An access translated by a matching entry is still to be performed: in an open chunk, a copy, a stream, a bank load or a
scatter-add. -/
def State.translationBusy (s : State) (ctxs : List Nat) (guest : Bool) (lo hi : Nat) (chunks : List (Nat × Nat)) : Bool :=
  let ctxOf (h : Nat) : Nat := (s.hart h).ctx
  (chunks.any fun e => let x := s.hart e.1; x.chunk.isSome && decide (x.ordinal = e.2) && decide (x.ctx ∈ ctxs)) ||
  (s.cores.any fun e =>
    (e.2.copies.any fun c => decide (ctxOf c.hart ∈ ctxs) &&
      (guest || (decide (c.ea.toNat < hi) && decide (lo < c.ea.toNat + 256 * c.regs)))) ||
    (e.2.loads.any fun l => decide (ctxOf l.2.hart ∈ ctxs) && l.2.failed.isNone) ||
    e.2.streams.any fun t => t.2.holds ctxOf ctxs guest lo hi) ||
  (s.images.any fun e => decide (keyCtx e.1 ∈ ctxs) && e.2.streams.any fun t => t.2.holds (fun _ => keyCtx e.1) ctxs guest lo hi) ||
  s.scatter.any fun e => decide (ctxOf e.hart ∈ ctxs)

/-- INVALIDATION_DONE (R388): after the matching accesses have drained. -/
def execInvalidationDone (idx : Nat) (s : State) : Out :=
  match mapFind? s.mgmt idx with
  | some (.invalidate ctxs guest lo hi chunks done issuer) =>
    if s.translationBusy ctxs guest lo hi chunks then notNow "INVALIDATION_DONE"
    else .next (({ s with mgmt := mapErase s.mgmt idx } : State).answerDone issuer done 1)
  | _ => notNow "INVALIDATION_DONE"

/-! Contexts (R335). -/

/-- A queue that the RKC can initialise. -/
def queueSpecOk (q : QueueSpec) : Bool :=
  decide (q.qcb % 64 = 0) && isHbm q.qcb && decide (q.log2cap ≤ 24) && decide (q.base.toNat % 64 = 0)

/-- The specification is malformed. -/
def createBad (c : CreateSpec) : Bool :=
  decide (c.ctx = 0) || decide (2 ^ 14 ≤ c.ctx) || decide (c.keyid = 0) || decide (4096 ≤ c.keyid) ||
  c.asids.isEmpty || decide (8 < c.asids.length) || (c.asids.any fun e => decide (2 ^ 14 ≤ e.1) || decide (e.2 % 4096 ≠ 0)) ||
  !noRepeat (c.asids.map Prod.fst) || decide (c.queues.length ≠ 8) || !c.queues.all queueSpecOk || !queueSpecOk c.mailbox ||
  !(c.requests.all queueSpecOk) || !(c.replies.all queueSpecOk) || decide (c.share = 0) || decide (255 < c.share) ||
  (decide (c.tick ≠ 0) && (decide (c.tick < 10) || decide (1000000 < c.tick))) ||
  (c.cores.any fun k => decide (1024 ≤ k) || decide (12 ≤ k / 16 % 16)) || !noRepeat c.cores ||
  decide (c.lspBase % 2048 ≠ 0) || decide (c.lspSize % 2048 ≠ 0) || decide (0x80000 < c.lspBase + c.lspSize) ||
  (match c.function with | some f => decide (f = 0) || decide (64 ≤ f) | none => false)

/-- A key slot from 1 to 4,095 is EMPTY (R335). -/
def State.keyFree (s : State) : Bool := (List.range 4096).any fun k => decide (k ≠ 0) && decide ((s.key k).state = .empty)

/-- The ASIDs of live contexts, counted by context: one number may be live in several contexts at once, and counts in each (R2; DESIGN
CHOICE, log 123). -/
def State.liveAsids (s : State) : Nat := (s.ctxs.map fun e => e.2.asids.length).foldl (· + ·) 0

/-- The specification is refused: no key slot is EMPTY, 16,384 ASIDs would not suffice, or the function or a core is not free for it
(R2, R335). -/
def State.createRefused (s : State) (c : CreateSpec) : Bool :=
  !s.keyFree || decide (16384 < s.liveAsids + c.asids.length) ||
  (match c.function with | some f => !(s.ctxsOf f).isEmpty | none => false) ||
  c.cores.any fun k => (s.cluster (k / 16)).fenced

/-- The context number and the key slot that the RKC assigns are free (R335, log 132). -/
def State.assignable (s : State) (c : CreateSpec) : Bool := (s.ctx? c.ctx).isNone && decide ((s.key c.keyid).state = .empty)

/-- Initialises a queue (R210, R313, R318). -/
def State.initQueue (s : State) (mark owner kind esize : Nat) (q : QueueSpec) : State :=
  let s := s.setQcb mark q.qcb (freshQcb kind esize q.log2cap q.base.toNat owner q.qcb)
  { s with waiters := mapErase s.waiters q.qcb }

/-- CREATE (R335, R386, R394, R396): the context with its key, cores, address spaces, queues and handles. Its number and its key slot
are the RKC's choice among those that are free, which the specification brings (log 132). -/
def execCreate (issuer : Issuer) (spec : CreateSpec) (s : State) : Out :=
  if issuer.isNone && !createBad spec && !s.createRefused spec && !s.assignable spec then notNow "CREATE"
  else hostOnly s "CREATE" 0x10 issuer spec.done (fun s =>
    if createBad spec then s.hostDone spec.done 2
    else if s.createRefused spec then s.hostDone spec.done 3
    else
      let k := s.key spec.keyid
      let s : State := { s with
        keys := mapPut s.keys spec.keyid { state := .live, serial := k.serial + 1, acks := 0, killedAt := 0, reported := false } }
      let c : Ctx :=
        { cores := spec.cores, asids := spec.asids, keyid := spec.keyid, queues := spec.queues.map QueueSpec.qcb,
          mailbox := spec.mailbox.qcb, consent := spec.consent, tvec := spec.tvec, function := spec.function,
          notice := spec.notice, share := spec.share, tick := spec.tick, nextTick := s.time + spec.tick * 1000, deficits := [],
          lspBase := spec.lspBase, lspSize := spec.lspSize, exited := false, dying := none,
          measured := sha384 spec.images }
      let s : State := { s with ctxs := mapPut s.ctxs spec.ctx c }
      let s := spec.cores.foldl (fun s k => s.onCore k fun q => { q with
        seg := mapPut q.seg spec.ctx { base := spec.lspBase, size := spec.lspSize, grantBase := spec.lspBase, grantSize := spec.lspSize },
        tags := q.tags.filter fun e => decide (e.1 / 2 ^ 53 ≠ spec.ctx) }) s
      let mark := s.keyMark spec.keyid
      let s := spec.queues.foldl (fun s q => s.initQueue mark spec.ctx 1 64 q) (s.initQueue mark spec.ctx 0 64 spec.mailbox)
      let s := match spec.requests with | some q => s.initQueue 0 0 3 64 q | none => s
      let s := match spec.replies with | some q => s.initQueue 0 0 4 16 q | none => s
      let s := match spec.function with
        | none => s
        | some f =>
          let own := (spec.queues ++ [spec.mailbox]).zipIdx.foldl (fun m (e : QueueSpec × Nat) =>
            mapPut m (handleKey f e.2) ({ qcb := e.1.qcb, ctx := spec.ctx } : PortTarget)) s.handles
          let own := match spec.requests with | some q => mapPut own (handleKey 0 (64 + f)) { qcb := q.qcb, ctx := 0 } | none => own
          let own := match spec.replies with | some q => mapPut own (handleKey 0 (128 + f)) { qcb := q.qcb, ctx := 0 } | none => own
          ({ s with handles := own } : State).onFunc f fun x => { x with onDemand := spec.onDemand }
      s.hostDone spec.done 1)

/-- The packets that have passed a port of their path, and are neither performed nor rejected. -/
def State.passed (s : State) (port : Nat) : List Nat := (s.packets.filter fun p => p.answer.isNone && p.crossed port).map Packet.tag

/-- DESTROY (R335): the context has exited, and its launches go; the generation of every route into its windows advances (R315); its
harts halt at their pre-emption points (R396), after which its routes drain, its key is killed and its memory is released. -/
def execDestroy (issuer : Issuer) (ctx : Nat) (done : Word) (s : State) : Out :=
  hostOnly s "DESTROY" 0x11 issuer done (fun s => match s.ctx? ctx with
    | none => s.hostDone done 3
    | some c =>
      if c.dying.isSome then s.hostDone done 3
      else
        let s := s.onCtx ctx fun c => { c with exited := true, dying := some done }
        let ports := nub ((s.access.filter fun e => decide (e.tctx = ctx)).flatMap AccessEntry.via)
        let tags := ports.flatMap s.passed
        let s := ports.foldl State.advancePort s
        { s with launches := s.launches.filter fun e => decide (e.2.ctx ≠ ctx) || s.instances.any fun i => decide (i.2.launch = e.1),
                 mgmt := mapPut s.mgmt s.tagCtr (.drain done (some ctx) tags), tagCtr := s.tagCtr + 1 })

/-- What a destroyed context leaves is released, its watermark, barrier and retention registers with it (R335, step 5; R204, R229). -/
def State.releaseCtx (s : State) (n : Nat) : State :=
  match s.ctx? n with
  | none => s
  | some c =>
    let mine (k : Nat) : Bool := decide (k / 1024 = n)
    let handles := match c.function with
      | none => s.handles
      | some f => s.handles.filter fun e => decide (e.2.ctx ≠ n) && decide (e.1 ≠ 64 + f) && decide (e.1 ≠ 128 + f)
    let s : State := { s with
      ctxs := mapErase s.ctxs n, launches := s.launches.filter (fun e => decide (e.2.ctx ≠ n)),
      instances := s.instances.filter (fun e => decide (s.instCtx e.2 ≠ n)),
      images := s.images.filter (fun e => decide (keyCtx e.1 ≠ n)), spills := s.spills.filter (fun e => !mine e.1),
      access := s.access.filter (fun e => decide (e.tctx ≠ n)), handles := handles,
      windows := s.windows.filter (fun e => decide (e.2.ctx ≠ n)), pageReqs := s.pageReqs.filter (fun r => decide (r.ctx ≠ n)),
      hostReqs := s.hostReqs.filter (fun r => decide (r.ctx ≠ n)), jobs := s.jobs.filter (fun j => decide (j.ctx ≠ n)),
      waiters := s.waiters.filter fun e => decide (e.1 ∉ c.mailbox :: c.queues),
      cores := s.cores.map fun e => (e.1, { e.2 with
        seg := mapErase e.2.seg n, tags := e.2.tags.filter (fun t => decide (t.1 / 2 ^ 53 ≠ n)),
        wm := e.2.wm.filter (fun r => decide (r.2.ctx ≠ n)), bb := e.2.bb.filter (fun r => decide (r.2.ctx ≠ n)),
        rlt := e.2.rlt.filter (fun r => decide (r.2.ctx ≠ n)), tlb := e.2.tlb.filter fun t => decide (t.ctx ≠ n) }),
      clusters := s.clusters.map fun e => (e.1, { e.2 with
        arr := e.2.arr.filter (fun a => decide (a.2.ctx ≠ n)), tlb := e.2.tlb.filter fun t => decide (t.ctx ≠ n) }) }
    match c.dying with
    | some d => s.hostDone d 1
    | none => s

/-! Keys (R334). -/

/-- KILLKEY (R334): the RKC retires the key of a destroyed context whose routes have drained. The sixteen load-store units
of each fenced cluster count as having acknowledged (log 29). -/
def execKillkey (slot : Nat) (s : State) : Out :=
  let k := s.key slot
  let draining (n : Nat) : Bool := s.mgmt.any fun e => match e.2 with | .drain _ (some c) _ => decide (c = n) | _ => false
  let owner := s.ctxs.find? fun e => decide (e.2.keyid = slot) && e.2.dying.isSome && !draining e.1
  if k.state ≠ .live ∨ owner.isNone then notNow "KILLKEY"
  else
    let fenced := (s.clusters.filter fun e => e.2.fenced).length
    .next { s with keys := mapPut s.keys slot { k with state := .retiring, acks := 16 * fenced, killedAt := s.time, reported := false } }

/-- A packet that waits at this device to be performed under a key slot, or to leave under one of its stream keys. -/
def State.queuedUnder (s : State) (slot : Nat) (p : Packet) : Bool :=
  decide (tokKeyid p.token = slot) && decide (tokDevice p.token = s.dev.id) &&
    (match p.at_ with | .target => true | .home _ => true | .held => true | _ => false)

/-- A kill reaches the engines of the L2s and of the fabric: lines under the key are written back as ciphertext and invalidated,
queued additions and packets under it are discarded, and its stream keys are erased. -/
def State.dropKey (s : State) (slot : Nat) : State :=
  let mark := s.keyMark slot
  let s := (s.clusters.map Prod.fst).foldl (fun s k =>
    (((s.cluster k).l2.map Prod.fst).filter fun l => (List.range 64).any fun i => decide (mapFind? s.memKey (l * 64 + i) = some (mark + 1))).foldl (fun s l => s.evict k l) s) s
  { s with
    gcm := s.gcm.filter (fun e => decide (e.2.keyid ≠ slot) || decide (e.2.node % 4096 ≠ s.dev.id)),
    scatter := s.scatter.filter (fun e => decide (e.mark ≠ mark)),
    packets := s.packets.filterMap fun p =>
      if s.queuedUnder slot p then (if s.isOwn p then some { p with at_ := .lost } else none) else some p }

/-- KEY_KILL_RECEIVE (R334): one of the 858 cipher engines completes the kill and acknowledges; the last one empties the
slot, and what the context held is released. -/
def execKeyKillReceive (slot : Nat) (s : State) : Out :=
  let k := s.key slot
  if k.state ≠ .retiring then notNow "KEY_KILL_RECEIVE"
  else
    let s := s.dropKey slot
    if k.acks + 1 < 858 then .next { s with keys := mapPut s.keys slot { k with acks := k.acks + 1 } }
    else
      let s : State := { s with keys := mapPut s.keys slot { k with state := .empty, acks := 0, killedAt := 0 } }
      .next (match s.ctxs.find? fun e => decide (e.2.keyid = slot) && e.2.dying.isSome with
        | some e => s.releaseCtx e.1
        | none => s)

/-- KEY_RETIRE_STUCK (R334, R411): RETIRING for more than 10 ms. -/
def execKeyRetireStuck (slot : Nat) (s : State) : Out :=
  let k := s.key slot
  if k.state ≠ .retiring ∨ k.reported = true ∨ s.time ≤ k.killedAt + 10000000 then notNow "KEY_RETIRE_STUCK"
  else
    let s : State := { s with keys := mapPut s.keys slot { k with reported := true } }
    .next (s.report 0 4 slot 0 0 (s.time - k.killedAt) 0)

/-! Routes (R321-R324). -/

/-- The specification of a token is malformed. -/
def mintBad (m : MintSpec) : Bool :=
  decide (6 < m.cls) || decide (2 ^ 23 ≤ m.node) || !pathOk m.path || decide (4096 ≤ m.src) || decide (m.ctx = 0) || decide (2 ^ 14 ≤ m.ctx) || decide (4096 ≤ m.keyid) ||
  decide (64 ≤ m.rights) || decide (256 ≤ m.stripe) || decide (2 ^ 48 ≤ m.wbase) || decide (2 ^ 40 ≤ m.wlen)

/-- The token's target is this device. -/
def State.mintHere (s : State) (m : MintSpec) : Bool := decide (field m.node 11 0 = s.dev.id)

/-- The window is a memory window in host memory, which alone stands under KEYID 0 (R334). -/
def mintHost (m : MintSpec) : Bool :=
  (decide (m.cls = 0) || decide (m.cls = 3)) && isHostLoc m.wbase && isHostLoc (m.wbase + m.wlen - 1)

/-- The window of a token on this device belongs to the context that is named as its owner. -/
def State.mintOwner (s : State) (m : MintSpec) : Bool :=
  match s.ctx? m.tctx with
  | some c => !c.exited && (decide (m.keyid = c.keyid) || (decide (m.keyid = 0) && mintHost m)) &&
      (decide (m.cls ≠ 5) || (c.consent && decide (nodeCore m.node ∈ c.cores))) &&
      ((decide (m.cls ≠ 1) && decide (m.cls ≠ 6)) || decide (nodeCore m.node ∈ c.cores))
  | none => false

/-- The request's fields, for host policy. -/
def mintFields (m : MintSpec) : List Nat :=
  [m.issuer.getD 0, m.src, m.cls, m.node, m.wbase, m.wlen, m.rights, m.keyid, if m.c then 1 else 0, m.ctx, m.tctx, m.stripe]

/-- Host policy permits the request; the host's own it does (R321, log 24). -/
def mintPermitted (m : MintSpec) : Bool :=
  match m.issuer with
  | none => true
  | some _ => Config.policy (mintFields m)

/-- The access entry of a window at this device: for the pair of the source device and CTX; TCORE of CLASS 1 only (R326). -/
def mintEntry (m : MintSpec) : AccessEntry :=
  { device := m.src, ctx := m.ctx, base := m.wbase, len := m.wlen, rights := m.rights, keyid := m.keyid, c := m.c,
    tctx := m.tctx, tcore := if m.cls = 1 then nodeCore m.node else 0, space := classSpace m.cls, via := [lastPort m.src m.path] }

/-- The RKC grants the window: on this device to its owner; on another, where that device's RKC has agreed. CLASS 4 goes to replica
groups only (R322, R327). -/
def State.mintGranted (s : State) (m : MintSpec) : Bool :=
  decide (m.cls ≠ 4) && if s.mintHere m then s.mintOwner m else m.agreed

/-- The token of a specification, on its path with current generations (R322). -/
def State.mintToken (s : State) (m : MintSpec) : Line :=
  s.makeToken m.src m.cls m.node m.wbase m.wlen m.rights m.keyid m.c m.ctx m.stripe m.path

/-- Returns a token in two elements and answers DONE (R410, log 28). -/
def State.returnToken (s : State) (m : MintSpec) (op : Nat) (t : Line) : State :=
  let half (i : Nat) : List Byte := leBytes 16 i ++ (leBytes 64 t.toNat |>.drop (32 * i)).take 32
  ((s.returnData m.issuer op m.echo (half 0)).returnData m.issuer op m.echo (half 1)).answerDone m.issuer m.done 1

/-- The target's table needs no entry of this device's: the window lies on another one, or the class is checked by the RKC (R327). -/
def State.mintElsewhere (s : State) (m : MintSpec) : Bool := !s.mintHere m || decide (m.cls = 5)

/-- MINT (R322, R336): the target's entry is installed before the token is sealed. -/
def execMint (spec : MintSpec) (s : State) : Out :=
  managed s "MINT" 0x12 spec.issuer spec.done (fun s =>
    if mintBad spec then s.answerDone spec.issuer spec.done 2
    else if !mintPermitted spec || !s.mintGranted spec then s.answerDone spec.issuer spec.done 3
    else if s.mintElsewhere spec then s.returnToken spec 0x12 (s.mintToken spec)
    else match s.installEntry (mintEntry spec) with
      | none => s.answerDone spec.issuer spec.done 3
      | some t => t.returnToken spec 0x12 (t.mintToken spec))

/-- A grant stands: an entry of the window at this device, or on another device its RKC's word. -/
def State.grantStands (s : State) (m : MintSpec) : Bool :=
  let n := mintEntry m
  let bare (e : AccessEntry) : AccessEntry := { e with base := 0, len := 0, rights := 0, via := [] }
  s.mintElsewhere m || s.access.any fun e => decide (bare e = bare n) && decide (e.base ≤ n.base) &&
    decide (n.base + n.len ≤ e.base + e.len) && decide (e.rights &&& n.rights = n.rights)

/-- REMINT (R321): the holder's supervisor asks for a fresh token for a grant that still stands. -/
def execRemint (spec : MintSpec) (s : State) : Out :=
  managed s "REMINT" 0x13 spec.issuer spec.done (fun s =>
    if mintBad spec then s.answerDone spec.issuer spec.done 2
    else if spec.issuer ≠ some spec.ctx ∨ spec.src ≠ s.dev.id ∨ (mintPermitted spec && s.mintGranted spec && s.grantStands spec) = false then
      s.answerDone spec.issuer spec.done 3
    else if s.mintElsewhere spec then s.returnToken spec 0x13 (s.mintToken spec)
    else match s.installEntry (mintEntry spec) with
      | none => s.answerDone spec.issuer spec.done 3
      | some t => t.returnToken spec 0x13 (t.mintToken spec))

/-- Starts a revocation's drain (R324). -/
def State.startDrain (s : State) (done : Word) (tags : List Nat) : State :=
  { s with mgmt := mapPut s.mgmt s.tagCtr (.drain done none tags), tagCtr := s.tagCtr + 1 }

/-- DROPGRANT (R324): removes entry number `entry` of the pair; packets of the pair that the ingress has admitted are awaited. -/
def execDropgrant (issuer : Issuer) (device ctx entry : Nat) (done : Word) (s : State) : Out :=
  hostOnly s "DROPGRANT" 0x14 issuer done (fun s =>
    let pair := (s.access.zipIdx.filter fun e => decide (e.1.device = device) && decide (e.1.ctx = ctx)).map Prod.snd
    let inside (p : Packet) : Bool := p.answer.isNone && decide (p.src = device) && decide (p.sctx = ctx) &&
      (match p.at_ with | .home _ => true | _ => false)
    match pair[entry]? with
    | none => s.hostDone done 2
    | some i => ({ s with access := s.access.eraseIdx i } : State).startDrain done ((s.packets.filter inside).map Packet.tag))

/-- ADVANCE (R323, R324). -/
def execAdvance (issuer : Issuer) (port : Nat) (done : Word) (s : State) : Out :=
  hostOnly s "ADVANCE" 0x15 issuer done (fun s => (s.advancePort port).startDrain done (s.passed port))

/-- REVOCATION_DRAIN_ANSWER (R324): every packet that passed before the change has been performed or rejected. For a
context that is destroyed: its harts are gone, its packets are done, and its own routes are dropped (R335, step 3). -/
def execRevocationDrainAnswer (idx : Nat) (s : State) : Out :=
  let no := notNow "REVOCATION_DRAIN_ANSWER"
  match mapFind? s.mgmt idx with
  | some (.drain done ctx tags) =>
    let s' : State := { s with mgmt := mapErase s.mgmt idx }
    if s.packets.any fun p => decide (p.tag ∈ tags) && p.answer.isNone then no
    else match ctx with
    | none => .next (s'.hostDone done 1)
    | some n =>
      let bound := s.harts.any fun e => decide (e.2.ctx = n) && decide (e.2.status ≠ .free)
      let flying := s.packets.any fun p => s.isOwn p && decide (p.sctx = n) && p.answer.isNone
      if bound || flying || s.jobs.any fun j => decide (j.ctx = n) then no
      else
        .next { s' with
          access := s'.access.filter (fun e => !(decide (e.device = s.dev.id) && decide (e.ctx = n))),
          packets := s'.packets.filter (fun p => !(s.isOwn p && decide (p.sctx = n))),
          images := s'.images.filter fun e => decide (keyCtx e.1 ≠ n) }
  | _ => no

/-! Migration (R337). -/

/-- The valid entries of the table at an address, by address. -/
def State.tableEntries (s : State) (tbl : Nat) : List (Nat × Word) :=
  let at_ := nub ((s.mem.filter fun e => decide (tbl ≤ e.1) && decide (e.1 < tbl + 4096)).map fun e => e.1 / 8 * 8)
  (at_.map fun a => (a, s.pteAt a)).filter fun e => bit e.2 0

/-- The valid entries of a table at a level and of the tables below it: address, entry, level. -/
def State.tableScan (s : State) : Nat → Nat → List (Nat × Word × Nat)
  | 0, tbl => (s.tableEntries tbl).map fun e => (e.1, e.2, 0)
  | l + 1, tbl => (s.tableEntries tbl).flatMap fun e =>
    (e.1, e.2, l + 1) :: if pteIsPtr e.2 then s.tableScan l (ptePa e.2) else []

/-- The valid page-table entries of the device that hold physical addresses: those of the contexts without a stage 2, and of the
stage-2 tables (R386, R389). -/
def State.allPtes (s : State) : List (Nat × Word × Nat) :=
  (s.ctxs.flatMap fun e => if e.2.function.isNone then e.2.asids.flatMap fun a => s.tableScan 4 a.2 else []) ++
    s.funcs.flatMap fun e => match e.2.stage2 with | some r => s.tableScan 4 r | none => []

/-- The entries that map the page, or lead to a table in it (R337). -/
def State.ptesOf (s : State) (page : Nat) : List Nat :=
  nub ((s.allPtes.filter fun e => decide (bits e.2.1 47 12 = page)).map fun e => e.1)

/-- A leaf of more than the page covers it: such a page cannot move by itself (log 133). -/
def State.largeOver (s : State) (page : Nat) : Bool :=
  s.allPtes.any fun e =>
    let n := pageSize e.2.1 e.2.2 / 4096
    !pteIsPtr e.2.1 && decide (1 < n) && decide (bits e.2.1 47 12 / n = page / n)

/-- MIGRATE (R337): the copy begins; a page of the device that can move, a place for its relocation entry. -/
def execMigrate (issuer : Issuer) (oldPage newPage : Nat) (done : Word) (s : State) : Out :=
  let busy := s.mgmt.any fun e => match e.2 with | .migrate a b _ => decide (a = oldPage) || decide (b = newPage) || decide (a = newPage) || decide (b = oldPage) | _ => false
  hostOnly s "MIGRATE" 0x17 issuer done (fun s =>
    if oldPage = newPage ∨ isHbm (oldPage * 4096) = false ∨ isHbm (newPage * 4096) = false then s.hostDone done 2
    else if busy ∨ 16 ≤ s.reloc.length ∨ (mapFind? s.reloc oldPage).isSome ∨ (mapFind? s.reloc newPage).isSome ∨
        s.largeOver oldPage = true then s.hostDone done 3
    else { s with mgmt := mapPut s.mgmt s.tagCtr (.migrate oldPage newPage done), tagCtr := s.tagCtr + 1 })

/-- A location of the old page, at its new place. -/
def movedLoc (o n l : Nat) : Nat := if l / 4096 = o then n * 4096 + l % 4096 else l

/-- A stream's translations after the move. -/
def Stream.moved (o n : Nat) (st : Stream) : Stream :=
  let f (b : Binding) : Binding := { b with pieces := b.pieces.map fun p => (p.1, movedLoc o n p.2.1, p.2.2) }
  { st with active := st.active.map f, rest := st.rest.map f }

/-- What the device's engines and homes hold of the old page's addresses, retried at the new ones. -/
def State.moveRefs (s : State) (o n : Nat) : State :=
  let mv := movedLoc o n
  let line (l : Nat) : Nat := mv (l * 64) / 64
  { s with
    cores := s.cores.map fun e => (e.1, { e.2 with
      copies := e.2.copies.map (fun c => { c with locs := c.locs.map mv }),
      loads := e.2.loads.map (fun l => (l.1, { l.2 with locs := l.2.locs.map mv })),
      streams := e.2.streams.map (fun t => (t.1, t.2.moved o n)),
      wm := e.2.wm.map (fun w => (w.1, { w.2 with cell := mv w.2.cell })),
      bb := e.2.bb.map fun b => (b.1, { b.2 with obj := mv b.2.obj }) }),
    images := s.images.map fun e => (e.1, { e.2 with
      streams := e.2.streams.map (fun t => (t.1, t.2.moved o n)),
      wm := e.2.wm.map (fun w => (w.1, { w.2 with cell := mv w.2.cell })),
      bb := e.2.bb.map fun b => (b.1, { b.2 with obj := mv b.2.obj }) }),
    harts := s.harts.map fun e => (e.1, { e.2 with
      monitor := e.2.monitor.map (fun m => { m with line := line m.line }), wlines := e.2.wlines.map line,
      status := (match e.2.status with | .parked (.queue q) => .parked (.queue (mv q)) | st => st),
      chunk := e.2.chunk.map fun c => { c with
        buf := c.buf.foldl (fun m b => mapPut m (mv b.1) b.2) [], keep := c.keep.foldl (fun m b => mapPut m (mv b.1) b.2) [],
        reads := c.reads.map line, writes := c.writes.map line, ext := c.ext.map line } }),
    scatter := s.scatter.map (fun e => { e with loc := mv e.loc }),
    advances := s.advances.map (fun a => { a with cell := mv a.cell }),
    launches := s.launches.map (fun e => (e.1, { e.2 with wmCell := e.2.wmCell.map mv })),
    windows := s.windows.map (fun e => (e.1, { e.2 with cell := mv e.2.cell })),
    waiters := s.waiters.foldl (fun m e => mapPut m (mv e.1) e.2) [],
    ctxs := s.ctxs.map (fun e => (e.1, { e.2 with
      queues := e.2.queues.map mv, mailbox := mv e.2.mailbox,
      asids := if e.2.function.isNone then e.2.asids.map fun a => (a.1, mv a.2) else e.2.asids })),
    funcs := s.funcs.map (fun e => (e.1, { e.2 with stage2 := e.2.stage2.map mv })),
    handles := s.handles.map fun e => (e.1, { e.2 with qcb := mv e.2.qcb }) }

/-- The bytes of the old page with their keys, copied to the new one. -/
def State.copyPage (s : State) (o n : Nat) : State :=
  let s := (s.clusters.map Prod.fst).foldl (fun s k =>
    (((s.cluster k).l2.map Prod.fst).filter fun l => decide (l / 64 = o) || decide (l / 64 = n)).foldl (fun s l => s.evict k l) s) s
  { s with
    mem := (List.range 4096).foldl (fun m i => mapSet 0 m (n * 4096 + i) (s.rawByte (o * 4096 + i))) s.mem,
    memKey := (List.range 4096).foldl (fun m i => match mapFind? s.memKey (o * 4096 + i) with
      | some k => mapPut m (n * 4096 + i) k
      | none => mapErase m (n * 4096 + i)) s.memKey }

/-- Puts a page number into a page-table entry at a physical address. -/
def State.repoint (s : State) (n pte : Nat) : State :=
  let v := setField (s.pteAt pte).toNat 47 12 n
  s.homeWrite (s.markAt pte) ((span pte 8).zip (leBytes 8 v))

/-- MIGRATE_CUTOVER (R337): the copy is complete; every entry that maps the page, those of `ptes` among them, is rewritten and its
translations are invalidated, the relocation is installed, and the old home has moved. Relocations that led to the old page lead
on to the new one. -/
def execMigrateCutover (idx : Nat) (ptes : List Nat) (s : State) : Out :=
  match mapFind? s.mgmt idx with
  | some (.migrate o n done) =>
    if (ptes.any fun a => decide (a % 8 ≠ 0) || decide (bits (s.pteAt a) 47 12 ≠ o)) || s.largeOver o then notNow "MIGRATE_CUTOVER"
    else
      let ptes := nub (ptes ++ s.ptesOf o)
      let s := (s.copyPage o n).moveRefs o n
      let s := ptes.foldl (fun s a => s.repoint n (movedLoc o n a)) s
      let s := s.dropTlb fun e => decide (e.pa = o)
      let s : State := { s with reloc := mapPut (s.reloc.map fun e => if e.2 = o then (e.1, n) else e) o n, mgmt := mapErase s.mgmt idx }
      .next (s.hostDone done 1)
  | _ => notNow "MIGRATE_CUTOVER"

/-- A relocation entry goes once no grant covers the old page any more (R337). -/
def State.dropReloc (s : State) (page : Nat) : Option State :=
  let covers (e : AccessEntry) : Bool :=
    decide (e.space = 0) && decide (e.base < page * 4096 + 4096) && decide (page * 4096 < e.base + e.len)
  if (mapFind? s.reloc page).isNone || s.access.any covers then none else some { s with reloc := mapErase s.reloc page }

/-! Device parameters (R350, R357, R359, R386, R405, R417). -/

/-- A parameter in its range is set and answered 1; one outside it is answered 2; the host alone sets one (R410). -/
def State.setParam (s : State) (what : String) (ok : Bool) (issuer : Issuer) (done : Word) (f : State → State) : Out :=
  hostOnly s what 0x20 issuer done (fun s => if ok then (f s).hostDone done 1 else s.hostDone done 2)

/-- SET_AGE_LIMIT (R350): 1 µs to 10 ms. -/
def execSetAgeLimit (issuer : Issuer) (micros : Nat) (done : Word) (s : State) : Out :=
  s.setParam "SET_AGE_LIMIT" (decide (1 ≤ micros) && decide (micros ≤ 10000)) issuer done
    fun s => { s with dev := { s.dev with ageLimit := micros } }

/-- SET_SELFTEST_INTERVAL (R357): 100 ms to 600 s, from the start of one visit to the start of the next. -/
def execSetSelftestInterval (issuer : Issuer) (millis : Nat) (done : Word) (s : State) : Out :=
  s.setParam "SET_SELFTEST_INTERVAL" (decide (100 ≤ millis) && decide (millis ≤ 600000)) issuer done
    fun s => { s with dev := { s.dev with
      selftestMs := millis,
      nextVisit := if s.dev.visits = 0 then s.dev.nextVisit else s.dev.nextVisit - s.dev.selftestMs * 1000000 + millis * 1000000 } }

/-- SET_TEST_MODE (R359). -/
def execSetTestMode (issuer : Issuer) (on : Bool) (done : Word) (s : State) : Out :=
  s.setParam "SET_TEST_MODE" true issuer done fun s => { s with dev := { s.dev with testMode := on } }

/-- SET_POWER_CAP (R417): 600 W to 1,400 W. -/
def execSetPowerCap (issuer : Issuer) (watts : Nat) (done : Word) (s : State) : Out :=
  s.setParam "SET_POWER_CAP" (decide (600 ≤ watts) && decide (watts ≤ 1400)) issuer done
    fun s => { s with dev := { s.dev with powerCap := watts } }

/-- SET_ASID_ROOT (R386). -/
def execSetAsidRoot (issuer : Issuer) (ctx asid root : Nat) (done : Word) (s : State) : Out :=
  let known := match s.ctx? ctx with | some c => c.asids.any fun e => decide (e.1 = asid) | none => false
  s.setParam "SET_ASID_ROOT" (known && decide (root % 4096 = 0)) issuer done
    fun s => s.onCtx ctx fun c => { c with asids := c.asids.map fun e => if e.1 = asid then (asid, root) else e }

/-- SET_STAGE2_ROOT (R386). -/
def execSetStage2Root (issuer : Issuer) (function root : Nat) (done : Word) (s : State) : Out :=
  s.setParam "SET_STAGE2_ROOT" (decide (function < 64) && decide (root % 4096 = 0)) issuer done
    fun s => s.onFunc function fun f => { f with stage2 := some root }

/-- WINDOW_BINDING (R405): a range of a function's BAR2 to a range of a context and the watermark cell of that range. -/
def execWindowBinding (issuer : Issuer) (window function offset ctx asid : Nat) (cell : Word) (done : Word) (s : State) : Out :=
  hostOnly s "WINDOW_BINDING" 0x20 issuer done (fun s =>
    let a := s.ctxActor ctx
    if 64 ≤ window ∨ 64 ≤ function ∨ offset % 64 ≠ 0 ∨ (s.ctx? ctx).isNone then s.hostDone done 2
    else match s.check14 { a.who with asid := asid } .load 32 0 cell 32 with
      | .error _ => s.hostDone done 2
      | .ok (acc, s) =>
        let loc := acc.locs.headD 0
        let (lo, hi, m) := s.cellAt a.mark loc
        let rest := leNat ((span (loc + 24) 8).map (s.homeByte a.mark))
        if hi.ult lo ∨ m.ult lo ∨ hi.ult m ∨ rest ≠ 0 ∨ lo.toNat % 64 ≠ 0 ∨ hi.toNat % 64 ≠ 0 ∨ 2 ^ 36 < offset + (hi.toNat - lo.toNat) then
          s.hostDone done 2
        else if s.windows.any fun e => decide (e.1 ≠ window) && decide (e.2.cell = loc) then s.hostDone done 3
        else
          let w : Window := { function := function, offset := offset, ctx := ctx, asid := asid, cell := loc, lo := lo, hi := hi,
                              lines := [], waiting := [], drops := 0 }
          ({ s with windows := mapPut s.windows window w } : State).hostDone done 1)

/-- A handle that R403 fixes. -/
def fixedHandle (function handle : Nat) : Bool :=
  if function = 0 then decide (handle = 8) || (decide (64 ≤ handle) && decide (handle < 192)) else decide (handle ≤ 8)

/-- QUEUE_PORT_HANDLE_BINDING (R403): any handle but the fixed ones. -/
def execQueuePortHandleBinding (issuer : Issuer) (function handle : Nat) (target : Option PortTarget) (done : Word) (s : State) : Out :=
  hostOnly s "QUEUE_PORT_HANDLE_BINDING" 0x20 issuer done (fun s =>
    if 64 ≤ function ∨ 1024 ≤ handle ∨ target.any (fun t => decide (t.qcb % 64 ≠ 0)) = true then s.hostDone done 2
    else if fixedHandle function handle then s.hostDone done 3
    else
      let s : State := { s with handles := match target with
        | some t => mapPut s.handles (handleKey function handle) t
        | none => mapErase s.handles (handleKey function handle) }
      s.hostDone done 1)

/-- MGMT_CERTIFICATE_REWRITE (R409): held like SET_CERTIFICATE; answered when it takes effect. -/
def execMgmtCertificateRewrite (issuer : Issuer) (slot : Nat) (chain : List Byte) (done : Word) (s : State) : Out :=
  hostOnly s "MGMT_CERTIFICATE_REWRITE" 0x20 issuer done (fun s =>
    if 8 ≤ slot then s.hostDone done 2
    else if slot = 0 ∨ (mapFind? s.spdm.heldRewrite slot).isSome then s.hostDone done 3
    else s.holdRewrite slot { chain := chain, function := none, done := some done })

/-! Counters (R415). -/

/-- The value of a counter, by its row in Table: Counters, and whether a supervisor of context n may read it. -/
def State.counter (s : State) (n counter index : Nat) : Option (Nat × Bool) :=
  let c := s.ctx? n
  match counter with
  | 0 => some ((s.core index).timedConf, match c with | some c => decide (index ∈ c.cores) | none => false)
  | 1 => some (mapGet 0 s.staleDrops index, false)
  | 2 => some ((s.func index).staleReplies, decide ((c.bind Ctx.function) = some index))
  | 3 => some ((s.func index).portErrors, decide ((c.bind Ctx.function) = some index))
  | 4 => (mapFind? s.windows index).map fun w => (w.drops, decide (w.ctx = n))
  | 5 => some (mapGet 0 s.traceDrops index, decide (index = n))
  | _ => none

/-- READ_COUNTER (R410, R415): a supervisor reads its own context's; the counters saturate at 2^64 − 1. -/
def execReadCounter (issuer : Issuer) (counter index : Nat) (echo done : Word) (s : State) : Out :=
  managed s "READ_COUNTER" 0x21 issuer done (fun s => match s.counter (issuer.getD 0) counter index with
    | none => s.answerDone issuer done 2
    | some (v, own) =>
      if issuer.isSome && !own then s.answerDone issuer done 3
      else (s.returnData issuer 0x21 echo (leBytes 8 (Nat.min v (2 ^ 64 - 1)))).answerDone issuer done 1)

/-- MGMT_UNKNOWN_OP (R410). -/
def execMgmtUnknownOp (issuer : Issuer) (op : BitVec 8) (done : Word) (s : State) : Out :=
  let n := op.toNat
  let listed := (decide (1 ≤ n) && decide (n ≤ 5)) || (decide (0x10 ≤ n) && decide (n ≤ 0x17)) || decide (n = 0x20) || decide (n = 0x21) ||
    (decide (0x30 ≤ n) && decide (n ≤ 0x33))
  if listed then notNow "MGMT_UNKNOWN_OP" else managed s "MGMT_UNKNOWN_OP" n issuer done fun s => s.answerDone issuer done 2

/-! Debug (R414). -/

/-- A hart's state where it is: on its core or in a saved image, with the vector file it owns. -/
structure DebugView where
  ctx : Nat
  saved : Bool
  hart : Hart
  vf : Option VecFile
deriving DecidableEq, Repr

/-- The state of hart h. -/
def State.debugView (s : State) (h : Nat) : Option DebugView :=
  let core := coreOf h
  if (s.hart h).status ≠ .free then
    let k := s.core core
    some { ctx := (s.hart h).ctx, saved := false, hart := s.hart h, vf := if k.owner = some h then some k.vf else none }
  else (s.images.find? fun e => decide (keyCore e.1 = core) && (mapFind? e.2.harts h).isSome).bind fun e =>
    (mapFind? e.2.harts h).map fun x =>
      { ctx := keyCtx e.1, saved := true, hart := x, vf := if e.2.owner = some h then some e.2.vf else none }

/-- Puts a hart's state back where it was. -/
def State.putView (s : State) (h : Nat) (v : DebugView) : State :=
  let core := coreOf h
  if v.saved then
    match s.imageOf v.ctx h with
    | none => s
    | some (key, im) =>
      let im : Image := { im with harts := mapPut im.harts h v.hart, vf := v.vf.getD im.vf }
      { s with images := mapPut s.images key im }
  else
    let s := s.setHart h v.hart
    match v.vf with
    | some f => s.onCore core fun k => { k with vf := f }
    | none => s

/-- The debugger's token admits it to the hart: a sealed CLASS 5 token for the hart's core, and a context that consents
(R336, R414). -/
def State.debugAdmits (s : State) (t : Line) (h : Nat) (v : DebugView) : Bool :=
  tagOk s.fabricKey t && decide (tokClass t = 5) && decide (tokDevice t = s.dev.id) && decide (tokCore t = coreOf h) &&
    match s.ctx? v.ctx with | some c => c.consent && !c.exited | none => false

/-- Who holds the token, and so is answered. -/
def debugIssuer (t : Line) : Issuer := some (tokCtx t)

/-- A debug element: refused with 3 where the token refuses its holder or `ok` fails. -/
def State.debugOp (s : State) (what : String) (op : Nat) (t : Line) (h : Nat) (done : Word) (ok : DebugView → Bool)
    (f : DebugView → State → Option State) : Out :=
  managed s what op (debugIssuer t) done (fun s => match s.debugView h with
    | none => s.answerDone (debugIssuer t) done 3
    | some v =>
      if !s.debugAdmits t h v || !ok v then s.answerDone (debugIssuer t) done 3
      else match f v s with
        | none => s.answerDone (debugIssuer t) done 2
        | some s' => s'.answerDone (debugIssuer t) done 1)

/-- DEBUG_HALT (R414): at the hart's next pre-emption point, which the element awaits; a hart that has stopped already stays
so. -/
def execDebugHalt (token : Line) (hart : Nat) (done : Word) (s : State) : Out :=
  let admitted := match s.debugView hart with | some v => s.debugAdmits token hart v && !v.saved | none => false
  let x := s.hart hart
  if !admitted then s.debugOp "DEBUG_HALT" 0x30 token hart done (fun _ => false) fun _ _ => none
  else if x.status = .halted then s.debugOp "DEBUG_HALT" 0x30 token hart done (fun _ => true) fun _ s => some s
  else
    match (s.onHart hart fun x => { x with haltReq := true }).haltPoint hart with
    | some t =>
      if (t.hart hart).status = .halted then
        managed t "DEBUG_HALT" 0x30 (debugIssuer token) done fun t => t.answerDone (debugIssuer token) done 1
      else if s.dev.booted then .next (t.onHart hart fun y => { y with haltReq := x.haltReq }) else notNow "DEBUG_HALT"
    | none => notNow "DEBUG_HALT"

/-- DEBUG_RESUME (R414): a halted hart goes on at its saved PC. -/
def execDebugResume (token : Line) (hart : Nat) (done : Word) (s : State) : Out :=
  s.debugOp "DEBUG_RESUME" 0x31 token hart done (fun v => decide (v.hart.status = .halted))
    fun v s => some (s.putView hart { v with hart := v.hart.setStatus .running })

/-- A 64-bit part of a value. -/
def partOf {n : Nat} (v : BitVec n) (i : Nat) : Word := (v >>> (64 * i)).setWidth 64
/-- Replaces a 64-bit part. -/
def setPart {n : Nat} (v : BitVec n) (i : Nat) (x : Word) : BitVec n :=
  (v &&& ~~~(((BitVec.allOnes 64).setWidth n) <<< (64 * i))) ||| ((x.setWidth n) <<< (64 * i))

/-- An item of the saved image (log 30): 0 X, 1 F, 2 RT by doubleword, 3 CSR, 4 PC, 5 V, 6 M, 7 SC, 8 ACC, 9 stochastic
state. RFINJ reads as zero outside test mode (R359). -/
def DebugView.read (v : DebugView) (test : Bool) (item i : Nat) : Option Word :=
  let x := v.hart
  match item with
  | 0 => if i < 32 then some (x.x (BitVec.ofNat 5 i)) else none
  | 1 => if i < 32 then some (x.f (BitVec.ofNat 5 i)) else none
  | 2 => if i < 128 then some (partOf (x.rt (i / 8)) (i % 8)) else none
  | 3 =>
    if (csrAccess? i).isNone then none
    else if csrOfVf i then v.vf.map fun f =>
      if i = Csr.vtype then f.vtype else if i = Csr.vl then f.vl else if i = Csr.vstart then f.vstart
      else if i = Csr.vpad then f.vpad else if i = Csr.vsub then f.vsub else f.vdirty
    else some (if i = Csr.ctxid then BitVec.ofNat 64 v.ctx else if i = Csr.rfinj ∧ !test then 0 else x.csr i)
  | 4 => if i = 0 then some x.a.pc else none
  | 5 => if i < 1024 then v.vf.map fun f => partOf (mapGet (0 : VReg) f.v (i / 32)) (i % 32) else none
  | 6 => if i < 512 then v.vf.map fun f => partOf (mapGet (0 : MReg) f.m (i / 64)) (i % 64) else none
  | 7 => if i < 8 then v.vf.map fun f => (mapGet (0 : BitVec 32) f.sc i).setWidth 64 else none
  | 8 => if i < 6144 then v.vf.map fun f => partOf (mapGet (0 : BitVec 12288) f.acc (i / 192)) (i % 192) else none
  | 9 => if i = 0 then some x.a.s0 else if i = 1 then some x.a.s1 else none
  | _ => none

/-- A CSR of the saved image written under R6, R16, R359 and R399; numbers that hold no state of their own are not written. -/
def DebugView.writeCsr (v : DebugView) (test : Bool) (n : Nat) (w : Word) : Option DebugView :=
  if n = Csr.rfinj ∧ !test then some v
  else if n = Csr.frm then some (if 6 ≤ bits w 2 0 then v else { v with hart := v.hart.setCsr n (w &&& 7) })
  else if n = Csr.vstart then v.vf.map fun f => { v with vf := some { f with vstart := w } }
  else if n = Csr.vsub then v.vf.map fun f => { v with vf := some { f with vsub := w } }
  else if n = Csr.vdirty then v.vf.map fun f =>
    { v with vf := some { f with vdirty := f.vdirty &&& w, v := f.v.filter fun e => bit (f.vdirty &&& w) e.1 } }
  else match csrAccess? n with
    | some .rw => some { v with hart := v.hart.setCsr n ((v.hart.csr n &&& ~~~csrMask n) ||| (w &&& csrMask n)) }
    | some .rwS => some { v with hart := v.hart.setCsr n ((v.hart.csr n &&& ~~~csrMask n) ||| (w &&& csrMask n)) }
    | _ => none

/-- Writes an item of the saved image. A vector register becomes dirty with the write (R10). -/
def DebugView.write (v : DebugView) (test : Bool) (item i : Nat) (w : Word) : Option DebugView :=
  let x := v.hart
  let onVf (f : VecFile → VecFile) : Option DebugView := v.vf.map fun g => { v with vf := some (f g) }
  let arch (a : HartArch) : Option DebugView := some { v with hart := { x with a := a } }
  match item with
  | 0 => if i < 32 then arch (if i = 0 then x.a else { x.a with x := mapSet 0 x.a.x i w }) else none
  | 1 => if i < 32 then arch { x.a with f := mapSet 0 x.a.f i w } else none
  | 2 => if i < 128 then some { v with hart := x.setRt (i / 8) (setPart (x.rt (i / 8)) (i % 8) w) } else none
  | 3 => v.writeCsr test i w
  | 4 => if i = 0 then arch { x.a with pc := w &&& ~~~1#64 } else none
  | 5 => if i < 1024 then onVf fun f => { f with
      v := mapSet 0 f.v (i / 32) (setPart (mapGet (0 : VReg) f.v (i / 32)) (i % 32) w),
      vdirty := f.vdirty ||| ((1#64) <<< (i / 32)) } else none
  | 6 => if i < 512 then onVf fun f => { f with m := mapSet 0 f.m (i / 64) (setPart (mapGet (0 : MReg) f.m (i / 64)) (i % 64) w) } else none
  | 7 => if i < 8 then onVf fun f => { f with sc := mapSet 0 f.sc i (w.setWidth 32) } else none
  | 8 => if i < 6144 then onVf fun f => { f with
      acc := mapSet 0 f.acc (i / 192) (setPart (mapGet (0 : BitVec 12288) f.acc (i / 192)) (i % 192) w) } else none
  | 9 => if i = 0 then arch { x.a with s0 := w } else if i = 1 then arch { x.a with s1 := w } else none
  | _ => none

/-- DEBUG_READ_STATE (R414): a halted hart's image; the value arrives as an element. -/
def execDebugReadState (token : Line) (hart item index : Nat) (echo done : Word) (s : State) : Out :=
  s.debugOp "DEBUG_READ_STATE" 0x32 token hart done (fun v => decide (v.hart.status = .halted))
    fun v s => (v.read s.dev.testMode item index).map fun w => s.returnData (debugIssuer token) 0x32 echo (leBytes 8 w.toNat)

/-- DEBUG_WRITE_STATE (R414): a halted hart's image; a running hart is refused with 3. -/
def execDebugWriteState (token : Line) (hart item index : Nat) (v : Word) (done : Word) (s : State) : Out :=
  s.debugOp "DEBUG_WRITE_STATE" 0x33 token hart done (fun d => decide (d.hart.status = .halted))
    fun d s => (d.write s.dev.testMode item index v).map fun d => s.putView hart d

end Sys2Proof.Machine
end

