-- ==== Sys2Proof/Machine/Dispatch.lean ====
section
/-! DEFINITION. What each instruction, convoy member and event does: one arm per constructor of `Instr`. -/

namespace Sys2Proof.Machine

def exec (i : Instr) (s : State) : Host.Outcome State Fault Refusal :=
  match i with
  | .addC r => Sys2Proof.Machine.execAddC r s
  | .subC r => Sys2Proof.Machine.execSubC r s
  | .andC r => Sys2Proof.Machine.execAndC r s
  | .orC r => Sys2Proof.Machine.execOrC r s
  | .xorC r => Sys2Proof.Machine.execXorC r s
  | .sllC r => Sys2Proof.Machine.execSllC r s
  | .srlC r => Sys2Proof.Machine.execSrlC r s
  | .sraC r => Sys2Proof.Machine.execSraC r s
  | .mulC r => Sys2Proof.Machine.execMulC r s
  | .sltC r => Sys2Proof.Machine.execSltC r s
  | .sltnC r => Sys2Proof.Machine.execSltnC r s
  | .mvC r => Sys2Proof.Machine.execMvC r s
  | .addiC r imm => Sys2Proof.Machine.execAddiC r imm s
  | .andiC r imm => Sys2Proof.Machine.execAndiC r imm s
  | .slliC r imm => Sys2Proof.Machine.execSlliC r imm s
  | .srliC r imm => Sys2Proof.Machine.execSrliC r imm s
  | .sraiC r imm => Sys2Proof.Machine.execSraiC r imm s
  | .liC r imm => Sys2Proof.Machine.execLiC r imm s
  | .ldC r imm => Sys2Proof.Machine.execLdC r imm s
  | .ldwC r imm => Sys2Proof.Machine.execLdwC r imm s
  | .stC r imm => Sys2Proof.Machine.execStC r imm s
  | .add rd rs1 rs2 => Sys2Proof.Machine.execAdd rd rs1 rs2 s
  | .sub rd rs1 rs2 => Sys2Proof.Machine.execSub rd rs1 rs2 s
  | .and rd rs1 rs2 => Sys2Proof.Machine.execAnd rd rs1 rs2 s
  | .or rd rs1 rs2 => Sys2Proof.Machine.execOr rd rs1 rs2 s
  | .xor rd rs1 rs2 => Sys2Proof.Machine.execXor rd rs1 rs2 s
  | .andn rd rs1 rs2 => Sys2Proof.Machine.execAndn rd rs1 rs2 s
  | .orn rd rs1 rs2 => Sys2Proof.Machine.execOrn rd rs1 rs2 s
  | .xnor rd rs1 rs2 => Sys2Proof.Machine.execXnor rd rs1 rs2 s
  | .sll rd rs1 rs2 => Sys2Proof.Machine.execSll rd rs1 rs2 s
  | .srl rd rs1 rs2 => Sys2Proof.Machine.execSrl rd rs1 rs2 s
  | .sra rd rs1 rs2 => Sys2Proof.Machine.execSra rd rs1 rs2 s
  | .rol rd rs1 rs2 => Sys2Proof.Machine.execRol rd rs1 rs2 s
  | .ror rd rs1 rs2 => Sys2Proof.Machine.execRor rd rs1 rs2 s
  | .slt rd rs1 rs2 => Sys2Proof.Machine.execSlt rd rs1 rs2 s
  | .sltn rd rs1 rs2 => Sys2Proof.Machine.execSltn rd rs1 rs2 s
  | .min rd rs1 rs2 => Sys2Proof.Machine.execMin rd rs1 rs2 s
  | .max rd rs1 rs2 => Sys2Proof.Machine.execMax rd rs1 rs2 s
  | .minn rd rs1 rs2 => Sys2Proof.Machine.execMinn rd rs1 rs2 s
  | .maxn rd rs1 rs2 => Sys2Proof.Machine.execMaxn rd rs1 rs2 s
  | .mul rd rs1 rs2 => Sys2Proof.Machine.execMul rd rs1 rs2 s
  | .mulh rd rs1 rs2 => Sys2Proof.Machine.execMulh rd rs1 rs2 s
  | .mulhn rd rs1 rs2 => Sys2Proof.Machine.execMulhn rd rs1 rs2 s
  | .mulhsn rd rs1 rs2 => Sys2Proof.Machine.execMulhsn rd rs1 rs2 s
  | .div rd rs1 rs2 => Sys2Proof.Machine.execDiv rd rs1 rs2 s
  | .divn rd rs1 rs2 => Sys2Proof.Machine.execDivn rd rs1 rs2 s
  | .rem rd rs1 rs2 => Sys2Proof.Machine.execRem rd rs1 rs2 s
  | .remn rd rs1 rs2 => Sys2Proof.Machine.execRemn rd rs1 rs2 s
  | .clz rd rs1 => Sys2Proof.Machine.execClz rd rs1 s
  | .ctz rd rs1 => Sys2Proof.Machine.execCtz rd rs1 s
  | .cpop rd rs1 => Sys2Proof.Machine.execCpop rd rs1 s
  | .sextB rd rs1 => Sys2Proof.Machine.execSextB rd rs1 s
  | .sextH rd rs1 => Sys2Proof.Machine.execSextH rd rs1 s
  | .sextW rd rs1 => Sys2Proof.Machine.execSextW rd rs1 s
  | .zextB rd rs1 => Sys2Proof.Machine.execZextB rd rs1 s
  | .zextH rd rs1 => Sys2Proof.Machine.execZextH rd rs1 s
  | .zextW rd rs1 => Sys2Proof.Machine.execZextW rd rs1 s
  | .cmovz rd rs1 rs2 => Sys2Proof.Machine.execCmovz rd rs1 rs2 s
  | .cmovn rd rs1 rs2 => Sys2Proof.Machine.execCmovn rd rs1 rs2 s
  | .bswap rd rs1 => Sys2Proof.Machine.execBswap rd rs1 s
  | .addW rd rs1 rs2 => Sys2Proof.Machine.execAddW rd rs1 rs2 s
  | .subW rd rs1 rs2 => Sys2Proof.Machine.execSubW rd rs1 rs2 s
  | .sllW rd rs1 rs2 => Sys2Proof.Machine.execSllW rd rs1 rs2 s
  | .srlW rd rs1 rs2 => Sys2Proof.Machine.execSrlW rd rs1 rs2 s
  | .sraW rd rs1 rs2 => Sys2Proof.Machine.execSraW rd rs1 rs2 s
  | .rolW rd rs1 rs2 => Sys2Proof.Machine.execRolW rd rs1 rs2 s
  | .rorW rd rs1 rs2 => Sys2Proof.Machine.execRorW rd rs1 rs2 s
  | .mulW rd rs1 rs2 => Sys2Proof.Machine.execMulW rd rs1 rs2 s
  | .divW rd rs1 rs2 => Sys2Proof.Machine.execDivW rd rs1 rs2 s
  | .divnW rd rs1 rs2 => Sys2Proof.Machine.execDivnW rd rs1 rs2 s
  | .remW rd rs1 rs2 => Sys2Proof.Machine.execRemW rd rs1 rs2 s
  | .remnW rd rs1 rs2 => Sys2Proof.Machine.execRemnW rd rs1 rs2 s
  | .clzW rd rs1 => Sys2Proof.Machine.execClzW rd rs1 s
  | .ctzW rd rs1 => Sys2Proof.Machine.execCtzW rd rs1 s
  | .cpopW rd rs1 => Sys2Proof.Machine.execCpopW rd rs1 s
  | .bswapW rd rs1 => Sys2Proof.Machine.execBswapW rd rs1 s
  | .addi rd rs1 imm => Sys2Proof.Machine.execAddi rd rs1 imm s
  | .andi rd rs1 imm => Sys2Proof.Machine.execAndi rd rs1 imm s
  | .ori rd rs1 imm => Sys2Proof.Machine.execOri rd rs1 imm s
  | .xori rd rs1 imm => Sys2Proof.Machine.execXori rd rs1 imm s
  | .slti rd rs1 imm => Sys2Proof.Machine.execSlti rd rs1 imm s
  | .sltni rd rs1 imm => Sys2Proof.Machine.execSltni rd rs1 imm s
  | .slli rd rs1 sh => Sys2Proof.Machine.execSlli rd rs1 sh s
  | .srli rd rs1 sh => Sys2Proof.Machine.execSrli rd rs1 sh s
  | .srai rd rs1 sh => Sys2Proof.Machine.execSrai rd rs1 sh s
  | .rori rd rs1 sh => Sys2Proof.Machine.execRori rd rs1 sh s
  | .liu rd imm => Sys2Proof.Machine.execLiu rd imm s
  | .addpc rd imm => Sys2Proof.Machine.execAddpc rd imm s
  | .ldB rd base imm => Sys2Proof.Machine.execLdB rd base imm s
  | .ldH rd base imm => Sys2Proof.Machine.execLdH rd base imm s
  | .ldW rd base imm => Sys2Proof.Machine.execLdW rd base imm s
  | .ldD rd base imm => Sys2Proof.Machine.execLdD rd base imm s
  | .ldnB rd base imm => Sys2Proof.Machine.execLdnB rd base imm s
  | .ldnH rd base imm => Sys2Proof.Machine.execLdnH rd base imm s
  | .ldnW rd base imm => Sys2Proof.Machine.execLdnW rd base imm s
  | .ldacqW rd base imm => Sys2Proof.Machine.execLdacqW rd base imm s
  | .ldacqD rd base imm => Sys2Proof.Machine.execLdacqD rd base imm s
  | .ldVB rd base imm => Sys2Proof.Machine.execLdVB rd base imm s
  | .ldVH rd base imm => Sys2Proof.Machine.execLdVH rd base imm s
  | .ldVW rd base imm => Sys2Proof.Machine.execLdVW rd base imm s
  | .ldVD rd base imm => Sys2Proof.Machine.execLdVD rd base imm s
  | .stB rd base imm => Sys2Proof.Machine.execStB rd base imm s
  | .stH rd base imm => Sys2Proof.Machine.execStH rd base imm s
  | .stW rd base imm => Sys2Proof.Machine.execStW rd base imm s
  | .stD rd base imm => Sys2Proof.Machine.execStD rd base imm s
  | .strelW rd base imm => Sys2Proof.Machine.execStrelW rd base imm s
  | .strelD rd base imm => Sys2Proof.Machine.execStrelD rd base imm s
  | .fldH rd base imm => Sys2Proof.Machine.execFldH rd base imm s
  | .fldS rd base imm => Sys2Proof.Machine.execFldS rd base imm s
  | .fldD rd base imm => Sys2Proof.Machine.execFldD rd base imm s
  | .fstH rd base imm => Sys2Proof.Machine.execFstH rd base imm s
  | .fstS rd base imm => Sys2Proof.Machine.execFstS rd base imm s
  | .fstD rd base imm => Sys2Proof.Machine.execFstD rd base imm s
  | .amoAdd ord scope size rd rs1 rs2 => Sys2Proof.Machine.execAmoAdd ord scope size rd rs1 rs2 s
  | .amoSwap ord scope size rd rs1 rs2 => Sys2Proof.Machine.execAmoSwap ord scope size rd rs1 rs2 s
  | .amoAnd ord scope size rd rs1 rs2 => Sys2Proof.Machine.execAmoAnd ord scope size rd rs1 rs2 s
  | .amoOr ord scope size rd rs1 rs2 => Sys2Proof.Machine.execAmoOr ord scope size rd rs1 rs2 s
  | .amoXor ord scope size rd rs1 rs2 => Sys2Proof.Machine.execAmoXor ord scope size rd rs1 rs2 s
  | .amoMin ord scope size rd rs1 rs2 => Sys2Proof.Machine.execAmoMin ord scope size rd rs1 rs2 s
  | .amoMax ord scope size rd rs1 rs2 => Sys2Proof.Machine.execAmoMax ord scope size rd rs1 rs2 s
  | .amoMinn ord scope size rd rs1 rs2 => Sys2Proof.Machine.execAmoMinn ord scope size rd rs1 rs2 s
  | .amoMaxn ord scope size rd rs1 rs2 => Sys2Proof.Machine.execAmoMaxn ord scope size rd rs1 rs2 s
  | .cas ord scope size rd rs1 rs2 => Sys2Proof.Machine.execCas ord scope size rd rs1 rs2 s
  | .amoFadd ord scope size rd rs1 rs2 => Sys2Proof.Machine.execAmoFadd ord scope size rd rs1 rs2 s
  | .amoFmin ord scope size rd rs1 rs2 => Sys2Proof.Machine.execAmoFmin ord scope size rd rs1 rs2 s
  | .amoFmax ord scope size rd rs1 rs2 => Sys2Proof.Machine.execAmoFmax ord scope size rd rs1 rs2 s
  | .beq rs1 rs2 off => Sys2Proof.Machine.execBeq rs1 rs2 off s
  | .bne rs1 rs2 off => Sys2Proof.Machine.execBne rs1 rs2 off s
  | .blt rs1 rs2 off => Sys2Proof.Machine.execBlt rs1 rs2 off s
  | .bge rs1 rs2 off => Sys2Proof.Machine.execBge rs1 rs2 off s
  | .bltn rs1 rs2 off => Sys2Proof.Machine.execBltn rs1 rs2 off s
  | .bgen rs1 rs2 off => Sys2Proof.Machine.execBgen rs1 rs2 off s
  | .jal rd off => Sys2Proof.Machine.execJal rd off s
  | .jalr rd rs1 imm => Sys2Proof.Machine.execJalr rd rs1 imm s
  | .bq rs1 rs2 off => Sys2Proof.Machine.execBq rs1 rs2 off s
  | .fadd fmt rd rs1 rs2 => Sys2Proof.Machine.execFadd fmt rd rs1 rs2 s
  | .fsub fmt rd rs1 rs2 => Sys2Proof.Machine.execFsub fmt rd rs1 rs2 s
  | .fmul fmt rd rs1 rs2 => Sys2Proof.Machine.execFmul fmt rd rs1 rs2 s
  | .fdiv fmt rd rs1 rs2 => Sys2Proof.Machine.execFdiv fmt rd rs1 rs2 s
  | .fsqrt fmt rd rs1 => Sys2Proof.Machine.execFsqrt fmt rd rs1 s
  | .fmin fmt rd rs1 rs2 => Sys2Proof.Machine.execFmin fmt rd rs1 rs2 s
  | .fmax fmt rd rs1 rs2 => Sys2Proof.Machine.execFmax fmt rd rs1 rs2 s
  | .fsgnj fmt rd rs1 rs2 => Sys2Proof.Machine.execFsgnj fmt rd rs1 rs2 s
  | .fsgnjn fmt rd rs1 rs2 => Sys2Proof.Machine.execFsgnjn fmt rd rs1 rs2 s
  | .fsgnjx fmt rd rs1 rs2 => Sys2Proof.Machine.execFsgnjx fmt rd rs1 rs2 s
  | .fclass fmt rd rs1 => Sys2Proof.Machine.execFclass fmt rd rs1 s
  | .fcmpEq fmt rd rs1 rs2 => Sys2Proof.Machine.execFcmpEq fmt rd rs1 rs2 s
  | .fcmpNe fmt rd rs1 rs2 => Sys2Proof.Machine.execFcmpNe fmt rd rs1 rs2 s
  | .fcmpLt fmt rd rs1 rs2 => Sys2Proof.Machine.execFcmpLt fmt rd rs1 rs2 s
  | .fcmpLe fmt rd rs1 rs2 => Sys2Proof.Machine.execFcmpLe fmt rd rs1 rs2 s
  | .fcmpGt fmt rd rs1 rs2 => Sys2Proof.Machine.execFcmpGt fmt rd rs1 rs2 s
  | .fcmpGe fmt rd rs1 rs2 => Sys2Proof.Machine.execFcmpGe fmt rd rs1 rs2 s
  | .fcvtFf fmt rd rs1 ctl => Sys2Proof.Machine.execFcvtFf fmt rd rs1 ctl s
  | .fcvtFi fmt rd rs1 ctl => Sys2Proof.Machine.execFcvtFi fmt rd rs1 ctl s
  | .fcvtIf fmt rd rs1 ctl => Sys2Proof.Machine.execFcvtIf fmt rd rs1 ctl s
  | .fmvxf fmt rd rs1 => Sys2Proof.Machine.execFmvxf fmt rd rs1 s
  | .fmvfx fmt rd rs1 => Sys2Proof.Machine.execFmvfx fmt rd rs1 s
  | .fma fmt rd rs1 rs2 rs3 => Sys2Proof.Machine.execFma fmt rd rs1 rs2 rs3 s
  | .fms fmt rd rs1 rs2 rs3 => Sys2Proof.Machine.execFms fmt rd rs1 rs2 rs3 s
  | .fnma fmt rd rs1 rs2 rs3 => Sys2Proof.Machine.execFnma fmt rd rs1 rs2 rs3 s
  | .fnms fmt rd rs1 rs2 rs3 => Sys2Proof.Machine.execFnms fmt rd rs1 rs2 rs3 s
  | .fenceAcq scope => Sys2Proof.Machine.execFenceAcq scope s
  | .fenceRel scope => Sys2Proof.Machine.execFenceRel scope s
  | .fenceFull scope => Sys2Proof.Machine.execFenceFull scope s
  | .monW rd rs1 => Sys2Proof.Machine.execMonW rd rs1 s
  | .monD rd rs1 => Sys2Proof.Machine.execMonD rd rs1 s
  | .wait rd rs1 => Sys2Proof.Machine.execWait rd rs1 s
  | .bset rd rs1 => Sys2Proof.Machine.execBset rd rs1 s
  | .arrive rd => Sys2Proof.Machine.execArrive rd s
  | .bwait rd => Sys2Proof.Machine.execBwait rd s
  | .qinit rd rs1 => Sys2Proof.Machine.execQinit rd rs1 s
  | .enq rs1 rs2 => Sys2Proof.Machine.execEnq rs1 rs2 s
  | .enqnb rd rs1 rs2 => Sys2Proof.Machine.execEnqnb rd rs1 rs2 s
  | .deq rd rs1 rs2 => Sys2Proof.Machine.execDeq rd rs1 rs2 s
  | .deqnb rd rs1 rs2 => Sys2Proof.Machine.execDeqnb rd rs1 rs2 s
  | .enqm rd rs1 rs2 => Sys2Proof.Machine.execEnqm rd rs1 rs2 s
  | .qstat rd rs1 => Sys2Proof.Machine.execQstat rd rs1 s
  | .qgath rd rs1 rs2 => Sys2Proof.Machine.execQgath rd rs1 rs2 s
  | .rtld rd rs1 => Sys2Proof.Machine.execRtld rd rs1 s
  | .rtst rd rs1 => Sys2Proof.Machine.execRtst rd rs1 s
  | .rtnar rd rs1 rs2 => Sys2Proof.Machine.execRtnar rd rs1 rs2 s
  | .rtdlg rd rs1 rs2 => Sys2Proof.Machine.execRtdlg rd rs1 rs2 s
  | .rtset rd rs1 => Sys2Proof.Machine.execRtset rd rs1 s
  | .rtinfo rd rs1 rs2 => Sys2Proof.Machine.execRtinfo rd rs1 rs2 s
  | .rldW rd rs1 rs2 => Sys2Proof.Machine.execRldW rd rs1 rs2 s
  | .rldD rd rs1 rs2 => Sys2Proof.Machine.execRldD rd rs1 rs2 s
  | .rstW rd rs1 rs2 => Sys2Proof.Machine.execRstW rd rs1 rs2 s
  | .rstD rd rs1 rs2 => Sys2Proof.Machine.execRstD rd rs1 rs2 s
  | .renq rd rs1 rs2 => Sys2Proof.Machine.execRenq rd rs1 rs2 s
  | .renqm rd rs1 rs2 => Sys2Proof.Machine.execRenqm rd rs1 rs2 s
  | .rfence rs1 => Sys2Proof.Machine.execRfence rs1 s
  | .ramoAdd size rd rs1 rs2 => Sys2Proof.Machine.execRamoAdd size rd rs1 rs2 s
  | .ramoSwap size rd rs1 rs2 => Sys2Proof.Machine.execRamoSwap size rd rs1 rs2 s
  | .ramoAnd size rd rs1 rs2 => Sys2Proof.Machine.execRamoAnd size rd rs1 rs2 s
  | .ramoOr size rd rs1 rs2 => Sys2Proof.Machine.execRamoOr size rd rs1 rs2 s
  | .ramoXor size rd rs1 rs2 => Sys2Proof.Machine.execRamoXor size rd rs1 rs2 s
  | .ramoMin size rd rs1 rs2 => Sys2Proof.Machine.execRamoMin size rd rs1 rs2 s
  | .ramoMax size rd rs1 rs2 => Sys2Proof.Machine.execRamoMax size rd rs1 rs2 s
  | .ramoMinn size rd rs1 rs2 => Sys2Proof.Machine.execRamoMinn size rd rs1 rs2 s
  | .ramoMaxn size rd rs1 rs2 => Sys2Proof.Machine.execRamoMaxn size rd rs1 rs2 s
  | .ramoCas size rd rs1 rs2 => Sys2Proof.Machine.execRamoCas size rd rs1 rs2 s
  | .ramoFadd size rd rs1 rs2 => Sys2Proof.Machine.execRamoFadd size rd rs1 rs2 s
  | .ramoFmin size rd rs1 rs2 => Sys2Proof.Machine.execRamoFmin size rd rs1 rs2 s
  | .ramoFmax size rd rs1 rs2 => Sys2Proof.Machine.execRamoFmax size rd rs1 rs2 s
  | .sbind rd rs1 => Sys2Proof.Machine.execSbind rd rs1 s
  | .sstop rd => Sys2Proof.Machine.execSstop rd s
  | .smv rd rs1 => Sys2Proof.Machine.execSmv rd rs1 s
  | .swr rd rs2 => Sys2Proof.Machine.execSwr rd rs2 s
  | .wmbind rd rs1 => Sys2Proof.Machine.execWmbind rd rs1 s
  | .wmpub rs1 rs2 => Sys2Proof.Machine.execWmpub rs1 rs2 s
  | .wmwait rd rs1 rs2 => Sys2Proof.Machine.execWmwait rd rs1 rs2 s
  | .wmget rd rs1 => Sys2Proof.Machine.execWmget rd rs1 s
  | .tlook rd rs1 => Sys2Proof.Machine.execTlook rd rs1 s
  | .tset rd rs1 rs2 => Sys2Proof.Machine.execTset rd rs1 rs2 s
  | .tinv rd rs1 => Sys2Proof.Machine.execTinv rd rs1 s
  | .l2pin rd rs1 rs2 => Sys2Proof.Machine.execL2pin rd rs1 rs2 s
  | .l2unpin rd rs1 => Sys2Proof.Machine.execL2unpin rd rs1 s
  | .phase rd rs1 => Sys2Proof.Machine.execPhase rd rs1 s
  | .tsend rd rs1 rs2 => Sys2Proof.Machine.execTsend rd rs1 rs2 s
  | .trecv rd rs1 => Sys2Proof.Machine.execTrecv rd rs1 s
  | .domset rd rs1 rs2 => Sys2Proof.Machine.execDomset rd rs1 rs2 s
  | .dsync rd => Sys2Proof.Machine.execDsync rd s
  | .csrrw rd rs1 num => Sys2Proof.Machine.execCsrrw rd rs1 num s
  | .csrrs rd rs1 num => Sys2Proof.Machine.execCsrrs rd rs1 num s
  | .csrrc rd rs1 num => Sys2Proof.Machine.execCsrrc rd rs1 num s
  | .csrrwi rd imm num => Sys2Proof.Machine.execCsrrwi rd imm num s
  | .csrrsi rd imm num => Sys2Proof.Machine.execCsrrsi rd imm num s
  | .csrrci rd imm num => Sys2Proof.Machine.execCsrrci rd imm num s
  | .pair rd rs1 => Sys2Proof.Machine.execPair rd rs1 s
  | .sysc rs1 => Sys2Proof.Machine.execSysc rs1 s
  | .brk rs1 => Sys2Proof.Machine.execBrk rs1 s
  | .rndvS0 rd => Sys2Proof.Machine.execRndvS0 rd s
  | .rndvS1 rd => Sys2Proof.Machine.execRndvS1 rd s
  | .rndvWs0 rd rs1 => Sys2Proof.Machine.execRndvWs0 rd rs1 s
  | .rndvWs1 rd rs1 => Sys2Proof.Machine.execRndvWs1 rd rs1 s
  | .rndvEnt rd => Sys2Proof.Machine.execRndvEnt rd s
  | .rndvTime rd => Sys2Proof.Machine.execRndvTime rd s
  | .vsetl rd rs1 imm => Sys2Proof.Machine.execVsetl rd rs1 imm s
  | .vsetli rd rs1 imm => Sys2Proof.Machine.execVsetli rd rs1 imm s
  | .vmvxs rd rs1 rs2 => Sys2Proof.Machine.execVmvxs rd rs1 rs2 s
  | .vmpopc rd rs1 => Sys2Proof.Machine.execVmpopc rd rs1 s
  | .vmfirst rd rs1 => Sys2Proof.Machine.execVmfirst rd rs1 s
  | .vrdsub rd => Sys2Proof.Machine.execVrdsub rd s
  | .vrdsc rd rs1 => Sys2Proof.Machine.execVrdsc rd rs1 s
  | .nopC => Sys2Proof.Machine.execNopC s
  | .fenceCode => Sys2Proof.Machine.execFenceCode s
  | .gang => Sys2Proof.Machine.execGang s
  | .split => Sys2Proof.Machine.execSplit s
  | .unpair => Sys2Proof.Machine.execUnpair s
  | .vacq => Sys2Proof.Machine.execVacq s
  | .vrel => Sys2Proof.Machine.execVrel s
  | .endHart => Sys2Proof.Machine.execEndHart s
  | .yield => Sys2Proof.Machine.execYield s
  | .tret => Sys2Proof.Machine.execTret s
  | .halt => Sys2Proof.Machine.execHalt s
  | .l2hintFetch rd rs1 rs2 => Sys2Proof.Machine.execL2hintFetch rd rs1 rs2 s
  | .l2hintDemote rd rs1 rs2 => Sys2Proof.Machine.execL2hintDemote rd rs1 rs2 s
  | .l2hintCounters rd rs1 rs2 => Sys2Proof.Machine.execL2hintCounters rd rs1 rs2 s
  | .convoy header words => Sys2Proof.Machine.execConvoy header words s
  | .vadd w => Sys2Proof.Machine.execVadd w s
  | .vsub w => Sys2Proof.Machine.execVsub w s
  | .vrsub w => Sys2Proof.Machine.execVrsub w s
  | .vmul w => Sys2Proof.Machine.execVmul w s
  | .vmulh w => Sys2Proof.Machine.execVmulh w s
  | .vmulhn w => Sys2Proof.Machine.execVmulhn w s
  | .vmacc w => Sys2Proof.Machine.execVmacc w s
  | .vnmsac w => Sys2Proof.Machine.execVnmsac w s
  | .vdiv w => Sys2Proof.Machine.execVdiv w s
  | .vdivn w => Sys2Proof.Machine.execVdivn w s
  | .vrem w => Sys2Proof.Machine.execVrem w s
  | .vremn w => Sys2Proof.Machine.execVremn w s
  | .vmin w => Sys2Proof.Machine.execVmin w s
  | .vmax w => Sys2Proof.Machine.execVmax w s
  | .vminn w => Sys2Proof.Machine.execVminn w s
  | .vmaxn w => Sys2Proof.Machine.execVmaxn w s
  | .vsadd w => Sys2Proof.Machine.execVsadd w s
  | .vsaddn w => Sys2Proof.Machine.execVsaddn w s
  | .vssub w => Sys2Proof.Machine.execVssub w s
  | .vssubn w => Sys2Proof.Machine.execVssubn w s
  | .vavg w => Sys2Proof.Machine.execVavg w s
  | .vabsd w => Sys2Proof.Machine.execVabsd w s
  | .vsll w => Sys2Proof.Machine.execVsll w s
  | .vsrl w => Sys2Proof.Machine.execVsrl w s
  | .vsra w => Sys2Proof.Machine.execVsra w s
  | .vnsrl w => Sys2Proof.Machine.execVnsrl w s
  | .vnsra w => Sys2Proof.Machine.execVnsra w s
  | .vwadd w => Sys2Proof.Machine.execVwadd w s
  | .vwmul w => Sys2Proof.Machine.execVwmul w s
  | .vclz w => Sys2Proof.Machine.execVclz w s
  | .vcpop w => Sys2Proof.Machine.execVcpop w s
  | .vsext w => Sys2Proof.Machine.execVsext w s
  | .vzext w => Sys2Proof.Machine.execVzext w s
  | .vand w => Sys2Proof.Machine.execVand w s
  | .vor w => Sys2Proof.Machine.execVor w s
  | .vxor w => Sys2Proof.Machine.execVxor w s
  | .vnot w => Sys2Proof.Machine.execVnot w s
  | .vmerge w => Sys2Proof.Machine.execVmerge w s
  | .vmv w => Sys2Proof.Machine.execVmv w s
  | .vmsEq w => Sys2Proof.Machine.execVmsEq w s
  | .vmsNe w => Sys2Proof.Machine.execVmsNe w s
  | .vmsLt w => Sys2Proof.Machine.execVmsLt w s
  | .vmsLtn w => Sys2Proof.Machine.execVmsLtn w s
  | .vmsLe w => Sys2Proof.Machine.execVmsLe w s
  | .vmsLen w => Sys2Proof.Machine.execVmsLen w s
  | .vmsGt w => Sys2Proof.Machine.execVmsGt w s
  | .vmsGtn w => Sys2Proof.Machine.execVmsGtn w s
  | .vmand w => Sys2Proof.Machine.execVmand w s
  | .vmor w => Sys2Proof.Machine.execVmor w s
  | .vmxor w => Sys2Proof.Machine.execVmxor w s
  | .vmandn w => Sys2Proof.Machine.execVmandn w s
  | .vmnot w => Sys2Proof.Machine.execVmnot w s
  | .vmset w => Sys2Proof.Machine.execVmset w s
  | .vmclr w => Sys2Proof.Machine.execVmclr w s
  | .vmsbf w => Sys2Proof.Machine.execVmsbf w s
  | .vmsif w => Sys2Proof.Machine.execVmsif w s
  | .vmsof w => Sys2Proof.Machine.execVmsof w s
  | .viota w => Sys2Proof.Machine.execViota w s
  | .vid w => Sys2Proof.Machine.execVid w s
  | .vfadd w => Sys2Proof.Machine.execVfadd w s
  | .vfsub w => Sys2Proof.Machine.execVfsub w s
  | .vfmul w => Sys2Proof.Machine.execVfmul w s
  | .vfdiv w => Sys2Proof.Machine.execVfdiv w s
  | .vfsqrt w => Sys2Proof.Machine.execVfsqrt w s
  | .vfma w => Sys2Proof.Machine.execVfma w s
  | .vfms w => Sys2Proof.Machine.execVfms w s
  | .vfnma w => Sys2Proof.Machine.execVfnma w s
  | .vfnms w => Sys2Proof.Machine.execVfnms w s
  | .vfmin w => Sys2Proof.Machine.execVfmin w s
  | .vfmax w => Sys2Proof.Machine.execVfmax w s
  | .vfsgnj w => Sys2Proof.Machine.execVfsgnj w s
  | .vfsgnjn w => Sys2Proof.Machine.execVfsgnjn w s
  | .vfsgnjx w => Sys2Proof.Machine.execVfsgnjx w s
  | .vfclass w => Sys2Proof.Machine.execVfclass w s
  | .vmfEq w => Sys2Proof.Machine.execVmfEq w s
  | .vmfNe w => Sys2Proof.Machine.execVmfNe w s
  | .vmfLt w => Sys2Proof.Machine.execVmfLt w s
  | .vmfLe w => Sys2Proof.Machine.execVmfLe w s
  | .vmfGt w => Sys2Proof.Machine.execVmfGt w s
  | .vmfGe w => Sys2Proof.Machine.execVmfGe w s
  | .vfcvtFtoi w => Sys2Proof.Machine.execVfcvtFtoi w s
  | .vfcvtItof w => Sys2Proof.Machine.execVfcvtItof w s
  | .vfwcvtFtof w => Sys2Proof.Machine.execVfwcvtFtof w s
  | .vfwcvtFtoi w => Sys2Proof.Machine.execVfwcvtFtoi w s
  | .vfwcvtItof w => Sys2Proof.Machine.execVfwcvtItof w s
  | .vfncvtFtof w => Sys2Proof.Machine.execVfncvtFtof w s
  | .vfncvtFtoi w => Sys2Proof.Machine.execVfncvtFtoi w s
  | .vfncvtItof w => Sys2Proof.Machine.execVfncvtItof w s
  | .vfwma w => Sys2Proof.Machine.execVfwma w s
  | .vsxpack w => Sys2Proof.Machine.execVsxpack w s
  | .vsxunpk w => Sys2Proof.Machine.execVsxunpk w s
  | .vexp2 w => Sys2Proof.Machine.execVexp2 w s
  | .vlog2 w => Sys2Proof.Machine.execVlog2 w s
  | .vrcp w => Sys2Proof.Machine.execVrcp w s
  | .vrsq w => Sys2Proof.Machine.execVrsq w s
  | .vsin w => Sys2Proof.Machine.execVsin w s
  | .vcos w => Sys2Proof.Machine.execVcos w s
  | .vtanh w => Sys2Proof.Machine.execVtanh w s
  | .vsigm w => Sys2Proof.Machine.execVsigm w s
  | .verf w => Sys2Proof.Machine.execVerf w s
  | .vle w => Sys2Proof.Machine.execVle w s
  | .vse w => Sys2Proof.Machine.execVse w s
  | .vlse w => Sys2Proof.Machine.execVlse w s
  | .vsse w => Sys2Proof.Machine.execVsse w s
  | .vlxe w => Sys2Proof.Machine.execVlxe w s
  | .vsxe w => Sys2Proof.Machine.execVsxe w s
  | .vlgl w => Sys2Proof.Machine.execVlgl w s
  | .vssc w => Sys2Proof.Machine.execVssc w s
  | .vlseg w => Sys2Proof.Machine.execVlseg w s
  | .vsseg w => Sys2Proof.Machine.execVsseg w s
  | .vleff w => Sys2Proof.Machine.execVleff w s
  | .vlwr w => Sys2Proof.Machine.execVlwr w s
  | .vswr w => Sys2Proof.Machine.execVswr w s
  | .vsxadd w => Sys2Proof.Machine.execVsxadd w s
  | .vlst w => Sys2Proof.Machine.execVlst w s
  | .vredSum w => Sys2Proof.Machine.execVredSum w s
  | .vredMax w => Sys2Proof.Machine.execVredMax w s
  | .vredMin w => Sys2Proof.Machine.execVredMin w s
  | .vredAnd w => Sys2Proof.Machine.execVredAnd w s
  | .vredOr w => Sys2Proof.Machine.execVredOr w s
  | .vredXor w => Sys2Proof.Machine.execVredXor w s
  | .vfredsum w => Sys2Proof.Machine.execVfredsum w s
  | .vfredosum w => Sys2Proof.Machine.execVfredosum w s
  | .vfredmax w => Sys2Proof.Machine.execVfredmax w s
  | .vfredmin w => Sys2Proof.Machine.execVfredmin w s
  | .vslideup w => Sys2Proof.Machine.execVslideup w s
  | .vslidedn w => Sys2Proof.Machine.execVslidedn w s
  | .vperm w => Sys2Proof.Machine.execVperm w s
  | .vcompress w => Sys2Proof.Machine.execVcompress w s
  | .vexpand w => Sys2Proof.Machine.execVexpand w s
  | .vmvsx w => Sys2Proof.Machine.execVmvsx w s
  | .vzip w => Sys2Proof.Machine.execVzip w s
  | .vunzip w => Sys2Proof.Machine.execVunzip w s
  | .vtrn w => Sys2Proof.Machine.execVtrn w s
  | .mbld w => Sys2Proof.Machine.execMbld w s
  | .mbinv w => Sys2Proof.Machine.execMbinv w s
  | .mma w => Sys2Proof.Machine.execMma w s
  | .mmas w => Sys2Proof.Machine.execMmas w s
  | .mzero w => Sys2Proof.Machine.execMzero w s
  | .mxtr w => Sys2Proof.Machine.execMxtr w s
  | .mxtrz w => Sys2Proof.Machine.execMxtrz w s
  | .mcens w => Sys2Proof.Machine.execMcens w s
  | .mscl w => Sys2Proof.Machine.execMscl w s
  | .cpv w => Sys2Proof.Machine.execCpv w s
  | .cpvs w => Sys2Proof.Machine.execCpvs w s
  | .cprrSend w => Sys2Proof.Machine.execCprrSend w s
  | .cprrArm w => Sys2Proof.Machine.execCprrArm w s
  | .vrsend w => Sys2Proof.Machine.execVrsend w s
  | .vrredAdd w => Sys2Proof.Machine.execVrredAdd w s
  | .vrredMin w => Sys2Proof.Machine.execVrredMin w s
  | .vrredMax w => Sys2Proof.Machine.execVrredMax w s
  | .venq w => Sys2Proof.Machine.execVenq w s
  | .vrld w => Sys2Proof.Machine.execVrld w s
  | .csrWrite num v => Sys2Proof.Machine.execCsrWrite num v s
  | .frmWrite v => Sys2Proof.Machine.execFrmWrite v s
  | .vdirtyWrite v => Sys2Proof.Machine.execVdirtyWrite v s
  | .lspSegmentWrite size v => Sys2Proof.Machine.execLspSegmentWrite size v s
  | .rsetstatClear => Sys2Proof.Machine.execRsetstatClear s
  | .rfinjWrite v => Sys2Proof.Machine.execRfinjWrite v s
  | .chunkCommit hart falseMatch => Sys2Proof.Machine.execChunkCommit hart falseMatch s
  | .mbldLoadComplete core bank => Sys2Proof.Machine.execMbldLoadComplete core bank s
  | .copyGroupTransfer core idx => Sys2Proof.Machine.execCopyGroupTransfer core idx s
  | .streamElementFetch core port => Sys2Proof.Machine.execStreamElementFetch core port s
  | .streamElementWrite core port => Sys2Proof.Machine.execStreamElementWrite core port s
  | .watermarkAdvance idx => Sys2Proof.Machine.execWatermarkAdvance idx s
  | .watermarkNotify core wm => Sys2Proof.Machine.execWatermarkNotify core wm s
  | .scatterAddPerform idx => Sys2Proof.Machine.execScatterAddPerform idx s
  | .readReturnError hart line check flip => Sys2Proof.Machine.execReadReturnError hart line check flip s
  | .refetchReturn line good => Sys2Proof.Machine.execRefetchReturn line good s
  | .switchForward tag => Sys2Proof.Machine.execSwitchForward tag s
  | .targetPerform tag answer => Sys2Proof.Machine.execTargetPerform tag answer s
  | .replyHop tag => Sys2Proof.Machine.execReplyHop tag s
  | .remoteReplyArrival tag => Sys2Proof.Machine.execRemoteReplyArrival tag s
  | .remoteAckArrival tag => Sys2Proof.Machine.execRemoteAckArrival tag s
  | .negativeAckArrival tag => Sys2Proof.Machine.execNegativeAckArrival tag s
  | .movedResend tag => Sys2Proof.Machine.execMovedResend tag s
  | .cprrGroupArrival core reg grp ctx data => Sys2Proof.Machine.execCprrGroupArrival core reg grp ctx data s
  | .cprrResendTimer tag => Sys2Proof.Machine.execCprrResendTimer tag s
  | .vrldGroupArrival tag grp => Sys2Proof.Machine.execVrldGroupArrival tag grp s
  | .remoteTimeout tag => Sys2Proof.Machine.execRemoteTimeout tag s
  | .linkFlitReplay port good => Sys2Proof.Machine.execLinkFlitReplay port good s
  | .linkDown portA portB => Sys2Proof.Machine.execLinkDown portA portB s
  | .cipherRekey stream => Sys2Proof.Machine.execCipherRekey stream s
  | .peerRejoin device ports => Sys2Proof.Machine.execPeerRejoin device ports s
  | .forwardValueArrival hart => Sys2Proof.Machine.execForwardValueArrival hart s
  | .signatureArrival group replica => Sys2Proof.Machine.execSignatureArrival group replica s
  | .replicaTimeout group => Sys2Proof.Machine.execReplicaTimeout group s
  | .replicaEventDelivery group => Sys2Proof.Machine.execReplicaEventDelivery group s
  | .launchRecordTake ctx queue => Sys2Proof.Machine.execLaunchRecordTake ctx queue s
  | .instancePlace launch harts => Sys2Proof.Machine.execInstancePlace launch harts s
  | .deficitTick die => Sys2Proof.Machine.execDeficitTick die s
  | .preemptionRequest ctx core => Sys2Proof.Machine.execPreemptionRequest ctx core s
  | .preemptNoticeExpiry ctx core => Sys2Proof.Machine.execPreemptNoticeExpiry ctx core s
  | .timedDeferralExpiry hart => Sys2Proof.Machine.execTimedDeferralExpiry hart s
  | .interruptTake hart => Sys2Proof.Machine.execInterruptTake hart s
  | .timerTick ctx => Sys2Proof.Machine.execTimerTick ctx s
  | .waitTimeout hart => Sys2Proof.Machine.execWaitTimeout hart s
  | .swapOut ctx core => Sys2Proof.Machine.execSwapOut ctx core s
  | .swapIn ctx core => Sys2Proof.Machine.execSwapIn ctx core s
  | .selftestVisit cluster => Sys2Proof.Machine.execSelftestVisit cluster s
  | .selftestResult cluster pass unit => Sys2Proof.Machine.execSelftestResult cluster pass unit s
  | .pageRequestEnqueue function => Sys2Proof.Machine.execPageRequestEnqueue function s
  | .pageReplyReceive function => Sys2Proof.Machine.execPageReplyReceive function s
  | .hostPageRequestAnswer idx success => Sys2Proof.Machine.execHostPageRequestAnswer idx success s
  | .atsInvalidation lo len => Sys2Proof.Machine.execAtsInvalidation lo len s
  | .queuePortEnqueue function handle data => Sys2Proof.Machine.execQueuePortEnqueue function handle data s
  | .queuePortQstatRead function handle => Sys2Proof.Machine.execQueuePortQstatRead function handle s
  | .queuePortDequeueRead function handle => Sys2Proof.Machine.execQueuePortDequeueRead function handle s
  | .queuePortBadAccess function offset => Sys2Proof.Machine.execQueuePortBadAccess function offset s
  | .windowWrite window offset data relaxed => Sys2Proof.Machine.execWindowWrite window offset data relaxed s
  | .tdiError function => Sys2Proof.Machine.execTdiError function s
  | .spdmGetVersion function => Sys2Proof.Machine.execSpdmGetVersion function s
  | .spdmGetCapabilities function => Sys2Proof.Machine.execSpdmGetCapabilities function s
  | .spdmNegotiateAlgorithms function => Sys2Proof.Machine.execSpdmNegotiateAlgorithms function s
  | .spdmGetDigests function => Sys2Proof.Machine.execSpdmGetDigests function s
  | .spdmGetCertificate function slot offset length => Sys2Proof.Machine.execSpdmGetCertificate function slot offset length s
  | .spdmChallenge function slot nonce => Sys2Proof.Machine.execSpdmChallenge function slot nonce s
  | .spdmGetMeasurements function index => Sys2Proof.Machine.execSpdmGetMeasurements function index s
  | .spdmKeyExchange function slot nonce => Sys2Proof.Machine.execSpdmKeyExchange function slot nonce s
  | .spdmFinish function => Sys2Proof.Machine.execSpdmFinish function s
  | .spdmSetCertificate function slot chain => Sys2Proof.Machine.execSpdmSetCertificate function slot chain s
  | .spdmUnsupported function code => Sys2Proof.Machine.execSpdmUnsupported function code s
  | .certificateRewriteApply slot => Sys2Proof.Machine.execCertificateRewriteApply slot s
  | .invalidateVaRange issuer ctx asid start length done => Sys2Proof.Machine.execInvalidateVaRange issuer ctx asid start length done s
  | .invalidateAsid issuer ctx asid done => Sys2Proof.Machine.execInvalidateAsid issuer ctx asid done s
  | .invalidateContext issuer ctx done => Sys2Proof.Machine.execInvalidateContext issuer ctx done s
  | .invalidateGpaRange issuer function start length done => Sys2Proof.Machine.execInvalidateGpaRange issuer function start length done s
  | .invalidateFunction issuer function done => Sys2Proof.Machine.execInvalidateFunction issuer function done s
  | .invalidationDone idx => Sys2Proof.Machine.execInvalidationDone idx s
  | .create issuer spec => Sys2Proof.Machine.execCreate issuer spec s
  | .destroy issuer ctx done => Sys2Proof.Machine.execDestroy issuer ctx done s
  | .mint spec => Sys2Proof.Machine.execMint spec s
  | .remint spec => Sys2Proof.Machine.execRemint spec s
  | .dropgrant issuer device ctx entry done => Sys2Proof.Machine.execDropgrant issuer device ctx entry done s
  | .advance issuer port done => Sys2Proof.Machine.execAdvance issuer port done s
  | .revocationDrainAnswer idx => Sys2Proof.Machine.execRevocationDrainAnswer idx s
  | .killkey slot => Sys2Proof.Machine.execKillkey slot s
  | .keyKillReceive slot => Sys2Proof.Machine.execKeyKillReceive slot s
  | .keyRetireStuck slot => Sys2Proof.Machine.execKeyRetireStuck slot s
  | .migrate issuer oldPage newPage done => Sys2Proof.Machine.execMigrate issuer oldPage newPage done s
  | .migrateCutover idx ptes => Sys2Proof.Machine.execMigrateCutover idx ptes s
  | .setAgeLimit issuer micros done => Sys2Proof.Machine.execSetAgeLimit issuer micros done s
  | .setSelftestInterval issuer millis done => Sys2Proof.Machine.execSetSelftestInterval issuer millis done s
  | .setTestMode issuer on done => Sys2Proof.Machine.execSetTestMode issuer on done s
  | .setPowerCap issuer watts done => Sys2Proof.Machine.execSetPowerCap issuer watts done s
  | .setAsidRoot issuer ctx asid root done => Sys2Proof.Machine.execSetAsidRoot issuer ctx asid root done s
  | .setStage2Root issuer function root done => Sys2Proof.Machine.execSetStage2Root issuer function root done s
  | .windowBinding issuer window function offset ctx asid cell done => Sys2Proof.Machine.execWindowBinding issuer window function offset ctx asid cell done s
  | .readCounter issuer counter index echo done => Sys2Proof.Machine.execReadCounter issuer counter index echo done s
  | .debugHalt token hart done => Sys2Proof.Machine.execDebugHalt token hart done s
  | .debugResume token hart done => Sys2Proof.Machine.execDebugResume token hart done s
  | .debugReadState token hart item index echo done => Sys2Proof.Machine.execDebugReadState token hart item index echo done s
  | .debugWriteState token hart item index v done => Sys2Proof.Machine.execDebugWriteState token hart item index v done s
  | .mgmtUnknownOp issuer op done => Sys2Proof.Machine.execMgmtUnknownOp issuer op done s
  | .hartRestart hart v => Sys2Proof.Machine.execHartRestart hart v s
  | .hostSupervisorCall hart v => Sys2Proof.Machine.execHostSupervisorCall hart v s
  | .thermalEvent celsius => Sys2Proof.Machine.execThermalEvent celsius s
  | .deviceReset secureBoot links => Sys2Proof.Machine.execDeviceReset secureBoot links s
  | .illegalInstruction bits => Sys2Proof.Machine.execIllegalInstruction bits s
  | .tdispRequest function dest => Sys2Proof.Machine.execTdispRequest function dest s
  | .queuePortHandleBinding issuer function handle target done => Sys2Proof.Machine.execQueuePortHandleBinding issuer function handle target done s
  | .mgmtCertificateRewrite issuer slot chain done => Sys2Proof.Machine.execMgmtCertificateRewrite issuer slot chain done s
  | .recoveryWrite data done => Sys2Proof.Machine.execRecoveryWrite data done s

end Sys2Proof.Machine
end

