-- ==== Sys2Proof/Machine/Gang.lean ====
section
/-! DEFINITION. A hart's turn: fetch, and the instruction alone or in the lockstep of its gang (spec/19 R343; spec/05
R104; spec/08 R188; spec/24 R400). -/

namespace Sys2Proof.Machine

/-- Executes what the executing hart has fetched. A failed reply to the instruction's page request is its trap; those of a vector
instruction's elements are taken at the element (R164, R382). -/
def State.issue (s : State) (f : Fetched) : Out :=
  let s := { s with touched := [], member := 0 }
  match s.failedReq false 0 with
  | some q => .next (s.run .plain fun _ => .error q.trap)
  | none => match f with
    | .ready (.instr i) => exec i s
    | .ready (.l2hint rd rs1 rs2) => execL2hint rd rs1 rs2 s
    | .ready (.convoy h ws) => execConvoy h ws s
    | .bad b v => .next (s.run .plain fun _ => .error (.trap Cause.illegal b v))

/-- The executing hart fetches and executes by itself. -/
def State.issueOne (s : State) : Out :=
  match s.fetch with
  | .error e => .next (s.handle e)
  | .ok (f, t) => t.issue f

/-! Lockstep (R343). -/

/-- The next state of an outcome, or the state it started from. -/
def outState (o : Out) (s : State) : State := match o with | .next t => t | _ => s

/-- The next PC of a conditional branch or JALR (R104). -/
def State.branchNext (s : State) (f : Fetched) : Option Word :=
  match f with
  | .ready (.instr i) => match i with
    | .beq a b o => some (branchPc s.pc o (s.x a == s.x b))
    | .bne a b o => some (branchPc s.pc o (s.x a != s.x b))
    | .blt a b o => some (branchPc s.pc o ((s.x a).slt (s.x b)))
    | .bge a b o => some (branchPc s.pc o (!(s.x a).slt (s.x b)))
    | .bltn a b o => some (branchPc s.pc o ((s.x a).ult (s.x b)))
    | .bgen a b o => some (branchPc s.pc o (!(s.x a).ult (s.x b)))
    | .jalr _ a m => some (jalrPc (s.x a) m)
    | _ => none
  | _ => none

/-- Every member traps GANG_DIVERGENT, with its own value and what stands beside it. -/
def State.divergeAll (s : State) (ms : List Nat) (own beside : State → Word) : State :=
  ms.foldl (fun t h => (t.as h).takeTrap Cause.gangDivergent (own (s.as h)) (beside (s.as h))) s

/-- An MMA or MMAS that passes the checks of R48 and R185, with its convoy and tile. -/
def State.mmaOf (s : State) (f : Fetched) : Option (Member × Cvy × BitVec 256) :=
  match f with
  | .ready (.convoy hdr ws) => match s.checkConvoy hdr ws with
    | .ok c => match c.ms with
      | [m] =>
        if m.op = .mma ∨ m.op = .mmas then
          match m.mmaRec c s with
          | .ok tile => some (m, c, tile)
          | .error _ => none
        else none
      | _ => none
    | .error _ => none
  | _ => none

/-- What the members of a gang compare before the rows of an MMA (R188): m and the source of B. -/
def State.mmaKey (s : State) (p : Member × Cvy × BitVec 256) : List Nat :=
  let (m, _, t) := p
  [(s.x m.w.vs3).toNat, (recBase t).toNat, (recStride t).toNat, recK t, recN t, recType t]

/-- The hart has passed its instruction of the lockstep: it counted it, or left the lockstep or its instance with it. -/
def Hart.passed (x y : Hart) : Bool := decide (x.a.seq < y.a.seq) || !y.a.lock

/-- Executes what the leader fetched in every member. Where some trap, they alone take it and the others are held; where some stall
or park, they alone do, and the others stand before the instruction until all can issue (R343). -/
def State.issueAll (s : State) (ms : List Nat) (f : Fetched) : Out :=
  let trial (h : Nat) : Hart := (outState ((s.as h).issue f) s).hart h
  let traps := ms.filter fun h => (s.hart h).trapAt.isNone && (trial h).trapAt.isSome
  let late := ms.filter fun h => !(s.hart h).passed (trial h)
  let go := if !traps.isEmpty then traps else if !late.isEmpty then late else ms
  match (s.as (ms.headD 0)).issue f with
  | .next _ => .next (go.foldl (fun t h => outState ((t.as h).issue f) t) s)
  | o => o

/-- A ganged MMA: the comparison, every member's tile, the end of every member's open chunk, and the row before which all stop (R188,
R289, R400). -/
def State.gangMma (s : State) (ms : List Nat) (f : Fetched) : Out :=
  let part (h : Nat) := (s.as h).mmaOf f
  let lead := ms.headD 0
  if ms.all fun h => (part h).isSome then
    let key (h : Nat) : List Nat := match part h with | some p => (s.as h).mmaKey p | none => []
    let own (t : State) (i : Nat) : Word := BitVec.ofNat 64 ((key t.cur).getD i 0)
    let vstart (h : Nat) : Word := (s.as h).vf.vstart
    if ms.any fun h => decide (key h ≠ key lead) then .next (s.divergeAll ms (own · 0) (own · 1))
    else if ms.any fun h => decide (vstart h ≠ vstart lead) then
      .next (s.divergeAll ms (fun t => vstart t.cur) fun _ => vstart lead)
    else
      let ready (t : State) (h : Nat) : Res := match part h with
        | some (_, _, tile) => tileReady tile (t.as h)
        | none => .ok t
      let late := ms.filter fun h => match ready s h with | .ok _ => false | .error _ => true
      if !late.isEmpty then .next (late.foldl (fun t h => outState ((t.as h).issue f) t) s)
      else
        let s := ms.foldl (fun t h => match ready t h with | .ok u => u | .error _ => t) s
        let first (h : Nat) : Option Nat := match part h with
          | some (m, c, tile) => m.firstTrap c tile (s.as h)
          | none => none
        let stops := ms.filterMap first
        let row : Option Nat := if stops.isEmpty then none else some (stops.foldl Nat.min 16)
        let set (s : State) (r : Option Nat) := ms.foldl (fun t h => t.onHart h fun x => { x with rowStop := r }) s
        match s.endAll ms with
        | (t, false) => .next t
        | (t, true) => match (set t row).issueAll ms f with
          | .next t => .next (set t none)
          | o => o
  else s.issueAll ms f

/-- One instruction of a gang in lockstep: the leader fetches (R343, R104). -/
def State.gangTurn (s : State) (ms : List Nat) : Out :=
  let lead := ms.headD 0
  let pc (t : State) : Word := t.pc
  if ms.any fun h => decide ((s.as h).pc ≠ (s.as lead).pc) then .next (s.divergeAll ms pc fun _ => (s.as lead).pc)
  else match (s.as lead).fetch with
    | .error e => .next ((s.as lead).handle e)
    | .ok (f, s) =>
      let target (h : Nat) : Option Word := (s.as h).branchNext f
      if ms.any fun h => decide (target h ≠ target lead) then
        .next (s.divergeAll ms (fun t => (target t.cur).getD 0) fun _ => (target lead).getD 0)
      else match (s.as lead).mmaOf f with
        | some _ => s.gangMma ms f
        | none => s.issueAll ms f

/-- How a hart that could run may issue (R343). -/
inductive Turn where
  | alone
  | together
  | wait
deriving DecidableEq, Repr

/-- The hart is able to issue as far as it alone is concerned. -/
def Hart.able (x : Hart) : Bool := decide (x.status = .running) || decide (x.status = .stalled)

/-- A hart in lockstep goes with its gang, catches up alone after a squash or a park of its own, handles its own trap,
or waits. -/
def State.turnOf (s : State) (h : Nat) : Turn :=
  let x := s.hart h
  if !x.a.lock || decide (x.gang.length < 2) || x.trapAt.isSome then .alone
  else
    let others := x.gang.filter (· ≠ h)
    if others.all fun k => let y := s.hart k; y.a.lock && decide (y.a.seq = x.a.seq) && y.trapAt.isNone then
      (if x.gang.all fun k => (s.hart k).able then .together else .wait)
    else if others.any fun k => let y := s.hart k; y.a.lock && decide (x.a.seq < y.a.seq) then .alone
    else if others.all fun k => let y := s.hart k; !y.a.lock ||
        (decide (x.a.seq = y.a.seq) && y.trapAt.isNone && others.any fun l => !(s.hart l).a.lock) then .alone
    else .wait

/-- Hart h can issue now. -/
def State.canRun (s : State) (h : Nat) : Bool := (s.hart h).able && decide (s.turnOf h ≠ .wait)

/-- A hart's turn: a trap that awaits its resumption, or the trap
of the other replica's data error, or its next instruction (R343, R361, R375, R377). -/
def State.turn (s : State) (h : Nat) : Out :=
  let run (s : State) (k : Nat) : State := s.onHart k fun x => x.setStatus .running
  match (s.hart h).resumeTrap with
  | some (c, v, w) => .next (((run (s.as h) h).onMe fun x => { x with resumeTrap := none }).takeTrap c v w)
  | none =>
    match s.cutFor h with
    | some (c, v) => .next ((run (s.as h) h).dataTrap c v 1)
    | none =>
    match s.turnOf h with
    | .together =>
      let ms := (s.hart h).gang
      let s := ms.foldl run s
      match s.gangTurn ms with
      | .next t => .next { t with cur := h }
      | o => o
    | _ => (run (s.as h) h).issueOne

end Sys2Proof.Machine
end

