-- ==== Sys2Proof/Machine/Schedule.lean ====
section
/-! DEFINITION. What moves next: the passing of time, when a parked hart goes on, the moves that the agenda names, and the
order in which the module moves by itself (spec/19 R343, R355; spec/01 R4; spec/21 R371, R374; log 1, log 6). -/

namespace Sys2Proof.Machine

/-! Time (R4, R277, R371). -/

/-- Results of timed scratchpad loads that are due are written (R277), and set LDST as they are (R27). -/
def HartArch.settle (cycle : Nat) (a : HartArch) : HartArch :=
  if a.delayed.isEmpty then a
  else
    let (due, rest) := a.delayed.partition fun e => decide (e.1 ≤ cycle)
    due.foldl (fun a e =>
      if e.2.1 then { a with f := mapSet 0 a.f e.2.2.1 e.2.2.2 }
      else { a with x := mapSet 0 a.x e.2.2.1 e.2.2.2, csr := mapSet 0 a.csr Csr.ldst (BitVec.ofNat 64 e.2.2.1) })
      { a with delayed := rest }

/-- The results of hart h that are due. -/
def State.settle (s : State) (h : Nat) : State :=
  if (s.hart h).a.delayed.isEmpty then s else s.onHart h fun x => { x with a := x.a.settle s.cycle }

/-- The deficits of every die are replenished where they must be (R351). -/
def State.refillAll (s : State) : State :=
  if s.launches.isEmpty && s.instances.isEmpty then s else (List.range 4).foldl State.refill s

/-- Time passes: the core clock counts, timed loads arrive, the bank accesses of past cycles are settled, the cupping units count, and
deficits are replenished (R4, R277, R278, R351, R371). -/
def State.elapse (s : State) (n : Nat) : State :=
  let c := s.cycle + n
  let ns := ({ s with cycle := c } : State).time - s.time
  let s := s.cores.foldl (fun (s : State) e => if e.2.banks.isEmpty then s else s.settleBanks e.1 c) s
  State.refillAll { s with
    cycle := c, freeCtr := s.freeCtr + 1,
    harts := s.harts.map fun e => if e.2.a.delayed.isEmpty then e else (e.1, { e.2 with a := e.2.a.settle c }),
    groups := s.groups.map fun e =>
      match e.2.timer with
      | some t => if s.timerRuns e.2 then (e.1, { e.2 with timer := some (t + ns) }) else e
      | none => e }

/-! Parks (R355). -/

/-- What a parked hart waits for has come about. Hand-offs, monitors, gangs, pairs and forwarded values wake their harts
themselves. -/
def State.wakes (s : State) (h : Nat) : Bool :=
  let x := s.hart h
  let k := s.core (coreOf h)
  match x.status with
  | .parked p => match p with
    | .bwait bb => match mapFind? k.bb bb, mapFind? x.arrivals bb with
      | some b, some p => decide (s.phaseAt h b.obj ≠ p)
      | _, _ => true
    | .wmwait wm thr => match mapFind? k.wm wm with
      | some r => !r.mark.ult (wmin thr r.hi)
      | none => true
    | .stream port =>
      let t := s.as h
      let st := t.stream port
      match st.active with
      | none => true
      | some b =>
        if b.outbound then
          let n := (t.pushesOf port).length
          decide (st.buf.length + n < 64) && decide (st.taken + n < st.total)
        else decide (t.popsOf port < st.buf.length)
    | .vacq => k.owner.isNone && decide (k.vacqWait.head? = some h)
    | .reply _ => s.packets.all fun p => !(s.ownPacket h p && p.op.waits) || decide (p.at_ = .back)
    | .acks mask => !s.unacked h mask
    | .page => s.pageReqs.all fun r => decide (r.hart ≠ h) || decide (r.ctx ≠ x.ctx) || r.answer.isSome
    | .hostPage idx => s.hostReqs.all fun r => decide (r.idx ≠ idx) || r.answer.isSome
    | .trecv thr => decide (thr.toNat ≤ x.recvBytes)
    | .queue _ | .wait _ _ | .gang | .pair _ _ | .forward => false
  | _ => false

/-- Harts of the gang of h, or h alone, whose parks are over go on. -/
def State.rouse (s : State) (h : Nat) : State :=
  (s.lockMates h).foldl (fun s k => if s.wakes k then s.onHart k (·.setStatus .running) else s) s

/-! A hart's turn. -/

/-- The boundary at which the group of hart h takes its event: none any more where no replica has an event left to take, the chunk
having cleared IE; the next one where the hart has a hand-off to take up or a trap to take first (R215, R366, log 134). -/
def State.settleEvent (s : State) (h : Nat) : State :=
  match (s.hart h).group, s.groupOf h with
  | some g, some G =>
    if G.eventAt.isSome && G.liveHarts.all fun e => s.heldForEvent e.2 && !(s.hart e.2).eventWaits then
      s.onGroup g fun G => { G with eventAt := none }
    else if s.heldForEvent h && ((s.hart h).handoff.isSome || (s.hart h).resumeTrap.isSome) then
      s.onGroup g fun G => { G with eventAt := some ((s.hart h).ordinal + 1) }
    else s
  | _, _ => s

/-- A hart halts where it must, takes the interrupt that it must take, or issues (R394, R395). -/
def State.runHart (s : State) (h : Nat) : Out :=
  let s := s.settleEvent h
  match s.haltPoint h with
  | some t => .next t
  | none => match execInterruptTake h s with
    | .next t => .next t
    | _ =>
      let s := (s.rouse h).settle h
      if s.canRun h && !s.heldForEvent h then s.turn h else notNow "the turn of a hart"

/-- A hart's turn whose convoy stops at an element for an event that waits (R51, R186, R395). -/
def State.runTo (s : State) (h e : Nat) : Out :=
  let s := (s.rouse h).settle h
  let set (s : State) (v : Option Nat) := (s.lockMates h).foldl (fun s k => s.onHart k fun x => { x with stopAt := v }) s
  if s.canRun h && (s.hart h).group.isNone && (s.hart h).eventWaits && !s.preemptDeferred h then
    match (set s (some e)).turn h with
    | .next t => .next (set t none)
    | o => o
  else notNow "the stop of a convoy"

/-! Uncorrectable errors (R374). -/

/-- A vector register or an accumulator of a core holds an uncorrectable error. -/
def State.upsetReg (s : State) (core reg : Nat) : State :=
  s.intoFile core fun f => if reg ∈ f.upset then f else { f with upset := reg :: f.upset }

/-- A CIM bank holds one: LOADED is cleared in its tile's record. -/
def Core.upsetBank (k : Core) (b : Nat) : Core :=
  let r := k.bRec b
  if recValid r && recLoaded r then
    (List.range (recCount r + 1)).foldl (fun (k : Core) i =>
      { k with brec := mapSet 0 k.brec (recFirst r + i) (k.bRec (recFirst r + i) &&& ~~~((1#256) <<< 183)) }) k
  else k

/-! Moves of the agenda (log 1). -/

/-- A state that may not be there. -/
def orNot (what : String) : Option State → Out
  | some t => .next t
  | none => notNow what

/-- Events and management operations come from outside the instruction stream; what stands in a program, and what happens
only inside an instruction, does not. -/
def isEvent (i : Instr) : Bool :=
  decide (418 ≤ i.ctorIdx) && (match i with | .illegalInstruction _ => false | _ => true)

/-- One move. -/
def State.perform (s : State) : Move → Out
  | .event i => if isEvent i then exec i s else notNow "an event"
  | .run h => s.runHart h
  | .elapse n => .next (s.elapse n)
  | .evictL2 k l => if (mapFind? (s.cluster k).l2 l).isSome then .next (s.evict k l) else notNow "an eviction"
  | .evictTlb c i =>
    if i < (s.core c).tlb.length then .next (s.onCore c fun q => { q with tlb := q.tlb.eraseIdx i }) else notNow "an eviction"
  | .evictClusterTlb k i =>
    if i < (s.cluster k).tlb.length then .next (s.onCluster k fun q => { q with tlb := q.tlb.eraseIdx i }) else notNow "an eviction"
  | .evictCode c l =>
    if (mapFind? (s.core c).icache l).isSome then .next (s.onCore c fun q => { q with icache := mapErase q.icache l }) else notNow "an eviction"
  | .lag h l =>
    if isLsp l && decide ((l - lspLoc0) / 0x80000 = coreOf h) && (s.hart h).chunk.isNone && !s.banksBusy h &&
        (mapFind? (s.hart h).lspOld l).isNone then
      .next (s.onHart h fun x => { x with lspOld := mapPut x.lspOld l (s.homeByte (s.hartMark h) l) })
    else notNow "an older value"
  | .ingress p => orNot "a packet" (s.receive p)
  | .stripe j => orNot "a stripe" (s.sendStripe j)
  | .enter p => orNot "an ingress" (s.enterHome p)
  | .dropReloc p => orNot "the end of a relocation" (s.dropReloc p)
  | .spdmAnswer => orNot "an SPDM response" s.spdmAnswer
  | .stop h e => s.runTo h e
  | .upset c r => if c < 1024 ∧ r < 40 then .next (s.upsetReg c r) else notNow "an error"
  | .upsetBank c b => if c < 1024 ∧ b < 4 then .next (s.onCore c fun k => k.upsetBank b) else notNow "an error"

/-! The order in which the module moves by itself (log 1). -/

/-- The first of some moves that can be made. -/
def firstNext (s : State) : List (State → Out) → Option State
  | [] => none
  | f :: l => match f s with
    | .next t => some t
    | _ => firstNext s l

/-- Events of chunks and replicas. -/
def State.chunkEvents (s : State) : List (State → Out) :=
  (s.harts.flatMap fun e => match e.2.status with
    | .arbiter => [execChunkCommit e.1 false]
    | .parked .forward => [execForwardValueArrival e.1]
    | .parked (.wait _ (some _)) => [execWaitTimeout e.1]
    | _ => []) ++
  s.groups.flatMap fun e =>
    (e.2.live.map fun r => execSignatureArrival e.1 r) ++ [execReplicaTimeout e.1, execReplicaEventDelivery e.1]

/-- Events of the engines. -/
def State.engineEvents (s : State) : List (State → Out) :=
  (s.cores.flatMap fun e =>
    (e.2.loads.map fun l => execMbldLoadComplete e.1 l.1) ++ (e.2.copies.map fun c => execCopyGroupTransfer e.1 c.idx) ++
    e.2.streams.flatMap fun st => [execStreamElementFetch e.1 st.1, execStreamElementWrite e.1 st.1]) ++
  ((List.range s.advances.length).map fun i => execWatermarkAdvance i) ++
  (s.notify.map fun e => execWatermarkNotify e.1 e.2.1) ++
  ((List.range s.scatter.length).map fun i => execScatterAddPerform i) ++
  s.bad.map fun e => execRefetchReturn e.1 true

/-- Events of the fabric; the answers of other modules come with the agenda. -/
def State.fabricEvents (s : State) : List (State → Out) :=
  (s.packets.flatMap fun p => match p.at_ with
    | .going _ => [execSwitchForward p.tag]
    | .target => [execTargetPerform p.tag .here]
    | .home _ => [execTargetPerform p.tag .here]
    | .reply 0 =>
      let grp := match p.op with | .vload _ g => g | _ => 0
      [execRemoteReplyArrival p.tag, execRemoteAckArrival p.tag, execNegativeAckArrival p.tag, execMovedResend p.tag,
        execVrldGroupArrival p.tag grp]
    | .reply _ => [execReplyHop p.tag]
    | .wait => [execCprrResendTimer p.tag]
    | _ => []) ++
  (s.packets.map fun p => execRemoteTimeout p.tag) ++
  (s.jobs.map fun j (t : State) => orNot "a stripe" (t.sendStripe j.id)) ++
  s.gcm.map fun e => execCipherRekey e.1

/-- Contexts with harts on a core. -/
def State.placedOn (s : State) : List (Nat × Nat) :=
  s.harts.foldl (fun l e =>
    let p := (e.2.ctx, coreOf e.1)
    if e.2.status = .free ∨ p ∈ l then l else p :: l) []

/-- Events of the Dispatch Unit. -/
def State.dispatchEvents (s : State) : List (State → Out) :=
  (s.ctxs.flatMap fun e => execTimerTick e.1 :: (List.range e.2.queues.length).map fun q => execLaunchRecordTake e.1 q) ++
  (s.placedOn.flatMap fun p => [execPreemptNoticeExpiry p.1 p.2, execPreemptionRequest p.1 p.2, execSwapOut p.1 p.2]) ++
  (s.harts.map fun e => execTimedDeferralExpiry e.1) ++
  (s.images.map fun e => execSwapIn (keyCtx e.1) (keyCore e.1)) ++
  (s.launches.map fun e (t : State) => match t.ctx? e.2.ctx with
    | some c => match t.firstPlace e.2 c with
      | some hs => execInstancePlace e.1 hs t
      | none => notNow "INSTANCE_PLACE"
    | none => notNow "INSTANCE_PLACE") ++
  ((List.range 4).map fun d => execDeficitTick d) ++
  (s.clusters.map fun e => execSelftestVisit e.1) ++ [execSelftestVisit (visitCluster s.dev.visits)] ++
  s.clusters.map fun e => execSelftestResult e.1 true 0

/-- Events of the walkers, the RKC and the RoT. -/
def State.serviceEvents (s : State) : List (State → Out) :=
  (s.funcs.flatMap fun e => [execPageReplyReceive e.1]) ++ (s.pageReqs.map fun r => execPageRequestEnqueue r.func) ++
  (s.mgmt.flatMap fun e => [execInvalidationDone e.1, execRevocationDrainAnswer e.1]) ++
  (s.keys.flatMap fun e => [execKeyKillReceive e.1, execKeyRetireStuck e.1]) ++
  (s.reloc.map fun e (t : State) => orNot "the end of a relocation" (t.dropReloc e.1)) ++
  [fun (t : State) => orNot "an SPDM response" t.spdmAnswer] ++ s.spdm.heldRewrite.map fun e => execCertificateRewriteApply e.1

/-- Harts that must halt or take an interrupt. -/
def State.hartEvents (s : State) : List (State → Out) :=
  s.harts.flatMap fun e => [fun (t : State) => orNot "a halt" (t.haltPoint e.1), execInterruptTake e.1]

/-- The turns of some harts, in order. -/
def State.turns (s : State) (p : Nat → Bool) : Option State :=
  firstNext s (((s.harts.map Prod.fst).filter p).map fun h (t : State) => t.runHart h)

/-- The move that the module makes by itself: an event that is due, in no time; else the turn of the next hart, each hart
getting one turn in a cycle; else a cycle passes. -/
def State.default (s : State) : Out :=
  match firstNext s (s.hartEvents ++ s.chunkEvents ++ s.engineEvents ++ s.fabricEvents ++ s.serviceEvents ++ s.dispatchEvents) with
  | some t => .next t
  | none => match s.turns (fun h => decide (s.cur < h)) with
    | some t => .next t
    | none => match (s.elapse 1).turns (fun h => decide (h ≤ s.cur)) with
      | some t => .next t
      | none => .next (s.elapse 1)

/-- The next move: the agenda's first, or the module's own. -/
def State.move (s : State) : Out :=
  match s.agenda with
  | m :: rest => ({ s with agenda := rest } : State).perform m
  | [] => s.default

/-! A hart made ready to fetch given bytes (log 31). -/

/-- A context for a hart that has none. -/
def Ctx.plain : Ctx :=
  { cores := [], asids := [], keyid := 1, queues := [], mailbox := 0, consent := false, tvec := 0, function := none,
    notice := false, share := 1, tick := 0, nextTick := 0, deficits := [], lspBase := 0, lspSize := 0, exited := false,
    dying := none, measured := 0 }

/-- The page of HBM that holds the code at an address. -/
def codePage (va : Nat) : Nat := 0x2000 + va / 4096 % 2

/-- Maps the pages of some addresses for the hart's instruction fetch. -/
def Core.mapCode (k : Core) (ctx asid : Nat) (pages : List Nat) : Core :=
  let e (p : Nat) : TlbEntry :=
    { ctx := ctx, asid := asid, global := false, va := p, size := 4096, pa := codePage (p * 4096), pte := 0xDF,
      gpa := codePage (p * 4096), gsize := 4096, pte2 := 0xF }
  { k with tlb := pages.map e ++ k.tlb }

/-- The executing hart is ready to fetch these bytes at its PC in the next move. -/
def State.placeCode (s : State) (bs : List Byte) : State :=
  let h := s.cur
  let x := s.hart h
  let pc := if x.a.pc.toNat + bs.length ≤ 2 ^ 57 then x.a.pc.toNat else 0
  let locs := (List.range bs.length).map fun i => codePage (pc + i) * 4096 + (pc + i) % 4096
  let lines := nub (locs.map lineOf)
  let c := (s.ctx? x.ctx).getD Ctx.plain
  let s := s.setHart h { x with
    status := .running, resumeTrap := none, preempt := false, haltReq := false, irqTimer := false, irqCall := none,
    irqPreempt := false, group := none, a := { x.a with pc := BitVec.ofNat 64 pc, lock := false } }
  let s := s.onCore (coreOf h) fun k =>
    ({ k with icache := lines.foldl mapErase k.icache } : Core).mapCode x.ctx x.asid (nub [pc / 4096, (pc + bs.length - 1) / 4096])
  let s := s.onCluster (clusterOf h) fun q => { q with l2 := lines.foldl mapErase q.l2 }
  { s with
    agenda := [.run h],
    ctxs := mapPut s.ctxs x.ctx c,
    keys := mapPut s.keys c.keyid { s.key c.keyid with state := .live },
    mem := (locs.zip bs).foldl (fun m e => mapSet 0 m e.1 e.2) s.mem,
    memKey := locs.foldl mapErase s.memKey,
    bad := lines.foldl mapErase s.bad,
    badHard := s.badHard.filter fun l => decide (l ∉ lines) }

end Sys2Proof.Machine
end

