-- ==== Sys2Proof/Machine/Step.lean ====
section
/-! DEFINITION. The step of the machine, and the state in which a given instruction is fetched next. -/

namespace Sys2Proof.Machine

/-- One step: the next move, after which elements for mailboxes and trace queues leave (log 1). -/
def step (s : State) : Host.Outcome State Fault Refusal :=
  match s.move with
  | .next t => .next t.deliver
  | .fault f => .fault f
  | .refused r => .refused r

/-- The state in which the next step fetches and runs the instruction whose bits are w, with zeros above bit nbits − 1 up
to the longest instruction (log 31). -/
def State.withFetchWord (s : State) (nbits w : Nat) : State := s.placeCode (leBytes 52 (w % 2 ^ nbits))

end Sys2Proof.Machine
end

