-- ==== Sys2Proof/Safety.lean ====
section
/-! DEFINITION. What a safe run is, and the vocabulary of the statements. -/

namespace Sys2Proof.Machine

/-- The canonical form of memory: addresses strictly rising, and no byte listed that reads as an unlisted one does. -/
def Memory.wf (m : FMap Byte) : Bool := mapWf 0 m

/-- A chunk has room for one more instruction: it is not at its limit of R289 and does not end with the last one; and what it
lists of its partial stores is in canonical form. -/
def Chunk.room (c : Chunk) : Bool := decide (c.count < 255) && !c.over && c.close.isNone && mapWf 0 c.keep

/-- The executing hart can complete an instruction in its chunk: it runs, it belongs to no replica group, its open chunk, if
any, has room, and its register files and the scratchpad bytes it remembers are in canonical form. -/
def State.calm (s : State) : Bool :=
  decide (s.me.status = .running) && s.me.group.isNone && mapWf 0 s.me.a.x && mapWf 0 s.me.a.f && mapWf 0 s.me.a.csr &&
  mapSorted s.me.lspOld &&
  match s.me.chunk with
  | none => true
  | some c => c.room

/-- The executing hart stands between two chunks, and nothing holds back the chunk that it begins: no chunk of its cluster
waits against it, no update waits there, no timed access takes a scratchpad bank of its core, and no injection is armed (R278,
R289, R294, R306, R359). -/
def State.fresh (s : State) : Bool :=
  s.calm && s.me.chunk.isNone && s.myCore.banks.isEmpty && (s.cluster (clusterOf s.cur)).grant.isNone &&
  (s.cluster (clusterOf s.cur)).delayed.isEmpty && (s.heldLines (clusterOf s.cur) (some s.cur)).isEmpty && !s.dev.testMode

/-- A chunk with n more instructions; their entries of the forwarding log are used up. -/
def Chunk.more (n : Nat) (c : Chunk) : Chunk :=
  { c with count := c.count + n, fwdPos := c.fwdPos + c.fwdSubs.length, fwdSubs := [] }

/-- What retiring an instruction that stood at `pc` leaves of its hart. -/
def Hart.retire (n : Nat) (pc : Word) (x : Hart) : Hart :=
  { x with
    atVec := false, pending := x.pending.filter (fun p => decide (p.pc ≠ pc)), handoff := none, resumeTrap := none,
    afterSync := x.afterSync.filter (· ≠ pc),
    a := if x.a.lock && x.trapAt.isNone then { x.a with seq := x.a.seq + 1 } else x.a,
    chunk := x.chunk.map (Chunk.more n) }

/-- Retiring without ending the chunk. -/
def State.retire (s : State) (n : Nat) (pc : Word) : State := (s.onMe (Hart.retire n pc)).dropReqs pc

/-- What an instruction may have written of its hart: integer registers, floating registers, CSRs, the stochastic
state. -/
structure Foot where
  xs : List Reg := []
  fs : List Reg := []
  csrs : List Nat := []
  rng : Bool := false

/-- Of the registers of the hart that executes in `s`, only those of `w` may differ in `t`; PC apart. -/
structure SameRegs (w : Foot) (s t : State) : Prop where
  cur : t.cur = s.cur
  x : ∀ r, r ∉ w.xs → t.x r = s.x r
  f : ∀ r, r ∉ w.fs → t.f r = s.f r
  csr : ∀ n, n ∉ w.csrs → t.csr n = s.csr n
  rt : t.me.a.rt = s.me.a.rt
  rsets : t.me.a.rsets = s.me.a.rsets
  mode : t.me.a.mode = s.me.a.mode
  s0 : w.rng = false → t.me.a.s0 = s.me.a.s0
  s1 : w.rng = false → t.me.a.s1 = s.me.a.s1
  ctx : t.me.ctx = s.me.ctx
  asid : t.me.asid = s.me.asid

/-- Nothing outside the executing hart differs: the other harts, every core with its vector file, and everything else but
the page requests of the executing hart; and the hart reads every byte of memory as before. -/
structure SameRest (s t : State) : Prop where
  others : ∀ h, h ≠ s.cur → t.hart h = s.hart h
  core : ∀ c, t.core c = s.core c
  rest : { t with harts := s.harts, cores := s.cores, pageReqs := s.pageReqs, hostReqs := s.hostReqs } = s
  byte : ∀ loc, t.seeByte s.cur loc = s.seeByte s.cur loc

/-- The executing hart has completed one instruction that stood at `s.pc`: it goes on at `pc`, running, with one
more instruction in its chunk. -/
structure Retired (pc : Word) (s t : State) : Prop where
  pc : t.pc = pc
  status : t.me.status = .running
  count : t.me.chunkCount = s.me.chunkCount + 1
  atVec : t.me.atVec = false

/-- LDST is written with any destination but x0 (R27). -/
def ldstOf (rd : Reg) : List Nat := if rd = 0 then [] else [Csr.ldst]

/-- `t` follows from `s` by an instruction of `len` bytes that writes `v` to X[rd], and nothing else; a write to x0 is
discarded (R9, R27). -/
structure WritesX (rd : Reg) (v : Word) (len : Nat) (s t : State) : Prop where
  done : Retired (s.pc + BitVec.ofNat 64 len) s t
  result : rd ≠ 0 → t.x rd = v
  zero : t.x 0 = 0
  ldst : rd ≠ 0 → t.csr Csr.ldst = rd.setWidth 64
  regs : SameRegs { xs := if rd = 0 then [] else [rd], csrs := ldstOf rd } s t
  rest : SameRest s t

/-- `t` follows from `s` by a jump to `pc` that links in X[rd]. -/
structure JumpsTo (rd : Reg) (pc : Word) (s t : State) : Prop where
  done : Retired pc s t
  result : rd ≠ 0 → t.x rd = s.pc + 4
  zero : t.x 0 = 0
  ldst : rd ≠ 0 → t.csr Csr.ldst = rd.setWidth 64
  regs : SameRegs { xs := if rd = 0 then [] else [rd], csrs := ldstOf rd } s t
  rest : SameRest s t

/-- `t` follows from `s` by an instruction that goes on at `pc` and changes nothing else. -/
structure OnlyPc (pc : Word) (s t : State) : Prop where
  done : Retired pc s t
  regs : SameRegs {} s t
  rest : SameRest s t

/-- `t` follows from `s` by an instruction that writes `v` to F[rd], raises the flags `fl`, and leaves the stochastic state at
`g` (R17, R83). -/
structure WritesF (rd : Reg) (v : Word) (fl : BitVec 6) (g : Word × Word) (s t : State) : Prop where
  done : Retired (s.pc + 4) s t
  result : t.f rd = v
  flags : t.csr Csr.fflags = s.csr Csr.fflags ||| fl.setWidth 64
  rng : (t.me.a.s0, t.me.a.s1) = g
  regs : SameRegs { fs := [rd], csrs := [Csr.fflags], rng := true } s t
  rest : SameRest s t

/-! What the integer instructions compute (spec/05 R97-R100). -/

/-- One or zero. -/
def flagWord (p : Prop) [Decidable p] : Word := if p then 1 else 0
/-- An operation on the low words, sign-extended. -/
def low32 (f : BitVec 32 → BitVec 32 → BitVec 32) (a b : Word) : Word := (f (a.setWidth 32) (b.setWidth 32)).signExtend 64
/-- The quotient of a and b as signed numbers, rounded toward zero; all ones where b is 0. -/
def quotS (w : Nat) (a b : BitVec w) : BitVec w := if b = 0 then BitVec.allOnes w else BitVec.ofInt w (a.toInt.tdiv b.toInt)
/-- The quotient as natural numbers; all ones where b is 0. -/
def quotU (w : Nat) (a b : BitVec w) : BitVec w := if b = 0 then BitVec.allOnes w else BitVec.ofNat w (a.toNat / b.toNat)
/-- The remainder as signed numbers, with the sign of a; a where b is 0. -/
def restS (w : Nat) (a b : BitVec w) : BitVec w := if b = 0 then a else BitVec.ofInt w (a.toInt.tmod b.toInt)
/-- The remainder as natural numbers; a where b is 0. -/
def restU (w : Nat) (a b : BitVec w) : BitVec w := if b = 0 then a else BitVec.ofNat w (a.toNat % b.toNat)
/-- Positions below w that satisfy p: the number of the first, or w. -/
def firstPos (w : Nat) (p : Nat → Bool) : Nat := ((List.range w).find? p).getD w

/-- The register forms of major 0, with their results from a = X[rs1], b = X[rs2] and the old X[rd]. -/
def regForms : List ((Reg → Reg → Reg → Instr) × (Word → Word → Word → Word)) :=
  [(.add, fun a b _ => a + b), (.sub, fun a b _ => a - b), (.and, fun a b _ => a &&& b), (.or, fun a b _ => a ||| b),
   (.xor, fun a b _ => a ^^^ b), (.andn, fun a b _ => a &&& ~~~b), (.orn, fun a b _ => a ||| ~~~b),
   (.xnor, fun a b _ => ~~~(a ^^^ b)), (.sll, fun a b _ => a <<< (b.toNat % 64)), (.srl, fun a b _ => a >>> (b.toNat % 64)),
   (.sra, fun a b _ => a.sshiftRight (b.toNat % 64)), (.rol, fun a b _ => a.rotateLeft (b.toNat % 64)),
   (.ror, fun a b _ => a.rotateRight (b.toNat % 64)), (.slt, fun a b _ => flagWord (a.toInt < b.toInt)),
   (.sltn, fun a b _ => flagWord (a.toNat < b.toNat)), (.min, fun a b _ => if a.toInt < b.toInt then a else b),
   (.max, fun a b _ => if a.toInt < b.toInt then b else a), (.minn, fun a b _ => if a.toNat < b.toNat then a else b),
   (.maxn, fun a b _ => if a.toNat < b.toNat then b else a), (.mul, fun a b _ => a * b),
   (.mulh, fun a b _ => BitVec.ofInt 64 (a.toInt * b.toInt / 2 ^ 64)),
   (.mulhn, fun a b _ => BitVec.ofNat 64 (a.toNat * b.toNat / 2 ^ 64)),
   (.mulhsn, fun a b _ => BitVec.ofInt 64 (a.toInt * (b.toNat : Int) / 2 ^ 64)),
   (.cmovz, fun a b d => if b = 0 then a else d), (.cmovn, fun a b d => if b = 0 then d else a)]

/-- The unary forms of majors 0 and 1. -/
def unaryForms : List ((Reg → Reg → Instr) × (Word → Word)) :=
  [(.clz, fun a => BitVec.ofNat 64 (firstPos 64 fun i => a.getLsbD (63 - i))),
   (.ctz, fun a => BitVec.ofNat 64 (firstPos 64 fun i => a.getLsbD i)),
   (.cpop, fun a => BitVec.ofNat 64 ((List.range 64).filter fun i => a.getLsbD i).length),
   (.sextB, fun a => (a.setWidth 8).signExtend 64), (.sextH, fun a => (a.setWidth 16).signExtend 64),
   (.sextW, fun a => (a.setWidth 32).signExtend 64), (.zextB, fun a => BitVec.ofNat 64 (a.toNat % 2 ^ 8)),
   (.zextH, fun a => BitVec.ofNat 64 (a.toNat % 2 ^ 16)), (.zextW, fun a => BitVec.ofNat 64 (a.toNat % 2 ^ 32)),
   (.bswap, fun a => a.extractLsb' 0 8 ++ a.extractLsb' 8 8 ++ a.extractLsb' 16 8 ++ a.extractLsb' 24 8 ++
      a.extractLsb' 32 8 ++ a.extractLsb' 40 8 ++ a.extractLsb' 48 8 ++ a.extractLsb' 56 8),
   (.clzW, fun a => BitVec.ofNat 64 (firstPos 32 fun i => a.getLsbD (31 - i))),
   (.ctzW, fun a => BitVec.ofNat 64 (firstPos 32 fun i => a.getLsbD i)),
   (.cpopW, fun a => BitVec.ofNat 64 ((List.range 32).filter fun i => a.getLsbD i).length),
   (.bswapW, fun a => (a.extractLsb' 0 8 ++ a.extractLsb' 8 8 ++ a.extractLsb' 16 8 ++ a.extractLsb' 24 8 : BitVec 32).signExtend 64)]

/-- The word forms of major 1 with two sources, the divisions apart. -/
def wordForms : List ((Reg → Reg → Reg → Instr) × (Word → Word → Word)) :=
  [(.addW, low32 fun a b => a + b), (.subW, low32 fun a b => a - b), (.sllW, low32 fun a b => a <<< (b.toNat % 32)),
   (.srlW, low32 fun a b => a >>> (b.toNat % 32)), (.sraW, low32 fun a b => a.sshiftRight (b.toNat % 32)),
   (.rolW, low32 fun a b => a.rotateLeft (b.toNat % 32)), (.rorW, low32 fun a b => a.rotateRight (b.toNat % 32)),
   (.mulW, low32 fun a b => a * b)]

/-- The divisions (R99). -/
def divForms : List ((Reg → Reg → Reg → Instr) × (Word → Word → Word)) :=
  [(.div, quotS 64), (.divn, quotU 64), (.rem, restS 64), (.remn, restU 64), (.divW, low32 (quotS 32)), (.divnW, low32 (quotU 32)),
   (.remW, low32 (restS 32)), (.remnW, low32 (restU 32))]

/-- The immediate forms of majors 2 to 7 from a = X[rs1] and the sign-extended immediate b. -/
def immForms : List ((Reg → Reg → BitVec 14 → Instr) × (Word → Word → Word)) :=
  [(.addi, fun a b => a + b), (.andi, fun a b => a &&& b), (.ori, fun a b => a ||| b), (.xori, fun a b => a ^^^ b),
   (.slti, fun a b => flagWord (a.toInt < b.toInt)), (.sltni, fun a b => flagWord (a.toNat < b.toNat))]

/-- The shifts by an immediate (major 8). -/
def shiftForms : List ((Reg → Reg → BitVec 6 → Instr) × (Word → Nat → Word)) :=
  [(.slli, fun a n => a <<< n), (.srli, fun a n => a >>> n), (.srai, fun a n => a.sshiftRight n), (.rori, fun a n => a.rotateRight n)]

/-- The compact register forms from L = X[LDST] and the old X[r] (R28). -/
def compactForms : List ((Reg → Instr) × (Word → Word → Word)) :=
  [(.addC, fun l v => l + v), (.subC, fun l v => l - v), (.andC, fun l v => l &&& v), (.orC, fun l v => l ||| v),
   (.xorC, fun l v => l ^^^ v), (.sllC, fun l v => l <<< (v.toNat % 64)), (.srlC, fun l v => l >>> (v.toNat % 64)),
   (.sraC, fun l v => l.sshiftRight (v.toNat % 64)), (.mulC, fun l v => l * v),
   (.sltC, fun l v => flagWord (l.toInt < v.toInt)), (.sltnC, fun l v => flagWord (l.toNat < v.toNat)), (.mvC, fun l _ => l)]

/-- The compact immediate forms from L and imm4 (R28). -/
def compactImmForms : List ((Reg → BitVec 4 → Instr) × (Word → BitVec 4 → Word)) :=
  [(.addiC, fun l i => l + i.signExtend 64), (.andiC, fun l i => l &&& i.signExtend 64), (.slliC, fun l i => l <<< i.toNat),
   (.srliC, fun l i => l >>> i.toNat), (.sraiC, fun l i => l.sshiftRight i.toNat), (.liC, fun _ i => i.signExtend 64)]

/-- The conditional branches with the relation of X[rs1] and X[rs2] under which each goes to its target (R101). -/
def branchForms : List ((Reg → Reg → BitVec 14 → Instr) × (Word → Word → Bool)) :=
  [(.beq, fun a b => decide (a = b)), (.bne, fun a b => decide (a ≠ b)), (.blt, fun a b => decide (a.toInt < b.toInt)),
   (.bge, fun a b => decide (b.toInt ≤ a.toInt)), (.bltn, fun a b => decide (a.toNat < b.toNat)),
   (.bgen, fun a b => decide (b.toNat ≤ a.toNat))]

/-! Memory accesses. -/

/-- The open chunk takes n stored bytes more (R289). -/
def State.bufRoom (s : State) (n : Nat) : Bool :=
  match s.me.chunk with
  | none => decide (n ≤ 8192)
  | some c => decide (c.buf.length + n ≤ 8192)


/-- The bytes that an access of the executing hart names pass the checks of R107: `a` are their locations, on no host-shared
page, and `u` is the state after translation. The hart is in no timed phase, and no timed access takes a scratchpad bank of its
core. -/
def State.reaches (s : State) (kind : Kind) (align : Nat) (va : Word) (n : Nat) (a : Acc) (u : State) : Prop :=
  (s.openChunk false).check (s.who s.cur) kind align 0 va n = .ok (a, u) ∧ a.hshared = false ∧ s.timed = false ∧
  s.myCore.banks = []

/-- The state in which an access finds its bytes: its lines are in the cluster's L2 (R268, R280). -/
def State.cached (u : State) (a : Acc) : State := u.touchAll (clusterOf u.cur) a.locs (a.insert .scalar)

/-- The bytes that the executing hart reads there. -/
def State.readFrom (u : State) (a : Acc) : List Byte := a.locs.map ((u.cached a).seeByte u.cur)

/-- The other harts keep their registers. -/
def SameOthers (s t : State) : Prop :=
  ∀ h, h ≠ s.cur → (t.hart h).a = (s.hart h).a

/-- `t` follows from `s` by a load of `len` bytes of code that found its bytes in `u`: it writes `v` to X[rd] and stores nothing. -/
structure LoadsX (rd : Reg) (v : Word) (len : Nat) (u s t : State) : Prop where
  done : Retired (s.pc + BitVec.ofNat 64 len) s t
  result : rd ≠ 0 → t.x rd = v
  zero : t.x 0 = 0
  ldst : rd ≠ 0 → t.csr Csr.ldst = rd.setWidth 64
  regs : SameRegs { xs := if rd = 0 then [] else [rd], csrs := ldstOf rd } s t
  others : SameOthers s t
  byte : ∀ loc, t.seeByte s.cur loc = u.seeByte s.cur loc
  home : ∀ loc, t.rawByte loc = u.rawByte loc

/-- The same into F[rd]. -/
structure LoadsF (rd : Reg) (v : Word) (u s t : State) : Prop where
  done : Retired (s.pc + 4) s t
  result : t.f rd = v
  regs : SameRegs { fs := [rd] } s t
  others : SameOthers s t
  byte : ∀ loc, t.seeByte s.cur loc = u.seeByte s.cur loc
  home : ∀ loc, t.rawByte loc = u.rawByte loc

/-- `t` follows from `s` by a store of `bs` to the locations `locs`, which were prepared in `u`: the hart reads the bytes there,
and every other byte as before; no home changes before the chunk commits (R108, R109). -/
structure StoresTo (locs : List Nat) (bs : List Byte) (len : Nat) (u s t : State) : Prop where
  done : Retired (s.pc + BitVec.ofNat 64 len) s t
  stored : ∀ e ∈ locs.zip bs, t.seeByte s.cur e.1 = e.2
  regs : SameRegs {} s t
  others : SameOthers s t
  byte : ∀ loc, loc ∉ locs → t.seeByte s.cur loc = u.seeByte s.cur loc
  home : ∀ loc, t.rawByte loc = u.rawByte loc

/-- The number whose bytes these are, lowest first, extended to a register: by its sign, or by zeros. -/
def fromBytes (sx : Bool) (n : Nat) (bs : List Byte) : Word :=
  if sx then (BitVec.ofNat (8 * n) (leNat bs)).signExtend 64 else BitVec.ofNat 64 (leNat bs)

/-- The address of a load or store (R106). -/
def State.addr (s : State) (base : Reg) (imm : BitVec 10) (size : Nat) : Word := s.x base + imm.signExtend 64 <<< size

/-- Loads of 2^size bytes into an integer register, with their extension (R108, R111); the LD.V forms load as the others where
the hart is unreplicated. -/
def loadForms : List ((Reg → Reg → BitVec 10 → Instr) × Nat × Bool) :=
  [(.ldB, 0, true), (.ldH, 1, true), (.ldW, 2, true), (.ldD, 3, true), (.ldnB, 0, false), (.ldnH, 1, false), (.ldnW, 2, false),
   (.ldVB, 0, true), (.ldVH, 1, true), (.ldVW, 2, true), (.ldVD, 3, true)]
/-- Stores of 2^size bytes of an integer register. -/
def storeForms : List ((Reg → Reg → BitVec 10 → Instr) × Nat) := [(.stB, 0), (.stH, 1), (.stW, 2), (.stD, 3)]
/-- Loads into a floating register. -/
def floatLoadForms : List ((Reg → Reg → BitVec 10 → Instr) × Nat) := [(.fldH, 1), (.fldS, 2), (.fldD, 3)]
/-- Stores of the low bytes of a floating register. -/
def floatStoreForms : List ((Reg → Reg → BitVec 10 → Instr) × Nat) := [(.fstH, 1), (.fstS, 2), (.fstD, 3)]
/-- Acquiring loads and releasing stores (R110). -/
def acquireForms : List ((Reg → Reg → BitVec 10 → Instr) × Nat) := [(.ldacqW, 2), (.ldacqD, 3)]
def releaseForms : List ((Reg → Reg → BitVec 10 → Instr) × Nat) := [(.strelW, 2), (.strelD, 3)]
/-- Every scalar access of format XM with the width of its access. -/
def accessForms : List ((Reg → Reg → BitVec 10 → Instr) × Nat) :=
  loadForms.map (fun p => (p.1, p.2.1)) ++ storeForms ++ floatLoadForms ++ floatStoreForms ++ acquireForms ++ releaseForms

/-! The ends of instructions and traps. -/

/-- The executing hart stands between two chunks, by itself: no trap of it touches another hart, its last instruction was
not the entry of a trap, and no timed access takes a scratchpad bank of its core. -/
def State.loose (s : State) : Bool :=
  s.calm && s.me.chunk.isNone && s.myCore.banks.isEmpty && !s.me.atVec && !s.me.a.lock

/-- `t` follows from `s` by a trap at the instruction at `s.pc`, the six actions of R19: the mode and IE saved in TSTAT, with
VOWN; TEPC, TCAUSE, TVAL and TVAL2 written; S-mode; PC at TVEC. Nothing else differs. -/
structure Traps (cause : Nat) (tval tval2 : Word) (s t : State) : Prop where
  tepc : t.csr Csr.tepc = s.pc
  tcause : t.csr Csr.tcause = BitVec.ofNat 64 cause
  tval : t.csr Csr.tval = tval
  tval2 : t.csr Csr.tval2 = tval2
  tstat : t.csr Csr.tstat = (if s.me.a.mode = .s then 1#64 else 0) ||| (if (s.csr Csr.tstat).getLsbD 1 then 4#64 else 0) |||
    (if s.owns then 16#64 else 0)
  mode : t.me.a.mode = .s
  pc : t.pc = s.csr Csr.tvec &&& ~~~1#64
  status : t.me.status = .running
  atVec : t.me.atVec = true
  x : ∀ r, t.x r = s.x r
  f : ∀ r, t.f r = s.f r
  csr : ∀ n, n ∉ [Csr.tstat, Csr.tepc, Csr.tcause, Csr.tval, Csr.tval2] → t.csr n = s.csr n
  rt : t.me.a.rt = s.me.a.rt
  rsets : t.me.a.rsets = s.me.a.rsets
  s0 : t.me.a.s0 = s.me.a.s0
  s1 : t.me.a.s1 = s.me.a.s1
  rest : SameRest s t

/-- The instruction that leaves `u` has completed and its chunk stays open. -/
def State.stays (u : State) (pc : Word) : State := u.retire 1 pc
/-- The instruction that leaves `u` has completed and its chunk ends with it: it goes to the arbiter (R289, R290). -/
def State.ends (u : State) (pc : Word) : State := ((u.retire 1 pc).endChunk u.cur).1
/-- The executing hart stands between two chunks and belongs to no replica group, and none of its accesses is on its way to a
scratchpad bank. -/
def State.solo (s : State) : Bool := s.me.group.isNone && s.me.chunk.isNone && !s.banksBusy s.cur

/-! Floating instructions. -/

/-- `t` follows from `s` by an instruction that writes `v` to X[rd], raises the flags `fl`, and leaves the stochastic state at
`g`. -/
structure WritesXF (rd : Reg) (v : Word) (fl : BitVec 6) (g : Word × Word) (s t : State) : Prop where
  done : Retired (s.pc + 4) s t
  result : rd ≠ 0 → t.x rd = v
  zero : t.x 0 = 0
  ldst : rd ≠ 0 → t.csr Csr.ldst = rd.setWidth 64
  flags : t.csr Csr.fflags = s.csr Csr.fflags ||| fl.setWidth 64
  rng : (t.me.a.s0, t.me.a.s1) = g
  regs : SameRegs { xs := if rd = 0 then [] else [rd], csrs := Csr.fflags :: ldstOf rd, rng := true } s t
  rest : SameRest s t

/-- `t` follows from `s` by the trap FP_TRAP of the instruction with these bits (R17): the flags it raised are in FFLAGS and in
TVAL2, and no destination is written. -/
structure TrapsFp (bits : Word) (fl : BitVec 6) (s t : State) : Prop where
  tepc : t.csr Csr.tepc = s.pc
  tcause : t.csr Csr.tcause = BitVec.ofNat 64 Cause.fpTrap
  tval : t.csr Csr.tval = bits
  tval2 : t.csr Csr.tval2 = fl.setWidth 64
  flags : t.csr Csr.fflags = s.csr Csr.fflags ||| fl.setWidth 64
  mode : t.me.a.mode = .s
  pc : t.pc = s.csr Csr.tvec &&& ~~~1#64
  x : ∀ r, t.x r = s.x r
  f : ∀ r, t.f r = s.f r
  csr : ∀ n, n ∉ [Csr.tstat, Csr.tepc, Csr.tcause, Csr.tval, Csr.tval2, Csr.fflags] → t.csr n = s.csr n
  rest : SameRest s t

/-- One of the flags is enabled in FTRAPEN (R17). -/
def State.traps (s : State) (fl : BitVec 6) : Bool := decide (fl.setWidth 64 &&& s.csr Csr.ftrapen ≠ 0)
/-- The draw that one rounding under a mode takes from the hart's stochastic state, and the state after it (R82, R83). -/
def State.drawn (s : State) (rm : Rm) : Nat × Word × Word :=
  if rm = .rsr then
    let n := nextRandom s.me.a.s0 s.me.a.s1
    (n.1.toNat / 2 ^ 32, n.2)
  else (0, s.me.a.s0, s.me.a.s1)

/-- The floating operations that round once, as functions of the values of their sources (R113, R114, R117); each is exact up to
that rounding. -/
def roundedForms : List ((BitVec 2 → Reg → Reg → Reg → Reg → Instr) × (Fmt → Rm → Nat → FVal → FVal → FVal → FRes)) :=
  [(fun fmt rd r1 r2 _ => .fadd fmt rd r1 r2, fun f rm q a b _ => f.addV rm q a b),
   (fun fmt rd r1 r2 _ => .fsub fmt rd r1 r2, fun f rm q a b _ => f.addV rm q a b.neg),
   (fun fmt rd r1 r2 _ => .fmul fmt rd r1 r2, fun f rm q a b _ => f.mulVR rm q a b),
   (fun fmt rd r1 r2 _ => .fdiv fmt rd r1 r2, fun f rm q a b _ => f.divV rm q a b),
   (fun fmt rd r1 _ _ => .fsqrt fmt rd r1, fun f rm q a _ _ => f.sqrtV rm q a),
   (.fma, fun f rm q a b c => f.fmaV rm q a b c), (.fms, fun f rm q a b c => f.fmaV rm q a b c.neg),
   (.fnma, fun f rm q a b c => f.fmaV rm q a.neg b c.neg), (.fnms, fun f rm q a b c => f.fmaV rm q a.neg b c)]

/-- The sign bit of the low bits of a register in a format. -/
def signIn (f : Fmt) (v : Word) : Bool := v.getLsbD (f.width - 1)
/-- The low bits of `a` in a format, the sign bit replaced. -/
def signed (f : Fmt) (a : Word) (neg : Bool) : Word :=
  BitVec.ofNat 64 (a.toNat % 2 ^ (f.width - 1) + if neg then 2 ^ (f.width - 1) else 0)
/-- Sign injection: the sign that each form gives its first source (R113). -/
def signForms : List ((BitVec 2 → Reg → Reg → Reg → Instr) × (Bool → Bool → Bool)) :=
  [(.fsgnj, fun _ b => b), (.fsgnjn, fun _ b => !b), (.fsgnjx, fun a b => a != b)]

/-- The order of two values, NaN apart: −1 below, 0 equal, 1 above; −0 equals +0. -/
def floatOrder (a b : FVal) : Int := if a.lt false b then -1 else if b.lt false a then 1 else 0
/-- The comparisons: the relation of the order, and whether a quiet NaN raises NV (R115). -/
def compareForms : List ((BitVec 2 → Reg → Reg → Reg → Instr) × (Int → Bool) × Bool × Bool) :=
  [(.fcmpEq, fun o => decide (o = 0), false, false), (.fcmpNe, fun o => decide (o ≠ 0), true, false),
   (.fcmpLt, fun o => decide (o < 0), false, true), (.fcmpLe, fun o => decide (o ≤ 0), false, true),
   (.fcmpGt, fun o => decide (0 < o), false, true), (.fcmpGe, fun o => decide (0 ≤ o), false, true)]

/-! Actions at a home. -/

/-- The checks of an operand whose bytes an atomic changes pass (R107, R197): `a` are its locations, in HBM or a scratchpad, and `u` is
the state after translation. -/
def State.reachesRmw (s : State) (align : Nat) (va : Word) (n : Nat) (a : Acc) (u : State) : Prop :=
  (s.openChunk true).checkBoth align va n = .ok (a, u) ∧ a.host = false ∧ u.checkRmw va n = .ok ()

/-- The bytes at their home, after the hart's own earlier stores to their lines have been performed there (R296). -/
def State.oldBytes (u : State) (locs : List Nat) : List Byte × State := u.atHome u.cur (u.hartMark u.cur) locs

/-- The bytes replaced at their home, in one action (R197, R301). -/
def State.replace (u : State) (locs : List Nat) (bs : List Byte) : State := u.homeWrite (u.hartMark u.cur) (locs.zip bs)

/-- An ORD or fence bit: the release before, or the acquire after (R196, R298). -/
def State.releaseIf (u : State) (on : Bool) (sc : Scope) : State := if on then u.release u.cur sc else u
def State.acquireIf (u : State) (on : Bool) (sc : Scope) : State := if on then u.acquire u.cur sc else u

/-- Width in bytes of an atomic. -/
def amoBytes (size : BitVec 1) : Nat := if size = 0 then 4 else 8
/-- A value of n bytes in a register: a word is sign-extended. -/
def amoExt (size : BitVec 1) (v : Word) : Word := if size = 0 then (v.setWidth 32).signExtend 64 else v

/-- The atomics on integers: the new value from the old one, X[rs2] and the old X[rd], at the width of the access (R197). -/
def amoForms : List ((BitVec 2 → BitVec 2 → BitVec 1 → Reg → Reg → Reg → Instr) × ((w : Nat) → BitVec w → BitVec w → BitVec w → BitVec w)) :=
  [(.amoAdd, fun _ o b _ => o + b), (.amoSwap, fun _ _ b _ => b), (.amoAnd, fun _ o b _ => o &&& b),
   (.amoOr, fun _ o b _ => o ||| b), (.amoXor, fun _ o b _ => o ^^^ b),
   (.amoMin, fun _ o b _ => if o.toInt < b.toInt then o else b), (.amoMax, fun _ o b _ => if o.toInt < b.toInt then b else o),
   (.amoMinn, fun _ o b _ => if o.toNat < b.toNat then o else b), (.amoMaxn, fun _ o b _ => if o.toNat < b.toNat then b else o),
   (.cas, fun _ o b d => if o = d then b else o)]

/-- The same applied to registers of 64 bits. -/
def amoResult (op : (w : Nat) → BitVec w → BitVec w → BitVec w → BitVec w) (size : BitVec 1) (o b d : Word) : Nat :=
  if size = 0 then (op 32 (o.setWidth 32) (b.setWidth 32) (d.setWidth 32)).toNat else (op 64 o b d).toNat

/-- The atomics on floating values, rounded to nearest even (R197). -/
def famoForms : List ((BitVec 2 → BitVec 2 → BitVec 1 → Reg → Reg → Reg → Instr) × (Fmt → Nat → Nat → FRes)) :=
  [(.amoFadd, fun f a b => f.addV .rne 0 (f.value a) (f.value b)), (.amoFmin, fun f a b => f.minmax false a b),
   (.amoFmax, fun f a b => f.minmax true a b)]

/-- The three kinds of fence, with what each does (R199). -/
def fenceForms : List ((BitVec 3 → Instr) × Bool × Bool) :=
  [(.fenceAcq, false, true), (.fenceRel, true, false), (.fenceFull, true, true)]
/-- The scope of a fence (R199). -/
def fenceScopes : List (BitVec 3 × Scope) := [(0, .core), (1, .cluster), (2, .die), (3, .device), (4, .device)]
/-- The scopes of an atomic (R196). -/
def amoScopes : List (BitVec 2 × Scope) := [(0, .core), (1, .cluster), (2, .die), (3, .device)]

/-- The chunk of the executing hart, when it commits, performs the hart's stores at a scope. -/
def State.closing (u : State) (sc : Scope) : State := u.onChunk fun c => { c with close := some sc }

/-! Queues. -/

/-- The queue at an address is reached: its control block lies at `q`, and `u` is the state after translation and after the hart's
own stores to the block have been performed (R208). The hart holds no result handed to it while it was parked. -/
def State.reachesQueue (s : State) (va : Word) (q : Nat) (u : State) : Prop :=
  (s.openChunk true).qAddr va = .ok (q, u) ∧ s.me.handoff = none
/-- The control block. -/
def State.queueAt (u : State) (q : Nat) : Qcb := u.qcb u.actor.mark q
/-- The home check and the checks of OWNER and KIND pass (R208, R313). -/
def State.queueOk (u : State) (q : Nat) (use : QUse) : Bool :=
  (u.queueAt q).sound q && !(u.queueAt q).foreign u.actor.who.ctx && !refusedByKind (u.queueAt q).kind use

/-! Remote operations. -/

/-- The executing hart waits for no reply. -/
def State.idle (s : State) : Prop := (s.packets.find? fun p => s.ownPacket s.cur p && p.op.waits) = none
/-- The reply of the operation for which the executing hart waits has come back (R241). -/
def State.replied (s : State) (p : Packet) (a : RemoteAnswer) : Prop :=
  (s.packets.find? fun p => s.ownPacket s.cur p && p.op.waits) = some p ∧ p.at_ = .back ∧ p.answer = some a
/-- The reply is taken. -/
def State.takeReply (s : State) (p : Packet) : State := { s with packets := s.packets.filter fun q => decide (q.tag ≠ p.tag) }
/-- The remote atomics: operation number of each (R240). -/
def ramoForms : List ((BitVec 1 → Reg → Reg → Reg → Instr) × Nat) :=
  [(.ramoAdd, 0), (.ramoSwap, 1), (.ramoAnd, 2), (.ramoOr, 3), (.ramoXor, 4), (.ramoMin, 5), (.ramoMax, 6), (.ramoMinn, 7),
   (.ramoMaxn, 8), (.ramoCas, 9), (.ramoFadd, 10), (.ramoFmin, 11), (.ramoFmax, 12)]
/-- The low bytes of a register as the operand of an atomic. -/
def amoOperand (size : BitVec 1) (v : Word) : Word := if size = 0 then (v.setWidth 32).setWidth 64 else v

/-! Streams, watermarks and special registers. -/

/-- One element more of stream port n has been popped, or these pushed, in the open chunk. -/
def State.popped (u : State) (n : Nat) : State :=
  u.onChunk fun c => { c with popped := mapPut c.popped n (mapGet 0 c.popped n + 1) }
def State.pushed (u : State) (n : Nat) (l : List (BitVec 144)) (items : List (BitVec 128)) : State :=
  u.onChunk fun c => { c with pushes := mapPut c.pushes n l, sig := items.foldl sigAdd c.sig }
/-- The notices of advances that are under way to a watermark register of the core. -/
def State.dropNotices (u : State) (n : Nat) : State :=
  { u with notify := u.notify.filter fun e => !(decide (e.1 = coreOf u.cur) && decide (e.2.1 = n)) }
/-- A change of the tag table that is pending in the open chunk. -/
def State.tagging (u : State) (op : TagOp) : State := u.onChunk fun c => { c with tags := c.tags ++ [op] }

/-- TIMED, LEVEL and PERIOD of a value of PHASE: the fields whose change is held until a DSYNC (R256). -/
def phaseFields (v : Word) : Bool × Nat × Nat := (v.getLsbD 1, bits v 5 4, bits v 39 8)

/-- The CSR instructions with a register source and with an immediate (R267). -/
def csrOps : List CsrOp := [.rw, .rs, .rc]
/-- A CSR instruction, of its operation, rd, source field and number, and the value of its source. -/
def csrReg (op : CsrOp) (rd rs1 : Reg) (n : BitVec 12) : Instr :=
  match op with | .rw => .csrrw rd rs1 n | .rs => .csrrs rd rs1 n | .rc => .csrrc rd rs1 n
def csrImm (op : CsrOp) (rd : Reg) (imm : BitVec 5) (n : BitVec 10) : Instr :=
  match op with | .rw => .csrrwi rd imm n | .rs => .csrrsi rd imm n | .rc => .csrrci rd imm n
/-- The value that a CSR operation writes (R267). -/
def csrNew (op : CsrOp) (old v : Word) : Word :=
  match op with | .rw => v | .rs => old ||| v | .rc => old &&& ~~~v

/-! Gangs and pairs. -/

/-- The other members of the executing hart's gang. -/
def State.mates (s : State) : List Nat := s.me.gang.filter (· ≠ s.cur)
/-- The greatest count of lockstep instructions among the members. -/
def State.gangSeq (s : State) : Nat := s.me.gang.foldl (fun n h => Nat.max n (s.hart h).a.seq) 0
/-- The executing hart in lockstep again. -/
def State.inStep (u : State) (n : Nat) : State := u.onMe fun x => { x with a := { x.a with lock := true, seq := n } }

/-! Vector instructions. A vector word stands for a convoy of one (R69). -/

/-- The vector word of each operation (R46, R47). -/
noncomputable def vopInstr (op : Vop) (w : VWord) : Instr :=
  match op with
  | .vadd => .vadd w | .vsub => .vsub w | .vrsub => .vrsub w | .vmul => .vmul w | .vmulh => .vmulh w
  | .vmulhn => .vmulhn w | .vmacc => .vmacc w | .vnmsac => .vnmsac w | .vdiv => .vdiv w | .vdivn => .vdivn w
  | .vrem => .vrem w | .vremn => .vremn w | .vmin => .vmin w | .vmax => .vmax w | .vminn => .vminn w | .vmaxn => .vmaxn w
  | .vsadd => .vsadd w | .vsaddn => .vsaddn w | .vssub => .vssub w | .vssubn => .vssubn w | .vavg => .vavg w
  | .vabsd => .vabsd w | .vsll => .vsll w | .vsrl => .vsrl w | .vsra => .vsra w | .vnsrl => .vnsrl w | .vnsra => .vnsra w
  | .vwadd => .vwadd w | .vwmul => .vwmul w | .vclz => .vclz w | .vcpop => .vcpop w | .vsext => .vsext w
  | .vzext => .vzext w | .vand => .vand w | .vor => .vor w | .vxor => .vxor w | .vnot => .vnot w | .vmerge => .vmerge w
  | .vmv => .vmv w | .vmsEq => .vmsEq w | .vmsNe => .vmsNe w | .vmsLt => .vmsLt w | .vmsLtn => .vmsLtn w
  | .vmsLe => .vmsLe w | .vmsLen => .vmsLen w | .vmsGt => .vmsGt w | .vmsGtn => .vmsGtn w | .vmand => .vmand w
  | .vmor => .vmor w | .vmxor => .vmxor w | .vmandn => .vmandn w | .vmnot => .vmnot w | .vmset => .vmset w
  | .vmclr => .vmclr w | .vmsbf => .vmsbf w | .vmsif => .vmsif w | .vmsof => .vmsof w | .viota => .viota w
  | .vid => .vid w | .vfadd => .vfadd w | .vfsub => .vfsub w | .vfmul => .vfmul w | .vfdiv => .vfdiv w
  | .vfsqrt => .vfsqrt w | .vfma => .vfma w | .vfms => .vfms w | .vfnma => .vfnma w | .vfnms => .vfnms w
  | .vfmin => .vfmin w | .vfmax => .vfmax w | .vfsgnj => .vfsgnj w | .vfsgnjn => .vfsgnjn w | .vfsgnjx => .vfsgnjx w
  | .vfclass => .vfclass w | .vmfEq => .vmfEq w | .vmfNe => .vmfNe w | .vmfLt => .vmfLt w | .vmfLe => .vmfLe w
  | .vmfGt => .vmfGt w | .vmfGe => .vmfGe w | .vfcvtFtoi => .vfcvtFtoi w | .vfcvtItof => .vfcvtItof w
  | .vfwcvtFtof => .vfwcvtFtof w | .vfwcvtFtoi => .vfwcvtFtoi w | .vfwcvtItof => .vfwcvtItof w
  | .vfncvtFtof => .vfncvtFtof w | .vfncvtFtoi => .vfncvtFtoi w | .vfncvtItof => .vfncvtItof w | .vfwma => .vfwma w
  | .vsxpack => .vsxpack w | .vsxunpk => .vsxunpk w | .vexp2 => .vexp2 w | .vlog2 => .vlog2 w | .vrcp => .vrcp w
  | .vrsq => .vrsq w | .vsin => .vsin w | .vcos => .vcos w | .vtanh => .vtanh w | .vsigm => .vsigm w | .verf => .verf w
  | .vle => .vle w | .vse => .vse w | .vlse => .vlse w | .vsse => .vsse w | .vlxe => .vlxe w | .vsxe => .vsxe w
  | .vlgl => .vlgl w | .vssc => .vssc w | .vlseg => .vlseg w | .vsseg => .vsseg w | .vleff => .vleff w | .vlwr => .vlwr w
  | .vswr => .vswr w | .vsxadd => .vsxadd w | .vlst => .vlst w | .vredSum => .vredSum w | .vredMax => .vredMax w
  | .vredMin => .vredMin w | .vredAnd => .vredAnd w | .vredOr => .vredOr w | .vredXor => .vredXor w
  | .vfredsum => .vfredsum w | .vfredosum => .vfredosum w | .vfredmax => .vfredmax w | .vfredmin => .vfredmin w
  | .vslideup => .vslideup w | .vslidedn => .vslidedn w | .vperm => .vperm w | .vcompress => .vcompress w
  | .vexpand => .vexpand w | .vmvsx => .vmvsx w | .vzip => .vzip w | .vunzip => .vunzip w | .vtrn => .vtrn w
  | .mbld => .mbld w | .mbinv => .mbinv w | .mma => .mma w | .mmas => .mmas w | .mzero => .mzero w | .mxtr => .mxtr w
  | .mxtrz => .mxtrz w | .mcens => .mcens w | .mscl => .mscl w | .cpv => .cpv w | .cpvs => .cpvs w
  | .cprrSend => .cprrSend w | .cprrArm => .cprrArm w | .vrsend => .vrsend w | .vrredAdd => .vrredAdd w
  | .vrredMin => .vrredMin w | .vrredMax => .vrredMax w | .venq => .venq w | .vrld => .vrld w

/-- A vector word as a member. -/
def memberOf (op : Vop) (w : VWord) : Member := { word := w.bits (BitVec.ofNat 8 op.code), op := op, w := w }
/-- The header of a convoy of one (R40). -/
def headerOf (op : Vop) : BitVec 32 := BitVec.ofNat 32 (0xFF + 2048 * op.unit)
/-- The convoy of these members as it executes: what the vector file holds at issue is fixed for it (R50). -/
def State.convoy (b : State) (hdr : BitVec 32) (ms : List Member) : Cvy :=
  let c : Cvy :=
    { hdr := hdr, pc := b.pc, ms := ms, t := b.vt, vl := b.vf.vl.toNat, vpad := b.vf.vpad.toNat, vsub := b.vf.vsub, snap := b.vf,
      vstart := b.vf.vstart.toNat, sched := [] }
  { c with sched := c.schedule b }
/-- The members' destinations, counted toward the limit of the chunk (R289). -/
def State.noting (b : State) (ms : List Member) : State :=
  let d := ms.flatMap fun m => m.dests b.vt
  b.onChunk fun q => { q with vwr := nub (vregsOf d ++ q.vwr), mwr := nub (mregsOf d ++ q.mwr) }
/-- The convoy `c` has had its effect: the registers that it wrote hold no error of an earlier transfer, its instructions are
counted, and the chunk ends where it must or where `after` says (R250, R289, R374). -/
def State.wrapUp (u b : State) (c : Cvy) (after : Bool) : State :=
  let ms := c.ms
  (u.rewritten (ms.flatMap c.groupWrites) (vregsOf (ms.flatMap fun m => m.dests b.vt) ++ ms.flatMap accWrites)).finish
    { before := false, after := after, own := false, n := 1 + ms.length } b.pc

/-- No transfer and no scratchpad load of the core's vector registers is under way, and none of them holds an error (R222, R250,
R277, R374). -/
def State.vectorIdle (s : State) : Bool :=
  s.myCore.fills.isEmpty && s.myCore.copies.isEmpty && s.vf.upset.isEmpty && !s.myCore.bankLoads
/-- The hart may begin the vector word: it stands 4 beyond a multiple of 8, its hart owns the file, and it passes the checks of
R48; no transfer is under way. -/
def State.vectorReady (s : State) (op : Vop) (w : VWord) : Bool :=
  decide (vopOf op.code w.imm.toNat = some op) && decide (s.pc.toNat % 8 = 4) && s.owns &&
  (memberOf op w).ok s.vt s.vf.vstart.toNat && s.vectorIdle
/-- No flag is enabled to trap, no event stops the hart inside an instruction, and no page request of it was refused (R17, R164,
R395). -/
def State.unstopped (s : State) : Bool :=
  decide (s.csr Csr.ftrapen = 0) && s.me.stopAt.isNone && s.me.rowStop.isNone &&
  s.pageReqs.all fun r => !(decide (r.hart = s.cur) && decide (r.answer = some false))

/-- Performed element by element in registers: units 0, 1, 2 and 5 but for the operations performed as a whole. -/
def elementwise (op : Vop) : Bool := decide (op.unit ∈ [0, 1, 2, 5]) && !Vop.isWhole op
/-- Element i, or block i / 16 under an SX type, of every member in order; its flags go to FFLAGS (R50). -/
def Cvy.row (c : Cvy) (i : Nat) (u : State) : State :=
  let r := c.ms.zipIdx.foldl (fun (p : Flags × State) (e : Member × Nat) =>
    if c.t.isSx then (p.1, e.1.computeSx c i p.2)
    else let r := e.1.compute c e.2 i p.2; (p.1 ||| r.1, r.2)) (0, u)
  r.2.orFlags r.1
/-- The elements in order. -/
def Cvy.over (c : Cvy) (is : List Nat) (u : State) : State := is.foldl (fun u i => c.row i u) u
/-- The elements of a memory member in order, where every access passes its checks and none meets a host-shared page. -/
def Member.walks (m : Member) (c : Cvy) : List Nat → State → Option State
  | [], u => some u
  | i :: is, u =>
    match m.memElem c 0 i { u with member := 0 } with
    | .ok (false, v) => m.walks c is (v.orFlags 0)
    | _ => none

/-- Integer operations element by element: the result from a, b and the old d as numbers of w bits; `sg` is the type's
signedness (R135, R136, R139). -/
def vecInt (op : Vop) : Option ((w : Nat) → Bool → BitVec w → BitVec w → BitVec w → BitVec w) :=
  let sh (w : Nat) (b : BitVec w) : Nat := b.toNat % (if w = 4 then 4 else if w ≤ 8 then 8 else w)
  let lim (w : Nat) (v : Int) : BitVec w := BitVec.ofInt w (max (-2 ^ (w - 1)) (min v (2 ^ (w - 1) - 1)))
  match op with
  | .vadd => some fun _ _ a b _ => a + b
  | .vsub => some fun _ _ a b _ => a - b
  | .vrsub => some fun _ _ a b _ => b - a
  | .vmul => some fun _ _ a b _ => a * b
  | .vmulh => some fun w _ a b _ => BitVec.ofInt w (a.toInt * b.toInt / 2 ^ w)
  | .vmulhn => some fun w _ a b _ => BitVec.ofNat w (a.toNat * b.toNat / 2 ^ w)
  | .vmacc => some fun _ _ a b d => d + a * b
  | .vnmsac => some fun _ _ a b d => d - a * b
  | .vdiv => some fun w _ a b _ => quotS w a b
  | .vdivn => some fun w _ a b _ => quotU w a b
  | .vrem => some fun w _ a b _ => restS w a b
  | .vremn => some fun w _ a b _ => restU w a b
  | .vmin => some fun _ _ a b _ => if a.toInt < b.toInt then a else b
  | .vmax => some fun _ _ a b _ => if a.toInt < b.toInt then b else a
  | .vminn => some fun _ _ a b _ => if a.toNat < b.toNat then a else b
  | .vmaxn => some fun _ _ a b _ => if a.toNat < b.toNat then b else a
  | .vsadd => some fun w _ a b _ => lim w (a.toInt + b.toInt)
  | .vssub => some fun w _ a b _ => lim w (a.toInt - b.toInt)
  | .vsaddn => some fun w _ a b _ => BitVec.ofNat w (min (a.toNat + b.toNat) (2 ^ w - 1))
  | .vssubn => some fun w _ a b _ => BitVec.ofNat w (a.toNat - b.toNat)
  | .vabsd => some fun w sg a b _ => BitVec.ofNat w (if sg then (a.toInt - b.toInt).natAbs else ((a.toNat : Int) - b.toNat).natAbs)
  | .vsll => some fun w _ a b _ => a <<< sh w b
  | .vsrl => some fun w _ a b _ => a >>> sh w b
  | .vsra => some fun w _ a b _ => a.sshiftRight (sh w b)
  | .vand => some fun _ _ a b _ => a &&& b
  | .vor => some fun _ _ a b _ => a ||| b
  | .vxor => some fun _ _ a b _ => a ^^^ b
  | .vnot => some fun _ _ a _ _ => ~~~a
  | .vmv => some fun _ _ a _ _ => a
  | _ => none

/-- `t` follows from `s` by a vector word that writes registers of the group at `vd` of `regs` registers: apart from
them, the flags, the stochastic state, VSTART and PC, the hart keeps its registers, and everything else is as before. -/
structure WritesGroup (vd regs : Nat) (s t : State) : Prop where
  pc : t.pc = s.pc + 12
  status : t.me.status = .running
  vstart : t.vf.vstart = 0
  kept : ∀ r, r < 32 → (r < vd ∨ vd + regs ≤ r) → t.vf.reg r = s.vf.reg r
  masks : ∀ r, t.vf.mreg r = s.vf.mreg r
  vl : t.vf.vl = s.vf.vl ∧ t.vf.vpad = s.vf.vpad ∧ t.vf.vtype = s.vf.vtype ∧ t.vf.vsub = s.vf.vsub ∧ t.vf.acc = s.vf.acc ∧ t.vf.sc = s.vf.sc
  regs : SameRegs { csrs := [Csr.fflags], rng := true } s t
  others : ∀ h, h ≠ s.cur → t.hart h = s.hart h
  cores : ∀ c, c ≠ coreOf s.cur → t.core c = s.core c
  mem : t.mem = s.mem

end Sys2Proof.Machine
end

