-- ==== Sys2Proof/Certificates/Slice0/Obligations.lean ====
section
/-! DEFINITION. The statements for the provers. -/

open Sys2Proof Sys2Proof.Machine

/-! Integer instructions (spec/05 R97-R104, spec/02 R27, R28). -/

/-- R97: the register forms of major 0 write their result to X[rd] and nothing else; x0 stays zero and leaves LDST. -/
def Clause.IntegerRegisterForms : Prop :=
  ∀ p ∈ regForms, ∀ (s : State) (rd rs1 rs2 : Reg), s.calm = true →
    ∃ t, exec (p.1 rd rs1 rs2) s = .next t ∧ WritesX rd (p.2 (s.x rs1) (s.x rs2) (s.x rd)) 4 s t

/-- R97, R98: the unary forms, whole and word. -/
def Clause.IntegerUnaryForms : Prop :=
  ∀ p ∈ unaryForms, ∀ (s : State) (rd rs1 : Reg), s.calm = true →
    ∃ t, exec (p.1 rd rs1) s = .next t ∧ WritesX rd (p.2 (s.x rs1)) 4 s t

/-- R98: the word forms work on the low words and extend the sign of their result. -/
def Clause.IntegerWordForms : Prop :=
  ∀ p ∈ wordForms, ∀ (s : State) (rd rs1 rs2 : Reg), s.calm = true →
    ∃ t, exec (p.1 rd rs1 rs2) s = .next t ∧ WritesX rd (p.2 (s.x rs1) (s.x rs2)) 4 s t

/-- R97, R98: the integer forms on registers, whole and word. -/
def Obligations.IntegerForms : Prop := Clause.IntegerRegisterForms ∧ Clause.IntegerUnaryForms ∧ Clause.IntegerWordForms

/-- R99: division never traps, and has its edge cases. -/
def Obligations.DivisionForms : Prop :=
  (∀ p ∈ divForms, ∀ (s : State) (rd rs1 rs2 : Reg), s.calm = true →
    ∃ t, exec (p.1 rd rs1 rs2) s = .next t ∧ WritesX rd (p.2 (s.x rs1) (s.x rs2)) 4 s t) ∧
  ∀ w : Nat, w = 32 ∨ w = 64 → ∀ a : BitVec w,
    quotS w a 0 = BitVec.allOnes w ∧ quotU w a 0 = BitVec.allOnes w ∧ restS w a 0 = a ∧ restU w a 0 = a ∧
    quotS w (BitVec.intMin w) (-1) = BitVec.intMin w ∧ restS w (BitVec.intMin w) (-1) = 0

/-- R100, R31: the immediate forms, the shifts, LIU and ADDPC. -/
def Clause.IntegerImmediateForms : Prop :=
  ∀ (s : State) (rd rs1 : Reg), s.calm = true →
    (∀ p ∈ immForms, ∀ imm, ∃ t, exec (p.1 rd rs1 imm) s = .next t ∧ WritesX rd (p.2 (s.x rs1) (imm.signExtend 64)) 4 s t) ∧
    (∀ p ∈ shiftForms, ∀ sh, ∃ t, exec (p.1 rd rs1 sh) s = .next t ∧ WritesX rd (p.2 (s.x rs1) sh.toNat) 4 s t) ∧
    (∀ imm : BitVec 19, ∃ t, exec (.liu rd imm) s = .next t ∧ WritesX rd ((imm.signExtend 64) <<< 13) 4 s t) ∧
    ∀ imm : BitVec 19, ∃ t, exec (.addpc rd imm) s = .next t ∧ WritesX rd (s.pc + (imm.signExtend 64) <<< 13) 4 s t

/-- R28: the compact forms read X[LDST], write X[r], and take two bytes; NOP.C does nothing else than go on. -/
def Clause.CompactForms : Prop :=
  ∀ (s : State) (r : Reg), s.calm = true →
    let l := s.x ((s.csr Csr.ldst).setWidth 5)
    (∀ p ∈ compactForms, ∃ t, exec (p.1 r) s = .next t ∧ WritesX r (p.2 l (s.x r)) 2 s t) ∧
    (∀ p ∈ compactImmForms, ∀ imm, ∃ t, exec (p.1 r imm) s = .next t ∧ WritesX r (p.2 l imm) 2 s t) ∧
    ∃ t, exec .nopC s = .next t ∧ OnlyPc (s.pc + 2) s t

/-- R100, R31, R28: the immediate and the compact integer forms. -/
def Obligations.ImmediateAndCompactForms : Prop := Clause.IntegerImmediateForms ∧ Clause.CompactForms

/-- R101: the conditional branches change PC alone. -/
def Obligations.ConditionalBranches : Prop :=
  ∀ p ∈ branchForms, ∀ (s : State) (rs1 rs2 : Reg) (off : BitVec 14), s.calm = true →
    ∃ t, exec (p.1 rs1 rs2 off) s = .next t ∧
      OnlyPc (if p.2 (s.x rs1) (s.x rs2) then s.pc + (off.signExtend 64) * 2 else s.pc + 4) s t

/-- R102: JAL and JALR link and go to their target; JALR reads X[rs1] before it writes X[rd]. -/
def Obligations.JumpsAndLinks : Prop :=
  ∀ (s : State) (rd rs1 : Reg), s.calm = true →
    (∀ off : BitVec 19, ∃ t, exec (.jal rd off) s = .next t ∧
      JumpsTo rd (s.pc + (off.signExtend 64) * 2) s t) ∧
    ∀ imm : BitVec 14, ∃ t, exec (.jalr rd rs1 imm) s = .next t ∧
      JumpsTo rd ((s.x rs1 + imm.signExtend 64) &&& ~~~1#64) s t

/-! Scalar loads and stores (spec/05 R106-R112, spec/02 R28). The bytes of an access are those of the locations that R107 finds;
`State.reaches` says that every check passes. -/

/-- R108, R111, R28: a load writes its bytes, extended, to X[rd], stores nothing, and changes no home. -/
def Clause.LoadForms : Prop :=
  ∀ (s u : State) (a : Acc), s.calm = true →
    (∀ p ∈ loadForms, ∀ (rd base : Reg) (imm : BitVec 10), s.reaches .load (2 ^ p.2.1) (s.addr base imm p.2.1) (2 ^ p.2.1) a u →
      ∃ t, exec (p.1 rd base imm) s = .next t ∧
        LoadsX rd (fromBytes p.2.2 (2 ^ p.2.1) (u.readFrom a)) 4 (u.cached a) s t) ∧
    (∀ (r : Reg) (imm : BitVec 4), s.reaches .load 8 (s.x ((s.csr Csr.ldst).setWidth 5) + imm.setWidth 64 * 8) 8 a u →
      ∃ t, exec (.ldC r imm) s = .next t ∧ LoadsX r (fromBytes true 8 (u.readFrom a)) 2 (u.cached a) s t) ∧
    ∀ (r : Reg) (imm : BitVec 4), s.reaches .load 4 (s.x ((s.csr Csr.ldst).setWidth 5) + imm.setWidth 64 * 4) 4 a u →
      ∃ t, exec (.ldwC r imm) s = .next t ∧ LoadsX r (fromBytes true 4 (u.readFrom a)) 2 (u.cached a) s t

/-- R108, R112: FLD writes its bytes to the low bits of F[rd] and clears the others. -/
def Clause.FloatLoadForms : Prop :=
  ∀ p ∈ floatLoadForms, ∀ (s u : State) (a : Acc) (rd base : Reg) (imm : BitVec 10), s.calm = true →
    s.reaches .load (2 ^ p.2) (s.addr base imm p.2) (2 ^ p.2) a u →
    ∃ t, exec (p.1 rd base imm) s = .next t ∧ LoadsF rd (fromBytes false (2 ^ p.2) (u.readFrom a)) (u.cached a) s t

/-- R108, R111, R112, R28: the scalar loads. -/
def Obligations.Loads : Prop := Clause.LoadForms ∧ Clause.FloatLoadForms

/-- R108, R109, R112, R28: a store puts the low bytes of its register at the located bytes, lowest first, as this hart then
reads them; every other byte reads as before, no home changes before the commit, and no register changes. -/
def Obligations.StoreForms : Prop :=
  ∀ (s u : State) (a : Acc), s.calm = true →
    (∀ p ∈ storeForms, ∀ (rd base : Reg) (imm : BitVec 10), s.bufRoom (2 ^ p.2) = true →
      s.reaches .store (2 ^ p.2) (s.addr base imm p.2) (2 ^ p.2) a u →
      ∃ t, exec (p.1 rd base imm) s = .next t ∧ StoresTo a.locs (leBytes (2 ^ p.2) (s.x rd).toNat) 4 (u.cached a) s t) ∧
    (∀ p ∈ floatStoreForms, ∀ (rd base : Reg) (imm : BitVec 10), s.bufRoom (2 ^ p.2) = true →
      s.reaches .store (2 ^ p.2) (s.addr base imm p.2) (2 ^ p.2) a u →
      ∃ t, exec (p.1 rd base imm) s = .next t ∧ StoresTo a.locs (leBytes (2 ^ p.2) (s.f rd).toNat) 4 (u.cached a) s t) ∧
    ∀ (r : Reg) (imm : BitVec 4), s.bufRoom 8 = true →
      s.reaches .store 8 (s.x ((s.csr Csr.ldst).setWidth 5) + imm.setWidth 64 * 8) 8 a u →
      ∃ t, exec (.stC r imm) s = .next t ∧ StoresTo a.locs (leBytes 8 (s.x r).toNat) 2 (u.cached a) s t

/-- R107 check 1, R19: a scalar access of n bytes at an address that is no multiple of n traps MISALIGNED, TVAL the address, with no
other effect. -/
def Obligations.MisalignedAccessTraps : Prop :=
  ∀ p ∈ accessForms, ∀ (s : State) (rd base : Reg) (imm : BitVec 10), s.loose = true →
    (s.addr base imm p.2).toNat % 2 ^ p.2 ≠ 0 →
    ∃ t, exec (p.1 rd base imm) s = .next t ∧ Traps Cause.misaligned (s.addr base imm p.2) 0 s t

/-- R19: the trap entry, for any cause; TRET takes its six actions back, sets PIE and clears PM and PARKED. -/
def Obligations.TrapEntryAndReturn : Prop :=
  ∀ s : State, s.loose = true →
    (∀ (cause : Nat) (tval tval2 : Word), Traps cause tval tval2 s (s.takeTrap cause tval tval2)) ∧
    (s.me.a.mode = .s → s.me.trapAt = none → s.fresh = true → ∃ t, exec .tret s = .next t ∧
      t.me.a.mode = (if (s.csr Csr.tstat).getLsbD 0 then .s else .t) ∧ t.pc = s.csr Csr.tepc &&& ~~~1#64 ∧
      t.csr Csr.tstat = (if (s.csr Csr.tstat).getLsbD 2 then 2#64 else 0) ||| 4 ||| (s.csr Csr.tstat &&& 16) ∧
      (∀ r, t.x r = s.x r) ∧ (∀ r, t.f r = s.f r) ∧
      (∀ n, n ∉ [Csr.tstat, Csr.instret, Csr.siglo, Csr.sighi] → t.csr n = s.csr n) ∧ t.me.a.rt = s.me.a.rt ∧ SameRest s t)

/-- R265: SYSC traps SYSCALL and BRK traps BREAKPOINT, each with TVAL := X[rs1]; R39: an unassigned encoding traps
ILLEGAL_INSTRUCTION with its bits. -/
def Obligations.SystemTraps : Prop :=
  ∀ (s : State) (rs1 : Reg), s.loose = true →
    (∃ t, exec (.sysc rs1) s = .next t ∧ Traps Cause.syscall (s.x rs1) 0 s t) ∧
    (∃ t, exec (.brk rs1) s = .next t ∧ Traps Cause.breakpoint (s.x rs1) 0 s t) ∧
    ∀ bits, ∃ t, exec (.illegalInstruction bits) s = .next t ∧ Traps Cause.illegal bits 0 s t

/-- R110: LDACQ acquires, loads and acquires; it is the last of its chunk. -/
def Clause.AcquiringLoads : Prop :=
  ∀ p ∈ acquireForms, ∀ (s u : State) (a : Acc) (rd base : Reg) (imm : BitVec 10), s.solo = true → s.timed = false →
    ((s.openChunk false).acquire s.cur .device).check (s.who s.cur) .load (2 ^ p.2) 0 (s.addr base imm p.2) (2 ^ p.2) = .ok (a, u) →
    (s.openChunk false).hostShared (s.addr base imm p.2) (2 ^ p.2) = false → a.hshared = false →
    exec (p.1 rd base imm) s = .next
      ((((u.readAcc a .scalar).2.setX rd (fromBytes true (2 ^ p.2) (u.readAcc a .scalar).1)).acquire s.cur .device).next 4 |>.ends s.pc)

/-- R110: STREL stores and is the last of its chunk; the hart's earlier stores and then its own are performed at device scope
when the chunk commits. -/
def Clause.ReleasingStores : Prop :=
  ∀ p ∈ releaseForms, ∀ (s u : State) (a : Acc) (rd base : Reg) (imm : BitVec 10), s.solo = true →
    s.reaches .store (2 ^ p.2) (s.addr base imm p.2) (2 ^ p.2) a u →
    exec (p.1 rd base imm) s = .next
      (((u.writeAcc a (s.addr base imm p.2) (leBytes (2 ^ p.2) (s.x rd).toNat) .scalar).onChunk
        fun c => { c with close := some .device }).next 4 |>.ends s.pc)

/-- R110: the acquiring loads and the releasing stores. -/
def Obligations.OrderedAccesses : Prop := Clause.AcquiringLoads ∧ Clause.ReleasingStores

/-! Scalar floating instructions (spec/05 R112-R118, spec/01 R16, R17). -/

/-- R113, R114, R117, R17: an operation rounds once, under FRM and with the hart's draw, ORs its flags into FFLAGS and writes F[rd];
where it raises an enabled flag it traps FP_TRAP instead. -/
def Obligations.RoundedFloatForms : Prop :=
  ∀ p ∈ roundedForms, ∀ (s : State) (fmt : BitVec 2) (rd r1 r2 r3 : Reg),
    let f := scalarFmt fmt
    let rm := Rm.ofFrm (s.csr Csr.frm).toNat
    let r := p.2 f rm (s.drawn rm).1 (f.value (s.fIn f r1)) (f.value (s.fIn f r2)) (f.value (s.fIn f r3))
    let i := p.1 fmt rd r1 r2 r3
    (s.calm = true → s.traps r.2 = false →
      ∃ t, exec i s = .next t ∧ WritesF rd (BitVec.ofNat 64 r.1) r.2 (s.drawn rm).2 s t) ∧
    (s.loose = true → s.traps r.2 = true → ∃ t, exec i s = .next t ∧ TrapsFp (bitsOf i) r.2 s t)

/-- R113, R78: minimum, maximum and sign injection. -/
def Clause.FloatSelectForms : Prop :=
  ∀ (s : State) (fmt : BitVec 2) (rd r1 r2 : Reg), s.calm = true →
    let f := scalarFmt fmt
    let g := (s.me.a.s0, s.me.a.s1)
    let lo := f.minmax false (s.fIn f r1) (s.fIn f r2)
    let hi := f.minmax true (s.fIn f r1) (s.fIn f r2)
    (s.traps lo.2 = false → ∃ t, exec (.fmin fmt rd r1 r2) s = .next t ∧ WritesF rd (BitVec.ofNat 64 lo.1) lo.2 g s t) ∧
    (s.traps hi.2 = false → ∃ t, exec (.fmax fmt rd r1 r2) s = .next t ∧ WritesF rd (BitVec.ofNat 64 hi.1) hi.2 g s t) ∧
    ∀ p ∈ signForms, ∃ t, exec (p.1 fmt rd r1 r2) s = .next t ∧
      WritesF rd (signed f (s.f r1) (p.2 (signIn f (s.f r1)) (signIn f (s.f r2)))) 0 g s t

/-- R115: a comparison writes 1 or 0 to X[rd]; with a NaN all but NE are false, and the signaling forms raise NV, as does any
form for a signaling NaN. -/
def Clause.FloatCompareForms : Prop :=
  ∀ p ∈ compareForms, ∀ (s : State) (fmt : BitVec 2) (rd r1 r2 : Reg), s.calm = true →
    let f := scalarFmt fmt
    let a := f.value (s.fIn f r1)
    let b := f.value (s.fIn f r2)
    let nan := a.isNan || b.isNan
    let fl := if a.snan || b.snan || (p.2.2.2 && nan) then fNV else 0
    s.traps fl = false →
    ∃ t, exec (p.1 fmt rd r1 r2) s = .next t ∧
      WritesXF rd (flagWord ((if nan then p.2.2.1 else p.2.1 (floatOrder a b)) = true)) fl (s.me.a.s0, s.me.a.s1) s t

/-- R115, R112: FCLASS writes exactly one bit, and the moves between the register files copy the low bits of the format. -/
def Clause.FloatMoveForms : Prop :=
  ∀ (s : State) (fmt : BitVec 2) (rd rs1 : Reg), s.calm = true →
    let f := scalarFmt fmt
    let one (b : Nat) : Prop := ∃ t, exec (.fclass fmt rd rs1) s = .next t ∧ WritesX rd (BitVec.ofNat 64 (2 ^ b)) 4 s t
    (match f.value (s.fIn f rs1) with
      | .inf true => one 0
      | .fin true m _ => one (if m < 2 ^ (f.prec - 1) then 2 else 1)
      | .zero true => one 3
      | .zero false => one 4
      | .fin false m _ => one (if m < 2 ^ (f.prec - 1) then 5 else 6)
      | .inf false => one 7
      | .nan true => one 8
      | .nan false => one 9) ∧
    (∃ t, exec (.fmvxf fmt rd rs1) s = .next t ∧ WritesX rd (BitVec.ofNat 64 ((s.f rs1).toNat % 2 ^ f.width)) 4 s t) ∧
    ∃ t, exec (.fmvfx fmt rd rs1) s = .next t ∧
      WritesF rd (BitVec.ofNat 64 ((s.x rs1).toNat % 2 ^ f.width)) 0 (s.me.a.s0, s.me.a.s1) s t

/-- R112, R113, R115: the floating forms that do not round. -/
def Obligations.FloatComparisonsAndMoves : Prop := Clause.FloatSelectForms ∧ Clause.FloatCompareForms ∧ Clause.FloatMoveForms

/-- R116, R84: the conversions round once under FCVT's own control or FRM; a conversion to its own format and rounding code 7
trap ILLEGAL_INSTRUCTION. -/
def Obligations.FloatConversions : Prop :=
  ∀ (s : State) (fmt : BitVec 2) (rd rs1 : Reg) (ctl : BitVec 5),
    let f := scalarFmt fmt
    let code := ctl.toNat / 4
    let type := ctl.toNat % 4
    let rm := Rm.ofFrm (if code = 0 then (s.csr Csr.frm).toNat else code - 1)
    let w := if type < 2 then 32 else 64
    let d := s.drawn rm
    let g := scalarFmt (BitVec.ofNat 2 type)
    let ff := f.ofV rm d.1 false (g.value (s.fIn g rs1))
    let fi := toIntV rm d.1 (decide (type % 2 = 0)) w (f.value (s.fIn f rs1))
    let src : Int := if type % 2 = 0 then ((s.x rs1).setWidth w).toInt else ((s.x rs1).setWidth w).toNat
    let i_f := f.ofInt rm d.1 false src
    (s.calm = true → code ≠ 7 →
      (fmt.toNat ≠ type → s.traps ff.2 = false →
        ∃ t, exec (.fcvtFf fmt rd rs1 ctl) s = .next t ∧ WritesF rd (BitVec.ofNat 64 ff.1) ff.2 d.2 s t) ∧
      (s.traps fi.2 = false →
        ∃ t, exec (.fcvtFi fmt rd rs1 ctl) s = .next t ∧ WritesXF rd (BitVec.ofInt 64 fi.1) fi.2 d.2 s t) ∧
      (s.traps i_f.2 = false →
        ∃ t, exec (.fcvtIf fmt rd rs1 ctl) s = .next t ∧ WritesF rd (BitVec.ofNat 64 i_f.1) i_f.2 d.2 s t)) ∧
    (s.loose = true →
      ((fmt.toNat = type ∨ code = 7) → ∃ t, exec (.fcvtFf fmt rd rs1 ctl) s = .next t ∧
        Traps Cause.illegal (bitsOf (.fcvtFf fmt rd rs1 ctl)) 0 s t) ∧
      (code = 7 → (∃ t, exec (.fcvtFi fmt rd rs1 ctl) s = .next t ∧
          Traps Cause.illegal (bitsOf (.fcvtFi fmt rd rs1 ctl)) 0 s t) ∧
        ∃ t, exec (.fcvtIf fmt rd rs1 ctl) s = .next t ∧ Traps Cause.illegal (bitsOf (.fcvtIf fmt rd rs1 ctl)) 0 s t))

/-! Atomics, fences, monitors and barriers (spec/09 R196-R206). Each of the home operations forms a chunk of its own (R419). -/

/-- R197, R301: an atomic reads the old value at its home, replaces it there in the same action, and writes the old value to X[rd];
the line enters the cluster's L2 (R268, R280); a release precedes it and an acquire follows it where ORD says so. -/
def Clause.IntegerAtomics : Prop :=
  ∀ p ∈ amoForms, ∀ sc ∈ amoScopes, ∀ (s u : State) (a : Acc) (ord : BitVec 2) (size : BitVec 1) (rd rs1 rs2 : Reg), s.solo = true →
    s.reachesRmw (amoBytes size) (s.x rs1) (amoBytes size) a u →
    let o := (u.releaseIf (ord.getLsbD 1) sc.2).oldBytes a.locs
    let old := fromBytes false (amoBytes size) o.1
    exec (p.1 ord sc.1 size rd rs1 rs2) s = .next
      (((((((o.2.cached a).replace a.locs (leBytes (amoBytes size) (amoResult p.2 size old (s.x rs2) (s.x rd)))).setX rd (amoExt size old)).orFlags 0).next
        4).acquireIf (ord.getLsbD 0) sc.2).ends s.pc)

/-- R197, R198: a floating atomic does the same with an operation that rounds to nearest even, and ORs its flags into FFLAGS. -/
def Clause.FloatAtomics : Prop :=
  ∀ p ∈ famoForms, ∀ sc ∈ amoScopes, ∀ (s u : State) (a : Acc) (ord : BitVec 2) (size : BitVec 1) (rd rs1 rs2 : Reg), s.solo = true →
    s.reachesRmw (amoBytes size) (s.x rs1) (amoBytes size) a u →
    let o := (u.releaseIf (ord.getLsbD 1) sc.2).oldBytes a.locs
    let old := fromBytes false (amoBytes size) o.1
    let r := p.2 (if size = 0 then f32 else f64) old.toNat ((s.x rs2).toNat % 2 ^ (8 * amoBytes size))
    s.traps r.2 = false →
    exec (p.1 ord sc.1 size rd rs1 rs2) s = .next
      (((((((o.2.cached a).replace a.locs (leBytes (amoBytes size) r.1)).setX rd (amoExt size old)).orFlags r.2).next
        4).acquireIf (ord.getLsbD 0) sc.2).ends s.pc)

/-- R196-R198: the atomics. -/
def Obligations.Atomics : Prop := Clause.IntegerAtomics ∧ Clause.FloatAtomics

/-- R199: a fence is the last of its chunk; a release is performed when that chunk commits, an acquire at once. Scope .fab acts as
.dev where no remote operation is unacknowledged and no deferred error stands. -/
def Clause.Fences : Prop :=
  ∀ p ∈ fenceForms, ∀ sc ∈ fenceScopes, ∀ s : State, s.solo = true →
    (sc.1 = 4 → s.unacked s.cur 0xFFFF = false ∧ s.me.deferred = none) →
    exec (p.1 sc.1) s = .next
      ((((if p.2.1 then (s.openChunk false).closing sc.2 else s.openChunk false).acquireIf p.2.2 sc.2).next 4).ends s.pc)

/-- R200: FENCE.code acquires at device scope and is the last of its chunk, whose commit discards the core's instruction cache. -/
def Clause.CodeFence : Prop :=
  ∀ s : State, s.solo = true →
    exec .fenceCode s = .next
      (((((s.openChunk false).acquire s.cur .device).onChunk fun c => { c with code := true }).next 4).ends s.pc)

/-- R199, R200: the fences. -/
def Obligations.FencesOfMemoryAndCode : Prop := Clause.Fences ∧ Clause.CodeFence

/-- R201, R202: MON reads at the home and arms the hart's monitor on the line in one action, and acquires. WAIT returns 0 where the
monitor has fired, 3 where none is armed, disarms it, and acquires. -/
def Obligations.MonitorAndWait : Prop :=
  ∀ (s : State) (rd rs1 : Reg), s.solo = true →
    (∀ p ∈ [(Instr.monW, 4), (Instr.monD, 8)], ∀ (a : Acc) (u : State),
      (s.openChunk true).check (s.who s.cur) .load p.2 0 (s.x rs1) p.2 = .ok (a, u) →
      let o := u.oldBytes a.locs
      exec (p.1 rd rs1) s = .next
        (((((o.2.onMe fun x => { x with monitor := some { line := lineOf (a.locs.headD 0), fired := false } }).setX rd
          (fromBytes true p.2 o.1)).acquire s.cur .device).next 4).ends s.pc)) ∧
    (s.me.pending = none → ∀ code : Nat,
      (code = 0 ∧ (∃ m, s.me.monitor = some m ∧ m.fired = true) ∨ code = 3 ∧ s.me.monitor = none) →
      exec (.wait rd rs1) s = .next
        ((((((s.openChunk true).onMe fun x => { x with monitor := none }).setX rd (BitVec.ofNat 64 code)).acquire s.cur .device).next
          4).ends s.pc))

/-- R204, R205: BSET binds a sound barrier object for the core and clears the arrival records of its harts; ARRIVE performs the
hart's stores and arrives at the object, noting the phase; BWAIT, once the phase has changed, clears the record and acquires. -/
def Obligations.Barriers : Prop :=
  ∀ (s : State) (bb : Reg), s.solo = true → bb.toNat < 8 →
    (∀ (rs1 : Reg) (o : List Byte) (a : Acc) (u : State), (s.openChunk false).load 64 (s.x rs1) 64 = .ok (o, a, u) →
      barrierBad o = false →
      exec (.bset bb rs1) s = .next
        ((((hartsOfCore (coreOf s.cur)).foldl
          (fun s h => if (mapFind? s.harts h).isSome then s.onHart h fun x => { x with arrivals := mapErase x.arrivals bb.toNat } else s)
          (u.onMyCore fun k => { k with
            bb := mapPut k.bb bb.toNat { obj := a.locs.headD 0, va := s.x rs1, ctx := s.me.ctx, harts := hartsOfCore (coreOf s.cur) } })).next
            4).ends s.pc)) ∧
    ∀ reg : BbReg, s.bbReg bb.toNat = some reg →
      (let r := ((s.openChunk true).release s.cur .device).arriveAt s.cur reg.obj
       exec (.arrive bb) s = .next
          (((r.2.onMe fun x => { x with arrivals := mapPut x.arrivals bb.toNat r.1 }).next 4).ends s.pc)) ∧
      ∀ phase, mapFind? s.me.arrivals bb.toNat = some phase → s.phaseAt s.cur reg.obj ≠ phase →
        exec (.bwait bb) s = .next
          (((((s.openChunk true).onMe fun x => { x with arrivals := mapErase x.arrivals bb.toNat }).acquire s.cur .device).next
            4).ends s.pc)

/-! Queues (spec/09 R207-R215, spec/15 R308-R316, spec/05 R105). -/

/-- R211: ENQ and QGATH release, and put their element into the queue or hand it to the oldest parked dequeuer; where neither can be
they join the waiters and park. -/
def Clause.Enqueues : Prop :=
  ∀ (s u v : State) (q : Nat) (e : List Byte) (rd rs1 rs2 : Reg), s.solo = true → v.actor = u.actor →
    v.queueOk q .enq = true →
    (s.reachesQueue (s.x rs1) q u → u.enqElem (u.queueAt q).esize (some (s.x rs2)) (s.x rs2) = .ok (e, v) →
      (∀ t, (v.qRelease q).enqAt u.actor q e = .ok (some t) → exec (.enq rs1 rs2) s = .next ((t.next 4).ends s.pc)) ∧
      ((v.qRelease q).enqAt u.actor q e = .ok none →
        exec (.enq rs1 rs2) s = .next ((v.qRelease q).joinEnq u.actor q .enq e))) ∧
    (s.reachesQueue (s.x rd) q u →
      u.enqElem (u.queueAt q).esize none (s.x rs1 + s.x rs2 * BitVec.ofNat 64 (u.queueAt q).esize) = .ok (e, v) →
      (∀ t, (v.qRelease q).enqAt u.actor q e = .ok (some t) → exec (.qgath rd rs1 rs2) s = .next ((t.next 4).ends s.pc)) ∧
      ((v.qRelease q).enqAt u.actor q e = .ok none →
        exec (.qgath rd rs1 rs2) s = .next ((v.qRelease q).joinEnq u.actor q .enq e)))

/-- R211, R213: ENQNB writes 0 where its element was taken, after a release, and 1 where the queue is full; ENQM writes how many
elements were taken, in order up to the first that would park, and never parks. -/
def Clause.TriedEnqueues : Prop :=
  ∀ (s u v : State) (q : Nat) (e : List Byte) (rd rs1 rs2 : Reg), s.solo = true → s.reachesQueue (s.x rs1) q u → v.actor = u.actor →
    v.queueOk q .enq = true →
    (u.enqElem (u.queueAt q).esize (some (s.x rs2)) (s.x rs2) = .ok (e, v) →
      (∀ t t', v.enqAt u.actor q e = .ok (some t) → (v.qRelease q).enqAt u.actor q e = .ok (some t') →
        exec (.enqnb rd rs1 rs2) s = .next (((t'.setX rd 0).next 4).ends s.pc)) ∧
      (v.enqAt u.actor q e = .ok none → exec (.enqnb rd rs1 rs2) s = .next (((v.setX rd 1).next 4).ends s.pc))) ∧
    (0 < (s.x rd).toNat →
      (u.load 8 (s.x rs2) (Nat.min (s.x rd).toNat 64 * (u.queueAt q).esize)).map (fun r => (r.1, r.2.2)) = .ok (e, v) →
      ∀ k t t', 0 < k → v.enqMany u.actor q (u.queueAt q).esize (Nat.min (s.x rd).toNat 64) e = .ok (k, t) →
        (v.qRelease q).enqMany u.actor q (u.queueAt q).esize (Nat.min (s.x rd).toNat 64) e = .ok (k, t') →
        exec (.enqm rd rs1 rs2) s = .next (((t'.setX rd (BitVec.ofNat 64 k)).next 4).ends s.pc))

/-- R211, R213: the enqueuing instructions. -/
def Obligations.EnqueueForms : Prop := Clause.Enqueues ∧ Clause.TriedEnqueues

/-- R212, R105: DEQ and BQ take the element at the head, or the oldest parked enqueuer's after it, and acquire; on an empty queue they
join the waiters and park. DEQ writes the low doubleword to X[rd] and an element of more than 8 bytes to memory; BQ goes to its
target where the low doubleword differs from X[rs2]. -/
def Clause.Dequeues : Prop :=
  ∀ (s u : State) (q : Nat) (rd rs1 rs2 : Reg) (off : BitVec 14), s.solo = true → s.reachesQueue (s.x rs1) q u →
    ((u.queueAt q).esize = 8 → u.queueOk q .deq = true →
      (∀ (e : List Byte) (t : State), u.deqAt u.actor q = .ok (some (e, t)) → e.length = 8 → (t.qAcquire q).me.handoff = none →
        exec (.deq rd rs1 rs2) s = .next ((((t.qAcquire q).setX rd (fromBytes false 8 e)).next 4).ends s.pc)) ∧
      (u.deqAt u.actor q = .ok none → exec (.deq rd rs1 rs2) s = .next (u.joinDeq u.actor q (.deq rd [])))) ∧
    (8 < (u.queueAt q).esize → ∀ (locs : List Nat) (v : State), u.deqDest (s.x rs2) (u.queueAt q).esize = .ok (locs, v) →
      v.actor = u.actor → v.queueOk q .deq = true →
      (∀ (e : List Byte) (t w : State) (dest : List Nat), v.deqAt u.actor q = .ok (some (e, t)) → 8 < e.length → e.length % 8 = 0 →
        (t.qAcquire q).me.handoff = none → (t.qAcquire q).deqDest (s.x rs2) e.length = .ok (dest, w) →
        exec (.deq rd rs1 rs2) s = .next ((((w.putElem (s.x rs2) dest e).setX rd (fromBytes false 8 (e.take 8))).next 4).ends s.pc)) ∧
      (v.deqAt u.actor q = .ok none → exec (.deq rd rs1 rs2) s = .next (v.joinDeq u.actor q (.deq rd locs)))) ∧
    (s.gangCode = 0 → u.queueOk q .deq = true →
      (∀ (e : List Byte) (t : State), u.deqAt u.actor q = .ok (some (e, t)) →
        exec (.bq rs1 rs2 off) s = .next (((t.qAcquire q).setPc
          (if fromBytes false 8 (e.take 8) = s.x rs2 then (t.qAcquire q).pc + 4 else (t.qAcquire q).pc + off.signExtend 64 * 2)).ends s.pc)) ∧
      (u.deqAt u.actor q = .ok none → exec (.bq rs1 rs2 off) s = .next (u.joinDeq u.actor q (.bq (s.x rs2) off))))

/-- R212: DEQNB writes 0 and puts the element at X[rs2], with an acquire, or writes 2 where the queue is empty. -/
def Clause.TriedDequeues : Prop :=
  ∀ (s u v : State) (q : Nat) (locs : List Nat) (rd rs1 rs2 : Reg), s.solo = true → s.reachesQueue (s.x rs1) q u →
    u.deqDest (s.x rs2) (u.queueAt q).esize = .ok (locs, v) → v.actor = u.actor → v.queueOk q .deq = true →
    (v.deqAt u.actor q = .ok none → exec (.deqnb rd rs1 rs2) s = .next (((v.setX rd 2).next 4).ends s.pc)) ∧
    ∀ (e : List Byte) (t w : State) (dest : List Nat), v.deqAt u.actor q = .ok (some (e, t)) → e.length % 8 = 0 →
      (t.qAcquire q).deqDest (s.x rs2) e.length = .ok (dest, w) →
      exec (.deqnb rd rs1 rs2) s = .next ((((w.putElem (s.x rs2) dest e).setX rd 0).next 4).ends s.pc)

/-- R212, R105: the dequeuing instructions. -/
def Obligations.DequeueForms : Prop := Clause.Dequeues ∧ Clause.TriedDequeues

/-- R214, R209, R210: QSTAT writes the snapshot of a queue: its occupancy, LOG2CAP, and whether enqueuers or dequeuers wait; QINIT
writes 4 where the block is invalid, 3 where harts wait, and else makes the queue afresh, under its own context, and writes 0. -/
def Clause.QueueState : Prop :=
  ∀ (s u : State) (q : Nat) (rd rs1 : Reg), s.solo = true → s.reachesQueue (s.x rs1) q u →
    let c := u.queueAt q
    let w := u.waitersOf q
    (c.sound q = true → c.owner = 0 ∨ c.owner = u.me.ctx % 2 ^ 16 →
      exec (.qstat rd rs1) s = .next (((u.setX rd (BitVec.ofNat 64 (c.occ + c.log2cap * 2 ^ 32 +
      (if w.enq.isEmpty then 0 else 2 ^ 41) + (if w.deq.isEmpty then 0 else 2 ^ 42)))).next 4).ends s.pc)) ∧
    (c.owner = 0 ∨ c.owner = u.me.ctx % 2 ^ 16 → refusedByKind c.kind .init = false →
      (u.qInvalid (s.x rs1) q c = true → exec (.qinit rd rs1) s = .next (((u.setX rd 4).next 4).ends s.pc)) ∧
      (u.qInvalid (s.x rs1) q c = false → c.waiters ≠ 0 → exec (.qinit rd rs1) s = .next (((u.setX rd 3).next 4).ends s.pc)) ∧
      (u.qInvalid (s.x rs1) q c = false → c.waiters = 0 →
        let v := u.release u.cur .device
        exec (.qinit rd rs1) s = .next ((((v.setQcb u.actor.mark q (c.fresh v.me.ctx ((homeCode? q).getD 0))).setX rd 0).next
          4).ends s.pc)))

/-- R208, R313: an operation on a queue whose block is not sound poisons it and traps QUEUE_CORRUPT; one on another context's queue,
or that the queue's KIND refuses to harts, traps PERMISSION. -/
def Clause.QueueRefusals : Prop :=
  ∀ (s u : State) (q : Nat) (rd rs1 rs2 : Reg), s.solo = true → s.reachesQueue (s.x rs1) q u → (u.queueAt q).esize = 8 →
    let c := u.queueAt q
    let bad (t : State) := t.takeTrap Cause.queueCorrupt (s.x rs1) (BitVec.ofNat 64 c.ctr)
    (c.sound q = false → exec (.enq rs1 rs2) s = .next (bad (u.poison u.actor.mark q)) ∧
      exec (.deq rd rs1 rs2) s = .next (bad (u.poison u.actor.mark q))) ∧
    (c.sound q = true → c.foreign u.me.ctx = true ∨ refusedByKind c.kind .enq = true → s.loose = true →
      ∃ t, exec (.enq rs1 rs2) s = .next t ∧ Traps Cause.permission (s.x rs1) 0 s t) ∧
    (c.sound q = true → c.foreign u.me.ctx = true → s.loose = true →
      (∃ t, exec (.deq rd rs1 rs2) s = .next t ∧ Traps Cause.permission (s.x rs1) 0 s t) ∧
      ∃ t, exec (.qstat rd rs1) s = .next t ∧ Traps Cause.permission (s.x rs1) 0 s t)

/-- R211, R212, R105: a hart that was parked in a queue instruction and was handed its result completes it with that result when it is
issued again. -/
def Clause.HandedResults : Prop :=
  ∀ (s : State) (h : Handoff) (rd rs1 rs2 : Reg) (off : BitVec 14), s.solo = true → s.me.handoff = some h →
    let b := s.openChunk true
    let a := b.qAcquire h.qcb
    exec (.enq rs1 rs2) s = .next ((b.next 4).ends s.pc) ∧
    exec (.qgath rd rs1 rs2) s = .next ((b.next 4).ends s.pc) ∧
    (h.elem.length % 8 = 0 → 0 < h.elem.length → a.me.handoff = some h → exec (.deq rd rs1 rs2) s = .next
      ((((a.putElem (s.x rs2) h.dest h.elem).setX rd (fromBytes false 8 (h.elem.take 8))).next 4).ends s.pc)) ∧
    (s.gangCode = 0 → exec (.bq rs1 rs2 off) s = .next ((a.setPc
      (if fromBytes false 8 (h.elem.take 8) = s.x rs2 then a.pc + 4 else a.pc + off.signExtend 64 * 2)).ends s.pc))

/-- R208-R214, R313: what a queue tells, refuses and hands over. -/
def Obligations.QueueStateAndRefusals : Prop := Clause.QueueState ∧ Clause.QueueRefusals ∧ Clause.HandedResults

/-! Route registers and remote operations (spec/10 R232-R244). -/

/-- R237: RTLD reads 64 bytes into a route register and checks nothing in them; RTST stores a route register. -/
def Clause.RouteLoadStore : Prop :=
  ∀ (s u : State) (a : Acc) (rt rs1 : Reg), s.calm = true → rt.toNat < 16 →
    (s.reaches .load 64 (s.x rs1) 64 a u →
      let r := u.readAcc a .scalar
      exec (.rtld rt rs1) s = .next (((r.2.onMe (·.setRt rt.toNat (BitVec.ofNat 512 (leNat r.1)))).next 4).stays s.pc)) ∧
    (s.reaches .store 64 (s.x rs1) 64 a u → s.bufRoom 64 = true →
      exec (.rtst rt rs1) s = .next
        (((u.writeAcc a (s.x rs1) (leBytes 64 (u.me.rt rt.toNat).toNat) .scalar).next 4).stays s.pc))

/-- R237: RTNAR writes the narrowed copy to its destination; of a source that is empty it traps ROUTE_TAG with TVAL2 the source (R391). -/
def Clause.RouteNarrowing : Prop :=
  ∀ (s : State) (d r n : Reg), d.toNat < 16 → r.toNat < 16 → n.toNat % 2 = 0 → n ≠ 0 → (s.x (n + 1)).toNat < 2 ^ 48 →
    let v := (s.x (n + 1)).toNat
    (s.calm = true → s.me.rt r.toNat ≠ 0 → exec (.rtnar d r n) s = .next
      ((((s.openChunk false).onMe (·.setRt d.toNat (narrow (s.me.rt r.toNat) (s.x n).toNat (v % 2 ^ 40) (v / 2 ^ 40)))).next 4).stays s.pc)) ∧
    (s.loose = true → s.me.rt r.toNat = 0 → ∃ t, exec (.rtnar d r n) s = .next t ∧ Traps Cause.routeTag 0 (r.setWidth 64) s t)

/-- R237, R233: narrowing never widens a window or adds a right, and leaves every field that the seal covers. -/
def Obligations.NarrowingNeverWidens : Prop :=
  ∀ (t : Line) (off len rights : Nat),
    let n := narrow t off len rights
    (tokLen n = 0 ∨ (tokNoff t ≤ tokNoff n ∧ tokHi n ≤ tokHi t)) ∧ tokEff n &&& tokEff t = tokEff n ∧
    n.setWidth 340 = t.setWidth 340

/-- R239: RTSET forms a set of the valid entries in order, with no failure marks; RTINFO writes the field that its selector names. -/
def Clause.RouteSetsAndFields : Prop :=
  ∀ s : State, s.calm = true →
    (∀ (rd rs1 : Reg), rd.toNat < 4 → (s.x rs1).toNat < 2 ^ 20 →
      let v := s.x rs1
      let ms := ((List.range 4).filter fun i => v.getLsbD (5 * i + 4)).map fun i => v.toNat / 2 ^ (5 * i) % 16
      ms ≠ [] → ms.Nodup → (∀ m ∈ ms, tokShape s.me.ctx (s.me.rt m) = true ∧ tokStripe (s.me.rt m) ≠ 0) →
      (∀ m ∈ ms, ∀ n ∈ ms, setShape (s.me.rt m) = setShape (s.me.rt n)) →
      exec (.rtset rd rs1) s = .next ((((s.openChunk false).onMe fun x => { x with a := { x.a with
        rsets := mapPut x.a.rsets rd.toNat { members := ms, failed := [] } } }).next 4).stays s.pc)) ∧
    ∀ (rd r : Reg), r.toNat < 16 →
      let t := s.me.rt r.toNat
      ∀ p ∈ [(0, tokHops t + tokClass t * 16 + tokEff t * 2 ^ 8 + tokStripe t * 2 ^ 16 + (if tokC t then 2 ^ 24 else 0)),
          (1, tokNode t), (2, if tokClass t = 2 then tokWbase t else tokWbase t + tokNoff t),
          (3, if tokClass t = 2 then tokWlen t else tokHi t - tokNoff t), (4, tokCtx t + tokKeyid t * 2 ^ 16),
          (5, if t = 0 then 1 else 0)],
        ∃ u, exec (.rtinfo rd r (BitVec.ofNat 5 p.1)) s = .next u ∧ WritesX rd (BitVec.ofNat 64 p.2) 4 s u

/-- R237, R239: the instructions on route registers. -/
def Obligations.RouteRegisters : Prop := Clause.RouteLoadStore ∧ Clause.RouteNarrowing ∧ Clause.RouteSetsAndFields

/-- R240, R241: a remote load leaves as a packet and parks its hart; when the reply has come back it writes the value to X[rd],
a word sign-extended. -/
def Clause.RemoteLoads : Prop :=
  ∀ p ∈ [(Instr.rldW, 4), (Instr.rldD, 8)], ∀ (s : State) (rd r rs2 : Reg), s.solo = true → r.toNat < 16 →
    let b := s.openChunk true
    let o := (s.x rs2).toNat
    (b.idle → b.checkRoute r.toNat [0, 1] .load o p.2 p.2 b.phaseBad = .ok () →
      let q := b.send r.toNat (.load p.2 rd) o p.2 []
      exec (p.1 rd r rs2) s = .next (q.2.parkOn (.reply q.1))) ∧
    (∀ (k : Packet) (bytes : List Byte), b.replied k (.bytes bytes) →
      let v := fromBytes false 8 (bytes.take 8)
      exec (p.1 rd r rs2) s = .next
        ((((b.takeReply k).setX rd (if p.2 = 4 then (v.setWidth 32).signExtend 64 else v)).next 4).ends s.pc))

/-- R240: RST leaves as a posted packet and its hart goes on. -/
def Clause.RemoteStores : Prop :=
  ∀ p ∈ [(Instr.rstW, 4), (Instr.rstD, 8)], ∀ (s : State) (rd r rs2 : Reg), s.solo = true → r.toNat < 16 →
    let b := s.openChunk true
    let o := (s.x rs2).toNat
    b.checkRoute r.toNat [0, 1] .store o p.2 p.2 b.phaseBad = .ok () →
    exec (p.1 rd r rs2) s = .next (((b.send r.toNat .store o p.2 (leBytes p.2 (s.x rd).toNat)).2.next 4).ends s.pc)

/-- R240, R241: the remote loads and stores. -/
def Obligations.RemoteLoadsAndStores : Prop := Clause.RemoteLoads ∧ Clause.RemoteStores

/-- R240, R287: RENQ sends one element, RENQM up to 64; each parks for the reply and writes what the queue answered. -/
def Clause.RemoteEnqueues : Prop :=
  ∀ (s : State) (rd r rs2 : Reg), s.solo = true → r.toNat < 16 →
    let b := s.openChunk true
    let n := tokWlen (s.me.rt r.toNat)
    let k := Nat.min (s.x rd).toNat 64
    (b.idle → b.checkRoute r.toNat [2] .enqueue 0 0 1 b.phaseBad = .ok () →
      (n = 8 → let q := b.send r.toNat (.enq rd) 0 8 (leBytes 8 (s.x rs2).toNat);
        exec (.renq rd r rs2) s = .next (q.2.parkOn (.reply q.1))) ∧
      (∀ (e : List Byte) (a : Acc) (u : State), 0 < (s.x rd).toNat → b.load 8 (s.x rs2) (k * n) = .ok (e, a, u) →
        let q := u.send r.toNat (.enqm rd k) 0 n e
        exec (.renqm rd r rs2) s = .next (q.2.parkOn (.reply q.1)))) ∧
    (∀ (p : Packet) (v : Word), b.replied p (.performed v) →
      exec (.renq rd r rs2) s = .next ((((b.takeReply p).setX rd v).next 4).ends s.pc) ∧
      exec (.renqm rd r rs2) s = .next ((((b.takeReply p).setX rd v).next 4).ends s.pc))

/-- R240, R198: a remote atomic sends its operands and parks; the reply's old value goes to X[rd], a word sign-extended, and the
flags of a floating operation into FFLAGS; an enabled flag traps FP_TRAP and leaves X[rd] (R17; the order is the model's: log 19). -/
def Clause.RemoteAtomics : Prop :=
  ∀ p ∈ ramoForms, ∀ (s : State) (size : BitVec 1) (rd r n : Reg), s.solo = true → r.toNat < 16 → n.toNat % 2 = 0 → n ≠ 0 →
    let b := s.openChunk true
    let o := (s.x n).toNat
    let w := amoBytes size
    let v := amoOperand size (s.x (n + 1))
    let d := amoOperand size (s.x rd)
    (b.idle → b.checkRoute r.toNat [0, 1] .atomic o w w b.phaseBad = .ok () →
      let q := b.send r.toNat (.amo p.2 w rd d) o w (leBytes w v.toNat)
      exec (p.1 size rd r n) s = .next (q.2.parkOn (.reply q.1))) ∧
    ∀ (k : Packet) (old : Word), b.replied k (.performed old) →
      let fl := (amoNew p.2 w (amoOperand size old) v d).2
      (fl.setWidth 64 &&& s.csr Csr.ftrapen = 0 → exec (p.1 size rd r n) s = .next
        (((((b.takeReply k).setX rd (amoExt size old)).orFlags fl).next 4).ends s.pc)) ∧
      (fl.setWidth 64 &&& s.csr Csr.ftrapen ≠ 0 → exec (p.1 size rd r n) s = .next
        (((b.takeReply k).orFlags fl).raise Cause.fpTrap (s.x n) 0))

/-- R240, R287, R198: the remote enqueues and atomics. -/
def Obligations.RemoteEnqueuesAndAtomics : Prop := Clause.RemoteEnqueues ∧ Clause.RemoteAtomics

/-- R243, R242: RFENCE with every named operation acknowledged goes on, or raises the deferred error that its mask covers and
clears it; a mask of 0 names every register. Operations still unacknowledged park it. -/
def Clause.RemoteFence : Prop :=
  ∀ (s : State) (rs1 : Reg), s.solo = true → (s.x rs1).toNat < 2 ^ 16 →
    let b := s.openChunk false
    let mask := if s.x rs1 = 0 then 0xFFFF else (s.x rs1).toNat
    (s.unacked s.cur mask = true → exec (.rfence rs1) s = .next (s.parkOn (.acks mask))) ∧
    (s.unacked s.cur mask = false →
      ((∀ e, s.me.deferred = some e → mask / 2 ^ e.rt % 2 = 0) → exec (.rfence rs1) s = .next ((b.next 4).ends s.pc)) ∧
      ∀ e, s.me.deferred = some e → mask / 2 ^ e.rt % 2 = 1 →
        exec (.rfence rs1) s = .next
          ((b.onMe fun x => { x with deferred := none }).raise e.cause e.off (BitVec.ofNat 64 e.rt)))

/-- R238: RTDLG asks the RKC and parks; the token of its answer goes to the route register. -/
def Clause.RouteDelegation : Prop :=
  ∀ (s : State) (d r rs2 : Reg), s.solo = true → d.toNat < 16 → r.toNat < 16 →
    let b := s.openChunk true
    let v := (s.x rs2).toNat
    (b.idle → v / 2 ^ 14 % 4 = 0 → v < 2 ^ 17 → tokShape s.me.ctx (s.me.rt r.toNat) = true → (tokEff (s.me.rt r.toNat)).testBit 5 = true →
      let q := b.send r.toNat (.delegate d (v % 2 ^ 14) (decide (v / 2 ^ 16 = 1))) 0 0 []
      exec (.rtdlg d r rs2) s = .next (({ q.2 with packets := q.2.packets.map fun p =>
        if p.tag = q.1 then { p with at_ := .target } else p } : State).parkOn (.reply q.1))) ∧
    ∀ (k : Packet) (bytes : List Byte), b.replied k (.bytes bytes) → bytes.length = 64 →
      exec (.rtdlg d r rs2) s = .next
        ((((b.takeReply k).onMe (·.setRt d.toNat (BitVec.ofNat 512 (leNat bytes)))).next 4).ends s.pc)

/-- R243, R238: RFENCE and RTDLG. -/
def Obligations.RemoteFenceAndDelegation : Prop := Clause.RemoteFence ∧ Clause.RouteDelegation

/-- R234: the local checks of a remote store: an empty or foreign token traps ROUTE_TAG, a missing right PERMISSION, an offset outside
the effective window ROUTE_WINDOW with TVAL the offset; TVAL2 is the route register, no packet leaves, nothing else happens. -/
def Obligations.RouteChecksTrap : Prop :=
  ∀ p ∈ [(Instr.rstW, 4), (Instr.rstD, 8)], ∀ (s : State) (rd r rs2 : Reg), s.loose = true → r.toNat < 16 →
    let t := s.me.rt r.toNat
    let o := s.x rs2
    let stops (cause : Nat) (v : Word) : Prop := ∃ u, exec (p.1 rd r rs2) s = .next u ∧ Traps cause v (r.setWidth 64) s u
    (tokShape s.me.ctx t = false → stops Cause.routeTag 0) ∧
    (tokShape s.me.ctx t = true → tokClass t = 0 ∨ tokClass t = 1 →
      ((tokEff t).testBit 1 = false → stops Cause.permission 0) ∧
      ((tokEff t).testBit 1 = true → ¬ tokNoff t + o.toNat + p.2 ≤ min (tokWlen t) (tokNoff t + tokNlen t) →
        stops Cause.routeWindow o))

/-! Streams, watermarks, the tag table and the L2 controls (spec/09 R216-R231). -/

/-- R217: SBIND binds a valid descriptor, whose hull it registers, to a port that has no binding, or as the pending one of the same
shape, once none is pending. -/
def Clause.StreamBinding : Prop :=
  ∀ (s u v w : State) (rd rs1 : Reg) (d : List Byte) (a : Acc) (b : Binding) (ps : List (Nat × Nat × Nat × Bool)) (i : Nat),
    s.solo = true → rd.toNat < 8 → (s.openChunk false).load 64 (s.x rs1) 64 = .ok (d, a, u) → descriptor? d u.cur = some b →
    (∀ c, (u.stream rd.toNat).active = some c →
      c.hart = u.cur ∧ (u.stream rd.toNat).waiting = false ∧ c.esize = b.esize ∧ c.outbound = b.outbound) →
    u.pieces (u.who u.cur) (if b.outbound then .store else .load) 0 (b.hull.2 / 4096 + 4) (BitVec.ofInt 64 b.hull.1) b.hull.2 [] = .ok (ps, v) →
    v.registerRange (!b.outbound) (BitVec.ofInt 64 b.hull.1).toNat ((BitVec.ofInt 64 b.hull.1).toNat + b.hull.2) = .ok (i, w) →
    let st := w.stream rd.toNat
    let b' : Binding := { b with rlt := i, pieces := ps }
    exec (.sbind rd rs1) s = .next ((((w.onChunk fun q => { q with engines := [.bind rd.toNat i st] }).setStream rd.toNat
      (if st.active.isNone then { st with active := some b' } else { st with rest := st.rest ++ [b'] })).next 4).ends s.pc)

/-- R218: SSTOP drops the bindings of the hart's port and frees their ranges; of a port it does not bind it has no effect; outbound
elements that are not yet written make it wait. -/
def Clause.StreamStop : Prop :=
  ∀ (s : State) (rd : Reg), s.solo = true → rd.toNat < 8 →
    let b := s.openChunk false
    let st := b.stream rd.toNat
    (st.active = none → exec (.sstop rd) s = .next ((b.next 4).ends s.pc)) ∧
    ∀ c, st.active = some c →
      (c.hart ≠ s.cur → exec (.sstop rd) s = .next ((b.next 4).ends s.pc)) ∧
      (c.hart = s.cur → c.outbound = true → st.buf ≠ [] → exec (.sstop rd) s = .next (s.setStatus .stalled)) ∧
      (c.hart = s.cur → c.outbound = false ∨ st.buf = [] →
        exec (.sstop rd) s = .next ((((b.onMyCore fun k => { k with
          rlt := k.rlt.filter fun e => decide (e.1 ∉ c.rlt :: st.rest.map Binding.rlt) }).setStream rd.toNat
            { active := none, rest := [], buf := [] }).next 4).ends s.pc))

/-- R219: SMV writes the next element that has arrived, zero-extended, and SWR supplies one where the port has room. -/
def Clause.StreamElements : Prop :=
  ∀ (s : State) (b : Binding) (n : Nat), s.calm = true → n < 8 → (s.stream n).active = some b → b.hart = s.cur → b.esize ≤ 8 →
    let o := s.openChunk false
    (∀ (rd : Reg) (e : BitVec 144), b.outbound = false → (s.stream n).taken + s.popsOf n < (s.stream n).total → s.popsOf n < 64 →
      (s.stream n).buf[s.popsOf n]? = some e →
      o.checkData 0 ((o.stream n).element ((o.stream n).taken + o.popsOf n)).1 ((o.stream n).element ((o.stream n).taken + o.popsOf n)).2 = .ok () →
      exec (.smv rd (BitVec.ofNat 5 n)) s = .next ((((o.popped n).setX rd (BitVec.ofNat 64 e.toNat)).next 4).stays s.pc)) ∧
    (∀ rs2 : Reg, b.outbound = true → (s.pushesOf n).length < 64 → (s.stream n).buf.length + (s.pushesOf n).length < 64 →
      (s.stream n).taken + (s.pushesOf n).length < (s.stream n).total →
      let v := (s.x rs2).toNat % 2 ^ (8 * b.esize)
      let i := (s.stream n).taken + (s.pushesOf n).length
      exec (.swr (BitVec.ofNat 5 n) rs2) s = .next
        (((o.pushed n (s.pushesOf n ++ [BitVec.ofNat 144 v]) (storeItems ((o.stream n).element i).1 (leBytes b.esize v))).next 4).stays s.pc))

/-- R217-R219: the stream ports. -/
def Obligations.Streams : Prop := Clause.StreamBinding ∧ Clause.StreamStop ∧ Clause.StreamElements

/-- R224: WMBIND binds a sound cell, with the bounds and the mark it has at its home, or unbinds; WMGET writes the mark that the
register holds. -/
def Clause.WatermarkRegisters : Prop :=
  ∀ (s : State) (rd : Reg), rd.toNat < 16 →
    (s.solo = true → exec (.wmbind rd 0) s = .next
      (((((s.openChunk false).onMyCore fun k => { k with wm := mapErase k.wm rd.toNat }).dropNotices rd.toNat).next 4).ends s.pc)) ∧
    (s.solo = true → ∀ (rs1 : Reg) (a : Acc) (u : State), rs1 ≠ 0 →
      (s.openChunk false).check (s.who s.cur) .load 32 0 (s.x rs1) 32 = .ok (a, u) →
      let o := u.oldBytes a.locs
      let lo := fromBytes false 8 (o.1.take 8)
      let hi := fromBytes false 8 ((o.1.drop 8).take 8)
      let m := fromBytes false 8 ((o.1.drop 16).take 8)
      lo.toNat ≤ m.toNat → m.toNat ≤ hi.toNat → leNat (o.1.drop 24) = 0 →
      (o.2.cores.filter fun e => decide (e.1 ≠ coreOf s.cur) && e.2.wm.any fun r => decide (r.2.cell = a.locs.headD 0)).length < 64 →
      let r : WmReg := { cell := a.locs.headD 0, va := s.x rs1, lo := lo, hi := hi, mark := m, ctx := s.me.ctx }
      exec (.wmbind rd rs1) s = .next
        ((((o.2.onMyCore fun k => { k with wm := mapPut k.wm rd.toNat r }).dropNotices rd.toNat).next 4).ends s.pc)) ∧
    (s.calm = true → ∀ (x : Reg) (r : WmReg), mapFind? s.myCore.wm rd.toNat = some r →
      ∃ t, exec (.wmget x rd) s = .next t ∧ WritesX x r.mark 4 s t)

/-- R224: WMPUB releases and raises the mark at its home, in one action, to the smaller of X[rs2] and HI, and never lowers it; WMWAIT
writes the mark once it covers the smaller of X[rs2] and HI, and acquires; before, it parks. -/
def Clause.WatermarkAdvances : Prop :=
  ∀ (s : State) (rs1 rs2 : Reg), s.solo = true →
    (∀ (a : Acc) (u : State), (s.openChunk true).checkBoth 32 (s.x rs1) 32 = .ok (a, u) → u.checkRmw (s.x rs1) 32 = .ok () →
      let o := ((u.release u.cur .device).oldBytes a.locs).2
      exec (.wmpub rs1 rs2) s = .next ((((o.advanceMark (o.hartMark o.cur) (a.locs.headD 0) (s.x rs2)).2).next 4).ends s.pc)) ∧
    (∀ (rd : Reg) (r : WmReg), rs1.toNat < 16 → mapFind? s.myCore.wm rs1.toNat = some r →
      let covers := min (s.x rs2).toNat r.hi.toNat ≤ r.mark.toNat
      (covers → exec (.wmwait rd rs1 rs2) s = .next
        (((((s.openChunk true).setX rd r.mark).acquire s.cur .device).next 4).ends s.pc)) ∧
      (¬ covers → exec (.wmwait rd rs1 rs2) s = .next (s.parkOn (.wmwait rs1.toNat (s.x rs2))))) ∧
    ∀ (u : State) (mark cell : Nat) (v : Word),
      (u.advanceMark mark cell v).1.toNat = max (u.cellAt mark cell).2.2.toNat (min v.toNat (u.cellAt mark cell).2.1.toNat)

/-- R224: the watermarks. -/
def Obligations.Watermarks : Prop := Clause.WatermarkRegisters ∧ Clause.WatermarkAdvances

/-- R228: TLOOK, TSET and TINV act on the table with the hart's pending changes; a change is pending until the chunk commits. -/
def Obligations.TagTable : Prop :=
  ∀ (s : State) (rd rs1 rs2 : Reg), s.calm = true →
    let o := s.openChunk false
    let entry := mapFind? s.tagView (s.tagKey (s.x rs1))
    let granule := (s.x rs1).toNat / 2048
    (∃ t, exec (.tlook rd rs1) s = .next t ∧ WritesX rd (match entry with
      | some slot => BitVec.ofNat 64 (0x0100000000000000 + slot + (s.x rs1).toNat % 2048)
      | none => BitVec.allOnes 64) 4 s t) ∧
    ((s.x rs2).toNat % 2048 = 0 → (s.x rs2).toNat < (s.myCore.segOf s.me.ctx).size →
      let full := 256 ≤ (s.tagView.filter fun e => decide (e.1 / 2 ^ 53 = s.me.ctx)).length
      (entry = none → full → ∃ t, exec (.tset rd rs1 rs2) s = .next t ∧ WritesX rd 1 4 s t) ∧
      (entry ≠ none ∨ ¬ full → exec (.tset rd rs1 rs2) s = .next
        ((((o.tagging (.set granule (s.x rs2).toNat)).setX rd 0).next 4).stays s.pc))) ∧
    (entry = none → ∃ t, exec (.tinv rd rs1) s = .next t ∧ WritesX rd (BitVec.allOnes 64) 4 s t) ∧
    ∀ slot, entry = some slot →
      exec (.tinv rd rs1) s = .next ((((o.tagging (.inv granule)).setX rd (BitVec.ofNat 64 slot)).next 4).stays s.pc)

/-- R229, R230: L2PIN writes the lowest status that applies and changes nothing unless it is 0; L2UNPIN unbinds an ARR of its context
and writes its counters, and writes all ones for another. -/
def Clause.RetentionRegisters : Prop :=
  ∀ (s : State) (rd rs1 rs2 : Reg), s.solo = true →
    let q := s.cluster (clusterOf s.cur)
    (∀ (a : Acc) (u : State), (s.openChunk false).check14 (s.who s.cur) .load 1 0 (s.x rs1) 1 = .ok (a, u) →
      bits (s.x rs2) 63 62 = 0 → bits (s.x rs2) 59 52 = 0 → bits (s.x rs2) 47 40 = 0 →
      let n := bits (s.x rs2) 61 60
      let ways := bits (s.x rs2) 51 48
      let len := bits (s.x rs2) 39 0
      let c := u.cluster (clusterOf u.cur)
      let status (k : Nat) : Prop := exec (.l2pin rd rs1 rs2) s = .next (((u.setX rd (BitVec.ofNat 64 k)).next 4).ends s.pc)
      let noRoom := ways < 1 ∨ 12 < ways ∨ 12 < c.reserved.length + ways
      let noRange := len = 0 ∨ a.size < (s.x rs1).toNat % a.size + len
      (mapFind? c.arr n ≠ none → status 1) ∧
      (mapFind? c.arr n = none → noRoom → status 2) ∧
      (mapFind? c.arr n = none → ¬ noRoom → noRange → status 3) ∧
      (mapFind? c.arr n = none → ¬ noRoom → ¬ noRange →
        let lo := a.locs.headD 0
        let r : Arr :=
          { ctx := u.me.ctx, lo := lo / 64 * 64, hi := lo + len,
            ways := ((List.range 16).filter fun x => decide (x ∉ c.reserved)).take ways, hits := 0, misses := 0 }
        exec (.l2pin rd rs1 rs2) s = .next
          ((((u.onCluster (clusterOf u.cur) fun q => { q with arr := mapPut q.arr n r }).setX rd 0).next 4).ends s.pc))) ∧
    (rs1.toNat < 4 →
      (∀ r, mapFind? q.arr rs1.toNat = some r → r.ctx = s.me.ctx →
        exec (.l2unpin rd rs1) s = .next (((((s.openChunk false).onCluster (clusterOf s.cur) fun q => { q with
          arr := mapErase q.arr rs1.toNat }).setX rd (BitVec.ofNat 64 (r.misses * 2 ^ 32 + r.hits))).next 4).ends s.pc)) ∧
      ((∀ r, mapFind? q.arr rs1.toNat = some r → r.ctx ≠ s.me.ctx) →
        exec (.l2unpin rd rs1) s = .next ((((s.openChunk false).setX rd (BitVec.allOnes 64)).next 4).ends s.pc)))

/-- R229, R231: what the L2 controls do not accept traps ILLEGAL_INSTRUCTION: a reserved bit of L2PIN's X[rs2], an ARR above 3, and a destination of
the first two hints. -/
def Clause.CacheControlTraps : Prop :=
  ∀ (s : State) (rd rs1 rs2 : Reg), s.loose = true →
    (bits (s.x rs2) 63 62 ≠ 0 ∨ bits (s.x rs2) 59 52 ≠ 0 ∨ bits (s.x rs2) 47 40 ≠ 0 →
      ∃ t, exec (.l2pin rd rs1 rs2) s = .next t ∧ Traps Cause.illegal (bitsOf (.l2pin rd rs1 rs2)) 0 s t) ∧
    (4 ≤ rs1.toNat → ∃ t, exec (.l2unpin rd rs1) s = .next t ∧ Traps Cause.illegal (bitsOf (.l2unpin rd rs1)) 0 s t) ∧
    (rd ≠ 0 → ∀ i ∈ [Instr.l2hintFetch rd rs1 rs2, .l2hintDemote rd rs1 rs2],
      ∃ t, exec i s = .next t ∧ Traps Cause.illegal (hintBits rd rs1 rs2) 0 s t)

/-- R231: the first two L2 hints fetch or age lines and change no register, the second no byte that the hart reads either; the third writes the
counters of an ARR of the context, or all ones. -/
def Clause.CacheHints : Prop :=
  ∀ (s : State) (rd rs1 rs2 : Reg), s.calm = true →
    (∃ t, exec (.l2hintFetch 0 rs1 rs2) s = .next t ∧ Retired (s.pc + 4) s t ∧ SameRegs {} s t ∧ SameOthers s t) ∧
    (∃ t, exec (.l2hintDemote 0 rs1 rs2) s = .next t ∧ Retired (s.pc + 4) s t ∧ SameRegs {} s t ∧ SameOthers s t ∧
      ∀ loc, t.seeByte s.cur loc = s.seeByte s.cur loc) ∧
    ∃ t, exec (.l2hintCounters rd rs1 rs2) s = .next t ∧
      WritesX rd (match mapFind? (s.cluster (clusterOf s.cur)).arr ((s.x rs1).toNat % 4) with
        | some r => if r.ctx = s.me.ctx then BitVec.ofNat 64 (r.misses * 2 ^ 32 + r.hits) else BitVec.allOnes 64
        | none => BitVec.allOnes 64) 4 s t

/-- R229-R231: the L2 controls. -/
def Obligations.CacheControls : Prop := Clause.RetentionRegisters ∧ Clause.CacheControlTraps ∧ Clause.CacheHints

/-! Timed instructions (spec/10 R252-R259). -/

/-- R256: PHASE writes the old value to X[rd], takes CHK at once, and holds a change of TIMED, LEVEL or PERIOD with PEND set; a value with a
reserved bit, or a timed one without a domain, a period or slots, traps ILLEGAL_INSTRUCTION. -/
def Clause.PhaseInstruction : Prop :=
  ∀ (s : State) (rd rs1 : Reg),
    let v := s.x rs1
    let old := s.csr Csr.phase
    let reserved := v &&& 0xFFFFFF000000008D#64 ≠ 0
    let untimely := v.getLsbD 1 = true ∧
      ((s.csr (Csr.dom + bits v 5 4)).getLsbD 63 = false ∨ bits v 39 8 = 0 ∨ s.csr Csr.slotcnt = 0)
    (s.calm = true → ¬ reserved → ¬ untimely → ∃ t, exec (.phase rd rs1) s = .next t ∧
      Retired (s.pc + 4) s t ∧ (rd ≠ 0 → t.x rd = old) ∧ t.x 0 = 0 ∧
      (t.csr Csr.phase).getLsbD 6 = v.getLsbD 6 ∧ (t.csr Csr.phase).getLsbD 0 = old.getLsbD 0 ∧
      phaseFields (t.csr Csr.phase) = phaseFields old ∧
      ((t.csr Csr.phase).getLsbD 7 = true ↔ phaseFields v ≠ phaseFields old) ∧
      (t.me.a.heldPhase.map phaseFields = if phaseFields v = phaseFields old then none else some (phaseFields v)) ∧
      SameRegs { xs := if rd = 0 then [] else [rd], csrs := Csr.phase :: ldstOf rd } s t ∧ SameRest s t) ∧
    (s.loose = true → reserved ∨ untimely →
      ∃ t, exec (.phase rd rs1) s = .next t ∧ Traps Cause.illegal (bitsOf (.phase rd rs1)) 0 s t)

/-- R255: DOMSET writes DOM[level] from X[rs1] with VALID and BB, where none of its refusals applies. -/
def Clause.DomainSet : Prop :=
  ∀ (s : State) (rd rs1 rs2 : Reg), s.calm = true → rd.toNat < 4 → rs2.toNat < 8 →
    (s.openChunk false).domBad rd.toNat (s.x rs1) rs2.toNat = false →
    ∃ t, exec (.domset rd rs1 rs2) s = .next t ∧ Retired (s.pc + 4) s t ∧
      t.csr (Csr.dom + rd.toNat) = s.x rs1 ||| 0x8000000000000000 ||| BitVec.ofNat 64 (rs2.toNat * 2 ^ 48) ∧
      SameRegs { csrs := [Csr.dom + rd.toNat] } s t ∧ SameRest s t

/-- R257: DSYNC releases and arrives at its level's barrier; where the phase changes with its arrival, or has changed when it is
issued again, it goes on with the phase change; else it parks. A member of a gang in lockstep parks even where the phase changes
with its arrival (the model's choice: log 135). -/
def Clause.DomainSync : Prop :=
  ∀ (s : State) (rd : Reg) (reg : BbReg), s.solo = true → rd.toNat < 4 → (s.csr (Csr.dom + rd.toNat)).getLsbD 63 = true →
    let bb := bits (s.csr (Csr.dom + rd.toNat)) 50 48
    mapFind? s.myCore.bb bb = some reg → s.cur ∈ reg.harts →
    let b := s.openChunk true
    let u := b.release s.cur .device
    let now := u.phaseAt s.cur reg.obj
    let r := (u.onMe fun x => { x with dsync := some x.a.pc, arrivals := mapPut x.arrivals bb now }).arriveAt s.cur reg.obj
    let go (v : State) : State := (v.onMe fun x => { x with arrivals := mapErase x.arrivals bb }).acquire s.cur .device
    (s.me.dsync ≠ some s.pc →
      (r.2.phaseAt s.cur reg.obj ≠ r.1 → r.2.me.a.lock = false → ∀ t, (go r.2).syncDone rd.toNat = .ok t →
        exec (.dsync rd) s = .next (t.ends s.pc)) ∧
      (r.2.phaseAt s.cur reg.obj = r.1 ∨ r.2.me.a.lock = true → exec (.dsync rd) s = .next (r.2.parkOn (.bwait bb)))) ∧
    (s.me.dsync = some s.pc → s.phaseAt s.cur reg.obj ≠ mapGet 0 s.me.arrivals bb → ∀ t, (go b).syncDone rd.toNat = .ok t →
      exec (.dsync rd) s = .next (t.ends s.pc))

/-- R255, R257: DOMSET and DSYNC. -/
def Obligations.Domains : Prop := Clause.DomainSet ∧ Clause.DomainSync

/-- R257: what DSYNC does after its wait: SUPERSTEP counts a communication phase that ends, COMM flips, a held change whose new LEVEL
is the level applies and PEND clears, and another stays held; a timed communication phase begins at slot 0 with the bytes that came
after T, and the next instruction may read T (R259, R340); a held change that is not the leader's traps PHASE_VIOLATION. -/
def Clause.PhaseChange : Prop :=
  ∀ (s : State) (level : Nat), mapWf 0 s.me.a.csr = true → (∀ c, s.me.a.heldPhase = some c → c &&& ~~~phaseMask = 0) →
    let mine := heldFor level s.me.a.heldPhase
    let p := s.csr Csr.phase
    (mine = heldFor level s.me.leadHeld → ∃ t, s.syncDone level = .ok t ∧ t.pc = s.pc + 4 ∧ t.me.dsync = none ∧
      t.csr Csr.superstep = s.csr Csr.superstep + (if p.getLsbD 0 then 1 else 0) ∧
      (t.csr Csr.phase).getLsbD 0 = !p.getLsbD 0 ∧ (t.csr Csr.phase).getLsbD 6 = p.getLsbD 6 ∧
      (∀ c, mine = some c → phaseFields (t.csr Csr.phase) = phaseFields c ∧
        (t.csr Csr.phase).getLsbD 7 = false ∧ t.me.a.heldPhase = none) ∧
      (mine = none → phaseFields (t.csr Csr.phase) = phaseFields p ∧ (t.csr Csr.phase).getLsbD 7 = p.getLsbD 7 ∧
        t.me.a.heldPhase = s.me.a.heldPhase) ∧
      ((t.csr Csr.phase).getLsbD 0 = true → (t.csr Csr.phase).getLsbD 1 = true →
        t.me.slotPtr = 0 ∧ t.me.recvBytes = s.me.recvBytes - s.me.recvAtT ∧ t.me.afterSync = some (s.pc + 4))) ∧
    (mine ≠ heldFor level s.me.leadHeld → ∃ t, s.syncDone level = .error (.trapIn t Cause.phaseViolation 0 0))

/-- R256, R257: PHASE, and the phase change. -/
def Obligations.Phases : Prop := Clause.PhaseInstruction ∧ Clause.PhaseChange

/-- R258, R259: TSEND outside a timed phase is a posted send of its source's bytes, in packets of at most 256 bytes (log 50); TRECV
outside a timed communication phase, or at its threshold, writes the count of received bytes and acquires, and else parks. -/
def Clause.TimedTransfers : Prop :=
  ∀ (s : State) (rd rs1 rs2 : Reg), s.solo = true →
    (∀ (a a' : Acc) (u v : State) (bytes : List Byte), rd.toNat < 16 →
      let n := bits (s.x rs2) 63 32
      let o := bits (s.x rs2) 31 0
      let b := s.openChunk true
      n % 8 = 0 → 8 ≤ n → n ≤ 4096 → s.timed = false → b.check (s.who s.cur) .load 8 0 (s.x rs1) n = .ok (a, u) →
      u.checkRoute rd.toNat [0, 1] .store o n 8 b.tsendBad = .ok () →
      b.myCore.freeRlt ≠ none → b.myCore.sourceWaits s.me.ctx (s.x rs1).toNat n = false → u.load 8 (s.x rs1) n = .ok (bytes, a', v) →
      exec (.tsend rd rs1 rs2) s = .next (((v.sendAll rd.toNat .tsend o bytes).next 4).ends s.pc)) ∧
    (s.timedComm = false ∨ (s.x rs1).toNat ≤ s.me.recvBytes →
      exec (.trecv rd rs1) s = .next
        (((((s.openChunk false).setX rd (BitVec.ofNat 64 s.me.recvBytes)).acquire s.cur .core).next 4).ends s.pc)) ∧
    (s.timedComm = true → s.me.recvBytes < (s.x rs1).toNat → exec (.trecv rd rs1) s = .next (s.parkOn (.trecv (s.x rs1))))

/-- R258: in a timed communication phase TSEND's slot must be the next of the table, of this LEVEL and route and open now; the pointer
then advances, and else SLOT_MISSED traps with the cycle in the phase and the pointer. -/
def Clause.SlotCheck : Prop :=
  ∀ (s u : State) (r : Nat) (bytes : List Byte) (a : Acc),
    let p := s.me.slotPtr
    let c := s.cycle - s.me.releaseT
    s.load 8 (s.csr Csr.slotbase + 8 * BitVec.ofNat 64 p) 8 = .ok (bytes, a, u) →
    let e := fromBytes false 8 bytes
    let open_ := p < (s.csr Csr.slotcnt).toNat ∧ bits e 53 52 = bits (u.csr Csr.phase) 5 4 ∧ bits e 51 48 = r ∧
      bits e 31 0 ≤ c ∧ c < bits e 31 0 + bits e 47 32
    u.cycle = s.cycle → u.me.releaseT = s.me.releaseT →
    (open_ → s.checkSlot r = .ok (u.onMe fun x => { x with slotPtr := p + 1 })) ∧
    (¬ open_ → s.checkSlot r = .error (.trap Cause.slotMissed (BitVec.ofNat 64 c) (BitVec.ofNat 64 p)))

/-- R258, R259: TSEND, TRECV and the slot check. -/
def Obligations.TimedCommunication : Prop := Clause.TimedTransfers ∧ Clause.SlotCheck

/-! Special registers (spec/10 R267, spec/01 R13-R17). -/

/-- R267, R13: a CSR instruction that only reads writes the register's value to X[rd]; one that writes puts the new value there under the
register's rules. CYCLE and TIME are read-only; CSRRS of CYCLE behind a timed DSYNC reads the cycle of its release (R340). -/
def Clause.CsrInstructions : Prop :=
  ∀ op ∈ csrOps, ∀ (s : State) (rd : Reg) (i : Instr) (n : Nat) (v : Word) (field : Nat), s.calm = true →
    ((∃ (rs1 : Reg) (num : BitVec 12), i = csrReg op rd rs1 num ∧ n = num.toNat ∧ v = s.x rs1 ∧ field = rs1.toNat) ∨
      ∃ (imm : BitVec 5) (num : BitVec 10), i = csrImm op rd imm num ∧ n = num.toNat ∧ v = imm.setWidth 64 ∧ field = imm.toNat) →
    (op ≠ .rw → field = 0 → s.csrRefused n false = false → n = Csr.cycle →
      ∃ t, exec i s = .next t ∧
        WritesX rd (BitVec.ofNat 64 (if op = .rs ∧ s.me.afterSync = some s.pc then s.me.releaseT else s.cycle)) 4 s t) ∧
    (op ≠ .rw → field = 0 → s.csrRefused n false = false → n ≠ Csr.cycle →
      ∃ t, exec i s = .next t ∧ WritesX rd (s.readCsr n) 4 s t) ∧
    (s.csrRefused n true = false → op = .rw → rd = 0 →
      exec i s = .next ((((s.openChunk false).writeCsr n v).next 4).stays s.pc)) ∧
    (s.csrRefused n true = false → op = .rw ∧ rd ≠ 0 ∨ op ≠ .rw ∧ field ≠ 0 →
      exec i s = .next (((((s.openChunk false).setX rd (s.readCsr n)).writeCsr n (csrNew op (s.readCsr n) v)).next 4).stays s.pc))

/-- R13, R10: an access that the map refuses traps ILLEGAL_INSTRUCTION: of an unlisted number, of a supervisor register in T-mode, of a
vector register by a hart that does not own the file, or a write of a read-only one. -/
def Clause.CsrRefusals : Prop :=
  ∀ op ∈ csrOps, ∀ (s : State) (rd rs1 : Reg) (num : BitVec 12), s.loose = true →
    let n := num.toNat
    (csrAccess? n = none ∨ (csrAccess? n = some .rwS ∧ s.me.a.mode = .t) ∨ (csrOfVf n = true ∧ s.owns = false) ∨
      (csrAccess? n = some .ro ∧ (op = .rw ∨ rs1 ≠ 0)) ∨
      (csrAccess? n = some .roS ∧ s.me.a.mode = .t ∧ (op = .rw ∨ rs1 ≠ 0))) →
    ∃ t, exec (csrReg op rd rs1 num) s = .next t ∧ Traps Cause.illegal (bitsOf (csrReg op rd rs1 num)) 0 s t

/-- R267, R13: the CSR instructions and their refusals. -/
def Obligations.CsrAccess : Prop := Clause.CsrInstructions ∧ Clause.CsrRefusals

/-- R16, R17, R399, R274, R247, R359, R6, R13: what a write leaves of each register that has a rule of its own, and of the others, of
which it changes every bit but the reserved ones. Each is taken wherever the map lets the hart write the register. A write of LSPBASE or
LSPSEG saves the segments of other contexts that the new one meets (the model's choice: log 100). -/
def Obligations.CsrWriteRules : Prop :=
  ∀ (s : State) (v : Word),
    (s.csrRefused Csr.frm true = false → exec (.frmWrite v) s = .next
      (if bits v 2 0 < 6 then s.setCsr Csr.frm (v &&& 7) else s)) ∧
    (s.csrRefused Csr.vdirty true = false → exec (.vdirtyWrite v) s = .next
      (s.onVf fun f => { f with vdirty := f.vdirty &&& v, v := f.v.filter fun e => (f.vdirty &&& v).getLsbD e.1 })) ∧
    (∀ size : Bool, s.csrRefused (if size then Csr.lspseg else Csr.lspbase) true = false →
      let g := s.myCore.segOf s.me.ctx
      let x := (v &&& 0xFF800#64).toNat
      let lo := if size then g.base else x
      let len := if size then x else g.size
      exec (.lspSegmentWrite size v) s = .next
        (if g.grantBase ≤ lo ∧ lo + len ≤ g.grantBase + g.grantSize then
          (s.onMyCore fun k => { k with seg := mapPut k.seg s.me.ctx { g with base := lo, size := len } }).makeRoom s.me.ctx (coreOf s.cur)
        else s)) ∧
    (s.csrRefused Csr.rsetstat true = false → exec .rsetstatClear s = .next (s.setCsr Csr.rsetstat 0)) ∧
    (s.csrRefused Csr.rfinj true = false → exec (.rfinjWrite v) s = .next
      (if s.dev.testMode then s.setCsr Csr.rfinj (v &&& (if s.me.tries = 0 then 0x3FF#64 else 0x1FF#64)) else s)) ∧
    ∀ num : BitVec 12, s.csrRefused num.toNat true = false → csrOwnRow num.toNat = false →
      let n := num.toNat
      exec (.csrWrite num v) s = .next
        (if n = Csr.vstart then s.onVf fun f => { f with vstart := v }
        else if n = Csr.vsub then s.onVf fun f => { f with vsub := v }
        else
          let open_ : Word := if n = Csr.fflags ∨ n = Csr.ftrapen then 0x3F else if n = Csr.ldst then 0x1F else if n = Csr.lspswz then 0xF
            else if n = Csr.tcause then 0xFF else if n = Csr.tstat then 0x27 else BitVec.allOnes 64
          s.setCsr n ((s.csr n &&& ~~~open_) ||| (v &&& open_)))

/-! Hart instructions (spec/10 R260-R266). -/

/-- R266: RNDV reads and replaces the stochastic state, which never becomes all zero, and reads the entropy source (a free value) and
TIME. -/
def Obligations.RandomState : Prop :=
  ∀ (s : State) (rd rs1 : Reg), s.calm = true →
    (∃ t, exec (.rndvS0 rd) s = .next t ∧ WritesX rd s.me.a.s0 4 s t) ∧
    (∃ t, exec (.rndvS1 rd) s = .next t ∧ WritesX rd s.me.a.s1 4 s t) ∧
    (∃ t, exec (.rndvWs0 rd rs1) s = .next t ∧ Retired (s.pc + 4) s t ∧ (rd ≠ 0 → t.x rd = s.me.a.s0) ∧ t.me.a.s0 = s.x rs1 ∧
      t.me.a.s1 = (if s.x rs1 = 0 ∧ s.me.a.s1 = 0 then 1 else s.me.a.s1) ∧
      SameRegs { xs := if rd = 0 then [] else [rd], csrs := ldstOf rd, rng := true } s t ∧ SameRest s t) ∧
    (∃ t, exec (.rndvWs1 rd rs1) s = .next t ∧ Retired (s.pc + 4) s t ∧ (rd ≠ 0 → t.x rd = s.me.a.s1) ∧ t.me.a.s0 = s.me.a.s0 ∧
      t.me.a.s1 = (if s.me.a.s0 = 0 ∧ s.x rs1 = 0 then 1 else s.x rs1) ∧
      SameRegs { xs := if rd = 0 then [] else [rd], csrs := ldstOf rd, rng := true } s t ∧ SameRest s t) ∧
    (∃ t, exec (.rndvTime rd) s = .next t ∧ WritesX rd (BitVec.ofNat 64 s.time) 4 s t) ∧
    exec (.rndvEnt rd) s = .next
      (((({ s.openChunk false with freeCtr := s.freeCtr + 1 } : State).setX rd (Config.entropy s.freeCtr)).next 4).stays s.pc)

/-- R261: SPLIT takes a member of a lockstep gang out of lockstep; GANG parks until the last member has come, who resumes lockstep where all
stand at one address, and the others follow when they are issued again; outside their modes both trap ILLEGAL_INSTRUCTION. -/
def Clause.GangModes : Prop :=
  ∀ s : State,
    (s.solo = true → s.me.a.lock = true → 2 ≤ s.me.gang.length → exec .split s = .next
      ((((s.openChunk false).next 4).onMe fun x => { x with a := { x.a with lock := false } }).ends s.pc)) ∧
    (s.solo = true → s.me.a.lock = false → 2 ≤ s.me.gang.length →
      let b := s.openChunk false
      let waits (h : Nat) : Prop := (s.hart h).status = .parked .gang
      (s.me.handoff = none → (∀ h ∈ s.mates, waits h) → (∀ h ∈ s.mates, (s.hart h).a.pc = s.pc) →
        exec .gang s = .next (((((s.mates).foldl (fun u h => u.token h (leBytes 16 b.gangSeq)) b).next 4).inStep b.gangSeq).ends s.pc)) ∧
      (s.me.handoff = none → (∃ h ∈ s.mates, ¬ waits h) → exec .gang s = .next (s.parkOn .gang)) ∧
      (∀ k : Handoff, s.me.handoff = some k → k.elem.length = 16 →
        exec .gang s = .next (((b.next 4).inStep (leNat k.elem)).ends s.pc))) ∧
    (s.loose = true → s.me.gang.length < 2 →
      (∃ t, exec .split s = .next t ∧ Traps Cause.illegal (bitsOf .split) 0 s t) ∧
      ∃ t, exec .gang s = .next t ∧ Traps Cause.illegal (bitsOf .gang) 0 s t)

/-- R262: PAIR exchanges values with the partner that waits in PAIR, or parks; a hart handed the partner's value writes it; each acquires.
Where the partner has ended after UNPAIR it traps. UNPAIR clears PAIRROLE, and a partner that waits in PAIR goes on to a trap. -/
def Clause.Pairs : Prop :=
  ∀ (s : State) (rd rs1 : Reg), s.solo = true →
    let b := s.openChunk false
    (∀ k : Handoff, s.me.handoff = some k → k.elem ≠ [] →
      exec (.pair rd rs1) s = .next ((((b.acquire s.cur .core).setX rd (fromBytes false 8 k.elem)).next 4).ends s.pc)) ∧
    (s.me.handoff = none → s.csr Csr.pairrole ≠ 0 → ∀ p, s.partner = some p → (s.hart p).csr Csr.pairrole ≠ 0 →
      (∀ r v, (s.hart p).status = .parked (.pair r v) →
        exec (.pair rd rs1) s = .next
          (((((b.token p (leBytes 8 (s.x rs1).toNat)).acquire s.cur .core).setX rd v).next 4).ends s.pc)) ∧
      ((∀ r v, (s.hart p).status ≠ .parked (.pair r v)) →
        exec (.pair rd rs1) s = .next (s.parkOn (.pair rd (s.x rs1))))) ∧
    (s.loose = true → s.me.handoff = none → s.csr Csr.pairrole ≠ 0 → s.partner = none → s.unpairedAway = true →
      ∃ t, exec (.pair rd rs1) s = .next t ∧ Traps Cause.illegal (bitsOf (.pair rd rs1)) 0 s t) ∧
    (s.calm = true → (∀ p, s.partner = some p → ∀ r v, (s.hart p).status ≠ .parked (.pair r v)) →
      exec .unpair s = .next (((b.setCsr Csr.pairrole 0).next 4).stays s.pc)) ∧
    (s.calm = true → ∀ p r v, s.partner = some p → (s.hart p).status = .parked (.pair r v) →
      exec .unpair s = .next ((((b.token p []).setCsr Csr.pairrole 0).next 4).stays s.pc))

/-- R261, R262: gangs and pairs. -/
def Obligations.GangsAndPairs : Prop := Clause.GangModes ∧ Clause.Pairs

/-- R263, R10: VACQ takes a free vector file, in the order of its waiters, with a fresh file and no census; else it waits. VREL gives
the file up once its copies, groups and scratchpad loads have completed; a hart that owns the file, or does not, traps. -/
def Obligations.VectorOwnership : Prop :=
  ∀ s : State, s.solo = true →
    let b := s.openChunk false
    let k := s.myCore
    let took (k : Core) : Core :=
      { k with owner := some s.cur, vf := VecFile.init, census := [], vacqWait := k.vacqWait.filter (· ≠ s.cur) }
    (s.owns = false → k.owner = none → k.vacqWait = [] ∨ k.vacqWait.head? = some s.cur → exec .vacq s = .next
      ((((b.onMyCore took).onMe fun x => { x with a := { x.a with doneMask := 0, doneField := 0 } }).next 4).ends s.pc)) ∧
    (s.owns = false → k.owner ≠ none → exec .vacq s = .next
      ((b.onMyCore fun k => if s.cur ∈ k.vacqWait then k else { k with vacqWait := k.vacqWait ++ [s.cur] }).parkOn .vacq)) ∧
    (s.owns = true → k.copies = [] → k.fills = [] → k.bankLoads = false → exec .vrel s = .next ((b.giveUpVf.next 4).ends s.pc)) ∧
    (s.loose = true →
      (s.owns = true → ∃ t, exec .vacq s = .next t ∧ Traps Cause.illegal (bitsOf .vacq) 0 s t) ∧
      (s.owns = false → ∃ t, exec .vrel s = .next t ∧ Traps Cause.illegal (bitsOf .vrel) 0 s t))

/-- R264, R348: END gives the vector file up, parks until its remote operations are acknowledged, releases at device scope, and frees
the hart; the last hart of an instance completes it with its word and its token. -/
def Clause.EndOfHart : Prop :=
  ∀ s u : State, s.solo = true →
    let b := s.openChunk true
    (s.owns = false ∧ u = b ∨
      s.owns = true ∧ s.myCore.copies = [] ∧ s.myCore.fills = [] ∧ s.myCore.bankLoads = false ∧ u = b.giveUpVf) →
    (u.unacked u.cur 0xFFFF = true → exec .endHart s = .next (u.parkOn (.acks 0xFFFF))) ∧
    (u.unacked u.cur 0xFFFF = false → (∀ e, u.me.deferred = some e → 0xFFFF / 2 ^ e.rt % 2 = 0) →
      let v := u.release u.cur .device
      v.me.group = none →
      (v.myInstance = none → exec .endHart s = .next v.freeHart) ∧
      ∀ id i, v.myInstance = some (id, i) →
        let i' : Instance := { i with flags := i.flags ||| (v.csr Csr.fflags).setWidth 6 }
        (v.lastToEnd i' = false → exec .endHart s = .next (v.leaveInstance id).freeHart) ∧
        (v.lastToEnd i' = true → ∀ l w, mapFind? v.launches i.launch = some l → v.complete id i' l = .ok w →
          exec .endHart s = .next (w.leaveInstance id).freeHart))

/-- R265, R411: YIELD is the last of its chunk and does nothing else where no notice stands; HALT in S-mode reports the halt and stops the hart
before the next instruction; in T-mode HALT and TRET trap ILLEGAL_INSTRUCTION. -/
def Clause.PrivilegedStops : Prop :=
  ∀ s : State,
    (s.solo = true → s.me.noticeUntil = none → exec .yield s = .next (((s.openChunk false).next 4).ends s.pc)) ∧
    (s.loose = true → s.me.a.mode = .s → ∃ t, exec .halt s = .next t ∧ t.me.status = .halted ∧ t.pc = s.pc + 4 ∧
      t.me.chunk = none ∧ t.csr Csr.instret = s.csr Csr.instret + 1 ∧
      SameRegs { csrs := [Csr.instret] } s t ∧ (∀ h, h ≠ s.cur → t.hart h = s.hart h) ∧ (∀ c, t.core c = s.core c) ∧
      t.mem = s.mem ∧ ∃ e, t.outbox = s.outbox ++ [(s.me.ctx, e)]) ∧
    (s.loose = true → s.me.a.mode = .t →
      (∃ t, exec .halt s = .next t ∧ Traps Cause.illegal (bitsOf .halt) 0 s t) ∧
      ∃ t, exec .tret s = .next t ∧ Traps Cause.illegal (bitsOf .tret) 0 s t)


/-- R264, R265, R411: END, YIELD and HALT. -/
def Obligations.EndsAndHalts : Prop := Clause.EndOfHart ∧ Clause.PrivilegedStops

/-! Vector lengths and scalar reads (spec/06 R119-R123, R149, R150). -/

/-- R122, R123, R119, R120: VSETL and VSETLI set VTYPE, VL, VPAD and VSTART, count a strip, and write the grant to X[rd]; where BRKPC and
BRKORD name the strip they trap instead. VSETLI asks for its rs1 field, and for 2^64 − 1 with 31. -/
def Obligations.VectorLengths : Prop :=
  ∀ (s : State) (i : Instr) (rd rs1 : Reg) (imm : BitVec 14) (avl : Word),
    (i = .vsetl rd rs1 imm ∧ avl = s.x rs1 ∨ i = .vsetli rd rs1 imm ∧ avl = if rs1 = 31 then BitVec.allOnes 64 else rs1.setWidth 64) →
    s.owns = true →
    let ord := s.csr Csr.stripord + 1
    let broken := s.csr Csr.brkpc ≠ 0 ∧ s.csr Csr.brkpc = s.pc ∧ s.csr Csr.brkord = ord
    (s.calm = true → ¬ broken →
      let r : Word × Nat × Nat := match expandType imm with
        | none => (illVtype, 0, 0)
        | some v => (v, min avl.toNat (VT.ofWord v).vlmax,
            (min avl.toNat (VT.ofWord v).vlmax + (VT.ofWord v).gs - 1) / (VT.ofWord v).gs * (VT.ofWord v).gs)
      ∃ t, exec i s = .next t ∧ Retired (s.pc + 4) s t ∧ (rd ≠ 0 → t.x rd = BitVec.ofNat 64 r.2.1) ∧ t.x 0 = 0 ∧
        t.csr Csr.stripord = ord ∧ t.vf.vtype = r.1 ∧ t.vf.vl = BitVec.ofNat 64 r.2.2 ∧ t.vf.vpad = BitVec.ofNat 64 (r.2.2 - r.2.1) ∧
        t.vf.vstart = 0 ∧ t.vf.v = s.vf.v ∧ t.vf.vdirty = s.vf.vdirty ∧ t.vf.m = s.vf.m ∧ t.vf.acc = s.vf.acc ∧ t.vf.sc = s.vf.sc ∧ t.vf.vsub = s.vf.vsub ∧
        SameRegs { xs := if rd = 0 then [] else [rd], csrs := Csr.stripord :: ldstOf rd } s t ∧
        (∀ h, h ≠ s.cur → t.hart h = s.hart h) ∧ (∀ c, c ≠ coreOf s.cur → t.core c = s.core c) ∧ t.mem = s.mem) ∧
    (s.loose = true → broken → ∃ t, exec i s = .next t ∧ Traps Cause.stripBreak ord 0 s t)

/-- R149, R150: the scalar reads of vector state write X[rd] and nothing else; without the vector file they trap
ILLEGAL_INSTRUCTION. -/
def Obligations.VectorScalarReads : Prop :=
  ∀ (s : State) (rd rs1 rs2 : Reg),
    let n := (s.x rs2).toNat
    let set := (List.range (s.vl - s.vpad)).filter fun i => (s.vf.mreg rs1.toNat).getLsbD i
    (s.calm = true → s.owns = true → s.vectorIdle = true →
      (s.vt.ill = false → rs1.toNat % s.vt.regs = 0 →
        (s.vl ≤ n → ∃ t, exec (.vmvxs rd rs1 rs2) s = .next t ∧ WritesX rd 0 4 s t) ∧
        (n < s.vl → s.vt.isSx = false → ∃ t, exec (.vmvxs rd rs1 rs2) s = .next t ∧
          WritesX rd (let e := BitVec.ofNat s.vt.w (s.vf.elem rs1.toNat s.vt.w n)
            if s.vt.isSigned then e.signExtend 64 else e.setWidth 64) 4 s t) ∧
        (n < s.vl → s.vt.isSx = true → ∃ t, exec (.vmvxs rd rs1 rs2) s = .next t ∧
          WritesX rd (BitVec.ofNat 64 (f32.ofV .rne 0 false ((SxBlock.ofBits s.vt.m
            (s.vf.elem rs1.toNat (blockBits s.vt.m) (n / 16))).value s.vt.m (n % 16) (decide (s.vl - s.vpad ≤ n)))).1) 4 s t)) ∧
      (s.vt.ill = false → rs1.toNat < 8 →
        (∃ t, exec (.vmpopc rd rs1) s = .next t ∧ WritesX rd (BitVec.ofNat 64 set.length) 4 s t) ∧
        (set = [] → ∃ t, exec (.vmfirst rd rs1) s = .next t ∧ WritesX rd (BitVec.allOnes 64) 4 s t) ∧
        ∀ i ∈ set, (∀ j ∈ set, i ≤ j) → ∃ t, exec (.vmfirst rd rs1) s = .next t ∧ WritesX rd (BitVec.ofNat 64 i) 4 s t) ∧
      (s.vt.ill = false → s.vt.isSx = false →
        ∃ t, exec (.vrdsub rd) s = .next t ∧ WritesX rd (BitVec.ofNat 64 (s.vt.substitute s.vf.vsub)) 4 s t) ∧
      (rs1.toNat < 8 → ∃ t, exec (.vrdsc rd rs1) s = .next t ∧ WritesX rd ((mapGet 0 s.vf.sc rs1.toNat).setWidth 64) 4 s t)) ∧
    (s.loose = true → s.owns = false →
      ∀ i ∈ [Instr.vmvxs rd rs1 rs2, .vmpopc rd rs1, .vmfirst rd rs1, .vrdsub rd, .vrdsc rd rs1],
        ∃ t, exec i s = .next t ∧ Traps Cause.illegal (bitsOf i) 0 s t)

/-! Convoys (spec/02 R40-R53, spec/06 R124-R148, spec/07, spec/08). -/

/-- R50, R69: a vector word of units 0, 1, 2 and 5 performs its elements in order, each with its flags, then handles its tail, clears VSTART, and
goes on behind its word. -/
def Obligations.VectorElementForms : Prop :=
  ∀ (op : Vop) (w : VWord) (s : State), elementwise op = true → s.solo = true → s.vectorReady op w = true → s.unstopped = true →
    let b := s.openChunk false
    let m := memberOf op w
    let c := b.convoy (headerOf op) [m]
    exec (vopInstr op w) s = .next ((c.complete c.vl (c.over (c.elems 0) (b.noting [m]))).wrapUp b c false)

/-- R40, R48-R50: a convoy of several element-wise members performs, for each element in order, all its members in order; a convoy whose header is
not sound, or of whose members one fails the checks, traps ILLEGAL_INSTRUCTION without effect. -/
def Obligations.ConvoyForms : Prop :=
  ∀ (s : State) (hdr : BitVec 32) (words : List Word),
    let found := words.zipIdx.map fun (e : Word × Nat) => Member.ofWord e.1 (headerUnit hdr e.2)
    let wrong := failing s.vt s.vf.vstart.toNat (decide (hdr.toNat / 2 ^ 29 = 1)) found
    (∀ ms : List Member, found = ms.map some → 2 ≤ ms.length → (∀ m ∈ ms, elementwise m.op = true) → s.solo = true →
      headerOk hdr words.length s.pc = true → s.owns = true → s.vectorIdle = true → s.unstopped = true → wrong = none →
      let b := s.openChunk false
      let c := b.convoy hdr ms
      exec (.convoy hdr words) s = .next ((c.complete c.vl (c.over (c.elems 0) (b.noting ms))).wrapUp b c false)) ∧
    (s.loose = true →
      (headerOk hdr words.length s.pc = false ∨ s.owns = false →
        ∃ t, exec (.convoy hdr words) s = .next t ∧ Traps Cause.illegal (hdr.setWidth 64) (failTval2 hdr 7) s t) ∧
      ∀ j, headerOk hdr words.length s.pc = true → s.owns = true → wrong = some j →
        ∃ t, exec (.convoy hdr words) s = .next t ∧ Traps Cause.illegal (words.getD j 0) (failTval2 hdr j) s t)

/-- R135, R136, R139, R126: what the integer operations leave in each active element below VL, from elements of the sources or the scalar;
inactive elements follow MPOL, and registers outside the destination group, masks, scalar registers and memory are unchanged. -/
def Obligations.VectorIntegerElements : Prop :=
  ∀ (op : Vop) f, vecInt op = some f → ∀ (w : VWord) (s : State), s.calm = true → s.me.chunk = none →
    s.vectorReady op w = true → s.unstopped = true → w.mod1 = 0 → w.mod2 = 0 → s.vt.isSx = false → s.vf.vstart = 0 →
    s.vl ≤ s.vt.vlmax → mapWf 0 s.vf.v = true →
    let e (r : Reg) (i : Nat) : BitVec s.vt.w := BitVec.ofNat s.vt.w (s.vf.elem r.toNat s.vt.w i)
    let y (i : Nat) : BitVec s.vt.w := if w.scal = 1 then BitVec.ofNat s.vt.w (s.x w.vs3).toNat else e w.vs2 i
    ∃ t, exec (vopInstr op w) s = .next t ∧ WritesGroup w.vd.toNat s.vt.regs s t ∧
      ∀ i, i < s.vl → t.vf.elem w.vd.toNat s.vt.w i =
        if w.men = 0 ∨ (s.vf.mreg w.msk.toNat).getLsbD i = true then (f s.vt.w s.vt.isSigned (e w.vs1 i) (y i) (e w.vd i)).toNat
        else if s.vt.mpol then 0 else (e w.vd i).toNat

/-- R141, R145, R146, R172-R174: the operations performed as a whole complete in one action. -/
def Clause.WholeForms : Prop :=
  ∀ (op : Vop) (w : VWord) (s : State), Vop.isWhole op = true → op.unit ∈ [1, 2, 4] → s.solo = true → s.vectorReady op w = true →
    s.unstopped = true →
    let b := s.openChunk false
    let m := memberOf op w
    let c := b.convoy (headerOf op) [m]
    ∃ u, m.whole c (b.noting [m]) = .ok u ∧ exec (vopInstr op w) s = .next ((c.advance u).wrapUp b c false)

/-- R172: VSLIDEUP, VSLIDEDN and VPERM read their sources before they write, and give the substitute where no source element is. -/
def Clause.PermutedElements : Prop :=
  ∀ (op : Vop) (w : VWord) (s : State), op ∈ [Vop.vslideup, .vslidedn, .vperm] → s.calm = true → s.me.chunk = none →
    s.vectorReady op w = true → s.unstopped = true → s.vl ≤ s.vt.vlmax → mapWf 0 s.vf.v = true →
    let e (r : Reg) (i : Nat) : Nat := s.vf.elem r.toNat s.vt.w i
    let k := if w.scal = 1 then (s.x w.vs3).toNat else w.imm.toNat
    let sub := s.vt.substitute s.vf.vsub % 2 ^ s.vt.w
    ∃ t, exec (vopInstr op w) s = .next t ∧ WritesGroup w.vd.toNat s.vt.regs s t ∧
      ∀ i, i < s.vl → t.vf.elem w.vd.toNat s.vt.w i =
        if w.men = 0 ∨ (s.vf.mreg w.msk.toNat).getLsbD i = true then
          (if op = .vslideup then (if i < k then sub else e w.vs1 (i - k))
           else if op = .vslidedn then (if i + k < s.vl then e w.vs1 (i + k) else sub)
           else if e w.vs2 i < s.vl then e w.vs1 (e w.vs2 i) else sub)
        else if s.vt.mpol then 0 else e w.vd i

/-- R173: an integer reduction combines element 0 of vs2 with the active elements of vs1 below VL, padding as zero, into element 0. -/
def Clause.ReducedElements : Prop :=
  ∀ (op : Vop) (w : VWord) (s : State), op ∈ [Vop.vredSum, .vredMax, .vredMin, .vredAnd, .vredOr, .vredXor] → s.calm = true →
    s.me.chunk = none → s.vectorReady op w = true → s.unstopped = true → mapWf 0 s.vf.v = true →
    let e (r : Reg) (i : Nat) : BitVec s.vt.w := BitVec.ofNat s.vt.w (s.vf.elem r.toNat s.vt.w i)
    let live := (List.range s.vl).filter fun i => decide (w.men = 0) || (s.vf.mreg w.msk.toNat).getLsbD i
    let less (a b : BitVec s.vt.w) : Bool := if s.vt.isSigned then decide (a.toInt < b.toInt) else decide (a.toNat < b.toNat)
    let join (a b : BitVec s.vt.w) : BitVec s.vt.w := match op with
      | .vredSum => a + b
      | .vredMax => if less a b then b else a
      | .vredMin => if less b a then b else a
      | .vredAnd => a &&& b
      | .vredOr => a ||| b
      | _ => a ^^^ b
    ∃ t, exec (vopInstr op w) s = .next t ∧ WritesGroup w.vd.toNat s.vt.regs s t ∧
      t.vf.elem w.vd.toNat s.vt.w 0 =
        (live.foldl (fun a i => join a (if s.vl - s.vpad ≤ i then 0 else e w.vs1 i)) (e w.vs2 0)).toNat

/-- R141, R145, R146, R172-R174: the operations performed as a whole. -/
def Obligations.VectorWholeForms : Prop := Clause.WholeForms ∧ Clause.PermutedElements ∧ Clause.ReducedElements

/-- R151-R166, R170: a memory member performs its elements in order where every access passes its checks. -/
def Clause.ElementTransfers : Prop :=
  ∀ (op : Vop) (w : VWord) (s u : State), op.unit = 3 → op ∉ [Vop.vlgl, .vssc, .vsxadd] → s.solo = true →
    s.vectorReady op w = true → s.unstopped = true → s.me.a.doneMask = 0 → s.me.a.doneField = 0 →
    let b := s.openChunk false
    let m := memberOf op w
    let c := b.convoy (headerOf op) [m]
    (op = .vlst → m.checkStream c 0 b = .ok ()) → m.walks c (c.elems 0) (b.noting [m]) = some u →
    exec (vopInstr op w) s = .next ((c.complete c.vl u).wrapUp b c false)

/-- R167, R168: VLGL loads its elements afresh and links their lines; VSSC stores, in one action, the candidates whose lines are still linked,
reports them in its mask register, and drops the links. -/
def Clause.LinkedTransfers : Prop :=
  ∀ (w : VWord) (s : State), s.solo = true → s.unstopped = true →
    (s.vectorReady .vlgl w = true →
      let b := s.openChunk false
      let m := memberOf .vlgl w
      let c := b.convoy (headerOf .vlgl) [m]
      ∀ u, m.gatherLinked c c.vl 0 ((b.noting [m]).onMe fun x => { x with links := [] }) = .ok u →
        exec (.vlgl w) s = .next ((c.advance (u.onVf fun f => f.setWords m.w.vd.toNat
          ((m.finish c c.vl u.vf).words m.w.vd.toNat c.t.regs))).wrapUp b c false)) ∧
    (s.vectorReady .vssc w = true →
      let b := s.openChunk true
      let m := memberOf .vssc w
      let c := b.convoy (headerOf .vssc) [m]
      ∀ cs u, m.scCandidates c c.vl 0 (b.noting [m]) = .ok (cs, u) →
        let hits := cs.filter fun e => decide (lineOf (e.2.headD 0) ∈ u.me.links)
        let bytes := hits.flatMap fun e => e.2.zip (leBytes (m.size c e.1) (u.vf.elem m.w.vd.toNat c.t.w e.1))
        let t := u.touchAll (clusterOf u.cur) (bytes.map Prod.fst) (m.insert c u)
        let v := t.commitBytes t.cur (t.hartMark t.cur) (bytes.foldl (fun q e => mapPut q e.1 e.2) []) []
        meets (linesOf (bytes.map Prod.fst)) (u.heldLines (clusterOf u.cur) (some u.cur)) = false →
        exec (.vssc w) s = .next ((c.advance ((v.onMe fun x => { x with links := [] }).onVf fun f =>
          f.setMreg m.w.vs1.toNat (hits.foldl (fun q e => q ||| (1#4096) <<< e.1) 0))).wrapUp b c true))

/-- R169: VSXADD, once every addition it has sent is done, completes with their flags. -/
def Clause.ScatterAdds : Prop :=
  ∀ (w : VWord) (s : State), s.solo = true → s.unstopped = true → s.vectorReady .vsxadd w = true →
    let b := s.openChunk true
    let m := memberOf .vsxadd w
    let c := b.convoy (headerOf .vsxadd) [m]
    c.elems (c.doneBits b) = [] → (s.me.scatter.getD (0, [])).1 = 0 →
    exec (.vsxadd w) s = .next
      (((c.complete c.vl ((b.noting [m]).onMe fun x => { x with scatter := none })).orFlags
        (flagsOf (s.me.scatter.getD (0, [])).2)).wrapUp b c true)

/-- R151-R170: the vector memory operations. -/
def Obligations.VectorMemoryForms : Prop := Clause.ElementTransfers ∧ Clause.LinkedTransfers ∧ Clause.ScatterAdds

/-- R176, R181, R190, R193, R195: MBINV drops a tile, MZERO clears an accumulator, MSCL writes a scale register, and MCENS copies the census, and
clears it where its immediate says. -/
def Clause.MatrixRegisters : Prop :=
  ∀ (op : Vop) (w : VWord) (s : State), s.solo = true → s.vectorReady op w = true →
    let b := s.openChunk false
    let m := memberOf op w
    let c := b.convoy (headerOf op) [m]
    let v := b.noting [m]
    let goes (u : State) : Prop := exec (vopInstr op w) s = .next ((c.advance u).wrapUp b c true)
    (op = .mbinv → goes (v.onMyCore fun k => k.dropTile w.vd.toNat)) ∧
    (op = .mzero → goes (v.onVf fun f =>
      { f with acc := (List.range 16).foldl (fun a r => mapSet 0 a (16 * w.vd.toNat + r) 0) f.acc })) ∧
    (op = .mscl → goes (v.onVf fun f => { f with sc := mapSet 0 f.sc w.vd.toNat ((s.x w.vs3).setWidth 32) })) ∧
    (op = .mcens →
      let reg (j : Nat) : VReg := BitVec.ofNat 2048
        ((List.range 32).foldl (fun n e => n + mapGet 0 s.myCore.census (32 * j + e) % 2 ^ 64 * 2 ^ (64 * e)) 0)
      let u := v.onVf fun f => (List.range 8).foldl (fun f j => f.setReg (w.vd.toNat + j) (reg j)) f
      goes (if w.imm.toNat % 2 = 1 then u.onMyCore fun k => { k with census := [] } else u))

/-- R177-R179: MBLD, with a legal shape and columns that pass their checks, drops what its banks held, takes a range-lock entry as a source, writes
the records and starts the load; with an illegal shape it traps. -/
def Clause.TileLoads : Prop :=
  ∀ (w : VWord) (s u : State) (as : List Acc) (e : Nat), s.solo = true → s.vectorReady .mbld w = true →
    let b := s.openChunk false
    let m := memberOf .mbld w
    let c := b.convoy (headerOf .mbld) [m]
    let first := w.vd.toNat
    let n := w.imm.toNat / 32 % 4 + 1
    let code := w.imm.toNat % 32
    let shape := s.x w.vs1
    let st := s.x w.vs2
    let base := s.x w.vs3
    let k := bits shape 10 0
    let cols := bits shape 24 16
    let colb := (typeOfCode code).colBytes k
    tileOk (typeOfCode code) shape base st n = true → (b.noting [m]).tileLocs base st colb cols 0 [] = .ok (as, u) →
    let v := u.onMyCore fun q => (List.range n).foldl (fun q i => q.dropTile (first + i)) q
    v.myCore.freeRlt = some e →
    exec (.mbld w) s = .next ((c.advance (v.onMyCore fun q =>
      { q with rlt := mapPut q.rlt e { lo := base.toNat, hi := base.toNat + (cols - 1) * st.toNat + colb, source := true, ctx := v.me.ctx },
               brec := (List.range n).foldl (fun r i => mapSet 0 r (first + i) (mkRec base st k cols code first (n - 1) e)) q.brec,
               loads := mapPut q.loads first
                 { hart := v.cur, locs := as.flatMap (·.locs), efs := as.flatMap (·.efs), failed := none } })).wrapUp b c true)

/-- R185, R186, R91-R95: MMA and MMAS on a loaded tile that pairs with VTYPE complete all their rows; with INT types and no saturation each
accumulator element gains the sum of its products modulo 2^32, and every other accumulator row stays. -/
def Clause.MatrixProducts : Prop :=
  ∀ (op : Vop) (w : VWord) (s : State) (tile : BitVec 256), op = .mma ∨ op = .mmas → s.solo = true → s.unstopped = true →
    s.vectorReady op w = true →
    let b := s.openChunk false
    let m := memberOf op w
    let c := b.convoy (headerOf op) [m]
    m.mmaRec c b = .ok tile → recLoaded tile = true → recN tile ≤ 384 →
    ∃ u, m.mma c (b.noting [m]) = .ok u ∧ exec (vopInstr op w) s = .next ((c.advance u).wrapUp b c true) ∧
      (s.vt.isInt = true → w.satf = 0 → s.vf.vstart = 0 → mapWf 0 s.vf.acc = true → op = .mma →
        let kk := recK tile
        let bt := typeOfCode (recType tile)
        let product (r col j : Nat) : Int :=
          (if s.vl - s.vpad ≤ r * kk + j then 0 else numN s.vt.isSigned 8 (s.vf.elem w.vs1.toNat 8 (r * kk + j))) *
            numN bt.isSigned 8 (s.myCore.cimNat (recFirst tile) (col * kk + j) 1)
        (∀ r col, r < (s.x w.vs3).toNat → col < recN tile → u.vf.accAt w.vd.toNat r col =
          (BitVec.ofInt 32 ((s.vf.accAt w.vd.toNat r col : Int) + ((List.range kk).map (product r col)).sum)).toNat) ∧
        (∀ a r col, r < 16 → (a ≠ w.vd.toNat ∨ (s.x w.vs3).toNat ≤ r) → u.vf.accAt a r col = s.vf.accAt a r col) ∧
        u.vf.v = s.vf.v ∧ u.csr Csr.fflags = s.csr Csr.fflags)

/-- R191, R192: MXTR and MXTRZ at a position within the accumulator complete. -/
def Clause.Extractions : Prop :=
  ∀ (op : Vop) (w : VWord) (s : State), op = .mxtr ∨ op = .mxtrz → s.solo = true → s.unstopped = true → s.vectorReady op w = true →
    let b := s.openChunk false
    let m := memberOf op w
    let c := b.convoy (headerOf op) [m]
    let pos := s.x w.vs3
    let row := bits pos 3 0
    let c0 := bits pos 24 16
    pos.toNat = row + c0 * 65536 → c0 < 384 → c0 + s.vl ≤ 384 →
    ∃ u, m.mxtr c (b.noting [m]) = .ok u ∧
      exec (vopInstr op w) s = .next ((c.advance u).wrapUp b c (decide (op = .mxtrz)))

/-- R175-R195: the matrix operations. -/
def Obligations.MatrixForms : Prop := Clause.MatrixRegisters ∧ Clause.TileLoads ∧ Clause.MatrixProducts ∧ Clause.Extractions

/-- R220-R222: CPV and CPVS whose bytes pass their checks, and whose watermark register is bound, register their copy; CPV marks its registers
written. -/
def Clause.VectorCopies : Prop :=
  ∀ (op : Vop) (w : VWord) (s u v : State) (a : Acc) (i : Nat), op = .cpv ∨ op = .cpvs → s.solo = true → s.vectorReady op w = true →
    let b := s.openChunk false
    let m := memberOf op w
    let c := b.convoy (headerOf op) [m]
    let store := decide (op = .cpvs)
    let ea := s.x w.vs3
    let regs := 2 ^ (w.imm.toNat % 4)
    let n := regs * 256
    let wm : Option Nat := if w.imm.toNat / 4 % 2 = 1 then some (w.imm.toNat / 8 % 16) else none
    (∀ k, wm = some k → mapFind? s.myCore.wm k ≠ none) →
    (b.noting [m]).check14 (s.who s.cur) (if store then .store else .load) 8 0 ea n = .ok (a, u) →
    (store = false → u.myCore.rltHit u.me.ctx false ea.toNat (ea.toNat + n) = none) →
    u.registerRange (!store) ea.toNat (ea.toNat + n) = .ok (i, v) →
    let cp : Copy :=
      { idx := v.tagCtr, hart := v.cur, store := store, vd := w.vd.toNat, regs := regs, ea := ea,
        locs := (List.range (regs * 32)).map fun k => a.locs.getD (8 * k) 0, efs := a.efs, done := 0, rlt := i, wm := wm, seen := [] }
    let t := (({ v with tagCtr := v.tagCtr + 1 } : State).onMyCore fun k => { k with copies := k.copies ++ [cp] })
    let sent := storeItems ea ((List.range regs).flatMap fun k => leBytes 256 (t.vf.reg (w.vd.toNat + k)).toNat)
    exec (vopInstr op w) s = .next ((c.advance
      (if store then t.onChunk fun q => { q with sig := sent.foldl sigAdd q.sig, engines := [.copy cp.idx] }
       else (t.onChunk fun q => { q with engines := [.copy cp.idx] }).onVf fun f =>
         (List.range regs).foldl (fun f k => f.setReg (w.vd.toNat + k) (f.reg (w.vd.toNat + k))) f)).wrapUp b c true)

/-- R245, R248, R250, R251: the arm form of CPRR, its send form, VRRED and VRLD send their packets where the route checks pass, VRRED in
packets of at most 256 bytes (log 50); the registers that CPRR arms, and those that VRLD loads, are unfilled until their data comes. -/
def Clause.VectorSends : Prop :=
  ∀ (op : Vop) (w : VWord) (s : State), s.solo = true → s.vectorReady op w = true →
    let b := s.openChunk true
    let m := memberOf op w
    let c := b.convoy (headerOf op) [m]
    let v := b.noting [m]
    let r := w.vs1.toNat
    let o := (s.x w.vs3).toNat
    let vd := w.vd.toNat
    let regs := 2 ^ (w.imm.toNat % 4)
    let goes (u : State) : Prop := exec (vopInstr op w) s = .next ((c.advance u).wrapUp b c true)
    (op = .cprrArm → goes ((v.onChunk fun q => { q with engines := [.fill] }).onMyCore fun k => k.awaitFill vd regs fun _ => .arm)) ∧
    (op = .cprrSend → v.checkSend r [6] .store o (256 * regs) 256 = .ok () →
      let t := s.me.rt r
      let first := (tokWbase t + tokNoff t + o) / 256
      goes ((List.range (2 * regs)).foldl (fun u g => (u.send r (.cprr (first + g / 2) (g % 2)) (o + 128 * g) 128
        (leBytes 128 (u.vf.group (vd + g / 2) (g % 2)).toNat)).2) v)) ∧
    (∀ n, (op, n) ∈ [(Vop.vrredAdd, 0), (.vrredMin, 1), (.vrredMax, 2)] →
      let data := m.dataBytes c v.vf
      v.checkSend r [3] .reduce o data.length 8 = .ok () →
      goes (if data = [] then v else v.sendAll r (.reduce n c.t.fmt c.t.wcode) o data)) ∧
    (op = .vrld → v.checkSend r [0, 1] .load o (256 * regs) 8 = .ok () →
      let u := (List.range (2 * regs)).foldl (fun u g => (u.send r (.vload (vd + g / 2) (g % 2)) (o + 128 * g) 128 []).2) v
      let x := (u.onChunk fun q => { q with engines := [.fill] }).onMyCore fun k => k.awaitFill vd regs fun g =>
        .vrld ((BitVec.ofNat 64 v.tagCtr).toNat + g) r (o + 128 * g)
      goes (x.onVf fun f => (List.range regs).foldl (fun f k => f.setReg (vd + k) (f.reg (vd + k))) f))

/-- R246, R249: VRSEND with a set of which every member passes the route checks and one is live registers its stripes; VENQ puts the whole elements of
its group into the queue up to the first that would park, and cuts VL to what was taken. -/
def Clause.VectorStripesAndQueues : Prop :=
  ∀ (w : VWord) (s : State), s.solo = true →
    let b := s.openChunk true
    (s.vectorReady .vrsend w = true →
      let m := memberOf .vrsend w
      let c := b.convoy (headerOf .vrsend) [m]
      let v := b.noting [m]
      let data := m.dataBytes c v.vf
      ∀ set, mapFind? s.me.a.rsets w.vs1.toNat = some set → set.members ≠ [] →
        (∀ r ∈ set.members, v.checkSend r [0, 1] .store (s.x w.vs3).toNat data.length 8 = .ok ()) →
        let live := set.members.filter fun r => decide (r ∉ set.failed)
        live ≠ [] → data ≠ [] →
        let j : SendJob :=
          { id := v.tagCtr, hart := v.cur, ctx := v.me.ctx, set := w.vs1.toNat, off := (s.x w.vs3).toNat, data := data,
            q := live.flatMap fun r => List.replicate (tokStripe (s.me.rt r)) r, sent := 0, stripes := (data.length + 255) / 256,
            failed := set.failed, resend := [], resendPos := 0,
            tokens := set.members.foldl (fun t r => mapPut t r (s.me.rt r)) [] }
        exec (.vrsend w) s = .next
          ((c.advance { v with tagCtr := v.tagCtr + 1, jobs := v.jobs ++ [j] }).wrapUp b c true)) ∧
    (s.vectorReady .venq w = true →
      let m := memberOf .venq w
      let c := b.convoy (headerOf .venq) [m]
      let v := b.noting [m]
      let data := m.dataBytes c v.vf
      ∀ (q : Nat) (u : State), v.phaseBad = false → v.qAddr (s.x w.vs3) = .ok (q, u) → u.queueOk q .enq = true →
        let es := (u.queueAt q).esize
        data.length % es = 0 →
        ∀ k t k' t', u.enqMany u.actor q es (data.length / es) data = .ok (k, t) →
          (u.qRelease q).enqMany u.actor q es (data.length / es) data = .ok (k', t') →
          let taken := if k = 0 then 0 else k' * es
          let x := if k = 0 then t else t'
          k' < 2 ^ 64 → es < 2 ^ 64 →
          exec (.venq w) s = .next ((c.advance (if taken < data.length then
            x.onVf fun f => { f with vl := BitVec.ofNat 64 (taken / (c.t.w / 8)), vpad := 0 } else x)).wrapUp b c true))

/-- R220-R222, R245-R251: the vector copies and sends. -/
def Obligations.VectorSendForms : Prop := Clause.VectorCopies ∧ Clause.VectorSends ∧ Clause.VectorStripesAndQueues

/-! Chunks (spec/14 R289-R294, spec/23 R392). -/

/-- R290, R291, R294: a chunk that no priority chunk holds back is squashed where a line it read or wrote was changed since it began, and else
committed; one formed by an instruction with its effect at a home, and the priority chunk, never conflict (R419, R294). -/
def Clause.Arbitration : Prop :=
  ∀ (s : State) (h : Nat) (c : Chunk), (s.hart h).chunk = some c → c.blank = false → (s.hart h).group = none → s.dev.testMode = false →
    s.heldByGrant h c = false →
    let changed : Prop := c.own = false ∧ c.prio = false ∧ (c.doomed = true ∨ ∃ l ∈ c.reads ++ c.writes, l ∈ c.ext)
    (changed → s.endChunk h = (s.squash h, false)) ∧ (¬ changed → s.endChunk h = ((s.setHart h (s.hart h)).commit h, true))

/-- R290, R367: a commit counts the chunk's instructions in INSTRET, leaves its signature in SIGLO and SIGHI, closes the chunk, and changes no
other register of any hart. -/
def Clause.CommitLeaves : Prop :=
  ∀ (s : State) (h : Nat) (c : Chunk), (s.hart h).chunk = some c → mapWf 0 (s.hart h).a.csr = true →
    let t := s.commit h
    (t.hart h).chunk = none ∧ (t.hart h).csr Csr.instret = (s.hart h).csr Csr.instret + BitVec.ofNat 64 c.count ∧
    (t.hart h).csr Csr.siglo = c.sig.setWidth 64 ∧ (t.hart h).csr Csr.sighi = (c.sig >>> 64).setWidth 64 ∧
    (∀ n, n ∉ [Csr.instret, Csr.siglo, Csr.sighi] → (t.hart h).csr n = (s.hart h).csr n) ∧
    (t.hart h).a.x = (s.hart h).a.x ∧ (t.hart h).a.f = (s.hart h).a.f ∧ (t.hart h).a.pc = (s.hart h).a.pc ∧
    (t.hart h).a.rt = (s.hart h).a.rt ∧ ∀ k, k ≠ h → (t.hart k).a = (s.hart k).a

/-- R293: a squash restores the hart's registers from the chunk's start and discards the chunk and the links; where the hart owns the vector
file, the checkpoint is back in it. -/
def Clause.SquashRestores : Prop :=
  ∀ (s : State) (h : Nat) (c : Chunk), (s.hart h).chunk = some c →
    let t := s.squash h
    (t.hart h).a = c.snap.arch ∧ (t.hart h).chunk = none ∧ (t.hart h).links = [] ∧ (t.hart h).status = .running ∧
    (∀ f, c.snap.vf = some f → (s.core (coreOf h)).owner = some h → (t.core (coreOf h)).vf = f) ∧
    (∀ k, k ≠ h → (t.hart k).a = (s.hart k).a) ∧ ∀ k, k ≠ coreOf h → t.core k = s.core k

/-- R392: a trap at the first instruction of a handler stops the hart with TCAUSE, TVAL and TVAL2 written, and is reported; mode, PC and the saved
status stay. -/
def Clause.DoubleFault : Prop :=
  ∀ (s : State) (cause : Nat) (tval tval2 : Word), s.me.atVec = true → s.me.chunk = none → mapWf 0 s.me.a.csr = true →
    let t := s.takeTrap cause tval tval2
    t.me.status = .halted ∧ t.csr Csr.tcause = BitVec.ofNat 64 cause ∧ t.csr Csr.tval = tval ∧ t.csr Csr.tval2 = tval2 ∧
    t.csr Csr.tepc = s.csr Csr.tepc ∧ t.csr Csr.tstat = s.csr Csr.tstat ∧ t.pc = s.pc ∧ t.me.a.mode = s.me.a.mode ∧
    ∃ e, t.outbox = s.outbox ++ [(s.me.ctx, e)]

/-- R289-R294, R392: how chunks end. -/
def Obligations.ChunkEnds : Prop := Clause.Arbitration ∧ Clause.CommitLeaves ∧ Clause.SquashRestores ∧ Clause.DoubleFault

/-! Events of the engines and of the fabric (spec/09 R221-R227, spec/10 R241-R251, spec/16 R319-R341, spec/21 R373). -/

/-- R290, R373: a chunk that waits goes to the arbiter again, a false match dooms one that runs, and a line whose read returned an error is
refetched once. -/
def Clause.ChunkAndDataEvents : Prop :=
  ∀ s : State,
    (∀ h c, (s.hart h).status = .arbiter → (s.hart h).chunk = some c → (s.hart h).sent = none → s.heldByGrant h c = false →
      exec (.chunkCommit h false) s = .next (s.endChunk h).1) ∧
    (∀ h c, (s.hart h).status = .running → (s.hart h).chunk = some c → c.own = false →
      exec (.chunkCommit h true) s = .next (s.onHart h fun x => { x with chunk := x.chunk.map fun c => { c with doomed := true } })) ∧
    (∀ h line check flip, mapFind? s.bad line = none → check = false ∨ s.flipSeen (s.hartMark h) line flip = true →
      exec (.readReturnError h line check flip) s = .next { s with bad := mapPut s.bad line check }) ∧
    ∀ line, mapFind? s.bad line ≠ none → line ∉ s.badHard →
      exec (.refetchReturn line true) s = .next { s with bad := mapErase s.bad line } ∧
      exec (.refetchReturn line false) s = .next { s with badHard := line :: s.badHard }

/-- R179, R221: a bank load that has its data fills its banks, and the next group of a copy moves between memory and its register; the last one ends
the copy and frees its range. -/
def Clause.TransferEvents : Prop :=
  ∀ (s : State) (core : Nat),
    (∀ bank l, mapFind? (s.core core).loads bank = some l → l.failed = none → s.refetching l.locs = false → s.hardAt l.locs = none →
      s.engineLate l.hart l.locs = false →
      let tile := (s.core core).bRec bank
      let colb := (typeOfCode (recType tile)).colBytes (recK tile)
      let lo := (recBase tile).toNat
      (s.core core).rltHit (s.hart l.hart).ctx false lo (lo + (recN tile - 1) * (recStride tile).toNat + colb) = none →
      let r := s.engineRead l.hart [] l.efs l.locs
      exec (.mbldLoadComplete core bank) s = .next (r.2.onCore core fun k => k.fillTile bank r.1)) ∧
    ∀ idx c, (s.core core).copies.find? (fun c => decide (c.idx = idx)) = some c → s.engineHeld c.hart = false →
      let g := c.done
      let va := c.ea + BitVec.ofNat 64 (128 * g)
      let reg := c.vd + g / 2
      let locs := ((c.locs.drop (16 * g)).take 16).flatMap fun l => span l 8
      s.engineLate c.hart locs = false →
      let moved (u : State) : State := u.onCore core fun k =>
        if g + 1 = 2 * c.regs then { k with copies := k.copies.filter (fun d => decide (d.idx ≠ idx)), rlt := mapErase k.rlt c.rlt }
        else { k with copies := k.copies.map fun d => if d.idx = idx then { d with done := g + 1, seen := nub (linesOf locs ++ d.seen) } else d }
      (c.store = true → exec (.copyGroupTransfer core idx) s = .next (moved ((s.engineWrite c.hart c.seen c.efs
        (locs.zip (leBytes 128 ((s.core core).vf.group reg (g % 2)).toNat))).publish c.hart core c.wm va (va + 128)))) ∧
      (c.store = false → (s.core core).sourceWaits (s.hart c.hart).ctx va.toNat 128 = false → s.refetching locs = false → s.hardAt locs = none →
        let r := s.engineRead c.hart c.seen c.efs locs
        exec (.copyGroupTransfer core idx) s = .next (moved (r.2.intoFile core fun f => f.setGroup reg (g % 2) (BitVec.ofNat 1024 (leNat r.1)))))

/-- R217, R218: an inbound port fetches the next element of the first of its bindings that has one left into its buffer, and an outbound port
writes the oldest element it holds. -/
def Clause.StreamEvents : Prop :=
  ∀ (s : State) (core port : Nat) (st : Stream) (b : Binding), mapFind? (s.core core).streams port = some st → st.active = some b →
    (∀ (ahead behind : List Binding) (p : Binding), b.outbound = false → s.engineHeld b.hart = false →
      b :: st.rest = ahead ++ p :: behind → (∀ a ∈ ahead, a.total ≤ a.done) → p.done < p.total → st.done < st.total →
      st.buf.length < 64 →
      let e := st.element st.done
      (s.core core).sourceWaits (s.hart b.hart).ctx e.1.toNat b.esize = false → s.refetching e.2 = false → s.engineLate b.hart e.2 = false →
      let r := s.engineRead b.hart p.seen (efPages p.pieces) e.2
      let all := ahead ++ { p with done := p.done + 1, seen := nub (linesOf e.2 ++ p.seen) } :: behind
      let st' : Stream := { active := all.head?, rest := all.drop 1, buf := st.buf ++ [BitVec.ofNat 144 (leNat r.1)] }
      exec (.streamElementFetch core port) s = .next (r.2.onCore core fun k => { k with streams := mapPut k.streams port st' })) ∧
    ∀ v rest, b.outbound = true → st.buf = v :: rest →
      let e := st.element b.done
      s.engineLate b.hart e.2 = false →
      let u := (s.engineWrite b.hart b.seen (efPages b.pieces) (e.2.zip (leBytes b.esize v.toNat))).publish b.hart core b.wm e.1
        (e.1 + BitVec.ofNat 64 b.esize)
      let st' : Stream := { st with active := some { b with done := b.done + 1, seen := nub (linesOf e.2 ++ b.seen) }, buf := rest }
      exec (.streamElementWrite core port) s = .next
        (u.onCore core fun k => ({ k with streams := mapPut k.streams port st' } : Core).endBinding port)

/-- R224, R226, R169: an advance whose range the mark has reached raises it, a notice brings the mark to its register or its launch, and a scatter-add is
performed at its port and its flags go back. -/
def Clause.HomeEvents : Prop :=
  ∀ s : State,
    (∀ i a, s.advances[i]? = some a → (s.cellAt (s.markAt a.cell) a.cell).2.2.ult a.lo = false →
      exec (.watermarkAdvance i) s = .next
        ((({ s with advances := s.advances.eraseIdx i } : State).advanceMark (s.markAt a.cell) a.cell a.hi).2)) ∧
    (∀ core wm i e, s.notify.findIdx? (fun e => decide (e.1 = core) && decide (e.2.1 = wm)) = some i → s.notify[i]? = some e →
      let u : State := { s with notify := s.notify.eraseIdx i }
      (core < 1024 → exec (.watermarkNotify core wm) s = .next (u.onCore core fun k => match mapFind? k.wm wm with
        | some r => { k with wm := mapPut k.wm wm { r with mark := e.2.2 } }
        | none => k)) ∧
      ∀ l, 1024 ≤ core → mapFind? s.launches (core - 1024) = some l →
        exec (.watermarkNotify core wm) s = .next { u with launches := mapPut s.launches (core - 1024) { l with
          readyAt := if l.readyAt = none ∧ e.2.2.ult l.wmThr = false then some s.time else l.readyAt } }) ∧
    ∀ i e, s.scatter[i]? = some e →
      let r := s.scatterAt e.hart e.mark e.loc (plainType (e.ty / 8) (e.ty % 8)) 0 (Rm.ofFrm e.rm) e.q e.v.toNat
      exec (.scatterAddPerform i) s = .next (({ r.2 with scatter := r.2.scatter.eraseIdx i } : State).onHart e.hart fun x =>
        { x with scatter := x.scatter.map fun p => (p.1 - 1, if r.1 = 0 then p.2 else p.2 ++ [(e.elem, r.1)]) })

/-- R163, R179, R218, R221, R226, R290, R373: the events of chunks and engines. -/
def Obligations.EngineEvents : Prop :=
  Clause.ChunkAndDataEvents ∧ Clause.TransferEvents ∧ Clause.StreamEvents ∧ Clause.HomeEvents

/-- R319, R325, R339: a switch passes a packet on whose tag and generation are right, through an open port, and rejects another with its cause,
or drops and counts it where it comes from a peer's old incarnation; a reply goes back over hops whose generation stands or that its request
crossed before the revocation, to this device's sender, and is dropped and counted at any other. -/
def Clause.SwitchEvents : Prop :=
  ∀ (s : State) (tag : Nat) (p : Packet), s.packet? tag = some p →
    (∀ h, p.at_ = .going h →
      (∀ c, s.hopCause p h = some c →
        (s.isOwn p = true ∨ p.orphan = false →
          exec (.switchForward tag) s = .next (s.answerPacket p h (.rejected (BitVec.ofNat 8 c)) 0)) ∧
        (s.isOwn p = false → p.orphan = true →
          exec (.switchForward tag) s = .next ((s.countStale (p.hop h).1).dropPacket tag))) ∧
      (s.hopCause p h = none → (p.hop h).1 ∉ s.portsDown →
        exec (.switchForward tag) s = .next (s.putPacket { p with at_ := if tokHops p.token ≤ h + 1 then .target else .going (h + 1) })) ∧
      (s.hopCause p h = none ↔ tagOk s.fabricKey p.token = true ∧ s.gen (p.hop h).1 = (p.hop h).2 ∧ h < tokHops p.token)) ∧
    ∀ n, p.at_ = .reply (n + 1) →
      let mine := s.isOwn p = true ∧ p.orphan = false
      (s.gen (p.hop n).1 = (p.hop n).2 ∨ (p.hop n).1 ∈ p.grace →
        (n ≠ 0 ∨ mine → exec (.replyHop tag) s = .next (s.putPacket { p with at_ := .reply n })) ∧
        (n = 0 → ¬ mine → exec (.replyHop tag) s = .next (s.dropPacket tag))) ∧
      (s.gen (p.hop n).1 ≠ (p.hop n).2 → (p.hop n).1 ∉ p.grace →
        (mine → exec (.replyHop tag) s = .next ((s.putPacket { p with at_ := .lost }).countStale (p.hop n).1)) ∧
        (¬ mine → exec (.replyHop tag) s = .next ((s.dropPacket tag).countStale (p.hop n).1)))

/-- R235, R240, R327, R337: the target performs an operation that passes its checks, in its order, and answers; one that fails a check is
answered with the cause; one whose page moved after its checks is answered "moved", and else performed; another module's answer is taken as it
comes. -/
def Clause.TargetEvents : Prop :=
  ∀ (s : State) (tag : Nat) (p : Packet), s.packet? tag = some p →
    let answered (u : State) (a : RemoteAnswer) (fl : BitVec 6) : State := u.answerPacket p (tokHops p.token) a fl
    (p.at_ = .target → s.mustFollow p = false → (∀ d t a, p.op ≠ .delegate d t a) →
      (tokDevice p.token = s.dev.id → s.cprrAway p = false → s.isOwn p = true ∨ p.orphan = false →
        (∀ e u, s.targetCheck p = (.ok e, u) →
          let r := u.performPacket p e.tctx
          exec (.targetPerform tag .here) s = .next (answered r.2.2 r.1 r.2.1)) ∧
        ∀ c u, s.targetCheck p = (.error c, u) →
          exec (.targetPerform tag .here) s = .next (answered u (.rejected (BitVec.ofNat 8 c)) 0)) ∧
      ∀ bytes, tokDevice p.token ≠ s.dev.id → p.op.fits (.bytes bytes) = true →
        exec (.targetPerform tag (.bytes bytes)) s = .next (answered s (.bytes bytes) 0)) ∧
    ∀ tctx, p.at_ = .home tctx →
      (∀ line, s.movedLine p = some line → exec (.targetPerform tag .here) s = .next (answered s (.moved line) 0)) ∧
      (s.movedLine p = none →
        let r := s.performPacket p tctx
        exec (.targetPerform tag .here) s = .next (answered r.2.2 r.1 r.2.1))

/-- R241, R242, R246, R250, R319, R337: what an answer does that has come back: a waiting instruction finds it, a posted one is acknowledged with its
flags or rejected, rejections through one register in order; a moved page sends the packet again, and loaded data fills its group. -/
def Clause.AnswerEvents : Prop :=
  ∀ (s : State) (tag : Nat) (p : Packet),
    (∀ a, s.arrived tag = some (p, a) → p.op.waits = true → (∀ line, a ≠ .moved line) →
      s.earlierRejection p = false ∨ (∀ c, a ≠ .rejected c) →
      exec (.remoteReplyArrival tag) s = .next (s.putPacket { p with at_ := .back })) ∧
    (∀ v, s.arrived tag = some (p, .performed v) → p.op.waits = false →
      let u := s.dropPacket tag
      let w := if p.flags = 0 then u else u.onReplicas p.sctx p.hart fun x => x.async fun a =>
        { a with csr := mapSet 0 a.csr Csr.fflags (mapGet 0 a.csr Csr.fflags ||| p.flags.setWidth 64) }
      exec (.remoteAckArrival tag) s = .next (match p.op with | .stripe j _ => w.endJob j | _ => w)) ∧
    (∀ c, s.arrived tag = some (p, .rejected c) → p.op.waits = false → s.earlierRejection p = false → s.loadReady p = true →
      exec (.negativeAckArrival tag) s = .next (s.posted p c.toNat)) ∧
    (∀ line, s.arrived tag = some (p, .moved line) →
      let q := s.stamp { p with reloc := line, answer := none }
      exec (.movedResend tag) s = .next (q.2.putPacket q.1)) ∧
    ∀ b reg g, s.arrived tag = some (p, .bytes b) → p.op = .vload reg g →
      (s.loadHolders p).all (fun h => s.awaits p.sctx h (2 * reg + g) tag) = true →
      exec (.vrldGroupArrival tag g) s = .next (s.settleLoad p (2 * reg + g) (some (BitVec.ofNat 1024 (leNat b))) 0)

/-- R241, R251, R339: a group of a copy between vector files fills the armed group; one that found no armed group is sent again after a
microsecond; an operation without an answer for 2 ms is answered for with ROUTE_REVOKED, and its packet goes on, if it is under way, without it. -/
def Clause.TimerEvents : Prop :=
  ∀ s : State,
    (∀ core reg grp h data, (s.core core).owner = some h → s.engineHeld h = false → reg < 32 → grp < 2 →
      mapFind? (s.core core).fills (2 * reg + grp) = some .arm →
      exec (.cprrGroupArrival core reg grp (s.hart h).ctx data) s = .next ((s.intoFile core fun f => f.setGroup reg grp data).onCore core fun k =>
        { k with fills := mapErase k.fills (2 * reg + grp) })) ∧
    (∀ tag p, s.packet? tag = some p → p.at_ = .wait → p.sentAt + 1000 ≤ s.time →
      let q := s.stamp { p with sentAt := s.time }
      exec (.cprrResendTimer tag) s = .next (q.2.putPacket q.1)) ∧
    ∀ tag p, s.packet? tag = some p → s.isOwn p = true → p.orphan = false → p.at_ ≠ .back → p.sentAt + 2000000 ≤ s.time →
      s.loadReady p = true →
      let underWay := (p.answer = none ∧ (p.at_ = .target ∨ (∃ h, p.at_ = .going h) ∨ ∃ c, p.at_ = .home c)) ∨
        (p.answer ≠ none ∧ ∃ n, p.at_ = .reply (n + 1))
      let u : State := { s with tagCtr := s.tagCtr + 1 }
      let q : Packet := { p with tag := s.tagCtr }
      let done (v : State) : State :=
        if p.op.waits then { v with packets := v.packets ++ [{ q with answer := some (.rejected 0x09), at_ := .back }] }
        else v.posted q Cause.routeRevoked
      (underWay → exec (.remoteTimeout tag) s = .next (done (u.putPacket { p with orphan := true }))) ∧
      (¬ underWay → exec (.remoteTimeout tag) s = .next (done (u.dropPacket tag)))

/-- R325, R328, R330, R332, R339: a replayed flit only counts its failures, a link down after 16 of them and a rejoined peer advance the generations
of their ports, and a new epoch lets the packets leave that waited for it. -/
def Clause.LinkEvents : Prop :=
  ∀ s : State,
    (∀ port good, port ∉ s.portsDown → mapGet 0 s.linkFails port < 16 → exec (.linkFlitReplay port good) s = .next
      { s with linkFails := if good then mapErase s.linkFails port else mapPut s.linkFails port (mapGet 0 s.linkFails port + 1) }) ∧
    (∀ a b, a ∉ s.portsDown → b ∉ s.portsDown → a ≠ b → 16 ≤ mapGet 0 s.linkFails a ∨ 16 ≤ mapGet 0 s.linkFails b →
      let u := (s.advancePort a).advancePort b
      exec (.linkDown a b) s = .next
        { u with portsDown := a :: b :: u.portsDown, linkFails := mapErase (mapErase u.linkFails a) b }) ∧
    (∀ device ports, device ≠ s.dev.id → device < 4096 → (∀ p ∈ ports, facesDevice device p = true) →
      let u := s.rejoined device
      exec (.peerRejoin device ports) s = .next { u with
        portsDown := u.portsDown.filter fun p => decide (p ∉ ports),
        packets := u.packets.map fun p => if p.src = device then { p with orphan := true } else p }) ∧
    ∀ stream g, mapFind? s.gcm stream = some g → g.rekeying = true →
      let g' := { g with epoch := (g.epoch + 1) % 65536, counter := 0, high := 0, seen := [], rekeying := false }
      let u : State := { s with gcm := mapPut s.gcm stream g' }
      exec (.cipherRekey stream) s = .next (u.packets.foldl (fun v p =>
        if p.at_ = .held ∧ p.stream = stream then (v.stamp p).2.putPacket (v.stamp p).1 else v) u)

/-- R235-R251, R319-R339: the events of the fabric. -/
def Obligations.FabricEvents : Prop :=
  Clause.SwitchEvents ∧ Clause.TargetEvents ∧ Clause.AnswerEvents ∧ Clause.TimerEvents ∧ Clause.LinkEvents

/-! Events of the replicas and of the Dispatch Unit (spec/19, spec/20, spec/21, spec/24). -/

/-- R364, R366, R368-R371: a forwarded value wakes the replica that waits for it, the last signature decides, two equal signatures commit, late replicas
are stopped, and an event waits for the boundary that every replica reaches. -/
def Clause.ReplicaEvents : Prop :=
  ∀ s : State,
    (∀ h g, s.groupOf h = some g → (s.hart h).status = .parked .forward → (s.as h).fwdPos < (g.received h).length →
      exec (.forwardValueArrival h) s = .next (s.onHart h (·.setStatus .running))) ∧
    (∀ n r G sg, mapFind? s.groups n = some G → (s.hart (mapGet 0 G.harts r)).sent = some sg → r ∈ G.live → mapFind? G.sigs r = none →
      s.channelOpen G r G.lead = true →
      let sigs := mapPut G.sigs r sg
      let u : State := { s with groups := mapPut s.groups n { G with sigs := sigs, timer := some (G.timer.getD 0) } }
      (∀ k ∈ G.live, mapFind? sigs k ≠ none) → exec (.signatureArrival n r) s = .next (u.compare n)) ∧
    (∀ n r G sg, mapFind? s.groups n = some G → (s.hart (mapGet 0 G.harts r)).sent = some sg → r ∈ G.live → mapFind? G.sigs r = none →
      s.channelOpen G r G.lead = true →
      let sigs := mapPut G.sigs r sg
      (∃ k ∈ G.live, mapFind? sigs k = none) → exec (.signatureArrival n r) s = .next
        { s with groups := mapPut s.groups n { G with sigs := sigs, timer := some (G.timer.getD 0) } }) ∧
    (∀ n G a b, mapFind? s.groups n = some G → G.live = [a, b] → G.vote = none → mapGet 0 G.sigs a = mapGet 0 G.sigs b →
      s.compare n = s.commitGroup n) ∧
    (∀ n G a b, mapFind? s.groups n = some G → G.live = [a, b] → 100000 ≤ G.timer.getD 0 → mapFind? G.sigs a ≠ none → mapFind? G.sigs b = none →
      exec (.replicaTimeout n) s = .next ((((s.stopReplica n b Cause.replTimeout).squash (mapGet 0 G.harts a)).trapAtNext (mapGet 0 G.harts a)
        Cause.replTimeout (BitVec.ofNat 64 b) 0))) ∧
    ∀ n G, mapFind? s.groups n = some G → G.eventAt = none → (∃ r ∈ G.live, (s.hart (mapGet 0 G.harts r)).eventWaits = true) →
      ∃ t at_, exec (.replicaEventDelivery n) s = .next t ∧
        (mapFind? t.groups n).bind Group.eventAt = some at_ ∧ ∀ r ∈ G.live, (s.hart (mapGet 0 G.harts r)).ordinal ≤ at_

/-- R346, R347, R350, R352: a sound launch queue's record is taken where no earlier record of it is held; a placement that fits starts its instance; the
deficits are charged once a microsecond. -/
def Clause.LaunchEvents : Prop :=
  ∀ s : State,
    (∀ n k c q e t, s.ctx? n = some c → c.queues[k]? = some q → s.dev.serves = true → c.alive = true →
      (∀ p ∈ s.launches, p.2.ctx = n → p.2.queue = k → p.2.count ≤ p.2.next) →
      let a := s.launchActor n k s.tagCtr
      let b := s.qcb a.mark q
      b.pois = false → b.sound q = true → s.deqAt a q = .ok (some (e, t)) →
      let r := Record.ofBytes e
      let l : Launch :=
        { ctx := n, queue := k, entry := r.entry, args := r.args, count := r.count, shape := r.shape, doneVa := r.done, wmVa := r.wmCell,
          wmCell := none, wmThr := r.wmThr, cqVa := r.cq, slotVa := BitVec.ofNat 64 (b.base + b.head % b.cap * b.esize), readyAt := none, next := 0 }
      let u : State := { t with tagCtr := t.tagCtr + 1, launches := mapPut t.launches s.tagCtr l }
      (∀ reason, u.recordFault c k e = some reason → exec (.launchRecordTake n k) s = .next (u.refuseLaunch s.tagCtr reason)) ∧
      (u.recordFault c k e = none → exec (.launchRecordTake n k) s = .next (u.bindLaunch s.tagCtr))) ∧
    (∀ n l c since harts, mapFind? s.launches n = some l → s.ctx? l.ctx = some c → l.readyAt = some since →
      let die := dieOf ((harts.headD []).headD 0)
      let u := s.refill die
      u.dev.serves = true → c.alive = true → l.next < l.count → u.validPlace l c harts = true →
      u.mayTake die (fun e => !e.resumed && decide (e.key = n)) harts.flatten = true → shapeLevel l.shape = 0 →
      let v := u.startInstance n l c l.next (u.aged (shapePrio l.shape) since) harts
      exec (.instancePlace n harts) s = .next { v with launches := mapPut v.launches n { l with next := l.next + 1 } }) ∧
    ∀ die, die < 4 → mapGet 0 s.dev.ticks die < s.time / 1000 →
      ∃ t, exec (.deficitTick die) s = .next t ∧ mapGet 0 t.dev.ticks die = mapGet 0 s.dev.ticks die + 1 ∧
        t.harts = s.harts ∧ t.mem = s.mem ∧ t.instances = s.instances

/-- R354, R394-R397: notice, pre-emption, interrupts and the timer. -/
def Clause.InterruptEvents : Prop :=
  ∀ s : State,
    (∀ n core, s.preemptGrounds n core = true → (∃ h ∈ s.boundHarts n (s.swapCores n core), (s.hart h).preempt = false ∧ (s.hart h).noticeUntil = none) →
      let notice := (s.ctx? n).map Ctx.notice = some true
      exec (.preemptionRequest n core) s = .next ((s.boundHarts n (s.swapCores n core)).foldl (fun u h => u.onHart h fun x =>
        if x.preempt = true ∨ x.noticeUntil ≠ none then x
        else if notice ∧ (x.csr Csr.tstat).getLsbD 1 = true then { x with irqPreempt := true, noticeUntil := some (u.time + 50000) }
        else { x with preempt := true }) s)) ∧
    (∀ n core, (∃ h ∈ s.boundHarts n [core], ∃ t, (s.hart h).noticeUntil = some t ∧ t ≤ s.time) →
      exec (.preemptNoticeExpiry n core) s = .next
        (((s.boundHarts n [core]).filter fun h => match (s.hart h).noticeUntil with | some t => decide (t ≤ s.time) | none => false).foldl
          (fun u h => u.onHart h fun x => { x with preempt := true, noticeUntil := none, irqPreempt := false }) s)) ∧
    (∀ h, s.preemptDeferred h = true → (s.hart h).releaseT + bits ((s.hart h).csr Csr.phase) 39 8 ≤ s.cycle →
      exec (.timedDeferralExpiry h) s = .next (s.onHart h fun x => { x with deferOver := true })) ∧
    (∀ n c, s.ctx? n = some c → c.tick ≠ 0 → c.nextTick ≤ s.time →
      ∃ t, exec (.timerTick n) s = .next t ∧ (t.ctx? n).map Ctx.nextTick = some (c.nextTick + c.tick * 1000) ∧
        ∀ h, (mapFind? s.harts h).isSome = true → (s.hart h).ctx = n → (s.hart h).status ≠ .free → (t.hart h).irqTimer = true) ∧
    ∀ h a until_, (s.hart h).status = .parked (.wait a (some until_)) → until_ ≤ s.time →
      exec (.waitTimeout h) s = .next (s.onHart h fun x =>
        { x with status := .running, pending := some { pc := x.a.pc, isWait := true, timedOut := true } })

/-- R19, R394, R395: a hart by itself that stands at a pre-emption point with IE set and no open chunk takes its interrupt: the entry of R19, with TVAL by
the kind of interrupt. -/
def Clause.InterruptEntry : Prop :=
  ∀ (s : State) (h cause : Nat) (v : Word), (s.hart h).irq s.time = some (cause, v) → s.irqHarts h = [h] → s.atPoint h = true →
    ((s.hart h).csr Csr.tstat).getLsbD 1 = true → (s.hart h).trapAt = none → (s.hart h).chunk = none → (s.hart h).status = .running →
    (s.hart h).atVec = false → (s.hart h).group = none → (s.hart h).a.lock = false → mapWf 0 (s.hart h).a.csr = true → s.cur = h →
    ∃ t, exec (.interruptTake h) s = .next t ∧ t.csr Csr.tepc = s.pc ∧ t.csr Csr.tcause = BitVec.ofNat 64 cause ∧ t.csr Csr.tval = v ∧
      t.csr Csr.tval2 = 0 ∧ t.me.a.mode = .s ∧ t.pc = s.csr Csr.tvec &&& ~~~1#64 ∧ (t.csr Csr.tstat).getLsbD 1 = false ∧
      (t.csr Csr.tstat).getLsbD 2 = true ∧ (cause = Cause.timer → t.me.irqTimer = false) ∧
      (cause = Cause.preempt → t.me.irqPreempt = false) ∧ (cause = Cause.supervisorCall → t.me.irqCall = none)

/-- R396, R397, R357: a swap saves a context's cores once all its harts there have halted and takes them back as they were; a visit begins an interval
after the start of the one before, and a good result opens the cluster and brings its scratchpad segments back. -/
def Clause.SwapEvents : Prop :=
  ∀ s : State,
    (∀ n core c, s.ctx? n = some c → c.alive = true →
      let cores := s.swapCores n core
      let hs := s.boundHarts n cores
      hs ≠ [] → (∃ h ∈ hs, (s.hart h).preempt = true) → (∀ h ∈ hs, s.haltedFor h = true) → (∀ k ∈ cores, (s.core k).swapQuiet hs = true) →
      ∃ t, exec (.swapOut n core) s = .next t ∧
        let u := cores.foldl (fun u k => u.saveCore s.nextSwap n true k) s
        t.images = u.images ∧ t.harts = u.harts ∧ t.mem = u.mem) ∧
    (∀ n core e, let u := s.refill (core / 256)
      (u.imagesOn n core).find? (fun e => u.mayReturn (core / 256) (u.swapImages (keySwap e.1))) = some e →
      ∃ t, exec (.swapIn n core) s = .next t ∧
        let v := (u.swapImages (keySwap e.1)).foldl State.loadCore u
        t.harts = v.harts ∧ t.cores = v.cores ∧ t.mem = v.mem) ∧
    (∀ k, (s.cluster k).visitAt = none → k = visitCluster s.dev.visits → s.dev.nextVisit ≤ s.time → s.dev.booted = true →
      (s.clusters.all fun e => e.2.visitAt.isNone) = true → (s.cluster k).fenced = false →
      ∃ t, exec (.selftestVisit k) s = .next t ∧ (t.cluster k).visitAt = some s.time ∧ t.dev.visits = s.dev.visits + 1 ∧
        t.dev.nextVisit = s.time + s.dev.selftestMs * 1000000 ∧ t.harts = s.harts ∧ t.mem = s.mem) ∧
    ∀ k t0 unit, (s.cluster k).visitAt = some t0 → (s.cluster k).decanted = true → unit < 5 →
      exec (.selftestResult k true unit) s = .next
        ((coresOfCluster k).foldl State.returnSegs (s.onCluster k fun q => { q with decanted := false, visitAt := none }))

/-- The events of the replicas and of the Dispatch Unit. -/
def Obligations.DispatchEvents : Prop :=
  Clause.ReplicaEvents ∧ Clause.LaunchEvents ∧ Clause.InterruptEvents ∧ Clause.InterruptEntry ∧ Clause.SwapEvents

/-! Events of the host and of management (spec/18, spec/22, spec/24, spec/25). -/

/-- R379, R380, R384, R390: a page request goes into its function's request queue, a reply answers the request that it names, and the host answers its page
requests and invalidates its translations. -/
def Clause.PagingEvents : Prop :=
  ∀ s : State,
    (∀ f t i r u, mapFind? s.handles (handleKey 0 (64 + f)) = some t →
      s.pageReqs.findIdx? (fun r => decide (r.func = f) && !r.queued) = some i → s.pageReqs[i]? = some r →
      (s.qcb (s.ctxActor t.ctx).mark t.qcb).sound t.qcb = true → s.enqAt (s.ctxActor t.ctx) t.qcb (s.reqElem r) = .ok (some u) →
      exec (.pageRequestEnqueue f) s = .next { u with pageReqs := s.pageReqs.set i { r with queued := true } }) ∧
    (∀ f t e u i r, mapFind? s.handles (handleKey 0 (128 + f)) = some t → (s.qcb (s.ctxActor t.ctx).mark t.qcb).sound t.qcb = true →
      s.deqAt (s.ctxActor t.ctx) t.qcb = .ok (some (e, u)) →
      u.pageReqs.findIdx? (fun r => decide (r.func = f) && r.queued && r.answer.isNone && decide (u.reqTag r = leNat (e.take 8))) = some i →
      u.pageReqs[i]? = some r → r.hart < 2 ^ 20 →
      let r' : PageReq := { r with answer := some (decide (leNat ((e.drop 8).take 1) % 4 = 0)) }
      exec (.pageReplyReceive f) s = .next { u with pageReqs := u.pageReqs.set i r' }) ∧
    (∀ r ok, s.hostReqs.find? (fun q => decide (q.idx = r.idx) && q.answer.isNone) = some r →
      r.idx ∈ ((s.hostReqs.filter fun q => q.answer.isNone && decide (q.function = r.function)).take 256).map HostReq.idx →
      exec (.hostPageRequestAnswer r.idx ok) s = .next { s with
        hostReqs := s.hostReqs.map fun q => if q.idx = r.idx then { q with answer := some ok } else q,
        atc := if ok then (r.addr / 4096 :: s.atc.filter (· ≠ r.addr / 4096)).take 4096 else s.atc }) ∧
    ∀ lo len, s.hostBusy (lo / 4096 * 4096) (len + lo % 4096) = false →
      exec (.atsInvalidation lo len) s = .next { s with atc := s.atc.filter fun p => decide (lo + len ≤ p * 4096) || decide (p * 4096 + 4096 ≤ lo) }

/-- R403, R404: the queue ports: a write enqueues the first bytes of its line, or waits at the port where the queue is full; a read gives the snapshot, or
dequeues; an access that fits no port is dropped and reported. A window's line is delivered. -/
def Clause.PortEvents : Prop :=
  ∀ (s : State) (f handle : Nat), s.portOpen f handle = true →
    (∀ t, s.portTarget f handle (64 * handle) = .ok t →
      let a := s.ctxActor t.ctx
      let c := s.qcb a.mark t.qcb
      (∀ (data : Line), s.portHolds f = false → t.ctx = 0 ∨ s.ctxExited t.ctx = false → c.sound t.qcb = true → c.kind ≠ 3 →
        (c.kind = 4 → f = 0) → c.esize ≤ 64 →
        let e := (leBytes 64 data.toNat).take c.esize
        (∀ u, s.enqAt a t.qcb e = .ok (some u) → exec (.queuePortEnqueue f handle data) s = .next u) ∧
        (s.enqAt a t.qcb e = .ok none → exec (.queuePortEnqueue f handle data) s = .next (s.setWaiters a.mark t.qcb
          { s.waitersOf t.qcb with enq := (s.waitersOf t.qcb).enq ++ [{ hart := 0, kind := .port f, elem := e }] }))) ∧
      let r := s.snapshot a t.qcb
      exec (.queuePortQstatRead f handle) s = .next (r.2.linkCompletes f (leBytes 8 r.1 ++ List.replicate 56 0))) ∧
    (∀ t, s.portTarget f handle (0x10000 + 128 * handle) = .ok t →
      let a := s.ctxActor t.ctx
      let c := s.qcb a.mark t.qcb
      c.sound t.qcb = true → c.kind ≠ 1 → c.kind ≠ 4 → c.esize ≤ 64 →
      (∀ e u, s.deqAt a t.qcb = .ok (some (e, u)) → exec (.queuePortDequeueRead f handle) s = .next
        (u.linkCompletes f (List.replicate 64 0 ++ (e ++ List.replicate 64 0).take 64))) ∧
      (s.deqAt a t.qcb = .ok none → exec (.queuePortDequeueRead f handle) s = .next
        (s.linkCompletes f (leBytes 8 2 ++ List.replicate 120 0)))) ∧
    (∀ offset, exec (.queuePortBadAccess f offset) s = .next
      ((s.portError f (if offset < 0x10000 then offset / 64 else (offset - 0x10000) / 128) 1 offset).linkCompletes f [])) ∧
    ∀ n w offset data, mapFind? s.windows n = some w → s.portServed w.function = true → offset % 64 = 0 → data.length % 64 = 0 → data ≠ [] →
      w.offset ≤ offset → offset + data.length ≤ w.offset + (w.hi.toNat - w.lo.toNat) →
      w.va offset + data.length ≤ s.windowMark w + 0x100000 → w.waiting = [] →
      exec (.windowWrite n offset data false) s = .next ((s.windowPerform n offset data).windowDrain n 1)

/-- R404, R411, R416, R417: an interface error takes the interface to ERROR and halts its context's harts; TDISP moves the interface; a halted hart is
restarted with SUPERVISOR_CALL, a call waits at its hart, and heat slows the clock or halts every hart. -/
def Clause.DeviceEvents : Prop :=
  ∀ s : State,
    (∀ f, 0 < f → f < 64 → (s.func f).tdi ≠ .error → s.funcCtx f ≠ 0 →
      ∃ t, exec (.tdiError f) s = .next t ∧ (t.func f).tdi = .error ∧ t.mem = s.mem ∧
        (∀ h, (s.hart h).ctx = s.funcCtx f → (mapFind? s.harts h).isSome = true → (s.hart h).status ∉ [.free, .halted, .stopped] →
          (t.hart h).haltReq = true) ∧ ∃ e, t.outbox = s.outbox ++ [(s.funcCtx f, e)]) ∧
    (∀ f dest, 0 < f → f < 64 → s.dev.portsOpen = true →
      exec (.tdispRequest f dest) s = .next
        (if ((s.func f).tdi, dest) ∈ [(.configUnlocked, .configLocked), (.configLocked, .run)] ∨ dest = .configUnlocked
         then s.onFunc f fun x => { x with tdi := dest } else s)) ∧
    (∀ h v, (s.hart h).status = .halted → s.dev.portsOpen = true →
      exec (.hartRestart h v) s = .next (s.onHart h fun x =>
        { x with status := .running, atVec := false, resumeTrap := some (Cause.supervisorCall, v, 0) })) ∧
    (∀ h v n, s.ctxOfHart h = some n → s.dev.portsOpen = true →
      exec (.hostSupervisorCall h v) s = .next (s.onSaved n h fun x => { x with irqCall := some v })) ∧
    (∀ c, c < 115 → exec (.thermalEvent c) s = .next { s with dev := s.dev.slower s.cycle s.time }) ∧
    ∀ c, 115 ≤ c → ∃ t, exec (.thermalEvent c) s = .next t ∧ t.dev.tooHot = true ∧ t.mem = s.mem ∧
      ∀ h, (mapFind? s.harts h).isSome = true → (s.hart h).status ∉ [.free, .halted, .stopped] → (t.hart h).haltReq = true

/-- R339, R357, R417: a reset brings every register, the memory and the cores back to what reset gives, keeps the module's number, advances the
generations of its ports, and opens them only after a good boot; recovery data is taken only after a failed one. -/
def Clause.ResetEvents : Prop :=
  ∀ s : State,
    (∀ links, ∃ t, exec (.deviceReset true links) s = .next t ∧ t.harts = [] ∧ t.cores = [] ∧ t.clusters = [] ∧ t.ctxs = [] ∧
      t.dev.id = s.dev.id ∧ t.dev.portsOpen = true ∧ t.dev.booted = true ∧ t.dev.links = links ∧
      ∀ p, mapFind? s.gens p = none → facesDevice s.dev.id p = true → mapGet 0 s.rejoins s.dev.id < 126 → t.gen p = s.gen p + 1) ∧
    (∀ links, ∃ t, exec (.deviceReset false links) s = .next t ∧ t.harts = [] ∧ t.mem = [] ∧ t.dev.bootFailed = true ∧ t.dev.portsOpen = false) ∧
    ∀ data done,
      (s.dev.bootFailed = true → exec (.recoveryWrite data done) s = .next
        (({ s with dev := { s.dev with recovery := s.dev.recovery ++ data } } : State).answerDone none done 1)) ∧
      (s.dev.bootFailed = false → exec (.recoveryWrite data done) s = .next (s.answerDone none done 3))

/-- R407-R409: the SPDM responder. -/
def Clause.SpdmEvents : Prop :=
  ∀ (s : State) (f : Nat), f < 64 →
    exec (.spdmGetVersion f) s = .next ((s.spdmStage f 1).spdmSend f [0x04, 0x12, 0x13]) ∧
    exec (.spdmGetCapabilities f) s = .next ((s.spdmStage f 2).spdmSend f [0x61]) ∧
    exec (.spdmNegotiateAlgorithms f) s = .next ((s.spdmStage f 3).spdmSend f [0x63, 0x80, 0x02, 0x02]) ∧
    exec (.spdmGetDigests f) s = .next (s.spdmSend f (0x01 :: BitVec.ofNat 8 (s.spdm.chains.foldl (fun m e => m + 2 ^ e.1) 0) ::
      s.spdm.chains.flatMap fun e => digestBytes (sha384 e.2))) ∧
    (∀ code, exec (.spdmUnsupported f code) s = .next (s.spdmError f 7)) ∧
    (∀ slot c, s.slotChain f slot = .ok c →
      (∀ len, len < c.length → let u : State := { s with spdm := { s.spdm with reading := mapPut s.spdm.reading (f * 8 + slot) c } }
        0 < c.length →
        exec (.spdmGetCertificate f slot 0 len) s = .next (u.spdmSend f
          (0x02 :: BitVec.ofNat 8 slot :: leBytes 2 len ++ leBytes 2 (c.length - len) ++ c.take len))) ∧
      ∀ nonce : BitVec 256,
        let msg := BitVec.ofNat 8 slot :: digestBytes (sha384 c) ++ leBytes 32 nonce.toNat
        let waits (kind : Nat) (code : Byte) : SpdmReq :=
          { function := f, slot := slot, kind := kind, reply := code :: msg ++ Config.sign c msg }
        exec (.spdmChallenge f slot nonce) s = .next { s with spdm := { s.spdm with open_ := s.spdm.open_ ++ [waits 3 0x03] } } ∧
        exec (.spdmKeyExchange f slot nonce) s = .next { s with
          spdm := { s.spdm with open_ := s.spdm.open_ ++ [waits 4 0x64], session := mapPut s.spdm.session f (Config.session s.freeCtr) },
          freeCtr := s.freeCtr + 1 }) ∧
    (∀ index b, (f = 0 ∨ index ≤ 4 ∨ index = 0x10 + f) → s.measureBlock index = some b →
      exec (.spdmGetMeasurements f index) s = .next (s.spdmSend f (0x60 :: BitVec.ofNat 8 index :: b))) ∧
    (mapFind? s.spdm.session f ≠ none → (∀ r ∈ s.spdm.open_, r.function = f → r.kind ≠ 4) →
      exec (.spdmFinish f) s = .next (({ s with spdm := { s.spdm with ideKeyed := nub (f :: s.spdm.ideKeyed) } } : State).spdmSend f [0x65])) ∧
    (∀ slot chain, 0 < slot → slot < 8 → mapFind? s.spdm.heldRewrite slot = none →
      exec (.spdmSetCertificate f slot chain) s = .next (s.holdRewrite slot { chain := chain, function := some f, done := none })) ∧
    ∀ slot r, mapFind? s.spdm.heldRewrite slot = some r → (∀ q ∈ s.spdm.open_, q.slot ≠ slot) → (∀ e ∈ s.spdm.reading, e.1 % 8 ≠ slot) →
      r.function = some f → r.done = none →
      exec (.certificateRewriteApply slot) s = .next (({ s with spdm := { s.spdm with
        chains := mapPut s.spdm.chains slot r.chain, heldRewrite := mapErase s.spdm.heldRewrite slot } } : State).spdmSend f [0x6E, BitVec.ofNat 8 slot])

/-- R379-R409, R416, R417: the events of the host. -/
def Obligations.HostEvents : Prop :=
  Clause.PagingEvents ∧ Clause.PortEvents ∧ Clause.DeviceEvents ∧ Clause.ResetEvents ∧ Clause.SpdmEvents

/-- R388, R410: a translation invalidation, its element taken, drops the entries that it names and is answered once no access under way uses one; a supervisor acts on
its own context or function only. -/
def Clause.InvalidationEvents : Prop :=
  ∀ (s : State) (issuer : Issuer) (n asid f : Nat) (start length done : Word), s.dev.booted = true →
    let t (op : Nat) : State := s.takeRequest op issuer done
    let r := roundOut start length
    (ownContext issuer n = true →
      ((t 1).ctx? n ≠ none → exec (.invalidateVaRange issuer n asid start length done) s = .next
        ((t 1).invalidate issuer [n] false r.1 r.2 (·.inSpace n asid r.1 r.2) done)) ∧
      ((t 2).ctx? n ≠ none → exec (.invalidateAsid issuer n asid done) s = .next
        ((t 2).invalidate issuer [n] false 0 (2 ^ 64) (·.inSpace n asid 0 (2 ^ 64)) done)) ∧
      ((t 3).ctx? n ≠ none → exec (.invalidateContext issuer n done) s = .next
        ((t 3).invalidate issuer [n] false 0 (2 ^ 64) (fun e => decide (e.ctx = n)) done))) ∧
    (ownContext issuer n = false →
      exec (.invalidateVaRange issuer n asid start length done) s = .next ((t 1).answerDone issuer done 3) ∧
      exec (.invalidateAsid issuer n asid done) s = .next ((t 2).answerDone issuer done 3) ∧
      exec (.invalidateContext issuer n done) s = .next ((t 3).answerDone issuer done 3)) ∧
    (f < 64 →
      ((t 4).ownFunction issuer f = true → exec (.invalidateGpaRange issuer f start length done) s = .next ((t 4).invalidate issuer ((t 4).ctxsOf f) true r.1 r.2
        (fun e => decide (e.ctx ∈ (t 4).ctxsOf f) && decide (r.1 < e.gpa * 4096 + e.gsize) && decide (e.gpa * 4096 < r.2)) done)) ∧
      ((t 5).ownFunction issuer f = true → exec (.invalidateFunction issuer f done) s = .next
        ((t 5).invalidate issuer ((t 5).ctxsOf f) true 0 (2 ^ 64) (fun e => decide (e.ctx ∈ (t 5).ctxsOf f)) done))) ∧
    ((t 4).ownFunction issuer f = false → exec (.invalidateGpaRange issuer f start length done) s = .next ((t 4).answerDone issuer done 3)) ∧
    ((t 5).ownFunction issuer f = false → exec (.invalidateFunction issuer f done) s = .next ((t 5).answerDone issuer done 3)) ∧
    ∀ i ctxs guest lo hi chunks, mapFind? s.mgmt i = some (.invalidate ctxs guest lo hi chunks done issuer) →
      s.translationBusy ctxs guest lo hi chunks = false →
      exec (.invalidationDone i) s = .next (({ s with mgmt := mapErase s.mgmt i } : State).answerDone issuer done 1)

/-- R335, R336, R346: CREATE sets a context up with its grants, its key and its queues and answers 1; DESTROY stops it, advances the generations of the routes into its
windows and drains; its key is then killed at every holder, which drops the lines that hold it, and a slow retirement is reported. The number and the key slot that the
RKC assigns come with the specification (log 132). -/
def Clause.ContextEvents : Prop :=
  ∀ s : State,
    (∀ spec : CreateSpec, s.dev.booted = true →
      let t := s.takeRequest 0x10 none spec.done
      (createBad spec = true → exec (.create none spec) s = .next (t.hostDone spec.done 2)) ∧
      (createBad spec = false → s.createRefused spec = true → t.createRefused spec = true → exec (.create none spec) s = .next (t.hostDone spec.done 3)) ∧
      (createBad spec = false → t.createRefused spec = false → s.assignable spec = true →
        ∃ u : State, exec (.create none spec) s = .next (u.hostDone spec.done 1) ∧
        u.dev = t.dev ∧ ∃ c : Ctx, u.ctx? spec.ctx = some c ∧ c.cores = spec.cores ∧ c.asids = spec.asids ∧ c.keyid = spec.keyid ∧
          c.mailbox = spec.mailbox.qcb ∧ c.queues = spec.queues.map QueueSpec.qcb ∧ c.exited = false ∧ c.dying = none ∧ c.share = spec.share ∧
          c.function = spec.function ∧ c.tvec = spec.tvec ∧
          (u.key spec.keyid).state = .live ∧ (u.key spec.keyid).serial = (t.key spec.keyid).serial + 1) ∧
      ∀ n, exec (.create (some n) spec) s = .next ((s.takeRequest 0x10 (some n) spec.done).answerDone (some n) spec.done 3)) ∧
    (∀ n c done, s.dev.booted = true →
      let t := s.takeRequest 0x11 none done
      (t.ctx? n = some c → c.dying = none →
        let u := t.onCtx n fun c => { c with exited := true, dying := some done }
        let ports := nub ((u.access.filter fun e => decide (e.tctx = n)).flatMap AccessEntry.via)
        let w := ports.foldl State.advancePort u
        exec (.destroy none n done) s = .next { w with
          launches := w.launches.filter fun e => decide (e.2.ctx ≠ n) || w.instances.any fun i => decide (i.2.launch = e.1),
          mgmt := mapPut w.mgmt w.tagCtr (.drain done (some n) (ports.flatMap u.passed)), tagCtr := w.tagCtr + 1 }) ∧
      (t.ctx? n = none → exec (.destroy none n done) s = .next (t.hostDone done 3)) ∧
      ∀ m, exec (.destroy (some m) n done) s = .next ((s.takeRequest 0x11 (some m) done).answerDone (some m) done 3)) ∧
    (∀ slot, (s.key slot).state = .live →
      (∃ e ∈ s.ctxs, e.2.keyid = slot ∧ e.2.dying ≠ none ∧ ∀ m ∈ s.mgmt, ∀ d l, m.2 ≠ .drain d (some e.1) l) →
      exec (.killkey slot) s = .next { s with keys := mapPut s.keys slot { s.key slot with
        state := .retiring, acks := 16 * (s.clusters.filter fun e => e.2.fenced).length, killedAt := s.time, reported := false } }) ∧
    (∀ slot, (s.key slot).state = .retiring →
      let u := s.dropKey slot
      ((s.key slot).acks + 1 < 858 →
        exec (.keyKillReceive slot) s = .next { u with keys := mapPut u.keys slot { s.key slot with acks := (s.key slot).acks + 1 } }) ∧
      (858 ≤ (s.key slot).acks + 1 →
        let v : State := { u with keys := mapPut u.keys slot { s.key slot with state := .empty, acks := 0, killedAt := 0 } }
        ∀ e, (v.ctxs.find? fun e => decide (e.2.keyid = slot) && e.2.dying.isSome) = some e →
          exec (.keyKillReceive slot) s = .next (v.releaseCtx e.1))) ∧
    ∀ slot, (s.key slot).state = .retiring → (s.key slot).reported = false → (s.key slot).killedAt + 10000000 < s.time →
      let u : State := { s with keys := mapPut s.keys slot { s.key slot with reported := true } }
      exec (.keyRetireStuck slot) s = .next (u.report 0 4 slot 0 0 (u.time - (s.key slot).killedAt) 0)

/-- R321-R324, R326, R336: a permitted MINT for a window here installs its entry before it returns the sealed token, a REMINT of the holder whose grant stands returns a
fresh token, and DROPGRANT and ADVANCE, which only the host asks for, revoke and are answered when what was under way is over. -/
def Clause.GrantEvents : Prop :=
  ∀ s : State, s.dev.booted = true →
    (∀ m : MintSpec,
      let t := s.takeRequest 0x12 m.issuer m.done
      let r := s.takeRequest 0x13 m.issuer m.done
      (mintBad m = true → exec (.mint m) s = .next (t.answerDone m.issuer m.done 2) ∧ exec (.remint m) s = .next (r.answerDone m.issuer m.done 2)) ∧
      (mintBad m = false →
        (mintPermitted m = true → t.mintGranted m = true →
          (t.mintElsewhere m = true → exec (.mint m) s = .next (t.returnToken m 0x12 (t.mintToken m))) ∧
          (t.mintElsewhere m = false →
            (∀ u, t.installEntry (mintEntry m) = some u → exec (.mint m) s = .next (u.returnToken m 0x12 (u.mintToken m))) ∧
            (t.installEntry (mintEntry m) = none → exec (.mint m) s = .next (t.answerDone m.issuer m.done 3)))) ∧
        (mintPermitted m = false ∨ t.mintGranted m = false → exec (.mint m) s = .next (t.answerDone m.issuer m.done 3)) ∧
        (m.issuer = some m.ctx → m.src = r.dev.id → mintPermitted m = true → r.mintGranted m = true → r.grantStands m = true →
          (r.mintElsewhere m = true → exec (.remint m) s = .next (r.returnToken m 0x13 (r.mintToken m))) ∧
          ∀ u, r.mintElsewhere m = false → r.installEntry (mintEntry m) = some u → exec (.remint m) s = .next (u.returnToken m 0x13 (u.mintToken m))) ∧
        (m.issuer ≠ some m.ctx ∨ r.grantStands m = false → exec (.remint m) s = .next (r.answerDone m.issuer m.done 3)))) ∧
    (∀ device n entry done,
      let t := s.takeRequest 0x14 none done
      (∀ i, ((t.access.zipIdx.filter fun e => decide (e.1.device = device) && decide (e.1.ctx = n)).map Prod.snd)[entry]? = some i →
        exec (.dropgrant none device n entry done) s = .next (({ t with access := t.access.eraseIdx i } : State).startDrain done
          ((t.packets.filter fun p => p.answer.isNone && decide (p.src = device) && decide (p.sctx = n) &&
            (match p.at_ with | .home _ => true | _ => false)).map Packet.tag))) ∧
      ∀ c, exec (.dropgrant (some c) device n entry done) s = .next ((s.takeRequest 0x14 (some c) done).answerDone (some c) done 3)) ∧
    (∀ port done,
      let t := s.takeRequest 0x15 none done
      exec (.advance none port done) s = .next ((t.advancePort port).startDrain done (t.passed port)) ∧
      ∀ c, exec (.advance (some c) port done) s = .next ((s.takeRequest 0x15 (some c) done).answerDone (some c) done 3)) ∧
    ∀ i done tags, mapFind? s.mgmt i = some (.drain done none tags) → (∀ p ∈ s.packets, p.tag ∈ tags → p.answer ≠ none) →
      exec (.revocationDrainAnswer i) s = .next (({ s with mgmt := mapErase s.mgmt i } : State).hostDone done 1)

/-- R350, R357, R359, R371, R386, R410: parameters within their limits are set and answered with 1, others leave everything and are answered with 2; a supervisor who asks
is refused with 3. -/
def Clause.ParameterEvents : Prop :=
  ∀ (s : State) (done : Word), s.dev.booted = true →
    let t := s.takeRequest 0x20 none done
    let refused (i : Instr) : Prop := exec i s = .next (t.hostDone done 2)
    (∀ v, (1 ≤ v ∧ v ≤ 10000 → exec (.setAgeLimit none v done) s = .next (({ t with dev := { t.dev with ageLimit := v } } : State).hostDone done 1)) ∧
      (¬ (1 ≤ v ∧ v ≤ 10000) → refused (.setAgeLimit none v done))) ∧
    (∀ v, (100 ≤ v ∧ v ≤ 600000 → exec (.setSelftestInterval none v done) s = .next (({ t with dev := { t.dev with
        selftestMs := v,
        nextVisit := if t.dev.visits = 0 then t.dev.nextVisit else t.dev.nextVisit - t.dev.selftestMs * 1000000 + v * 1000000 } } : State).hostDone done 1)) ∧
      (¬ (100 ≤ v ∧ v ≤ 600000) → refused (.setSelftestInterval none v done))) ∧
    (∀ on, exec (.setTestMode none on done) s = .next (({ t with dev := { t.dev with testMode := on } } : State).hostDone done 1)) ∧
    (∀ v, (600 ≤ v ∧ v ≤ 1400 → exec (.setPowerCap none v done) s = .next (({ t with dev := { t.dev with powerCap := v } } : State).hostDone done 1)) ∧
      (¬ (600 ≤ v ∧ v ≤ 1400) → refused (.setPowerCap none v done))) ∧
    (∀ n asid root c, s.ctx? n = some c → (∃ e ∈ c.asids, e.1 = asid) → root % 4096 = 0 →
      exec (.setAsidRoot none n asid root done) s = .next ((t.onCtx n fun c =>
        { c with asids := c.asids.map fun e => if e.1 = asid then (asid, root) else e }).hostDone done 1)) ∧
    (∀ f root, f < 64 → root % 4096 = 0 →
      exec (.setStage2Root none f root done) s = .next ((t.onFunc f fun x => { x with stage2 := some root }).hostDone done 1)) ∧
    (∀ f handle e, f < 64 → handle < 1024 → e.qcb % 64 = 0 → fixedHandle f handle = false →
      exec (.queuePortHandleBinding none f handle (some e) done) s = .next
        (({ t with handles := mapPut t.handles (handleKey f handle) e } : State).hostDone done 1)) ∧
    ∀ c n asid root v on, ∀ i ∈ [Instr.setAgeLimit (some c) v done, .setSelftestInterval (some c) v done, .setTestMode (some c) on done,
      .setPowerCap (some c) v done, .setAsidRoot (some c) n asid root done, .setStage2Root (some c) n root done,
      .queuePortHandleBinding (some c) n v none done],
      exec i s = .next ((s.takeRequest 0x20 (some c) done).answerDone (some c) done 3)

/-- R279, R337, R409, R410, R415: a migration copies its page at the cutover and moves what pointed at it, a window is bound to a sound cell, a certificate rewrite is
held, a counter is returned, and an unknown operation is answered with 2. -/
def Clause.ServiceEvents : Prop :=
  ∀ (s : State) (done : Word), s.dev.booted = true →
    (∀ o n, o ≠ n → isHbm (o * 4096) = true → isHbm (n * 4096) = true → (∀ m ∈ s.mgmt, ∀ a b d, m.2 ≠ .migrate a b d) →
      let t := s.takeRequest 0x17 none done
      t.reloc.length < 16 → mapFind? t.reloc o = none → mapFind? t.reloc n = none → t.largeOver o = false →
      exec (.migrate none o n done) s = .next { t with mgmt := mapPut t.mgmt t.tagCtr (.migrate o n done), tagCtr := t.tagCtr + 1 }) ∧
    (∀ i o n ptes, mapFind? s.mgmt i = some (.migrate o n done) → (∀ a ∈ ptes, a % 8 = 0 ∧ bits (s.pteAt a) 47 12 = o) → s.largeOver o = false →
      let u := ((nub (ptes ++ s.ptesOf o)).foldl (fun v a => v.repoint n (movedLoc o n a)) ((s.copyPage o n).moveRefs o n)).dropTlb
        fun e => decide (e.pa = o)
      exec (.migrateCutover i ptes) s = .next (({ u with
        reloc := mapPut (u.reloc.map fun e => if e.2 = o then (e.1, n) else e) o n, mgmt := mapErase u.mgmt i } : State).hostDone done 1)) ∧
    (let t := s.takeRequest 0x20 none done
     (∀ k f offset n asid cell acc u, k < 64 → f < 64 → offset % 64 = 0 → t.ctx? n ≠ none →
      let a := t.ctxActor n
      t.check14 { a.who with asid := asid } .load 32 0 cell 32 = .ok (acc, u) →
      let loc := acc.locs.headD 0
      let v := u.cellAt a.mark loc
      v.1.toNat ≤ v.2.1.toNat → v.1.toNat ≤ v.2.2.toNat → v.2.2.toNat ≤ v.2.1.toNat → leNat ((span (loc + 24) 8).map (u.homeByte a.mark)) = 0 →
      v.1.toNat % 64 = 0 → v.2.1.toNat % 64 = 0 → offset + (v.2.1.toNat - v.1.toNat) ≤ 2 ^ 36 → (∀ e ∈ u.windows, e.1 ≠ k → e.2.cell ≠ loc) →
      let w : Window :=
        { function := f, offset := offset, ctx := n, asid := asid, cell := loc, lo := v.1, hi := v.2.1, lines := [], waiting := [], drops := 0 }
      exec (.windowBinding none k f offset n asid cell done) s = .next (({ u with windows := mapPut u.windows k w } : State).hostDone done 1)) ∧
     (∀ slot chain, slot < 8 → slot ≠ 0 → mapFind? t.spdm.heldRewrite slot = none →
      exec (.mgmtCertificateRewrite none slot chain done) s = .next (t.holdRewrite slot { chain := chain, function := none, done := some done }))) ∧
    (∀ issuer counter index echo v own,
      let t := s.takeRequest 0x21 issuer done
      t.counter (issuer.getD 0) counter index = some (v, own) →
      (issuer = none ∨ own = true → exec (.readCounter issuer counter index echo done) s = .next
        ((t.returnData issuer 0x21 echo (leBytes 8 (min v (2 ^ 64 - 1)))).answerDone issuer done 1)) ∧
      (issuer ≠ none → own = false → exec (.readCounter issuer counter index echo done) s = .next (t.answerDone issuer done 3))) ∧
    ∀ (issuer : Issuer) (op : BitVec 8), op.toNat = 0 ∨ 6 ≤ op.toNat ∧ op.toNat < 0x10 ∨ 0x18 ≤ op.toNat ∧ op.toNat < 0x20 ∨
        0x22 ≤ op.toNat ∧ op.toNat < 0x30 ∨ 0x34 ≤ op.toNat →
      exec (.mgmtUnknownOp issuer op done) s = .next ((s.takeRequest op.toNat issuer done).answerDone issuer done 2)

/-- R414: a debug element whose token admits its holder to a consenting context halts the hart at its next point, resumes a halted one, and reads and writes the state of
a halted one; without admission, or on a hart that runs, it is answered with 3. -/
def Clause.DebugEvents : Prop :=
  ∀ (s : State) (token : Line) (h : Nat) (done : Word), s.dev.booted = true →
    let who := debugIssuer token
    let t (op : Nat) : State := s.takeRequest op who done
    (∀ v, s.debugView h = some v → s.debugAdmits token h v = true → v.saved = false →
      (∀ w, (s.hart h).status = .halted → (t 0x30).debugView h = some w → (t 0x30).debugAdmits token h w = true →
        exec (.debugHalt token h done) s = .next ((t 0x30).answerDone who done 1)) ∧
      ∀ u, (s.hart h).status = .running → (s.onHart h fun x => { x with haltReq := true }).haltPoint h = some u → (u.hart h).status = .halted →
        u.dev.booted = true →
        exec (.debugHalt token h done) s = .next ((u.takeRequest 0x30 who done).answerDone who done 1)) ∧
    ((∀ v, s.debugView h = some v → s.debugAdmits token h v = false) →
      exec (.debugHalt token h done) s = .next ((t 0x30).answerDone who done 3)) ∧
    (∀ v, (t 0x31).debugView h = some v →
      ((t 0x31).debugAdmits token h v = true → v.hart.status = .halted →
        exec (.debugResume token h done) s = .next (((t 0x31).putView h { v with hart := v.hart.setStatus .running }).answerDone who done 1)) ∧
      ((t 0x31).debugAdmits token h v = false ∨ v.hart.status ≠ .halted →
        exec (.debugResume token h done) s = .next ((t 0x31).answerDone who done 3))) ∧
    (∀ v item index echo, (t 0x32).debugView h = some v →
      (∀ w, (t 0x32).debugAdmits token h v = true → v.hart.status = .halted → v.read (t 0x32).dev.testMode item index = some w →
        exec (.debugReadState token h item index echo done) s = .next
          (((t 0x32).returnData who 0x32 echo (leBytes 8 w.toNat)).answerDone who done 1)) ∧
      (v.hart.status ≠ .halted → exec (.debugReadState token h item index echo done) s = .next ((t 0x32).answerDone who done 3))) ∧
    ∀ v item index x, (t 0x33).debugView h = some v →
      (∀ w, (t 0x33).debugAdmits token h v = true → v.hart.status = .halted → v.write (t 0x33).dev.testMode item index x = some w →
        exec (.debugWriteState token h item index x done) s = .next (((t 0x33).putView h w).answerDone who done 1)) ∧
      (v.hart.status ≠ .halted → exec (.debugWriteState token h item index x done) s = .next ((t 0x33).answerDone who done 3))

/-- The events of management. -/
def Obligations.ManagementEvents : Prop :=
  Clause.InvalidationEvents ∧ Clause.ContextEvents ∧ Clause.GrantEvents ∧ Clause.ParameterEvents ∧ Clause.ServiceEvents ∧ Clause.DebugEvents

/-- R23, R26-R45: decoding the encoding of a well-formed instruction gives it back, whatever stands behind it: every scalar and compact instruction, every convoy; the three
rows of L2HINT share their word (R229), so that their decoding keeps the registers and leaves the row to the operand. -/
def Obligations.DecodeOfEncode : Prop :=
  ∀ (i : Instr) (bs rest : List Byte), wellFormed i = true → encode i = some bs →
    decode (bs ++ rest) = .ok (match i with
      | .l2hintFetch rd rs1 rs2 => .l2hint rd rs1 rs2
      | .l2hintDemote rd rs1 rs2 => .l2hint rd rs1 rs2
      | .l2hintCounters rd rs1 rs2 => .l2hint rd rs1 rs2
      | .convoy h ws => .convoy h ws
      | i => .instr i, bs.length)

/-- R29, R32, R38, R40: bytes that decode hold exactly the encoding of a well-formed instruction: no unused field is dropped, and no two encodings stand for one
instruction. -/
def Obligations.EncodeOfDecode : Prop :=
  ∀ (bs : List Byte) (d : Decoded) (n : Nat), decode bs = .ok (d, n) →
    n ≤ bs.length ∧ wellFormed d.toInstr = true ∧ encode d.toInstr = some (bs.take n)

/-- Words that the spec writes out, with the instructions they stand for (R28, R43, R53, R97, R107, R117, R118, R131, R134, R196, R199, R207, R236, R254, R260, R264). -/
def Obligations.DecodedWords : Prop :=
  (∀ p ∈ ([(0x0384, .addC 7), (0xE385, .addiC 7 0xE), (0x04B0, .mvC 9)] : List (Nat × Instr)),
    decode (leBytes 2 p.1) = .ok (.instr p.2, 2)) ∧
  (∀ p ∈ ([(0xFFF4C50B, .addi 5 6 0x3FFD), (0x0E1CC503, .div 5 6 7), (0x000D4E2F, .ldD 14 10 0), (0xFFDD6733, .strelD 7 11 0x3FF),
      (0x920C4167, .fnma 1 1 2 3 4), (0x381CC53F, .amoAdd 0 3 1 5 6 7), (0x0980006B, .fenceRel 3), (0x009CC06F, .enq 6 7),
      (0x0180C56F, .deq 5 6 0), (0x04986577, .rldD 5 3 6), (0x28186577, .ramoAdd 1 5 3 6), (0x0188C17F, .domset 1 6 2), (0x0200017F, .dsync 1),
      (0x02000087, .vacq), (0x03000087, .endHart), (0x70000583, .csrrs 5 0 0xC00), (0x00CD6A8B, .vsetl 10 11 0x33), (0x02004593, .vrdsc 5 2)] :
      List (Nat × Instr)),
    decode (leBytes 4 p.1) = .ok (.instr p.2, 4)) ∧
  decode (leBytes 4 0x200091FF ++ leBytes 8 0x0000022090188842 ++ leBytes 8 0x0000000000310840) =
    .ok (.convoy 0x200091FF [0x0000022090188842, 0x0000000000310840], 20)

/-- What a step makes of an outcome: elements for mailboxes and trace queues leave. -/
def Clause.delivered : Out → Out
  | .next t => .next t.deliver
  | o => o

/-- R23, R343: when the move is the turn of a hart that may issue alone and the bytes at its PC decode, the step executes what they decode to, in the state after the
fetch; a hart in lockstep with its gang executes what the leader fetched in every member. The agenda and the delivery of elements are the model's (log 1). -/
def Obligations.StepRunsDecoded : Prop :=
  (∀ (s : State) (i : Instr), ({ s with touched := [], member := 0 } : State).failedReq false 0 = none →
    s.issue (.ready (.instr i)) = exec i { s with touched := [], member := 0 }) ∧
  ∀ (s : State) (h : Nat) (rest : List Move), s.agenda = .run h :: rest →
    let a : State := ({ s with agenda := rest } : State).settleEvent h
    let u := (a.rouse h).settle h
    a.haltPoint h = none → (∀ t, execInterruptTake h a ≠ .next t) → u.canRun h = true → u.heldForEvent h = false →
    (u.hart h).resumeTrap = none → u.cutFor h = none →
    (u.turnOf h = .alone →
      let v := (u.as h).onHart h fun x => x.setStatus .running
      let start (t : State) : State := { t with touched := [], member := 0 }
      (∀ b t i, v.codeBytes 2 = .ok (b, t) → decode b = .ok (.instr i, 2) → (start t).failedReq false 0 = none →
        step s = Clause.delivered (exec i (start t))) ∧
      ∀ b t b' t', v.codeBytes 2 = .ok (b, t) → leNat (b.take 1) % 4 = 3 → t.codeBytes 4 = .ok (b', t') →
        (∀ i, decode b' = .ok (.instr i, 4) → (start t').failedReq false 0 = none → step s = Clause.delivered (exec i (start t'))) ∧
        (∀ rd rs1 rs2, decode b' = .ok (.l2hint rd rs1 rs2, 4) → (start t').failedReq false 0 = none →
          let w := start t'
          (bits (w.x rs2) 63 60 = 0 → step s = Clause.delivered (exec (.l2hintFetch rd rs1 rs2) w)) ∧
          (bits (w.x rs2) 63 60 = 1 → step s = Clause.delivered (exec (.l2hintDemote rd rs1 rs2) w)) ∧
          (bits (w.x rs2) 63 60 = 2 → step s = Clause.delivered (exec (.l2hintCounters rd rs1 rs2) w)) ∧
          (2 < bits (w.x rs2) 63 60 → step s = Clause.delivered (exec (.illegalInstruction (hintBits rd rs1 rs2)) w))) ∧
        ∀ b'' t'' hd ws, b'.take 1 = [0xFF] → leNat ((b'.drop 1).take 1) % 8 ≤ 5 →
          t'.codeBytes (4 + 8 * (leNat ((b'.drop 1).take 1) % 8 + 1)) = .ok (b'', t'') →
          decode b'' = .ok (.convoy hd ws, 4 + 8 * (leNat ((b'.drop 1).take 1) % 8 + 1)) → (start t'').failedReq false 0 = none →
          step s = Clause.delivered (exec (.convoy hd ws) (start t''))) ∧
    (u.turnOf h = .together →
      let ms := (u.hart h).gang
      let v := ms.foldl (fun s k => s.onHart k fun x => x.setStatus .running) u
      let lead := ms.headD 0
      (∀ k ∈ ms, (v.as k).pc = (v.as lead).pc) →
      ∀ f t, (v.as lead).fetch = .ok (f, t) → (t.as lead).mmaOf f = none →
        (∀ k ∈ ms, (t.as k).branchNext f = (t.as lead).branchNext f) →
        (∀ k ∈ ms, ∃ r, (t.as k).issue f = .next r ∧ ((t.hart k).trapAt.isNone → (r.hart k).trapAt.isNone) ∧
          (t.hart k).passed (r.hart k) = true) →
        step s = .next (State.deliver { ms.foldl (fun w k => outState ((w.as k).issue f) w) t with cur := h }))

/-- R12, R334, R350, R357, R417: after reset the clock stands at 0, no key slot is LIVE, AGE_LIMIT is 100 µs, the self-test interval 10 s and the power cap 1,400 W;
nothing is bound, and no hart holds a task. -/
def Clause.ResetParameters : Prop :=
  State.reset.cycle = 0 ∧ State.reset.time = 0 ∧ State.reset.dev.ageLimit = 100 ∧ State.reset.dev.selftestMs = 10000 ∧
  State.reset.dev.powerCap = 1400 ∧ State.reset.dev.booted = false ∧ (∀ k, (State.reset.key k).state = .empty) ∧
  (∀ h, (State.reset.hart h).status = .free ∧ (State.reset.hart h).inst = none) ∧ (∀ n, State.reset.ctx? n = none) ∧
  State.reset.packets = [] ∧ State.reset.access = [] ∧ State.reset.launches = [] ∧ State.reset.instances = []

/-- The memory of the state after reset lists nothing; a byte that nothing has written reads zero and a register before any task holds zero, which are the model's choices
(log 2, log 4). -/
def Clause.ResetContents : Prop :=
  mapWf 0 State.reset.mem = true ∧ State.reset.mem = [] ∧ (∀ loc, mapGet 0 State.reset.mem loc = 0) ∧
  ∀ h r, (State.reset.hart h).a.pc = 0 ∧ mapGet 0 (State.reset.hart h).a.x r = 0 ∧ mapGet 0 (State.reset.hart h).a.f r = 0

/-- What reset leaves. -/
def Obligations.ResetValues : Prop := Clause.ResetParameters ∧ Clause.ResetContents
end

