-- ==== Sys2Proof/Laws/Map.lean ====
section
/-! SUPPORT. Laws of the sparse maps: read after write, a write leaves every other key alone, every operation keeps the
canonical form. -/

namespace Sys2Proof.Machine

variable {α : Type}

/-- Every listed key lies above `k`. -/
def mapAbove (k : Nat) (m : FMap α) : Prop := ∀ e ∈ m, k < e.1

theorem mapSorted_cons (j : Nat) (u : α) (m : FMap α) :
    mapSorted ((j, u) :: m) = true ↔ mapAbove j m ∧ mapSorted m = true := by
  induction m generalizing j u with
  | nil => simp [mapSorted, mapAbove]
  | cons e m ih =>
    obtain ⟨k, v⟩ := e
    simp only [mapSorted, Bool.and_eq_true, decide_eq_true_eq]
    constructor
    · rintro ⟨h1, h2⟩
      refine ⟨fun e he => ?_, h2⟩
      rcases List.mem_cons.mp he with rfl | he
      · exact h1
      · exact Nat.lt_trans h1 (((ih k v).mp h2).1 e he)
    · rintro ⟨h1, h2⟩
      exact ⟨h1 (k, v) (by simp), h2⟩

theorem mapFind?_above {k : Nat} {m : FMap α} (h : mapAbove k m) : mapFind? m k = none := by
  cases m with
  | nil => rfl
  | cons e m =>
    obtain ⟨j, u⟩ := e
    have hj : k < j := h (j, u) (by simp)
    simp [mapFind?, Nat.ne_of_lt hj, hj]

theorem mapFind?_put_self (m : FMap α) (k : Nat) (v : α) : mapFind? (mapPut m k v) k = some v := by
  induction m with
  | nil => simp [mapPut, mapFind?]
  | cons e m ih =>
    obtain ⟨j, u⟩ := e
    by_cases h1 : k = j
    · simp [mapPut, mapFind?, h1]
    · by_cases h2 : k < j
      · simp [mapPut, mapFind?, h1, h2]
      · simp [mapPut, mapFind?, h1, h2, ih]

theorem mapFind?_put_ne (m : FMap α) {k l : Nat} (v : α) (h : l ≠ k) :
    mapFind? (mapPut m k v) l = mapFind? m l := by
  induction m with
  | nil => by_cases h2 : l < k <;> simp [mapPut, mapFind?, h, h2]
  | cons e m ih =>
    obtain ⟨j, u⟩ := e
    by_cases h1 : k = j
    · subst h1
      simp [mapPut, mapFind?, h]
    · by_cases h2 : k < j
      · simp only [mapPut, h1, h2, if_true, if_false, mapFind?, h]
        by_cases h3 : l < k
        · have : l < j := Nat.lt_trans h3 h2
          simp [h3, this, Nat.ne_of_lt this]
        · simp [h3]
      · simp only [mapPut, h1, h2, if_false, mapFind?, ih]

theorem mapAbove_put {j k : Nat} {m : FMap α} {v : α} (h : mapAbove j m) (hk : j < k) :
    mapAbove j (mapPut m k v) := by
  induction m with
  | nil => intro e he; simp [mapPut] at he; subst he; exact hk
  | cons e m ih =>
    obtain ⟨i, u⟩ := e
    have hi : j < i := h (i, u) (by simp)
    have hm : mapAbove j m := fun e he => h e (by simp [he])
    intro e he
    by_cases h1 : k = i
    · simp [mapPut, h1] at he
      rcases he with rfl | he
      · exact hi
      · exact hm e he
    · by_cases h2 : k < i
      · simp [mapPut, h1, h2] at he
        rcases he with rfl | rfl | he
        · exact hk
        · exact hi
        · exact hm e he
      · simp [mapPut, h1, h2] at he
        rcases he with rfl | he
        · exact hi
        · exact ih hm e he

theorem mapSorted_put (m : FMap α) (k : Nat) (v : α) (h : mapSorted m = true) :
    mapSorted (mapPut m k v) = true := by
  induction m with
  | nil => simp [mapPut, mapSorted]
  | cons e m ih =>
    obtain ⟨j, u⟩ := e
    have ⟨ha, hm⟩ := (mapSorted_cons j u m).mp h
    by_cases h1 : k = j
    · subst h1
      simpa [mapPut] using (mapSorted_cons k v m).mpr ⟨ha, hm⟩
    · by_cases h2 : k < j
      · simp only [mapPut, h1, h2, if_true, if_false]
        refine (mapSorted_cons k v _).mpr ⟨?_, h⟩
        intro e he
        rcases List.mem_cons.mp he with rfl | he
        · exact h2
        · exact Nat.lt_trans h2 (ha e he)
      · simp only [mapPut, h1, h2, if_false]
        exact (mapSorted_cons j u _).mpr ⟨mapAbove_put ha (by omega), ih hm⟩

theorem mapAbove_erase {j : Nat} {m : FMap α} (k : Nat) (h : mapAbove j m) : mapAbove j (mapErase m k) := by
  induction m with
  | nil => simpa [mapErase] using h
  | cons e m ih =>
    obtain ⟨i, u⟩ := e
    have hm : mapAbove j m := fun e he => h e (by simp [he])
    by_cases h1 : k = i
    · simpa [mapErase, h1] using hm
    · by_cases h2 : k < i
      · simpa [mapErase, h1, h2] using h
      · intro e he
        simp [mapErase, h1, h2] at he
        rcases he with rfl | he
        · exact h (i, u) (by simp)
        · exact ih hm e he

theorem mapSorted_erase (m : FMap α) (k : Nat) (h : mapSorted m = true) : mapSorted (mapErase m k) = true := by
  induction m with
  | nil => simpa [mapErase] using h
  | cons e m ih =>
    obtain ⟨j, u⟩ := e
    have ⟨ha, hm⟩ := (mapSorted_cons j u m).mp h
    by_cases h1 : k = j
    · simpa [mapErase, h1] using hm
    · by_cases h2 : k < j
      · simpa [mapErase, h1, h2] using h
      · simp only [mapErase, h1, h2, if_false]
        exact (mapSorted_cons j u _).mpr ⟨mapAbove_erase k ha, ih hm⟩

theorem mapFind?_erase_ne (m : FMap α) {k l : Nat} (h : l ≠ k) (hs : mapSorted m = true) :
    mapFind? (mapErase m k) l = mapFind? m l := by
  induction m with
  | nil => rfl
  | cons e m ih =>
    obtain ⟨j, u⟩ := e
    have ⟨ha, hm⟩ := (mapSorted_cons j u m).mp hs
    by_cases h1 : k = j
    · subst h1
      by_cases h2 : l < k
      · have : mapAbove l m := fun e he => Nat.lt_trans h2 (ha e he)
        simp [mapErase, mapFind?, h, h2, mapFind?_above this]
      · simp [mapErase, mapFind?, h, h2]
    · by_cases h2 : k < j
      · simp [mapErase, h1, h2]
      · simp only [mapErase, h1, h2, if_false, mapFind?, ih hm]

theorem mapFind?_erase_self (m : FMap α) (k : Nat) (hs : mapSorted m = true) : mapFind? (mapErase m k) k = none := by
  induction m with
  | nil => rfl
  | cons e m ih =>
    obtain ⟨j, u⟩ := e
    have ⟨ha, hm⟩ := (mapSorted_cons j u m).mp hs
    by_cases h1 : k = j
    · subst h1; simpa [mapErase] using mapFind?_above ha
    · by_cases h2 : k < j
      · simp [mapErase, mapFind?, h1, h2]
      · simp [mapErase, mapFind?, h1, h2, ih hm]

theorem mem_mapPut {m : FMap α} {k : Nat} {v : α} {e : Nat × α} (h : e ∈ mapPut m k v) : e = (k, v) ∨ e ∈ m := by
  induction m with
  | nil => simpa [mapPut] using h
  | cons a m ih =>
    obtain ⟨j, u⟩ := a
    by_cases h1 : k = j
    · simp [mapPut, h1] at h ⊢
      rcases h with h | h
      · exact .inl h
      · exact .inr (.inr h)
    · by_cases h2 : k < j
      · simpa [mapPut, h1, h2] using h
      · simp [mapPut, h1, h2] at h
        rcases h with h | h
        · simp [h]
        · rcases ih h with h | h <;> simp [h]

theorem mem_mapErase {m : FMap α} {k : Nat} {e : Nat × α} (h : e ∈ mapErase m k) : e ∈ m := by
  induction m with
  | nil => simp [mapErase] at h
  | cons a m ih =>
    obtain ⟨j, u⟩ := a
    by_cases h1 : k = j
    · simp [mapErase, h1] at h; simp [h]
    · by_cases h2 : k < j
      · simpa [mapErase, h1, h2] using h
      · simp [mapErase, h1, h2] at h
        rcases h with h | h
        · simp [h]
        · simp [ih h]

variable [DecidableEq α]

omit [DecidableEq α] in
theorem mapPut_put (m : FMap α) (k : Nat) (u v : α) : mapPut (mapPut m k u) k v = mapPut m k v := by
  induction m with
  | nil => simp [mapPut]
  | cons e m ih =>
    obtain ⟨j, w⟩ := e
    simp only [mapPut]
    split
    · simp [mapPut]
    · split
      · simp [mapPut]
      · simp [mapPut, *]

theorem mapWf_iff (d : α) (m : FMap α) :
    mapWf d m = true ↔ mapSorted m = true ∧ ∀ e ∈ m, e.2 ≠ d := by
  simp [mapWf]

theorem mapGet_set_self (d : α) (m : FMap α) (k : Nat) (v : α) (h : mapWf d m = true) :
    mapGet d (mapSet d m k v) k = v := by
  have hs := ((mapWf_iff d m).mp h).1
  by_cases hv : v = d
  · simp [mapGet, mapSet, hv, mapFind?_erase_self m k hs]
  · simp [mapGet, mapSet, hv, mapFind?_put_self]

theorem mapGet_set_ne (d : α) (m : FMap α) {k l : Nat} (v : α) (h : mapWf d m = true) (hk : l ≠ k) :
    mapGet d (mapSet d m k v) l = mapGet d m l := by
  have hs := ((mapWf_iff d m).mp h).1
  by_cases hv : v = d
  · simp [mapGet, mapSet, hv, mapFind?_erase_ne m hk hs]
  · simp [mapGet, mapSet, hv, mapFind?_put_ne m v hk]

theorem mapWf_set (d : α) (m : FMap α) (k : Nat) (v : α) (h : mapWf d m = true) :
    mapWf d (mapSet d m k v) = true := by
  rw [mapWf_iff] at h ⊢
  by_cases hv : v = d
  · simp only [mapSet, hv, if_true]
    exact ⟨mapSorted_erase m k h.1, fun e he => h.2 e (mem_mapErase he)⟩
  · simp only [mapSet, hv, if_false]
    refine ⟨mapSorted_put m k v h.1, fun e he => ?_⟩
    rcases mem_mapPut he with rfl | he
    · exact hv
    · exact h.2 e he

end Sys2Proof.Machine
end

