-- ==== Sys2Proof/Laws/State.lean ====
section
/-! SUPPORT. What each update of the state leaves alone: one lemma for each field and update. -/

namespace Sys2Proof.Machine


/-! Updates of the executing hart are updates of its entry. -/

@[simp] theorem onHart_eq (s : State) (h : Nat) (f : Hart → Hart) : s.onHart h f = s.setHart h (f (s.hart h)) := rfl
@[simp] theorem onMe_eq (s : State) (f : Hart → Hart) : s.onMe f = s.setHart s.cur (f s.me) := rfl
@[simp] theorem setX_eq (s : State) (r : Reg) (v : Word) : s.setX r v = s.setHart s.cur (s.me.setX r v) := rfl
@[simp] theorem setF_eq (s : State) (r : Reg) (v : Word) : s.setF r v = s.setHart s.cur (s.me.setF r v) := rfl
@[simp] theorem setPc_eq (s : State) (v : Word) : s.setPc v = s.setHart s.cur (s.me.setPc v) := rfl
@[simp] theorem setCsr_eq (s : State) (n : Nat) (v : Word) : s.setCsr n v = s.setHart s.cur (s.me.setCsr n v) := rfl
@[simp] theorem setStatus_eq (s : State) (st : Status) : s.setStatus st = s.setHart s.cur (s.me.setStatus st) := rfl
@[simp] theorem orFlags_eq (s : State) (f : BitVec 6) : s.orFlags f = s.setHart s.cur (s.me.orFlags f) := rfl
@[simp] theorem onCore_eq (s : State) (c : Nat) (f : Core → Core) : s.onCore c f = s.setCore c (f (s.core c)) := rfl
@[simp] theorem onMyCore_eq (s : State) (f : Core → Core) : s.onMyCore f = s.setCore (coreOf s.cur) (f s.myCore) := rfl
@[simp] theorem onVf_eq (s : State) (f : VecFile → VecFile) :
    s.onVf f = s.setCore (coreOf s.cur) { s.myCore with vf := f s.vf } := rfl
@[simp] theorem x_eq (s : State) (r : Reg) : s.x r = s.me.x r := rfl
@[simp] theorem f_eq (s : State) (r : Reg) : s.f r = s.me.f r := rfl
@[simp] theorem csr_eq (s : State) (n : Nat) : s.csr n = s.me.csr n := rfl
@[simp] theorem pc_eq (s : State) : s.pc = s.me.a.pc := rfl


/-! A changed hart. -/

@[simp] theorem setHart_cur (s : State) (h : Nat) (x : Hart) : (s.setHart h x).cur = s.cur := rfl
@[simp] theorem setHart_agenda (s : State) (h : Nat) (x : Hart) : (s.setHart h x).agenda = s.agenda := rfl
@[simp] theorem setHart_cycle (s : State) (h : Nat) (x : Hart) : (s.setHart h x).cycle = s.cycle := rfl
@[simp] theorem setHart_mem (s : State) (h : Nat) (x : Hart) : (s.setHart h x).mem = s.mem := rfl
@[simp] theorem setHart_memKey (s : State) (h : Nat) (x : Hart) : (s.setHart h x).memKey = s.memKey := rfl
@[simp] theorem setHart_cores (s : State) (h : Nat) (x : Hart) : (s.setHart h x).cores = s.cores := rfl
@[simp] theorem setHart_clusters (s : State) (h : Nat) (x : Hart) : (s.setHart h x).clusters = s.clusters := rfl
@[simp] theorem setHart_ctxs (s : State) (h : Nat) (x : Hart) : (s.setHart h x).ctxs = s.ctxs := rfl
@[simp] theorem setHart_keys (s : State) (h : Nat) (x : Hart) : (s.setHart h x).keys = s.keys := rfl
@[simp] theorem setHart_gens (s : State) (h : Nat) (x : Hart) : (s.setHart h x).gens = s.gens := rfl
@[simp] theorem setHart_portsDown (s : State) (h : Nat) (x : Hart) : (s.setHart h x).portsDown = s.portsDown := rfl
@[simp] theorem setHart_staleDrops (s : State) (h : Nat) (x : Hart) : (s.setHart h x).staleDrops = s.staleDrops := rfl
@[simp] theorem setHart_rejoins (s : State) (h : Nat) (x : Hart) : (s.setHart h x).rejoins = s.rejoins := rfl
@[simp] theorem setHart_linkFails (s : State) (h : Nat) (x : Hart) : (s.setHart h x).linkFails = s.linkFails := rfl
@[simp] theorem setHart_fabricKey (s : State) (h : Nat) (x : Hart) : (s.setHart h x).fabricKey = s.fabricKey := rfl
@[simp] theorem setHart_access (s : State) (h : Nat) (x : Hart) : (s.setHart h x).access = s.access := rfl
@[simp] theorem setHart_reloc (s : State) (h : Nat) (x : Hart) : (s.setHart h x).reloc = s.reloc := rfl
@[simp] theorem setHart_gcm (s : State) (h : Nat) (x : Hart) : (s.setHart h x).gcm = s.gcm := rfl
@[simp] theorem setHart_packets (s : State) (h : Nat) (x : Hart) : (s.setHart h x).packets = s.packets := rfl
@[simp] theorem setHart_jobs (s : State) (h : Nat) (x : Hart) : (s.setHart h x).jobs = s.jobs := rfl
@[simp] theorem setHart_scatter (s : State) (h : Nat) (x : Hart) : (s.setHart h x).scatter = s.scatter := rfl
@[simp] theorem setHart_advances (s : State) (h : Nat) (x : Hart) : (s.setHart h x).advances = s.advances := rfl
@[simp] theorem setHart_notify (s : State) (h : Nat) (x : Hart) : (s.setHart h x).notify = s.notify := rfl
@[simp] theorem setHart_mgmt (s : State) (h : Nat) (x : Hart) : (s.setHart h x).mgmt = s.mgmt := rfl
@[simp] theorem setHart_launches (s : State) (h : Nat) (x : Hart) : (s.setHart h x).launches = s.launches := rfl
@[simp] theorem setHart_instances (s : State) (h : Nat) (x : Hart) : (s.setHart h x).instances = s.instances := rfl
@[simp] theorem setHart_groups (s : State) (h : Nat) (x : Hart) : (s.setHart h x).groups = s.groups := rfl
@[simp] theorem setHart_waiters (s : State) (h : Nat) (x : Hart) : (s.setHart h x).waiters = s.waiters := rfl
@[simp] theorem setHart_pageReqs (s : State) (h : Nat) (x : Hart) : (s.setHart h x).pageReqs = s.pageReqs := rfl
@[simp] theorem setHart_hostReqs (s : State) (h : Nat) (x : Hart) : (s.setHart h x).hostReqs = s.hostReqs := rfl
@[simp] theorem setHart_spills (s : State) (h : Nat) (x : Hart) : (s.setHart h x).spills = s.spills := rfl
@[simp] theorem setHart_atc (s : State) (h : Nat) (x : Hart) : (s.setHart h x).atc = s.atc := rfl
@[simp] theorem setHart_funcs (s : State) (h : Nat) (x : Hart) : (s.setHart h x).funcs = s.funcs := rfl
@[simp] theorem setHart_handles (s : State) (h : Nat) (x : Hart) : (s.setHart h x).handles = s.handles := rfl
@[simp] theorem setHart_windows (s : State) (h : Nat) (x : Hart) : (s.setHart h x).windows = s.windows := rfl
@[simp] theorem setHart_hostOut (s : State) (h : Nat) (x : Hart) : (s.setHart h x).hostOut = s.hostOut := rfl
@[simp] theorem setHart_outbox (s : State) (h : Nat) (x : Hart) : (s.setHart h x).outbox = s.outbox := rfl
@[simp] theorem setHart_traceOut (s : State) (h : Nat) (x : Hart) : (s.setHart h x).traceOut = s.traceOut := rfl
@[simp] theorem setHart_spdm (s : State) (h : Nat) (x : Hart) : (s.setHart h x).spdm = s.spdm := rfl
@[simp] theorem setHart_dev (s : State) (h : Nat) (x : Hart) : (s.setHart h x).dev = s.dev := rfl
@[simp] theorem setHart_images (s : State) (h : Nat) (x : Hart) : (s.setHart h x).images = s.images := rfl
@[simp] theorem setHart_traceDrops (s : State) (h : Nat) (x : Hart) : (s.setHart h x).traceDrops = s.traceDrops := rfl
@[simp] theorem setHart_bad (s : State) (h : Nat) (x : Hart) : (s.setHart h x).bad = s.bad := rfl
@[simp] theorem setHart_badHard (s : State) (h : Nat) (x : Hart) : (s.setHart h x).badHard = s.badHard := rfl
@[simp] theorem setHart_freeCtr (s : State) (h : Nat) (x : Hart) : (s.setHart h x).freeCtr = s.freeCtr := rfl
@[simp] theorem setHart_tagCtr (s : State) (h : Nat) (x : Hart) : (s.setHart h x).tagCtr = s.tagCtr := rfl
@[simp] theorem setHart_touched (s : State) (h : Nat) (x : Hart) : (s.setHart h x).touched = s.touched := rfl
@[simp] theorem setHart_member (s : State) (h : Nat) (x : Hart) : (s.setHart h x).member = s.member := rfl

/-! A changed core. -/

@[simp] theorem setCore_cur (s : State) (c : Nat) (x : Core) : (s.setCore c x).cur = s.cur := rfl
@[simp] theorem setCore_agenda (s : State) (c : Nat) (x : Core) : (s.setCore c x).agenda = s.agenda := rfl
@[simp] theorem setCore_cycle (s : State) (c : Nat) (x : Core) : (s.setCore c x).cycle = s.cycle := rfl
@[simp] theorem setCore_mem (s : State) (c : Nat) (x : Core) : (s.setCore c x).mem = s.mem := rfl
@[simp] theorem setCore_memKey (s : State) (c : Nat) (x : Core) : (s.setCore c x).memKey = s.memKey := rfl
@[simp] theorem setCore_harts (s : State) (c : Nat) (x : Core) : (s.setCore c x).harts = s.harts := rfl
@[simp] theorem setCore_clusters (s : State) (c : Nat) (x : Core) : (s.setCore c x).clusters = s.clusters := rfl
@[simp] theorem setCore_ctxs (s : State) (c : Nat) (x : Core) : (s.setCore c x).ctxs = s.ctxs := rfl
@[simp] theorem setCore_keys (s : State) (c : Nat) (x : Core) : (s.setCore c x).keys = s.keys := rfl
@[simp] theorem setCore_gens (s : State) (c : Nat) (x : Core) : (s.setCore c x).gens = s.gens := rfl
@[simp] theorem setCore_portsDown (s : State) (c : Nat) (x : Core) : (s.setCore c x).portsDown = s.portsDown := rfl
@[simp] theorem setCore_staleDrops (s : State) (c : Nat) (x : Core) : (s.setCore c x).staleDrops = s.staleDrops := rfl
@[simp] theorem setCore_rejoins (s : State) (c : Nat) (x : Core) : (s.setCore c x).rejoins = s.rejoins := rfl
@[simp] theorem setCore_linkFails (s : State) (c : Nat) (x : Core) : (s.setCore c x).linkFails = s.linkFails := rfl
@[simp] theorem setCore_fabricKey (s : State) (c : Nat) (x : Core) : (s.setCore c x).fabricKey = s.fabricKey := rfl
@[simp] theorem setCore_access (s : State) (c : Nat) (x : Core) : (s.setCore c x).access = s.access := rfl
@[simp] theorem setCore_reloc (s : State) (c : Nat) (x : Core) : (s.setCore c x).reloc = s.reloc := rfl
@[simp] theorem setCore_gcm (s : State) (c : Nat) (x : Core) : (s.setCore c x).gcm = s.gcm := rfl
@[simp] theorem setCore_packets (s : State) (c : Nat) (x : Core) : (s.setCore c x).packets = s.packets := rfl
@[simp] theorem setCore_jobs (s : State) (c : Nat) (x : Core) : (s.setCore c x).jobs = s.jobs := rfl
@[simp] theorem setCore_scatter (s : State) (c : Nat) (x : Core) : (s.setCore c x).scatter = s.scatter := rfl
@[simp] theorem setCore_advances (s : State) (c : Nat) (x : Core) : (s.setCore c x).advances = s.advances := rfl
@[simp] theorem setCore_notify (s : State) (c : Nat) (x : Core) : (s.setCore c x).notify = s.notify := rfl
@[simp] theorem setCore_mgmt (s : State) (c : Nat) (x : Core) : (s.setCore c x).mgmt = s.mgmt := rfl
@[simp] theorem setCore_launches (s : State) (c : Nat) (x : Core) : (s.setCore c x).launches = s.launches := rfl
@[simp] theorem setCore_instances (s : State) (c : Nat) (x : Core) : (s.setCore c x).instances = s.instances := rfl
@[simp] theorem setCore_groups (s : State) (c : Nat) (x : Core) : (s.setCore c x).groups = s.groups := rfl
@[simp] theorem setCore_waiters (s : State) (c : Nat) (x : Core) : (s.setCore c x).waiters = s.waiters := rfl
@[simp] theorem setCore_pageReqs (s : State) (c : Nat) (x : Core) : (s.setCore c x).pageReqs = s.pageReqs := rfl
@[simp] theorem setCore_hostReqs (s : State) (c : Nat) (x : Core) : (s.setCore c x).hostReqs = s.hostReqs := rfl
@[simp] theorem setCore_spills (s : State) (c : Nat) (x : Core) : (s.setCore c x).spills = s.spills := rfl
@[simp] theorem setCore_atc (s : State) (c : Nat) (x : Core) : (s.setCore c x).atc = s.atc := rfl
@[simp] theorem setCore_funcs (s : State) (c : Nat) (x : Core) : (s.setCore c x).funcs = s.funcs := rfl
@[simp] theorem setCore_handles (s : State) (c : Nat) (x : Core) : (s.setCore c x).handles = s.handles := rfl
@[simp] theorem setCore_windows (s : State) (c : Nat) (x : Core) : (s.setCore c x).windows = s.windows := rfl
@[simp] theorem setCore_hostOut (s : State) (c : Nat) (x : Core) : (s.setCore c x).hostOut = s.hostOut := rfl
@[simp] theorem setCore_outbox (s : State) (c : Nat) (x : Core) : (s.setCore c x).outbox = s.outbox := rfl
@[simp] theorem setCore_traceOut (s : State) (c : Nat) (x : Core) : (s.setCore c x).traceOut = s.traceOut := rfl
@[simp] theorem setCore_spdm (s : State) (c : Nat) (x : Core) : (s.setCore c x).spdm = s.spdm := rfl
@[simp] theorem setCore_dev (s : State) (c : Nat) (x : Core) : (s.setCore c x).dev = s.dev := rfl
@[simp] theorem setCore_images (s : State) (c : Nat) (x : Core) : (s.setCore c x).images = s.images := rfl
@[simp] theorem setCore_traceDrops (s : State) (c : Nat) (x : Core) : (s.setCore c x).traceDrops = s.traceDrops := rfl
@[simp] theorem setCore_bad (s : State) (c : Nat) (x : Core) : (s.setCore c x).bad = s.bad := rfl
@[simp] theorem setCore_badHard (s : State) (c : Nat) (x : Core) : (s.setCore c x).badHard = s.badHard := rfl
@[simp] theorem setCore_freeCtr (s : State) (c : Nat) (x : Core) : (s.setCore c x).freeCtr = s.freeCtr := rfl
@[simp] theorem setCore_tagCtr (s : State) (c : Nat) (x : Core) : (s.setCore c x).tagCtr = s.tagCtr := rfl
@[simp] theorem setCore_touched (s : State) (c : Nat) (x : Core) : (s.setCore c x).touched = s.touched := rfl
@[simp] theorem setCore_member (s : State) (c : Nat) (x : Core) : (s.setCore c x).member = s.member := rfl

/-! A changed cluster. -/

@[simp] theorem onCluster_cur (s : State) (k : Nat) (g : Cluster → Cluster) : (s.onCluster k g).cur = s.cur := rfl
@[simp] theorem onCluster_agenda (s : State) (k : Nat) (g : Cluster → Cluster) : (s.onCluster k g).agenda = s.agenda := rfl
@[simp] theorem onCluster_cycle (s : State) (k : Nat) (g : Cluster → Cluster) : (s.onCluster k g).cycle = s.cycle := rfl
@[simp] theorem onCluster_mem (s : State) (k : Nat) (g : Cluster → Cluster) : (s.onCluster k g).mem = s.mem := rfl
@[simp] theorem onCluster_memKey (s : State) (k : Nat) (g : Cluster → Cluster) : (s.onCluster k g).memKey = s.memKey := rfl
@[simp] theorem onCluster_harts (s : State) (k : Nat) (g : Cluster → Cluster) : (s.onCluster k g).harts = s.harts := rfl
@[simp] theorem onCluster_cores (s : State) (k : Nat) (g : Cluster → Cluster) : (s.onCluster k g).cores = s.cores := rfl
@[simp] theorem onCluster_ctxs (s : State) (k : Nat) (g : Cluster → Cluster) : (s.onCluster k g).ctxs = s.ctxs := rfl
@[simp] theorem onCluster_keys (s : State) (k : Nat) (g : Cluster → Cluster) : (s.onCluster k g).keys = s.keys := rfl
@[simp] theorem onCluster_gens (s : State) (k : Nat) (g : Cluster → Cluster) : (s.onCluster k g).gens = s.gens := rfl
@[simp] theorem onCluster_portsDown (s : State) (k : Nat) (g : Cluster → Cluster) : (s.onCluster k g).portsDown = s.portsDown := rfl
@[simp] theorem onCluster_staleDrops (s : State) (k : Nat) (g : Cluster → Cluster) : (s.onCluster k g).staleDrops = s.staleDrops := rfl
@[simp] theorem onCluster_rejoins (s : State) (k : Nat) (g : Cluster → Cluster) : (s.onCluster k g).rejoins = s.rejoins := rfl
@[simp] theorem onCluster_linkFails (s : State) (k : Nat) (g : Cluster → Cluster) : (s.onCluster k g).linkFails = s.linkFails := rfl
@[simp] theorem onCluster_fabricKey (s : State) (k : Nat) (g : Cluster → Cluster) : (s.onCluster k g).fabricKey = s.fabricKey := rfl
@[simp] theorem onCluster_access (s : State) (k : Nat) (g : Cluster → Cluster) : (s.onCluster k g).access = s.access := rfl
@[simp] theorem onCluster_reloc (s : State) (k : Nat) (g : Cluster → Cluster) : (s.onCluster k g).reloc = s.reloc := rfl
@[simp] theorem onCluster_gcm (s : State) (k : Nat) (g : Cluster → Cluster) : (s.onCluster k g).gcm = s.gcm := rfl
@[simp] theorem onCluster_packets (s : State) (k : Nat) (g : Cluster → Cluster) : (s.onCluster k g).packets = s.packets := rfl
@[simp] theorem onCluster_jobs (s : State) (k : Nat) (g : Cluster → Cluster) : (s.onCluster k g).jobs = s.jobs := rfl
@[simp] theorem onCluster_scatter (s : State) (k : Nat) (g : Cluster → Cluster) : (s.onCluster k g).scatter = s.scatter := rfl
@[simp] theorem onCluster_advances (s : State) (k : Nat) (g : Cluster → Cluster) : (s.onCluster k g).advances = s.advances := rfl
@[simp] theorem onCluster_notify (s : State) (k : Nat) (g : Cluster → Cluster) : (s.onCluster k g).notify = s.notify := rfl
@[simp] theorem onCluster_mgmt (s : State) (k : Nat) (g : Cluster → Cluster) : (s.onCluster k g).mgmt = s.mgmt := rfl
@[simp] theorem onCluster_launches (s : State) (k : Nat) (g : Cluster → Cluster) : (s.onCluster k g).launches = s.launches := rfl
@[simp] theorem onCluster_instances (s : State) (k : Nat) (g : Cluster → Cluster) : (s.onCluster k g).instances = s.instances := rfl
@[simp] theorem onCluster_groups (s : State) (k : Nat) (g : Cluster → Cluster) : (s.onCluster k g).groups = s.groups := rfl
@[simp] theorem onCluster_waiters (s : State) (k : Nat) (g : Cluster → Cluster) : (s.onCluster k g).waiters = s.waiters := rfl
@[simp] theorem onCluster_pageReqs (s : State) (k : Nat) (g : Cluster → Cluster) : (s.onCluster k g).pageReqs = s.pageReqs := rfl
@[simp] theorem onCluster_hostReqs (s : State) (k : Nat) (g : Cluster → Cluster) : (s.onCluster k g).hostReqs = s.hostReqs := rfl
@[simp] theorem onCluster_spills (s : State) (k : Nat) (g : Cluster → Cluster) : (s.onCluster k g).spills = s.spills := rfl
@[simp] theorem onCluster_atc (s : State) (k : Nat) (g : Cluster → Cluster) : (s.onCluster k g).atc = s.atc := rfl
@[simp] theorem onCluster_funcs (s : State) (k : Nat) (g : Cluster → Cluster) : (s.onCluster k g).funcs = s.funcs := rfl
@[simp] theorem onCluster_handles (s : State) (k : Nat) (g : Cluster → Cluster) : (s.onCluster k g).handles = s.handles := rfl
@[simp] theorem onCluster_windows (s : State) (k : Nat) (g : Cluster → Cluster) : (s.onCluster k g).windows = s.windows := rfl
@[simp] theorem onCluster_hostOut (s : State) (k : Nat) (g : Cluster → Cluster) : (s.onCluster k g).hostOut = s.hostOut := rfl
@[simp] theorem onCluster_outbox (s : State) (k : Nat) (g : Cluster → Cluster) : (s.onCluster k g).outbox = s.outbox := rfl
@[simp] theorem onCluster_traceOut (s : State) (k : Nat) (g : Cluster → Cluster) : (s.onCluster k g).traceOut = s.traceOut := rfl
@[simp] theorem onCluster_spdm (s : State) (k : Nat) (g : Cluster → Cluster) : (s.onCluster k g).spdm = s.spdm := rfl
@[simp] theorem onCluster_dev (s : State) (k : Nat) (g : Cluster → Cluster) : (s.onCluster k g).dev = s.dev := rfl
@[simp] theorem onCluster_images (s : State) (k : Nat) (g : Cluster → Cluster) : (s.onCluster k g).images = s.images := rfl
@[simp] theorem onCluster_traceDrops (s : State) (k : Nat) (g : Cluster → Cluster) : (s.onCluster k g).traceDrops = s.traceDrops := rfl
@[simp] theorem onCluster_bad (s : State) (k : Nat) (g : Cluster → Cluster) : (s.onCluster k g).bad = s.bad := rfl
@[simp] theorem onCluster_badHard (s : State) (k : Nat) (g : Cluster → Cluster) : (s.onCluster k g).badHard = s.badHard := rfl
@[simp] theorem onCluster_freeCtr (s : State) (k : Nat) (g : Cluster → Cluster) : (s.onCluster k g).freeCtr = s.freeCtr := rfl
@[simp] theorem onCluster_tagCtr (s : State) (k : Nat) (g : Cluster → Cluster) : (s.onCluster k g).tagCtr = s.tagCtr := rfl
@[simp] theorem onCluster_touched (s : State) (k : Nat) (g : Cluster → Cluster) : (s.onCluster k g).touched = s.touched := rfl
@[simp] theorem onCluster_member (s : State) (k : Nat) (g : Cluster → Cluster) : (s.onCluster k g).member = s.member := rfl


/-! A changed CSR, PC or status of a hart. -/

@[simp] theorem Hart.setCsr_ctx (x : Hart) (n : Nat) (v : Word) : (x.setCsr n v).ctx = x.ctx := rfl
@[simp] theorem Hart.setCsr_asid (x : Hart) (n : Nat) (v : Word) : (x.setCsr n v).asid = x.asid := rfl
@[simp] theorem Hart.setCsr_inst (x : Hart) (n : Nat) (v : Word) : (x.setCsr n v).inst = x.inst := rfl
@[simp] theorem Hart.setCsr_status (x : Hart) (n : Nat) (v : Word) : (x.setCsr n v).status = x.status := rfl
@[simp] theorem Hart.setCsr_monitor (x : Hart) (n : Nat) (v : Word) : (x.setCsr n v).monitor = x.monitor := rfl
@[simp] theorem Hart.setCsr_links (x : Hart) (n : Nat) (v : Word) : (x.setCsr n v).links = x.links := rfl
@[simp] theorem Hart.setCsr_deferred (x : Hart) (n : Nat) (v : Word) : (x.setCsr n v).deferred = x.deferred := rfl
@[simp] theorem Hart.setCsr_arrivals (x : Hart) (n : Nat) (v : Word) : (x.setCsr n v).arrivals = x.arrivals := rfl
@[simp] theorem Hart.setCsr_slotPtr (x : Hart) (n : Nat) (v : Word) : (x.setCsr n v).slotPtr = x.slotPtr := rfl
@[simp] theorem Hart.setCsr_recvBytes (x : Hart) (n : Nat) (v : Word) : (x.setCsr n v).recvBytes = x.recvBytes := rfl
@[simp] theorem Hart.setCsr_pending (x : Hart) (n : Nat) (v : Word) : (x.setCsr n v).pending = x.pending := rfl
@[simp] theorem Hart.setCsr_releaseT (x : Hart) (n : Nat) (v : Word) : (x.setCsr n v).releaseT = x.releaseT := rfl
@[simp] theorem Hart.setCsr_recvAtT (x : Hart) (n : Nat) (v : Word) : (x.setCsr n v).recvAtT = x.recvAtT := rfl
@[simp] theorem Hart.setCsr_deferOver (x : Hart) (n : Nat) (v : Word) : (x.setCsr n v).deferOver = x.deferOver := rfl
@[simp] theorem Hart.setCsr_dsync (x : Hart) (n : Nat) (v : Word) : (x.setCsr n v).dsync = x.dsync := rfl
@[simp] theorem Hart.setCsr_leadHeld (x : Hart) (n : Nat) (v : Word) : (x.setCsr n v).leadHeld = x.leadHeld := rfl
@[simp] theorem Hart.setCsr_afterSync (x : Hart) (n : Nat) (v : Word) : (x.setCsr n v).afterSync = x.afterSync := rfl
@[simp] theorem Hart.setCsr_chunk (x : Hart) (n : Nat) (v : Word) : (x.setCsr n v).chunk = x.chunk := rfl
@[simp] theorem Hart.setCsr_squashRun (x : Hart) (n : Nat) (v : Word) : (x.setCsr n v).squashRun = x.squashRun := rfl
@[simp] theorem Hart.setCsr_ordinal (x : Hart) (n : Nat) (v : Word) : (x.setCsr n v).ordinal = x.ordinal := rfl
@[simp] theorem Hart.setCsr_reexec (x : Hart) (n : Nat) (v : Word) : (x.setCsr n v).reexec = x.reexec := rfl
@[simp] theorem Hart.setCsr_irqTimer (x : Hart) (n : Nat) (v : Word) : (x.setCsr n v).irqTimer = x.irqTimer := rfl
@[simp] theorem Hart.setCsr_irqCall (x : Hart) (n : Nat) (v : Word) : (x.setCsr n v).irqCall = x.irqCall := rfl
@[simp] theorem Hart.setCsr_irqPreempt (x : Hart) (n : Nat) (v : Word) : (x.setCsr n v).irqPreempt = x.irqPreempt := rfl
@[simp] theorem Hart.setCsr_preempt (x : Hart) (n : Nat) (v : Word) : (x.setCsr n v).preempt = x.preempt := rfl
@[simp] theorem Hart.setCsr_haltReq (x : Hart) (n : Nat) (v : Word) : (x.setCsr n v).haltReq = x.haltReq := rfl
@[simp] theorem Hart.setCsr_noticeUntil (x : Hart) (n : Nat) (v : Word) : (x.setCsr n v).noticeUntil = x.noticeUntil := rfl
@[simp] theorem Hart.setCsr_atVec (x : Hart) (n : Nat) (v : Word) : (x.setCsr n v).atVec = x.atVec := rfl
@[simp] theorem Hart.setCsr_resumeTrap (x : Hart) (n : Nat) (v : Word) : (x.setCsr n v).resumeTrap = x.resumeTrap := rfl
@[simp] theorem Hart.setCsr_gang (x : Hart) (n : Nat) (v : Word) : (x.setCsr n v).gang = x.gang := rfl
@[simp] theorem Hart.setCsr_trapAt (x : Hart) (n : Nat) (v : Word) : (x.setCsr n v).trapAt = x.trapAt := rfl
@[simp] theorem Hart.setCsr_group (x : Hart) (n : Nat) (v : Word) : (x.setCsr n v).group = x.group := rfl
@[simp] theorem Hart.setCsr_reqNext (x : Hart) (n : Nat) (v : Word) : (x.setCsr n v).reqNext = x.reqNext := rfl
@[simp] theorem Hart.setCsr_handoff (x : Hart) (n : Nat) (v : Word) : (x.setCsr n v).handoff = x.handoff := rfl
@[simp] theorem Hart.setCsr_wlines (x : Hart) (n : Nat) (v : Word) : (x.setCsr n v).wlines = x.wlines := rfl
@[simp] theorem Hart.setCsr_lspOld (x : Hart) (n : Nat) (v : Word) : (x.setCsr n v).lspOld = x.lspOld := rfl
@[simp] theorem Hart.setCsr_tries (x : Hart) (n : Nat) (v : Word) : (x.setCsr n v).tries = x.tries := rfl
@[simp] theorem Hart.setCsr_fwdBase (x : Hart) (n : Nat) (v : Word) : (x.setCsr n v).fwdBase = x.fwdBase := rfl
@[simp] theorem Hart.setCsr_sent (x : Hart) (n : Nat) (v : Word) : (x.setCsr n v).sent = x.sent := rfl
@[simp] theorem Hart.setCsr_rowStop (x : Hart) (n : Nat) (v : Word) : (x.setCsr n v).rowStop = x.rowStop := rfl
@[simp] theorem Hart.setCsr_stopAt (x : Hart) (n : Nat) (v : Word) : (x.setCsr n v).stopAt = x.stopAt := rfl
@[simp] theorem Hart.setCsr_fillWait (x : Hart) (n : Nat) (v : Word) : (x.setCsr n v).fillWait = x.fillWait := rfl
@[simp] theorem Hart.setCsr_scatter (x : Hart) (n : Nat) (v : Word) : (x.setCsr n v).scatter = x.scatter := rfl
@[simp] theorem Hart.setCsr_a_pc (x : Hart) (n : Nat) (v : Word) : (x.setCsr n v).a.pc = x.a.pc := rfl
@[simp] theorem Hart.setCsr_a_mode (x : Hart) (n : Nat) (v : Word) : (x.setCsr n v).a.mode = x.a.mode := rfl
@[simp] theorem Hart.setCsr_a_x (x : Hart) (n : Nat) (v : Word) : (x.setCsr n v).a.x = x.a.x := rfl
@[simp] theorem Hart.setCsr_a_f (x : Hart) (n : Nat) (v : Word) : (x.setCsr n v).a.f = x.a.f := rfl
@[simp] theorem Hart.setCsr_a_rt (x : Hart) (n : Nat) (v : Word) : (x.setCsr n v).a.rt = x.a.rt := rfl
@[simp] theorem Hart.setCsr_a_rsets (x : Hart) (n : Nat) (v : Word) : (x.setCsr n v).a.rsets = x.a.rsets := rfl
@[simp] theorem Hart.setCsr_a_s0 (x : Hart) (n : Nat) (v : Word) : (x.setCsr n v).a.s0 = x.a.s0 := rfl
@[simp] theorem Hart.setCsr_a_s1 (x : Hart) (n : Nat) (v : Word) : (x.setCsr n v).a.s1 = x.a.s1 := rfl
@[simp] theorem Hart.setCsr_a_heldPhase (x : Hart) (n : Nat) (v : Word) : (x.setCsr n v).a.heldPhase = x.a.heldPhase := rfl
@[simp] theorem Hart.setCsr_a_delayed (x : Hart) (n : Nat) (v : Word) : (x.setCsr n v).a.delayed = x.a.delayed := rfl
@[simp] theorem Hart.setCsr_a_lock (x : Hart) (n : Nat) (v : Word) : (x.setCsr n v).a.lock = x.a.lock := rfl
@[simp] theorem Hart.setCsr_a_seq (x : Hart) (n : Nat) (v : Word) : (x.setCsr n v).a.seq = x.a.seq := rfl
@[simp] theorem Hart.setCsr_a_doneMask (x : Hart) (n : Nat) (v : Word) : (x.setCsr n v).a.doneMask = x.a.doneMask := rfl
@[simp] theorem Hart.setCsr_a_doneAt (x : Hart) (n : Nat) (v : Word) : (x.setCsr n v).a.doneAt = x.a.doneAt := rfl
@[simp] theorem Hart.setCsr_a_doneField (x : Hart) (n : Nat) (v : Word) : (x.setCsr n v).a.doneField = x.a.doneField := rfl
@[simp] theorem Hart.setPc_ctx (x : Hart) (v : Word) : (x.setPc v).ctx = x.ctx := rfl
@[simp] theorem Hart.setPc_asid (x : Hart) (v : Word) : (x.setPc v).asid = x.asid := rfl
@[simp] theorem Hart.setPc_inst (x : Hart) (v : Word) : (x.setPc v).inst = x.inst := rfl
@[simp] theorem Hart.setPc_status (x : Hart) (v : Word) : (x.setPc v).status = x.status := rfl
@[simp] theorem Hart.setPc_monitor (x : Hart) (v : Word) : (x.setPc v).monitor = x.monitor := rfl
@[simp] theorem Hart.setPc_links (x : Hart) (v : Word) : (x.setPc v).links = x.links := rfl
@[simp] theorem Hart.setPc_deferred (x : Hart) (v : Word) : (x.setPc v).deferred = x.deferred := rfl
@[simp] theorem Hart.setPc_arrivals (x : Hart) (v : Word) : (x.setPc v).arrivals = x.arrivals := rfl
@[simp] theorem Hart.setPc_slotPtr (x : Hart) (v : Word) : (x.setPc v).slotPtr = x.slotPtr := rfl
@[simp] theorem Hart.setPc_recvBytes (x : Hart) (v : Word) : (x.setPc v).recvBytes = x.recvBytes := rfl
@[simp] theorem Hart.setPc_pending (x : Hart) (v : Word) : (x.setPc v).pending = x.pending := rfl
@[simp] theorem Hart.setPc_releaseT (x : Hart) (v : Word) : (x.setPc v).releaseT = x.releaseT := rfl
@[simp] theorem Hart.setPc_recvAtT (x : Hart) (v : Word) : (x.setPc v).recvAtT = x.recvAtT := rfl
@[simp] theorem Hart.setPc_deferOver (x : Hart) (v : Word) : (x.setPc v).deferOver = x.deferOver := rfl
@[simp] theorem Hart.setPc_dsync (x : Hart) (v : Word) : (x.setPc v).dsync = x.dsync := rfl
@[simp] theorem Hart.setPc_leadHeld (x : Hart) (v : Word) : (x.setPc v).leadHeld = x.leadHeld := rfl
@[simp] theorem Hart.setPc_afterSync (x : Hart) (v : Word) : (x.setPc v).afterSync = x.afterSync := rfl
@[simp] theorem Hart.setPc_chunk (x : Hart) (v : Word) : (x.setPc v).chunk = x.chunk := rfl
@[simp] theorem Hart.setPc_squashRun (x : Hart) (v : Word) : (x.setPc v).squashRun = x.squashRun := rfl
@[simp] theorem Hart.setPc_ordinal (x : Hart) (v : Word) : (x.setPc v).ordinal = x.ordinal := rfl
@[simp] theorem Hart.setPc_reexec (x : Hart) (v : Word) : (x.setPc v).reexec = x.reexec := rfl
@[simp] theorem Hart.setPc_irqTimer (x : Hart) (v : Word) : (x.setPc v).irqTimer = x.irqTimer := rfl
@[simp] theorem Hart.setPc_irqCall (x : Hart) (v : Word) : (x.setPc v).irqCall = x.irqCall := rfl
@[simp] theorem Hart.setPc_irqPreempt (x : Hart) (v : Word) : (x.setPc v).irqPreempt = x.irqPreempt := rfl
@[simp] theorem Hart.setPc_preempt (x : Hart) (v : Word) : (x.setPc v).preempt = x.preempt := rfl
@[simp] theorem Hart.setPc_haltReq (x : Hart) (v : Word) : (x.setPc v).haltReq = x.haltReq := rfl
@[simp] theorem Hart.setPc_noticeUntil (x : Hart) (v : Word) : (x.setPc v).noticeUntil = x.noticeUntil := rfl
@[simp] theorem Hart.setPc_atVec (x : Hart) (v : Word) : (x.setPc v).atVec = x.atVec := rfl
@[simp] theorem Hart.setPc_resumeTrap (x : Hart) (v : Word) : (x.setPc v).resumeTrap = x.resumeTrap := rfl
@[simp] theorem Hart.setPc_gang (x : Hart) (v : Word) : (x.setPc v).gang = x.gang := rfl
@[simp] theorem Hart.setPc_trapAt (x : Hart) (v : Word) : (x.setPc v).trapAt = x.trapAt := rfl
@[simp] theorem Hart.setPc_group (x : Hart) (v : Word) : (x.setPc v).group = x.group := rfl
@[simp] theorem Hart.setPc_reqNext (x : Hart) (v : Word) : (x.setPc v).reqNext = x.reqNext := rfl
@[simp] theorem Hart.setPc_handoff (x : Hart) (v : Word) : (x.setPc v).handoff = x.handoff := rfl
@[simp] theorem Hart.setPc_wlines (x : Hart) (v : Word) : (x.setPc v).wlines = x.wlines := rfl
@[simp] theorem Hart.setPc_lspOld (x : Hart) (v : Word) : (x.setPc v).lspOld = x.lspOld := rfl
@[simp] theorem Hart.setPc_tries (x : Hart) (v : Word) : (x.setPc v).tries = x.tries := rfl
@[simp] theorem Hart.setPc_fwdBase (x : Hart) (v : Word) : (x.setPc v).fwdBase = x.fwdBase := rfl
@[simp] theorem Hart.setPc_sent (x : Hart) (v : Word) : (x.setPc v).sent = x.sent := rfl
@[simp] theorem Hart.setPc_rowStop (x : Hart) (v : Word) : (x.setPc v).rowStop = x.rowStop := rfl
@[simp] theorem Hart.setPc_stopAt (x : Hart) (v : Word) : (x.setPc v).stopAt = x.stopAt := rfl
@[simp] theorem Hart.setPc_fillWait (x : Hart) (v : Word) : (x.setPc v).fillWait = x.fillWait := rfl
@[simp] theorem Hart.setPc_scatter (x : Hart) (v : Word) : (x.setPc v).scatter = x.scatter := rfl
@[simp] theorem Hart.setPc_a_mode (x : Hart) (v : Word) : (x.setPc v).a.mode = x.a.mode := rfl
@[simp] theorem Hart.setPc_a_x (x : Hart) (v : Word) : (x.setPc v).a.x = x.a.x := rfl
@[simp] theorem Hart.setPc_a_f (x : Hart) (v : Word) : (x.setPc v).a.f = x.a.f := rfl
@[simp] theorem Hart.setPc_a_rt (x : Hart) (v : Word) : (x.setPc v).a.rt = x.a.rt := rfl
@[simp] theorem Hart.setPc_a_csr (x : Hart) (v : Word) : (x.setPc v).a.csr = x.a.csr := rfl
@[simp] theorem Hart.setPc_a_rsets (x : Hart) (v : Word) : (x.setPc v).a.rsets = x.a.rsets := rfl
@[simp] theorem Hart.setPc_a_s0 (x : Hart) (v : Word) : (x.setPc v).a.s0 = x.a.s0 := rfl
@[simp] theorem Hart.setPc_a_s1 (x : Hart) (v : Word) : (x.setPc v).a.s1 = x.a.s1 := rfl
@[simp] theorem Hart.setPc_a_heldPhase (x : Hart) (v : Word) : (x.setPc v).a.heldPhase = x.a.heldPhase := rfl
@[simp] theorem Hart.setPc_a_delayed (x : Hart) (v : Word) : (x.setPc v).a.delayed = x.a.delayed := rfl
@[simp] theorem Hart.setPc_a_lock (x : Hart) (v : Word) : (x.setPc v).a.lock = x.a.lock := rfl
@[simp] theorem Hart.setPc_a_seq (x : Hart) (v : Word) : (x.setPc v).a.seq = x.a.seq := rfl
@[simp] theorem Hart.setPc_a_doneMask (x : Hart) (v : Word) : (x.setPc v).a.doneMask = x.a.doneMask := rfl
@[simp] theorem Hart.setPc_a_doneAt (x : Hart) (v : Word) : (x.setPc v).a.doneAt = x.a.doneAt := rfl
@[simp] theorem Hart.setPc_a_doneField (x : Hart) (v : Word) : (x.setPc v).a.doneField = x.a.doneField := rfl
@[simp] theorem Hart.setPc_a_pc (x : Hart) (v : Word) : (x.setPc v).a.pc = v := rfl
@[simp] theorem Hart.setStatus_a (x : Hart) (st : Status) : (x.setStatus st).a = x.a := rfl
@[simp] theorem Hart.setStatus_ctx (x : Hart) (st : Status) : (x.setStatus st).ctx = x.ctx := rfl
@[simp] theorem Hart.setStatus_asid (x : Hart) (st : Status) : (x.setStatus st).asid = x.asid := rfl
@[simp] theorem Hart.setStatus_inst (x : Hart) (st : Status) : (x.setStatus st).inst = x.inst := rfl
@[simp] theorem Hart.setStatus_monitor (x : Hart) (st : Status) : (x.setStatus st).monitor = x.monitor := rfl
@[simp] theorem Hart.setStatus_links (x : Hart) (st : Status) : (x.setStatus st).links = x.links := rfl
@[simp] theorem Hart.setStatus_deferred (x : Hart) (st : Status) : (x.setStatus st).deferred = x.deferred := rfl
@[simp] theorem Hart.setStatus_arrivals (x : Hart) (st : Status) : (x.setStatus st).arrivals = x.arrivals := rfl
@[simp] theorem Hart.setStatus_slotPtr (x : Hart) (st : Status) : (x.setStatus st).slotPtr = x.slotPtr := rfl
@[simp] theorem Hart.setStatus_recvBytes (x : Hart) (st : Status) : (x.setStatus st).recvBytes = x.recvBytes := rfl
@[simp] theorem Hart.setStatus_pending (x : Hart) (st : Status) : (x.setStatus st).pending = x.pending := rfl
@[simp] theorem Hart.setStatus_releaseT (x : Hart) (st : Status) : (x.setStatus st).releaseT = x.releaseT := rfl
@[simp] theorem Hart.setStatus_recvAtT (x : Hart) (st : Status) : (x.setStatus st).recvAtT = x.recvAtT := rfl
@[simp] theorem Hart.setStatus_deferOver (x : Hart) (st : Status) : (x.setStatus st).deferOver = x.deferOver := rfl
@[simp] theorem Hart.setStatus_dsync (x : Hart) (st : Status) : (x.setStatus st).dsync = x.dsync := rfl
@[simp] theorem Hart.setStatus_leadHeld (x : Hart) (st : Status) : (x.setStatus st).leadHeld = x.leadHeld := rfl
@[simp] theorem Hart.setStatus_afterSync (x : Hart) (st : Status) : (x.setStatus st).afterSync = x.afterSync := rfl
@[simp] theorem Hart.setStatus_chunk (x : Hart) (st : Status) : (x.setStatus st).chunk = x.chunk := rfl
@[simp] theorem Hart.setStatus_squashRun (x : Hart) (st : Status) : (x.setStatus st).squashRun = x.squashRun := rfl
@[simp] theorem Hart.setStatus_ordinal (x : Hart) (st : Status) : (x.setStatus st).ordinal = x.ordinal := rfl
@[simp] theorem Hart.setStatus_reexec (x : Hart) (st : Status) : (x.setStatus st).reexec = x.reexec := rfl
@[simp] theorem Hart.setStatus_irqTimer (x : Hart) (st : Status) : (x.setStatus st).irqTimer = x.irqTimer := rfl
@[simp] theorem Hart.setStatus_irqCall (x : Hart) (st : Status) : (x.setStatus st).irqCall = x.irqCall := rfl
@[simp] theorem Hart.setStatus_irqPreempt (x : Hart) (st : Status) : (x.setStatus st).irqPreempt = x.irqPreempt := rfl
@[simp] theorem Hart.setStatus_preempt (x : Hart) (st : Status) : (x.setStatus st).preempt = x.preempt := rfl
@[simp] theorem Hart.setStatus_haltReq (x : Hart) (st : Status) : (x.setStatus st).haltReq = x.haltReq := rfl
@[simp] theorem Hart.setStatus_noticeUntil (x : Hart) (st : Status) : (x.setStatus st).noticeUntil = x.noticeUntil := rfl
@[simp] theorem Hart.setStatus_atVec (x : Hart) (st : Status) : (x.setStatus st).atVec = x.atVec := rfl
@[simp] theorem Hart.setStatus_resumeTrap (x : Hart) (st : Status) : (x.setStatus st).resumeTrap = x.resumeTrap := rfl
@[simp] theorem Hart.setStatus_gang (x : Hart) (st : Status) : (x.setStatus st).gang = x.gang := rfl
@[simp] theorem Hart.setStatus_trapAt (x : Hart) (st : Status) : (x.setStatus st).trapAt = x.trapAt := rfl
@[simp] theorem Hart.setStatus_group (x : Hart) (st : Status) : (x.setStatus st).group = x.group := rfl
@[simp] theorem Hart.setStatus_reqNext (x : Hart) (st : Status) : (x.setStatus st).reqNext = x.reqNext := rfl
@[simp] theorem Hart.setStatus_handoff (x : Hart) (st : Status) : (x.setStatus st).handoff = x.handoff := rfl
@[simp] theorem Hart.setStatus_wlines (x : Hart) (st : Status) : (x.setStatus st).wlines = x.wlines := rfl
@[simp] theorem Hart.setStatus_lspOld (x : Hart) (st : Status) : (x.setStatus st).lspOld = x.lspOld := rfl
@[simp] theorem Hart.setStatus_tries (x : Hart) (st : Status) : (x.setStatus st).tries = x.tries := rfl
@[simp] theorem Hart.setStatus_fwdBase (x : Hart) (st : Status) : (x.setStatus st).fwdBase = x.fwdBase := rfl
@[simp] theorem Hart.setStatus_sent (x : Hart) (st : Status) : (x.setStatus st).sent = x.sent := rfl
@[simp] theorem Hart.setStatus_rowStop (x : Hart) (st : Status) : (x.setStatus st).rowStop = x.rowStop := rfl
@[simp] theorem Hart.setStatus_stopAt (x : Hart) (st : Status) : (x.setStatus st).stopAt = x.stopAt := rfl
@[simp] theorem Hart.setStatus_fillWait (x : Hart) (st : Status) : (x.setStatus st).fillWait = x.fillWait := rfl
@[simp] theorem Hart.setStatus_scatter (x : Hart) (st : Status) : (x.setStatus st).scatter = x.scatter := rfl
@[simp] theorem Hart.setStatus_status (x : Hart) (st : Status) : (x.setStatus st).status = st := rfl

/-! A changed register of a hart. -/

@[simp] theorem Hart.setX_ctx (x : Hart) (r : Reg) (v : Word) : (x.setX r v).ctx = x.ctx := by unfold Hart.setX; split <;> rfl
@[simp] theorem Hart.setX_asid (x : Hart) (r : Reg) (v : Word) : (x.setX r v).asid = x.asid := by unfold Hart.setX; split <;> rfl
@[simp] theorem Hart.setX_inst (x : Hart) (r : Reg) (v : Word) : (x.setX r v).inst = x.inst := by unfold Hart.setX; split <;> rfl
@[simp] theorem Hart.setX_status (x : Hart) (r : Reg) (v : Word) : (x.setX r v).status = x.status := by unfold Hart.setX; split <;> rfl
@[simp] theorem Hart.setX_monitor (x : Hart) (r : Reg) (v : Word) : (x.setX r v).monitor = x.monitor := by unfold Hart.setX; split <;> rfl
@[simp] theorem Hart.setX_links (x : Hart) (r : Reg) (v : Word) : (x.setX r v).links = x.links := by unfold Hart.setX; split <;> rfl
@[simp] theorem Hart.setX_deferred (x : Hart) (r : Reg) (v : Word) : (x.setX r v).deferred = x.deferred := by unfold Hart.setX; split <;> rfl
@[simp] theorem Hart.setX_arrivals (x : Hart) (r : Reg) (v : Word) : (x.setX r v).arrivals = x.arrivals := by unfold Hart.setX; split <;> rfl
@[simp] theorem Hart.setX_slotPtr (x : Hart) (r : Reg) (v : Word) : (x.setX r v).slotPtr = x.slotPtr := by unfold Hart.setX; split <;> rfl
@[simp] theorem Hart.setX_recvBytes (x : Hart) (r : Reg) (v : Word) : (x.setX r v).recvBytes = x.recvBytes := by unfold Hart.setX; split <;> rfl
@[simp] theorem Hart.setX_pending (x : Hart) (r : Reg) (v : Word) : (x.setX r v).pending = x.pending := by unfold Hart.setX; split <;> rfl
@[simp] theorem Hart.setX_releaseT (x : Hart) (r : Reg) (v : Word) : (x.setX r v).releaseT = x.releaseT := by unfold Hart.setX; split <;> rfl
@[simp] theorem Hart.setX_recvAtT (x : Hart) (r : Reg) (v : Word) : (x.setX r v).recvAtT = x.recvAtT := by unfold Hart.setX; split <;> rfl
@[simp] theorem Hart.setX_deferOver (x : Hart) (r : Reg) (v : Word) : (x.setX r v).deferOver = x.deferOver := by unfold Hart.setX; split <;> rfl
@[simp] theorem Hart.setX_dsync (x : Hart) (r : Reg) (v : Word) : (x.setX r v).dsync = x.dsync := by unfold Hart.setX; split <;> rfl
@[simp] theorem Hart.setX_leadHeld (x : Hart) (r : Reg) (v : Word) : (x.setX r v).leadHeld = x.leadHeld := by unfold Hart.setX; split <;> rfl
@[simp] theorem Hart.setX_afterSync (x : Hart) (r : Reg) (v : Word) : (x.setX r v).afterSync = x.afterSync := by unfold Hart.setX; split <;> rfl
@[simp] theorem Hart.setX_chunk (x : Hart) (r : Reg) (v : Word) : (x.setX r v).chunk = x.chunk := by unfold Hart.setX; split <;> rfl
@[simp] theorem Hart.setX_squashRun (x : Hart) (r : Reg) (v : Word) : (x.setX r v).squashRun = x.squashRun := by unfold Hart.setX; split <;> rfl
@[simp] theorem Hart.setX_ordinal (x : Hart) (r : Reg) (v : Word) : (x.setX r v).ordinal = x.ordinal := by unfold Hart.setX; split <;> rfl
@[simp] theorem Hart.setX_reexec (x : Hart) (r : Reg) (v : Word) : (x.setX r v).reexec = x.reexec := by unfold Hart.setX; split <;> rfl
@[simp] theorem Hart.setX_irqTimer (x : Hart) (r : Reg) (v : Word) : (x.setX r v).irqTimer = x.irqTimer := by unfold Hart.setX; split <;> rfl
@[simp] theorem Hart.setX_irqCall (x : Hart) (r : Reg) (v : Word) : (x.setX r v).irqCall = x.irqCall := by unfold Hart.setX; split <;> rfl
@[simp] theorem Hart.setX_irqPreempt (x : Hart) (r : Reg) (v : Word) : (x.setX r v).irqPreempt = x.irqPreempt := by unfold Hart.setX; split <;> rfl
@[simp] theorem Hart.setX_preempt (x : Hart) (r : Reg) (v : Word) : (x.setX r v).preempt = x.preempt := by unfold Hart.setX; split <;> rfl
@[simp] theorem Hart.setX_haltReq (x : Hart) (r : Reg) (v : Word) : (x.setX r v).haltReq = x.haltReq := by unfold Hart.setX; split <;> rfl
@[simp] theorem Hart.setX_noticeUntil (x : Hart) (r : Reg) (v : Word) : (x.setX r v).noticeUntil = x.noticeUntil := by unfold Hart.setX; split <;> rfl
@[simp] theorem Hart.setX_atVec (x : Hart) (r : Reg) (v : Word) : (x.setX r v).atVec = x.atVec := by unfold Hart.setX; split <;> rfl
@[simp] theorem Hart.setX_resumeTrap (x : Hart) (r : Reg) (v : Word) : (x.setX r v).resumeTrap = x.resumeTrap := by unfold Hart.setX; split <;> rfl
@[simp] theorem Hart.setX_gang (x : Hart) (r : Reg) (v : Word) : (x.setX r v).gang = x.gang := by unfold Hart.setX; split <;> rfl
@[simp] theorem Hart.setX_trapAt (x : Hart) (r : Reg) (v : Word) : (x.setX r v).trapAt = x.trapAt := by unfold Hart.setX; split <;> rfl
@[simp] theorem Hart.setX_group (x : Hart) (r : Reg) (v : Word) : (x.setX r v).group = x.group := by unfold Hart.setX; split <;> rfl
@[simp] theorem Hart.setX_reqNext (x : Hart) (r : Reg) (v : Word) : (x.setX r v).reqNext = x.reqNext := by unfold Hart.setX; split <;> rfl
@[simp] theorem Hart.setX_handoff (x : Hart) (r : Reg) (v : Word) : (x.setX r v).handoff = x.handoff := by unfold Hart.setX; split <;> rfl
@[simp] theorem Hart.setX_wlines (x : Hart) (r : Reg) (v : Word) : (x.setX r v).wlines = x.wlines := by unfold Hart.setX; split <;> rfl
@[simp] theorem Hart.setX_lspOld (x : Hart) (r : Reg) (v : Word) : (x.setX r v).lspOld = x.lspOld := by unfold Hart.setX; split <;> rfl
@[simp] theorem Hart.setX_tries (x : Hart) (r : Reg) (v : Word) : (x.setX r v).tries = x.tries := by unfold Hart.setX; split <;> rfl
@[simp] theorem Hart.setX_fwdBase (x : Hart) (r : Reg) (v : Word) : (x.setX r v).fwdBase = x.fwdBase := by unfold Hart.setX; split <;> rfl
@[simp] theorem Hart.setX_sent (x : Hart) (r : Reg) (v : Word) : (x.setX r v).sent = x.sent := by unfold Hart.setX; split <;> rfl
@[simp] theorem Hart.setX_rowStop (x : Hart) (r : Reg) (v : Word) : (x.setX r v).rowStop = x.rowStop := by unfold Hart.setX; split <;> rfl
@[simp] theorem Hart.setX_stopAt (x : Hart) (r : Reg) (v : Word) : (x.setX r v).stopAt = x.stopAt := by unfold Hart.setX; split <;> rfl
@[simp] theorem Hart.setX_fillWait (x : Hart) (r : Reg) (v : Word) : (x.setX r v).fillWait = x.fillWait := by unfold Hart.setX; split <;> rfl
@[simp] theorem Hart.setX_scatter (x : Hart) (r : Reg) (v : Word) : (x.setX r v).scatter = x.scatter := by unfold Hart.setX; split <;> rfl
@[simp] theorem Hart.setX_a_pc (x : Hart) (r : Reg) (v : Word) : (x.setX r v).a.pc = x.a.pc := by unfold Hart.setX; split <;> rfl
@[simp] theorem Hart.setX_a_mode (x : Hart) (r : Reg) (v : Word) : (x.setX r v).a.mode = x.a.mode := by unfold Hart.setX; split <;> rfl
@[simp] theorem Hart.setX_a_f (x : Hart) (r : Reg) (v : Word) : (x.setX r v).a.f = x.a.f := by unfold Hart.setX; split <;> rfl
@[simp] theorem Hart.setX_a_rt (x : Hart) (r : Reg) (v : Word) : (x.setX r v).a.rt = x.a.rt := by unfold Hart.setX; split <;> rfl
@[simp] theorem Hart.setX_a_rsets (x : Hart) (r : Reg) (v : Word) : (x.setX r v).a.rsets = x.a.rsets := by unfold Hart.setX; split <;> rfl
@[simp] theorem Hart.setX_a_s0 (x : Hart) (r : Reg) (v : Word) : (x.setX r v).a.s0 = x.a.s0 := by unfold Hart.setX; split <;> rfl
@[simp] theorem Hart.setX_a_s1 (x : Hart) (r : Reg) (v : Word) : (x.setX r v).a.s1 = x.a.s1 := by unfold Hart.setX; split <;> rfl
@[simp] theorem Hart.setX_a_heldPhase (x : Hart) (r : Reg) (v : Word) : (x.setX r v).a.heldPhase = x.a.heldPhase := by unfold Hart.setX; split <;> rfl
@[simp] theorem Hart.setX_a_delayed (x : Hart) (r : Reg) (v : Word) : (x.setX r v).a.delayed = x.a.delayed := by unfold Hart.setX; split <;> rfl
@[simp] theorem Hart.setX_a_lock (x : Hart) (r : Reg) (v : Word) : (x.setX r v).a.lock = x.a.lock := by unfold Hart.setX; split <;> rfl
@[simp] theorem Hart.setX_a_seq (x : Hart) (r : Reg) (v : Word) : (x.setX r v).a.seq = x.a.seq := by unfold Hart.setX; split <;> rfl
@[simp] theorem Hart.setX_a_doneMask (x : Hart) (r : Reg) (v : Word) : (x.setX r v).a.doneMask = x.a.doneMask := by unfold Hart.setX; split <;> rfl
@[simp] theorem Hart.setX_a_doneAt (x : Hart) (r : Reg) (v : Word) : (x.setX r v).a.doneAt = x.a.doneAt := by unfold Hart.setX; split <;> rfl
@[simp] theorem Hart.setX_a_doneField (x : Hart) (r : Reg) (v : Word) : (x.setX r v).a.doneField = x.a.doneField := by unfold Hart.setX; split <;> rfl
@[simp] theorem Hart.setF_ctx (x : Hart) (r : Reg) (v : Word) : (x.setF r v).ctx = x.ctx := rfl
@[simp] theorem Hart.setF_asid (x : Hart) (r : Reg) (v : Word) : (x.setF r v).asid = x.asid := rfl
@[simp] theorem Hart.setF_inst (x : Hart) (r : Reg) (v : Word) : (x.setF r v).inst = x.inst := rfl
@[simp] theorem Hart.setF_status (x : Hart) (r : Reg) (v : Word) : (x.setF r v).status = x.status := rfl
@[simp] theorem Hart.setF_monitor (x : Hart) (r : Reg) (v : Word) : (x.setF r v).monitor = x.monitor := rfl
@[simp] theorem Hart.setF_links (x : Hart) (r : Reg) (v : Word) : (x.setF r v).links = x.links := rfl
@[simp] theorem Hart.setF_deferred (x : Hart) (r : Reg) (v : Word) : (x.setF r v).deferred = x.deferred := rfl
@[simp] theorem Hart.setF_arrivals (x : Hart) (r : Reg) (v : Word) : (x.setF r v).arrivals = x.arrivals := rfl
@[simp] theorem Hart.setF_slotPtr (x : Hart) (r : Reg) (v : Word) : (x.setF r v).slotPtr = x.slotPtr := rfl
@[simp] theorem Hart.setF_recvBytes (x : Hart) (r : Reg) (v : Word) : (x.setF r v).recvBytes = x.recvBytes := rfl
@[simp] theorem Hart.setF_pending (x : Hart) (r : Reg) (v : Word) : (x.setF r v).pending = x.pending := rfl
@[simp] theorem Hart.setF_releaseT (x : Hart) (r : Reg) (v : Word) : (x.setF r v).releaseT = x.releaseT := rfl
@[simp] theorem Hart.setF_recvAtT (x : Hart) (r : Reg) (v : Word) : (x.setF r v).recvAtT = x.recvAtT := rfl
@[simp] theorem Hart.setF_deferOver (x : Hart) (r : Reg) (v : Word) : (x.setF r v).deferOver = x.deferOver := rfl
@[simp] theorem Hart.setF_dsync (x : Hart) (r : Reg) (v : Word) : (x.setF r v).dsync = x.dsync := rfl
@[simp] theorem Hart.setF_leadHeld (x : Hart) (r : Reg) (v : Word) : (x.setF r v).leadHeld = x.leadHeld := rfl
@[simp] theorem Hart.setF_afterSync (x : Hart) (r : Reg) (v : Word) : (x.setF r v).afterSync = x.afterSync := rfl
@[simp] theorem Hart.setF_chunk (x : Hart) (r : Reg) (v : Word) : (x.setF r v).chunk = x.chunk := rfl
@[simp] theorem Hart.setF_squashRun (x : Hart) (r : Reg) (v : Word) : (x.setF r v).squashRun = x.squashRun := rfl
@[simp] theorem Hart.setF_ordinal (x : Hart) (r : Reg) (v : Word) : (x.setF r v).ordinal = x.ordinal := rfl
@[simp] theorem Hart.setF_reexec (x : Hart) (r : Reg) (v : Word) : (x.setF r v).reexec = x.reexec := rfl
@[simp] theorem Hart.setF_irqTimer (x : Hart) (r : Reg) (v : Word) : (x.setF r v).irqTimer = x.irqTimer := rfl
@[simp] theorem Hart.setF_irqCall (x : Hart) (r : Reg) (v : Word) : (x.setF r v).irqCall = x.irqCall := rfl
@[simp] theorem Hart.setF_irqPreempt (x : Hart) (r : Reg) (v : Word) : (x.setF r v).irqPreempt = x.irqPreempt := rfl
@[simp] theorem Hart.setF_preempt (x : Hart) (r : Reg) (v : Word) : (x.setF r v).preempt = x.preempt := rfl
@[simp] theorem Hart.setF_haltReq (x : Hart) (r : Reg) (v : Word) : (x.setF r v).haltReq = x.haltReq := rfl
@[simp] theorem Hart.setF_noticeUntil (x : Hart) (r : Reg) (v : Word) : (x.setF r v).noticeUntil = x.noticeUntil := rfl
@[simp] theorem Hart.setF_atVec (x : Hart) (r : Reg) (v : Word) : (x.setF r v).atVec = x.atVec := rfl
@[simp] theorem Hart.setF_resumeTrap (x : Hart) (r : Reg) (v : Word) : (x.setF r v).resumeTrap = x.resumeTrap := rfl
@[simp] theorem Hart.setF_gang (x : Hart) (r : Reg) (v : Word) : (x.setF r v).gang = x.gang := rfl
@[simp] theorem Hart.setF_trapAt (x : Hart) (r : Reg) (v : Word) : (x.setF r v).trapAt = x.trapAt := rfl
@[simp] theorem Hart.setF_group (x : Hart) (r : Reg) (v : Word) : (x.setF r v).group = x.group := rfl
@[simp] theorem Hart.setF_reqNext (x : Hart) (r : Reg) (v : Word) : (x.setF r v).reqNext = x.reqNext := rfl
@[simp] theorem Hart.setF_handoff (x : Hart) (r : Reg) (v : Word) : (x.setF r v).handoff = x.handoff := rfl
@[simp] theorem Hart.setF_wlines (x : Hart) (r : Reg) (v : Word) : (x.setF r v).wlines = x.wlines := rfl
@[simp] theorem Hart.setF_lspOld (x : Hart) (r : Reg) (v : Word) : (x.setF r v).lspOld = x.lspOld := rfl
@[simp] theorem Hart.setF_tries (x : Hart) (r : Reg) (v : Word) : (x.setF r v).tries = x.tries := rfl
@[simp] theorem Hart.setF_fwdBase (x : Hart) (r : Reg) (v : Word) : (x.setF r v).fwdBase = x.fwdBase := rfl
@[simp] theorem Hart.setF_sent (x : Hart) (r : Reg) (v : Word) : (x.setF r v).sent = x.sent := rfl
@[simp] theorem Hart.setF_rowStop (x : Hart) (r : Reg) (v : Word) : (x.setF r v).rowStop = x.rowStop := rfl
@[simp] theorem Hart.setF_stopAt (x : Hart) (r : Reg) (v : Word) : (x.setF r v).stopAt = x.stopAt := rfl
@[simp] theorem Hart.setF_fillWait (x : Hart) (r : Reg) (v : Word) : (x.setF r v).fillWait = x.fillWait := rfl
@[simp] theorem Hart.setF_scatter (x : Hart) (r : Reg) (v : Word) : (x.setF r v).scatter = x.scatter := rfl
@[simp] theorem Hart.setF_a_pc (x : Hart) (r : Reg) (v : Word) : (x.setF r v).a.pc = x.a.pc := rfl
@[simp] theorem Hart.setF_a_mode (x : Hart) (r : Reg) (v : Word) : (x.setF r v).a.mode = x.a.mode := rfl
@[simp] theorem Hart.setF_a_x (x : Hart) (r : Reg) (v : Word) : (x.setF r v).a.x = x.a.x := rfl
@[simp] theorem Hart.setF_a_rt (x : Hart) (r : Reg) (v : Word) : (x.setF r v).a.rt = x.a.rt := rfl
@[simp] theorem Hart.setF_a_csr (x : Hart) (r : Reg) (v : Word) : (x.setF r v).a.csr = x.a.csr := rfl
@[simp] theorem Hart.setF_a_rsets (x : Hart) (r : Reg) (v : Word) : (x.setF r v).a.rsets = x.a.rsets := rfl
@[simp] theorem Hart.setF_a_s0 (x : Hart) (r : Reg) (v : Word) : (x.setF r v).a.s0 = x.a.s0 := rfl
@[simp] theorem Hart.setF_a_s1 (x : Hart) (r : Reg) (v : Word) : (x.setF r v).a.s1 = x.a.s1 := rfl
@[simp] theorem Hart.setF_a_heldPhase (x : Hart) (r : Reg) (v : Word) : (x.setF r v).a.heldPhase = x.a.heldPhase := rfl
@[simp] theorem Hart.setF_a_delayed (x : Hart) (r : Reg) (v : Word) : (x.setF r v).a.delayed = x.a.delayed := rfl
@[simp] theorem Hart.setF_a_lock (x : Hart) (r : Reg) (v : Word) : (x.setF r v).a.lock = x.a.lock := rfl
@[simp] theorem Hart.setF_a_seq (x : Hart) (r : Reg) (v : Word) : (x.setF r v).a.seq = x.a.seq := rfl
@[simp] theorem Hart.setF_a_doneMask (x : Hart) (r : Reg) (v : Word) : (x.setF r v).a.doneMask = x.a.doneMask := rfl
@[simp] theorem Hart.setF_a_doneAt (x : Hart) (r : Reg) (v : Word) : (x.setF r v).a.doneAt = x.a.doneAt := rfl
@[simp] theorem Hart.setF_a_doneField (x : Hart) (r : Reg) (v : Word) : (x.setF r v).a.doneField = x.a.doneField := rfl

end Sys2Proof.Machine
end

