-- ==== Sys2Proof/Laws/Regs.lean ====
section
/-! SUPPORT. Reading registers, CSRs and parts of the state after writing them. -/

namespace Sys2Proof.Machine

/-! Harts, cores, clusters. -/

@[simp] theorem hart_setHart_self (s : State) (h : Nat) (x : Hart) : (s.setHart h x).hart h = x := by
  simp [State.hart, State.setHart, mapFind?_put_self]

theorem hart_setHart_ne (s : State) {h k : Nat} (x : Hart) (hk : k ≠ h) : (s.setHart h x).hart k = s.hart k := by
  simp [State.hart, State.setHart, mapFind?_put_ne _ _ hk]

@[simp] theorem me_setHart_self (s : State) (x : Hart) : (s.setHart s.cur x).me = x := by simp [State.me]

theorem me_setHart_cur (s : State) (h : Nat) (x : Hart) (hc : s.cur = h) : (s.setHart h x).me = x := by
  subst hc; simp

@[simp] theorem setHart_setHart (s : State) (h : Nat) (x y : Hart) : (s.setHart h x).setHart h y = s.setHart h y := by
  simp only [State.setHart, mapPut_put]

@[simp] theorem core_setHart (s : State) (h : Nat) (x : Hart) (c : Nat) : (s.setHart h x).core c = s.core c := rfl
@[simp] theorem cluster_setHart (s : State) (h : Nat) (x : Hart) (k : Nat) : (s.setHart h x).cluster k = s.cluster k := rfl
@[simp] theorem hart_setCore (s : State) (c : Nat) (x : Core) (h : Nat) : (s.setCore c x).hart h = s.hart h := rfl
@[simp] theorem me_setCore (s : State) (c : Nat) (x : Core) : (s.setCore c x).me = s.me := rfl
@[simp] theorem core_setCore_self (s : State) (c : Nat) (x : Core) : (s.setCore c x).core c = x := by
  simp [State.core, State.setCore, mapFind?_put_self]
theorem core_setCore_ne (s : State) {c d : Nat} (x : Core) (hd : d ≠ c) : (s.setCore c x).core d = s.core d := by
  simp [State.core, State.setCore, mapFind?_put_ne _ _ hd]
@[simp] theorem hart_onCluster (s : State) (k : Nat) (f : Cluster → Cluster) (h : Nat) : (s.onCluster k f).hart h = s.hart h := rfl
@[simp] theorem core_onCluster (s : State) (k : Nat) (f : Cluster → Cluster) (c : Nat) : (s.onCluster k f).core c = s.core c := rfl

/-! CSRs. -/

theorem Hart.csr_setCsr_self (x : Hart) (n : Nat) (v : Word) (h : mapWf 0 x.a.csr = true) : (x.setCsr n v).csr n = v :=
  mapGet_set_self 0 _ _ _ h

theorem Hart.csr_setCsr_ne (x : Hart) {n m : Nat} (v : Word) (h : mapWf 0 x.a.csr = true) (hm : m ≠ n) :
    (x.setCsr n v).csr m = x.csr m :=
  mapGet_set_ne 0 _ _ h hm

theorem Hart.wf_setCsr (x : Hart) (n : Nat) (v : Word) (h : mapWf 0 x.a.csr = true) : mapWf 0 (x.setCsr n v).a.csr = true :=
  mapWf_set 0 _ _ _ h

@[simp] theorem Hart.csr_setPc (x : Hart) (v : Word) (n : Nat) : (x.setPc v).csr n = x.csr n := rfl
@[simp] theorem Hart.csr_setStatus (x : Hart) (st : Status) (n : Nat) : (x.setStatus st).csr n = x.csr n := rfl
@[simp] theorem Hart.csr_setF (x : Hart) (r : Reg) (v : Word) (n : Nat) : (x.setF r v).csr n = x.csr n := rfl

/-! Integer registers. -/

@[simp] theorem Hart.x_zero (x : Hart) : x.x 0 = 0 := by simp [Hart.x]

theorem Hart.x_setX_self (x : Hart) {r : Reg} (v : Word) (h : mapWf 0 x.a.x = true) (hr : r ≠ 0) : (x.setX r v).x r = v := by
  simp only [Hart.x, Hart.setX, if_neg hr, mapGet_set_self 0 _ _ _ h]

theorem Hart.x_setX_ne (x : Hart) {r q : Reg} (v : Word) (h : mapWf 0 x.a.x = true) (hq : q ≠ r) :
    (x.setX r v).x q = x.x q := by
  by_cases hr : r = 0
  · simp only [Hart.setX, hr, if_true]
  · by_cases h0 : q = 0
    · simp only [Hart.x, h0, if_true]
    · have : q.toNat ≠ r.toNat := fun e => hq (BitVec.eq_of_toNat_eq e)
      simp only [Hart.x, Hart.setX, if_neg hr, if_neg h0, mapGet_set_ne 0 _ _ h this]

@[simp] theorem Hart.setX_zero (x : Hart) (v : Word) : x.setX 0 v = x := by simp [Hart.setX]

/-- A write to X[r] sets LDST to r, unless r is x0 (R27). -/
theorem Hart.ldst_setX (x : Hart) (r : Reg) (v : Word) (h : mapWf 0 x.a.csr = true) :
    (x.setX r v).csr Csr.ldst = if r = 0 then x.csr Csr.ldst else r.setWidth 64 := by
  by_cases hr : r = 0
  · simp only [hr, Hart.setX, if_true]
  · simp only [Hart.setX, if_neg hr, Hart.csr, mapGet_set_self 0 _ _ _ h]

theorem Hart.csr_setX_ne (x : Hart) (r : Reg) (v : Word) {n : Nat} (h : mapWf 0 x.a.csr = true) (hn : n ≠ Csr.ldst) :
    (x.setX r v).csr n = x.csr n := by
  by_cases hr : r = 0
  · simp only [hr, Hart.setX, if_true]
  · simp only [Hart.setX, if_neg hr, Hart.csr, mapGet_set_ne 0 _ _ h hn]

theorem Hart.wf_setX_x (x : Hart) (r : Reg) (v : Word) (h : mapWf 0 x.a.x = true) : mapWf 0 (x.setX r v).a.x = true := by
  unfold Hart.setX; split
  · exact h
  · exact mapWf_set 0 _ _ _ h

theorem Hart.wf_setX_csr (x : Hart) (r : Reg) (v : Word) (h : mapWf 0 x.a.csr = true) : mapWf 0 (x.setX r v).a.csr = true := by
  unfold Hart.setX; split
  · exact h
  · exact mapWf_set 0 _ _ _ h

@[simp] theorem Hart.x_setPc (x : Hart) (v : Word) (r : Reg) : (x.setPc v).x r = x.x r := rfl
@[simp] theorem Hart.x_setCsr (x : Hart) (n : Nat) (v : Word) (r : Reg) : (x.setCsr n v).x r = x.x r := rfl
@[simp] theorem Hart.x_setF (x : Hart) (q : Reg) (v : Word) (r : Reg) : (x.setF q v).x r = x.x r := rfl
@[simp] theorem Hart.x_setStatus (x : Hart) (st : Status) (r : Reg) : (x.setStatus st).x r = x.x r := rfl

/-! Floating registers. -/

theorem Hart.f_setF_self (x : Hart) (r : Reg) (v : Word) (h : mapWf 0 x.a.f = true) : (x.setF r v).f r = v :=
  mapGet_set_self 0 _ _ _ h

theorem Hart.f_setF_ne (x : Hart) {r q : Reg} (v : Word) (h : mapWf 0 x.a.f = true) (hq : q ≠ r) : (x.setF r v).f q = x.f q :=
  mapGet_set_ne 0 _ _ h fun e => hq (BitVec.eq_of_toNat_eq e)

theorem Hart.wf_setF (x : Hart) (r : Reg) (v : Word) (h : mapWf 0 x.a.f = true) : mapWf 0 (x.setF r v).a.f = true :=
  mapWf_set 0 _ _ _ h

@[simp] theorem Hart.f_setX (x : Hart) (q : Reg) (v : Word) (r : Reg) : (x.setX q v).f r = x.f r := by
  unfold Hart.setX; split <;> rfl
@[simp] theorem Hart.f_setPc (x : Hart) (v : Word) (r : Reg) : (x.setPc v).f r = x.f r := rfl
@[simp] theorem Hart.f_setCsr (x : Hart) (n : Nat) (v : Word) (r : Reg) : (x.setCsr n v).f r = x.f r := rfl
@[simp] theorem Hart.f_setStatus (x : Hart) (st : Status) (r : Reg) : (x.setStatus st).f r = x.f r := rfl

end Sys2Proof.Machine
end

