-- ==== Sys2Proof/Laws/Run.lean ====
section
/-! SUPPORT. What the frame of a meaning leaves: retiring in an open chunk. -/

namespace Sys2Proof.Machine

@[simp] theorem Chunk.more_count (n : Nat) (c : Chunk) : (c.more n).count = c.count + n := rfl
@[simp] theorem Chunk.more_over (n : Nat) (c : Chunk) : (c.more n).over = c.over := rfl
@[simp] theorem Chunk.more_close (n : Nat) (c : Chunk) : (c.more n).close = c.close := rfl
@[simp] theorem Chunk.more_buf (n : Nat) (c : Chunk) : (c.more n).buf = c.buf := rfl
@[simp] theorem Chunk.more_keep (n : Nat) (c : Chunk) : (c.more n).keep = c.keep := rfl

/-- The hart with another number for its next page request. -/
def Hart.asking (k : Nat) (x : Hart) : Hart := { x with reqNext := k }
/-- The hart with an open chunk. -/
def Hart.inChunk (c : Chunk) (x : Hart) : Hart := { x with chunk := some c }

/-! The hart that retired. -/

theorem Hart.retire_a (n : Nat) (pc : Word) (x : Hart) : ∃ q, (x.retire n pc).a = { x.a with seq := q } := by
  simp only [Hart.retire]; split
  · exact ⟨_, rfl⟩
  · exact ⟨x.a.seq, rfl⟩
@[simp] theorem Hart.retire_x (n : Nat) (pc : Word) (x : Hart) (r : Reg) : (x.retire n pc).x r = x.x r := by
  obtain ⟨q, h⟩ := x.retire_a n pc
  simp only [Hart.x, h]
@[simp] theorem Hart.retire_f (n : Nat) (pc : Word) (x : Hart) (r : Reg) : (x.retire n pc).f r = x.f r := by
  obtain ⟨q, h⟩ := x.retire_a n pc
  simp only [Hart.f, h]
@[simp] theorem Hart.retire_csr (n : Nat) (pc : Word) (x : Hart) (k : Nat) : (x.retire n pc).csr k = x.csr k := by
  obtain ⟨q, h⟩ := x.retire_a n pc
  simp only [Hart.csr, h]
@[simp] theorem Hart.asking_ctx (k : Nat) (x : Hart) : (x.asking k).ctx = x.ctx := rfl
@[simp] theorem Hart.asking_asid (k : Nat) (x : Hart) : (x.asking k).asid = x.asid := rfl
@[simp] theorem Hart.asking_status (k : Nat) (x : Hart) : (x.asking k).status = x.status := rfl
@[simp] theorem Hart.asking_group (k : Nat) (x : Hart) : (x.asking k).group = x.group := rfl
@[simp] theorem Hart.asking_chunk (k : Nat) (x : Hart) : (x.asking k).chunk = x.chunk := rfl
@[simp] theorem Hart.asking_links (k : Nat) (x : Hart) : (x.asking k).links = x.links := rfl
@[simp] theorem Hart.asking_monitor (k : Nat) (x : Hart) : (x.asking k).monitor = x.monitor := rfl
@[simp] theorem Hart.asking_trapAt (k : Nat) (x : Hart) : (x.asking k).trapAt = x.trapAt := rfl
@[simp] theorem Hart.asking_gang (k : Nat) (x : Hart) : (x.asking k).gang = x.gang := rfl
@[simp] theorem Hart.asking_inst (k : Nat) (x : Hart) : (x.asking k).inst = x.inst := rfl
@[simp] theorem Hart.asking_a (k : Nat) (x : Hart) : (x.asking k).a = x.a := rfl
@[simp] theorem Hart.asking_x (k : Nat) (x : Hart) (r : Reg) : (x.asking k).x r = x.x r := rfl
@[simp] theorem Hart.asking_f (k : Nat) (x : Hart) (r : Reg) : (x.asking k).f r = x.f r := rfl
@[simp] theorem Hart.asking_csr (k : Nat) (x : Hart) (n : Nat) : (x.asking k).csr n = x.csr n := rfl
@[simp] theorem Hart.inChunk_ctx (c : Chunk) (x : Hart) : (x.inChunk c).ctx = x.ctx := rfl
@[simp] theorem Hart.inChunk_asid (c : Chunk) (x : Hart) : (x.inChunk c).asid = x.asid := rfl
@[simp] theorem Hart.inChunk_status (c : Chunk) (x : Hart) : (x.inChunk c).status = x.status := rfl
@[simp] theorem Hart.inChunk_group (c : Chunk) (x : Hart) : (x.inChunk c).group = x.group := rfl
@[simp] theorem Hart.inChunk_chunk (c : Chunk) (x : Hart) : (x.inChunk c).chunk = some c := rfl
@[simp] theorem Hart.inChunk_links (c : Chunk) (x : Hart) : (x.inChunk c).links = x.links := rfl
@[simp] theorem Hart.inChunk_monitor (c : Chunk) (x : Hart) : (x.inChunk c).monitor = x.monitor := rfl
@[simp] theorem Hart.inChunk_trapAt (c : Chunk) (x : Hart) : (x.inChunk c).trapAt = x.trapAt := rfl
@[simp] theorem Hart.inChunk_gang (c : Chunk) (x : Hart) : (x.inChunk c).gang = x.gang := rfl
@[simp] theorem Hart.inChunk_inst (c : Chunk) (x : Hart) : (x.inChunk c).inst = x.inst := rfl
@[simp] theorem Hart.inChunk_a (c : Chunk) (x : Hart) : (x.inChunk c).a = x.a := rfl
@[simp] theorem Hart.inChunk_x (c : Chunk) (x : Hart) (r : Reg) : (x.inChunk c).x r = x.x r := rfl
@[simp] theorem Hart.inChunk_f (c : Chunk) (x : Hart) (r : Reg) : (x.inChunk c).f r = x.f r := rfl
@[simp] theorem Hart.inChunk_csr (c : Chunk) (x : Hart) (n : Nat) : (x.inChunk c).csr n = x.csr n := rfl
@[simp] theorem Hart.retire_ctx (n : Nat) (pc : Word) (x : Hart) : (x.retire n pc).ctx = x.ctx := rfl
@[simp] theorem Hart.retire_asid (n : Nat) (pc : Word) (x : Hart) : (x.retire n pc).asid = x.asid := rfl
@[simp] theorem Hart.retire_status (n : Nat) (pc : Word) (x : Hart) : (x.retire n pc).status = x.status := rfl
@[simp] theorem Hart.retire_group (n : Nat) (pc : Word) (x : Hart) : (x.retire n pc).group = x.group := rfl
@[simp] theorem Hart.retire_chunk (n : Nat) (pc : Word) (x : Hart) : (x.retire n pc).chunk = x.chunk.map (Chunk.more n) := rfl
@[simp] theorem Hart.asking_lspOld (k : Nat) (x : Hart) : (x.asking k).lspOld = x.lspOld := rfl
@[simp] theorem Hart.inChunk_lspOld (c : Chunk) (x : Hart) : (x.inChunk c).lspOld = x.lspOld := rfl
@[simp] theorem Hart.retire_lspOld (n : Nat) (pc : Word) (x : Hart) : (x.retire n pc).lspOld = x.lspOld := rfl
@[simp] theorem Hart.retire_links (n : Nat) (pc : Word) (x : Hart) : (x.retire n pc).links = x.links := rfl
@[simp] theorem Hart.retire_monitor (n : Nat) (pc : Word) (x : Hart) : (x.retire n pc).monitor = x.monitor := rfl
@[simp] theorem Hart.retire_trapAt (n : Nat) (pc : Word) (x : Hart) : (x.retire n pc).trapAt = x.trapAt := rfl
@[simp] theorem Hart.retire_gang (n : Nat) (pc : Word) (x : Hart) : (x.retire n pc).gang = x.gang := rfl
@[simp] theorem Hart.retire_inst (n : Nat) (pc : Word) (x : Hart) : (x.retire n pc).inst = x.inst := rfl
@[simp] theorem Hart.retire_atVec (n : Nat) (pc : Word) (x : Hart) : (x.retire n pc).atVec = false := rfl
@[simp] theorem Hart.asking_atVec (k : Nat) (x : Hart) : (x.asking k).atVec = x.atVec := rfl

/-! Forgotten page requests. -/

/-- Forgetting requests touches the request lists and, in the executing hart, the number of its next one. -/
theorem dropReqs_cases (s : State) (pc : Word) :
    ∃ p q, s.dropReqs pc = { s with pageReqs := p, hostReqs := q } ∨
      s.dropReqs pc = { s.setHart s.cur (s.me.asking 0) with pageReqs := p, hostReqs := q } := by
  simp only [State.dropReqs]
  split
  · exact ⟨_, _, .inr rfl⟩
  · exact ⟨_, _, .inl rfl⟩

theorem dropReqs_none (s : State) (pc : Word) (h : (s.pageReqs.isEmpty && s.hostReqs.isEmpty) = true) : s.dropReqs pc = s := by
  simp only [Bool.and_eq_true, List.isEmpty_iff] at h
  obtain ⟨h1, h2⟩ := h
  cases s
  simp_all [State.dropReqs]

/-- The whole of what retiring may change. -/
theorem retire_spec (s : State) (n : Nat) (pc : Word) :
    ∃ p q k, s.retire n pc =
      { s.setHart s.cur ((s.me.retire n pc).asking k) with pageReqs := p, hostReqs := q } := by
  obtain ⟨p, q, h | h⟩ := dropReqs_cases (s.onMe (Hart.retire n pc)) pc
  · refine ⟨p, q, s.me.reqNext, ?_⟩
    rw [State.retire, h]; rfl
  · refine ⟨p, q, 0, ?_⟩
    rw [State.retire, h]
    simp only [onMe_eq, setHart_cur, me_setHart_self, setHart_setHart]

/-- Ends at `finish` where the chunk goes on. -/
theorem finish_open (s : State) (sh : Shape) (pc : Word) (c : Chunk) (hc : s.me.chunk = some c) (ha : sh.after = false)
    (hr : c.count + sh.n < 256) (ho : c.over = false) (hz : c.close = none) : s.finish sh pc = s.retire sh.n pc := by
  have hd : ∀ t : State, (if (t.pageReqs.isEmpty && t.hostReqs.isEmpty) = true then t else t.dropReqs pc) = t.dropReqs pc := by
    intro t; split
    · exact (dropReqs_none t pc ‹_›).symm
    · rfl
  obtain ⟨p, q, k, hs⟩ := retire_spec s sh.n pc
  have he : (s.retire sh.n pc).me.chunk = some (c.more sh.n) := by
    have : (s.retire sh.n pc).me = (s.me.retire sh.n pc).asking k := by
      rw [hs]; exact me_setHart_self s _
    rw [this]
    show s.me.chunk.map (Chunk.more sh.n) = _
    rw [hc]; rfl
  have key : s.finish sh pc = if sh.after ∨ (match (s.retire sh.n pc).me.chunk with
      | some c => decide (256 ≤ c.count) || c.over || c.close.isSome
      | none => false) = true then ((s.retire sh.n pc).endChunk (s.retire sh.n pc).cur).1 else s.retire sh.n pc := by
    simp only [State.finish, State.retire]
    rw [hd]
    rfl
  rw [key, he, if_neg]
  have : ¬ 256 ≤ c.count + sh.n := by omega
  simp [ha, ho, hz, this]

/-- A body that completes in an open chunk with room retires there. -/
theorem run_open (s : State) (sh : Shape) (body : State → Res) (u : State) (c : Chunk) (hs : s.calm = true)
    (hb : body (s.openChunk sh.own) = .ok u) (hc : u.me.chunk = some c) (hr : c.room = true) (hg : u.me.group = none)
    (h1 : sh.before = false) (h2 : sh.after = false) (h3 : sh.n = 1) : s.run sh body = u.retire 1 s.pc := by
  have hcount : ¬ (s.chunkBusy = true ∧ 256 < s.me.chunkCount + sh.n) := by
    rintro ⟨-, h⟩
    unfold State.calm at hs
    unfold Hart.chunkCount at h
    revert h hs
    cases hx : s.me.chunk with
    | none => simp [h3]
    | some d =>
      simp only [Chunk.room, Bool.and_eq_true, decide_eq_true_eq]
      intro h hs; omega
  simp only [Chunk.room, Bool.and_eq_true, decide_eq_true_eq, Bool.not_eq_true', Option.isNone_iff_eq_none] at hr
  obtain ⟨⟨⟨hr1, hr2⟩, hr3⟩, -⟩ := hr
  have hl : ¬ (u.overLimit = true ∧ s.chunkBusy = true) := by simp [State.overLimit, hc, hr2, hg]
  have : s.run sh body = if s.chunkBusy = true ∧ 256 < s.me.chunkCount + sh.n then (s.endChunk s.cur).1
      else match body (s.openChunk sh.own) with
        | .error e => s.handle e
        | .ok t => if t.overLimit = true ∧ s.chunkBusy = true then (s.endChunk s.cur).1 else t.finish sh s.pc := by
    rw [State.run, if_neg (by simp [h1])]; rfl
  rw [this, if_neg hcount, hb]
  dsimp only
  rw [if_neg hl, finish_open u sh s.pc c hc h2 (by omega) hr2 hr3, h3]

theorem banksBusy_empty {s : State} (h : s.myCore.banks = []) : s.banksBusy s.cur = false := by
  show (s.myCore.banks.any _) = false
  rw [h]; rfl

/-- Between two chunks there is none to end first. -/
theorem run_between {s : State} {sh : Shape} {body : State → Res} (hc : s.me.chunk = none) (hb : s.banksBusy s.cur = false) :
    s.run sh body = s.runOpen sh body := by
  unfold State.run
  rw [hb]
  simp [State.afterChunk, hc]

/-! States that differ in the executing hart alone. -/

/-- `t` is `s` with the executing hart at `x`, page and host requests apart. -/
structure HartOnly (x : Hart) (s t : State) : Prop where
  cur : t.cur = s.cur
  me : t.me = x
  others : ∀ h, h ≠ s.cur → t.hart h = s.hart h
  core : ∀ c, t.core c = s.core c
  rest : { t with harts := s.harts, cores := s.cores, pageReqs := s.pageReqs, hostReqs := s.hostReqs } = s

theorem HartOnly.setHart (s : State) (x : Hart) : HartOnly x s (s.setHart s.cur x) :=
  ⟨rfl, me_setHart_self s x, fun _ h => hart_setHart_ne s x h, fun _ => rfl, rfl⟩

theorem HartOnly.refl (s : State) : HartOnly s.me s s := ⟨rfl, rfl, fun _ _ => rfl, fun _ => rfl, rfl⟩

theorem HartOnly.trans {x y : Hart} {s t u : State} (h : HartOnly x s t) (g : HartOnly y t u) : HartOnly y s u := by
  refine ⟨g.cur.trans h.cur, g.me, fun k hk => ?_, fun c => (g.core c).trans (h.core c), ?_⟩
  · rw [g.others k (by rw [h.cur]; exact hk), h.others k hk]
  · have h1 := h.rest
    have h2 := g.rest
    rw [← h2] at h1
    exact h1

theorem HartOnly.retire (s : State) (n : Nat) (pc : Word) :
    ∃ k, HartOnly ((s.me.retire n pc).asking k) s (s.retire n pc) := by
  obtain ⟨p, q, k, h⟩ := retire_spec s n pc
  refine ⟨k, ?_⟩
  rw [h]
  exact ⟨rfl, me_setHart_self s _, fun _ hk => hart_setHart_ne s _ hk, fun _ => rfl, rfl⟩

/-- The executing hart's chunk, once one is open. -/
def State.chunkNow (s : State) (own : Bool) : Chunk :=
  match s.me.chunk with
  | some c => c
  | none => s.newChunk own

theorem HartOnly.openChunk (s : State) (own : Bool) :
    HartOnly (s.me.inChunk (s.chunkNow own)) s (s.openChunk own) := by
  unfold State.openChunk State.chunkNow
  cases hc : s.me.chunk with
  | some c =>
    have : s.me.inChunk c = s.me := by rw [Hart.inChunk, ← hc]
    simp only [this]
    exact HartOnly.refl s
  | none => exact HartOnly.setHart s _

/-- An open chunk of a calm hart has room. -/
theorem chunkNow_room (s : State) (own : Bool) (hs : s.calm = true) : (s.chunkNow own).room = true := by
  unfold State.calm at hs
  unfold State.chunkNow
  cases hc : s.me.chunk with
  | some c => simp_all
  | none => rfl

theorem chunkNow_count (s : State) (own : Bool) : (s.chunkNow own).count = s.me.chunkCount := by
  unfold State.chunkNow Hart.chunkCount
  cases s.me.chunk <;> rfl

/-- A byte behind an open chunk as its hart sees it (R157, R159). -/
def seen (c : Option Chunk) (loc : Nat) (b : Byte) : Byte :=
  match c with
  | none => b
  | some c => match mapFind? c.buf loc with
    | some v => keepBits (mapGet 0 c.keep loc) b v
    | none => b

/-- A byte that a hart sees behind its chunk. -/
def State.behind (s : State) (h loc : Nat) : Byte :=
  if isLsp loc then s.lspByte h loc else s.clusterByte (clusterOf h) (s.hartMark h) loc

theorem seeByte_eq (s : State) (h loc : Nat) : s.seeByte h loc = seen (s.hart h).chunk loc (s.behind h loc) := rfl

theorem seen_none (loc : Nat) (b : Byte) : seen none loc b = b := rfl
theorem seen_empty (c : Chunk) (loc : Nat) (b : Byte) (h : c.buf = []) : seen (some c) loc b = b := by
  simp [seen, h, mapFind?]
theorem seen_same {c d : Chunk} (loc : Nat) (b : Byte) (h : c.buf = d.buf) (hk : c.keep = d.keep) :
    seen (some c) loc b = seen (some d) loc b := by simp [seen, h, hk]

theorem chunkNow_seen (s : State) (own : Bool) (loc : Nat) (b : Byte) :
    seen (some (s.chunkNow own)) loc b = seen s.me.chunk loc b := by
  unfold State.chunkNow
  cases s.me.chunk with
  | some c => rfl
  | none => exact seen_empty _ _ _ rfl

/-- What an instruction of the plain shape leaves whose body changes its hart alone. -/
theorem run_hart (s : State) (sh : Shape) (body : State → Res) (f : Hart → Hart) (hs : s.calm = true)
    (hb : body (s.openChunk sh.own) = .ok ((s.openChunk sh.own).setHart s.cur (f (s.openChunk sh.own).me)))
    (hf : (f (s.me.inChunk (s.chunkNow sh.own))).chunk = some (s.chunkNow sh.own))
    (hg : (f (s.me.inChunk (s.chunkNow sh.own))).group = none)
    (h1 : sh.before = false) (h2 : sh.after = false) (h3 : sh.n = 1) :
    ∃ k, HartOnly (((f (s.me.inChunk (s.chunkNow sh.own))).retire 1 s.pc).asking k) s (s.run sh body) := by
  have ho := HartOnly.openChunk s sh.own
  have hu := HartOnly.setHart (s.openChunk sh.own) (f (s.openChunk sh.own).me)
  rw [ho.cur, ho.me] at hu
  rw [ho.me] at hb
  obtain ⟨k, hr⟩ := HartOnly.retire ((s.openChunk sh.own).setHart s.cur (f (s.me.inChunk (s.chunkNow sh.own)))) 1 s.pc
  refine ⟨k, ?_⟩
  rw [run_open s sh body _ (s.chunkNow sh.own) hs hb ?_ (chunkNow_room s sh.own hs) ?_ h1 h2 h3]
  · have := (ho.trans hu).trans hr
    rwa [hu.me] at this
  · rw [hu.me, hf]
  · rw [hu.me, hg]

/-- What the executing hart alone changes leaves what does not read it. -/
theorem HartOnly.keeps {x : Hart} {s t : State} (h : HartOnly x s t) {α : Type} (g : State → α)
    (hg : ∀ u : State, ∀ hh cc p q, g { u with harts := hh, cores := cc, pageReqs := p, hostReqs := q } = g u) : g t = g s := by
  have := congrArg g h.rest
  rwa [hg] at this

theorem HartOnly.hartMark {x : Hart} {s t : State} (h : HartOnly x s t) (hc : x.ctx = s.me.ctx) :
    t.hartMark s.cur = s.hartMark s.cur := by
  have hm : t.hart s.cur = x := by rw [← h.me, State.me, h.cur]
  have h1 : t.ctxs = s.ctxs := h.keeps State.ctxs fun _ _ _ _ _ => rfl
  have h2 : t.keys = s.keys := h.keeps State.keys fun _ _ _ _ _ => rfl
  simp only [State.hartMark, hm, hc, State.ctx?, h1, State.keyMark, State.key, h2]
  rfl

/-- What lies behind the chunk depends on the hart's context and on the scratchpad bytes it remembers. -/
theorem HartOnly.behind {x : Hart} {s t : State} (h : HartOnly x s t) (hc : x.ctx = s.me.ctx) (loc : Nat)
    (hl : mapFind? x.lspOld loc = mapFind? s.me.lspOld loc) : t.behind s.cur loc = s.behind s.cur loc := by
  have hm : t.hart s.cur = x := by rw [← h.me, State.me, h.cur]
  have hcb : ∀ m, t.clusterByte (clusterOf s.cur) m loc = s.clusterByte (clusterOf s.cur) m loc := fun m =>
    h.keeps (fun u => u.clusterByte (clusterOf s.cur) m loc) fun _ _ _ _ _ => rfl
  have hhb : ∀ m, t.homeByte m loc = s.homeByte m loc := fun m =>
    h.keeps (fun u => u.homeByte m loc) fun _ _ _ _ _ => rfl
  have hls : t.lspByte s.cur loc = s.lspByte s.cur loc := by
    simp only [State.lspByte, hm, hl, h.hartMark hc, hhb, h.core]
    rfl
  simp only [State.behind, h.hartMark hc, hcb, hls]

theorem HartOnly.sameRest {x : Hart} {s t : State} (h : HartOnly x s t)
    (hb : ∀ loc b, seen x.chunk loc b = seen s.me.chunk loc b)
    (hc : x.ctx = s.me.ctx) (hl : x.lspOld = s.me.lspOld) : SameRest s t := by
  have hm : t.hart s.cur = x := by rw [← h.me, State.me, h.cur]
  refine ⟨h.others, h.core, h.rest, fun loc => ?_⟩
  rw [seeByte_eq, seeByte_eq, hm, hb, h.behind hc loc (by rw [hl])]
  rfl

end Sys2Proof.Machine
end

