-- ==== Sys2Proof/Laws/Alu.lean ====
section
/-! SUPPORT. What the shared operations of the integer instructions do: one result register, or PC alone. -/

namespace Sys2Proof.Machine

theorem calm_wf_x {s : State} (h : s.calm = true) : mapWf 0 s.me.a.x = true := by
  simp only [State.calm, Bool.and_eq_true] at h; exact h.1.1.1.1.2
theorem calm_wf_f {s : State} (h : s.calm = true) : mapWf 0 s.me.a.f = true := by
  simp only [State.calm, Bool.and_eq_true] at h; exact h.1.1.1.2
theorem calm_wf_csr {s : State} (h : s.calm = true) : mapWf 0 s.me.a.csr = true := by
  simp only [State.calm, Bool.and_eq_true] at h; exact h.1.1.2
theorem calm_lspOld {s : State} (h : s.calm = true) : mapSorted s.me.lspOld = true := by
  simp only [State.calm, Bool.and_eq_true] at h; exact h.1.2
theorem calm_group {s : State} (h : s.calm = true) : s.me.group = none := by
  simp only [State.calm, Bool.and_eq_true, Option.isNone_iff_eq_none] at h; exact h.1.1.1.1.1.2
theorem calm_running {s : State} (h : s.calm = true) : s.me.status = .running := by
  simp only [State.calm, Bool.and_eq_true, decide_eq_true_eq] at h; exact h.1.1.1.1.1.1

/-- The hart that an instruction with one integer result leaves before it retires. -/
theorem HartOnly.writesX {s t : State} {x : Hart} {c : Chunk} {rd : Reg} {v pc : Word} {k : Nat} (hs : s.calm = true)
    (h : HartOnly (((x.setPc pc).retire 1 s.pc).asking k) s t) (hx : x = (s.me.inChunk c).setX rd v)
    (hn : c.count = s.me.chunkCount) (hb : ∀ loc b, seen (some c) loc b = seen s.me.chunk loc b) :
    Retired pc s t ∧ (rd ≠ 0 → t.x rd = v) ∧ t.x 0 = 0 ∧ (rd ≠ 0 → t.csr Csr.ldst = rd.setWidth 64) ∧
      SameRegs { xs := if rd = 0 then [] else [rd], csrs := ldstOf rd } s t ∧ SameRest s t := by
  subst hx
  obtain ⟨q, ha⟩ := Hart.retire_a 1 s.pc (((s.me.inChunk c).setX rd v).setPc pc)
  have hx : ∀ r, t.x r = ((s.me.inChunk c).setX rd v).x r := fun r => by
    rw [State.x, h.me]; exact (Hart.retire_x 1 s.pc _ r)
  have hcsr : ∀ n, t.csr n = ((s.me.inChunk c).setX rd v).csr n := fun n => by
    rw [State.csr, h.me]; exact (Hart.retire_csr 1 s.pc _ n)
  have hf : ∀ r, t.f r = s.f r := fun r => by
    rw [State.f, h.me]; exact (Hart.retire_f 1 s.pc _ r).trans (by rw [Hart.f_setPc, Hart.f_setX]; rfl)
  have hwx : mapWf 0 (s.me.inChunk c).a.x = true := calm_wf_x hs
  have hwc : mapWf 0 (s.me.inChunk c).a.csr = true := calm_wf_csr hs
  have hta : t.me.a = { (((s.me.inChunk c).setX rd v).setPc pc).a with seq := q } := by rw [h.me]; exact ha
  have hch : t.me.chunk = some (c.more 1) := by
    rw [h.me]
    show (((s.me.inChunk c).setX rd v).setPc pc).chunk.map (Chunk.more 1) = _
    simp
  refine ⟨⟨?_, ?_, ?_, ?_⟩, fun hr => ?_, ?_, fun hr => ?_, ⟨h.cur, fun r hr => ?_, fun r _ => hf r, fun n hn => ?_, ?_, ?_, ?_, ?_, ?_, ?_, ?_⟩, ?_⟩
  · rw [State.pc, hta]; simp
  · rw [h.me]; show (((s.me.inChunk c).setX rd v).setPc pc).status = _; simp [calm_running hs]
  · rw [Hart.chunkCount, hch]; simp [hn]
  · rw [h.me]; rfl
  · rw [hx, Hart.x_setX_self _ v hwx hr]
  · rw [hx]; exact Hart.x_zero _
  · rw [hcsr, Hart.ldst_setX _ rd v hwc, if_neg hr]
  · rw [hx]
    by_cases h0 : rd = 0
    · subst h0; simp; rfl
    · have : r ≠ rd := by rw [if_neg h0] at hr; simpa using hr
      rw [Hart.x_setX_ne _ v hwx this]; rfl
  · rw [hcsr]
    by_cases h0 : rd = 0
    · subst h0; simp; rfl
    · have : n ≠ Csr.ldst := fun e => hn (by simp only [ldstOf, if_neg h0, e, List.mem_singleton])
      rw [Hart.csr_setX_ne _ rd v hwc this]; rfl
  · rw [hta]; simp
  · rw [hta]; simp
  · rw [hta]; simp
  · intro _; rw [hta]; simp
  · intro _; rw [hta]; simp
  · rw [h.me]; show (((s.me.inChunk c).setX rd v).setPc pc).ctx = _; simp
  · rw [h.me]; show (((s.me.inChunk c).setX rd v).setPc pc).asid = _; simp
  · refine h.sameRest (fun loc b => ?_) ?_ ?_
    · show seen ((((s.me.inChunk c).setX rd v).setPc pc).chunk.map (Chunk.more 1)) loc b = _
      simp only [Hart.setPc_chunk, Hart.setX_chunk, Hart.inChunk_chunk, Option.map_some]
      rw [seen_same loc b (c.more_buf 1) (c.more_keep 1), hb]
    · show (((s.me.inChunk c).setX rd v).setPc pc).ctx = _; simp
    · show (((s.me.inChunk c).setX rd v).setPc pc).lspOld = _; simp

/-- An instruction with one integer result writes it and goes to the next (R97). -/
theorem alu_writesX (s : State) (rd : Reg) (v : Word) (len : Nat) (hs : s.calm = true) : WritesX rd v len s (alu s rd v len) := by
  have ho := HartOnly.openChunk s false
  obtain ⟨k, h⟩ := run_hart s .plain (fun s => .ok ((s.setX rd v).next len)) (fun x => (x.setX rd v).setPc (x.a.pc + BitVec.ofNat 64 len)) hs
    (by
      show Except.ok _ = Except.ok _
      have : (s.openChunk false).cur = s.cur := ho.cur
      simp [State.next, Shape.plain, this, me_setHart_cur])
    (by simp) (by simp [calm_group hs]) rfl rfl rfl
  obtain ⟨h1, h2, h3, h4, h5, h6⟩ := HartOnly.writesX (x := (s.me.inChunk (s.chunkNow false)).setX rd v) hs h rfl (chunkNow_count s false) (chunkNow_seen s false)
  exact ⟨h1, h2, h3, h4, h5, h6⟩

theorem pc_openChunk (s : State) (own : Bool) : (s.openChunk own).pc = s.pc := by
  have h := (HartOnly.openChunk s own).me
  rw [State.pc, h]; rfl
theorem x_openChunk (s : State) (own : Bool) (r : Reg) : (s.openChunk own).x r = s.x r := by
  have h := (HartOnly.openChunk s own).me
  rw [State.x, h]; rfl
theorem f_openChunk (s : State) (own : Bool) (r : Reg) : (s.openChunk own).f r = s.f r := by
  have h := (HartOnly.openChunk s own).me
  rw [State.f, h]; rfl
theorem csr_openChunk (s : State) (own : Bool) (n : Nat) : (s.openChunk own).csr n = s.csr n := by
  have h := (HartOnly.openChunk s own).me
  rw [State.csr, h]; rfl
theorem a_openChunk (s : State) (own : Bool) : (s.openChunk own).me.a = s.me.a := by
  have h := (HartOnly.openChunk s own).me
  rw [h]; rfl

/-- A jump links and goes to its target (R102). -/
theorem jump_jumps (s : State) (rd : Reg) (f : State → Word) (pc : Word) (hs : s.calm = true) (hf : f (s.openChunk false) = pc) :
    JumpsTo rd pc s (s.run .plain fun u => .ok ((u.setX rd (u.pc + 4)).setPc (f u))) := by
  have ho := HartOnly.openChunk s false
  obtain ⟨k, h⟩ := run_hart s .plain (fun u => .ok ((u.setX rd (u.pc + 4)).setPc (f u))) (fun x => (x.setX rd (s.pc + 4)).setPc pc) hs
    (by
      show Except.ok (((s.openChunk false).setX rd ((s.openChunk false).pc + 4)).setPc (f (s.openChunk false))) = Except.ok _
      have : (s.openChunk false).cur = s.cur := ho.cur
      rw [hf, pc_openChunk]
      simp [Shape.plain, this, me_setHart_cur])
    (by simp) (by simp [calm_group hs]) rfl rfl rfl
  obtain ⟨h1, h2, h3, h4, h5, h6⟩ := HartOnly.writesX (x := (s.me.inChunk (s.chunkNow false)).setX rd (s.pc + 4)) hs h rfl
    (chunkNow_count s false) (chunkNow_seen s false)
  exact ⟨h1, h2, h3, h4, h5, h6⟩

/-- The hart that an instruction leaves which writes no register. -/
theorem HartOnly.onlyPc {s t : State} {c : Chunk} {pc : Word} {k : Nat} (hs : s.calm = true)
    (h : HartOnly ((((s.me.inChunk c).setPc pc).retire 1 s.pc).asking k) s t)
    (hn : c.count = s.me.chunkCount) (hb : ∀ loc b, seen (some c) loc b = seen s.me.chunk loc b) :
    OnlyPc pc s t := by
  have h' : HartOnly (((((s.me.inChunk c).setX 0 0).setPc pc).retire 1 s.pc).asking k) s t := by rw [Hart.setX_zero]; exact h
  obtain ⟨h1, -, -, -, h5, h6⟩ := HartOnly.writesX (rd := 0) (v := 0) hs h' rfl hn hb
  exact ⟨h1, ⟨h5.cur, fun r _ => h5.x r (by simp), h5.f, fun n _ => h5.csr n (by simp [ldstOf]), h5.rt, h5.rsets, h5.mode, h5.s0,
    h5.s1, h5.ctx, h5.asid⟩, h6⟩

/-- An instruction that sets PC alone. -/
theorem goto_onlyPc (s : State) (f : State → Word) (hs : s.calm = true) (pc : Word) (hf : f (s.openChunk false) = pc) :
    OnlyPc pc s (s.run .plain fun u => .ok (u.setPc (f u))) := by
  have ho := HartOnly.openChunk s false
  obtain ⟨k, h⟩ := run_hart s .plain (fun u => .ok (u.setPc (f u))) (fun x => x.setPc pc) hs
    (by
      show Except.ok ((s.openChunk false).setPc (f (s.openChunk false))) = Except.ok _
      have : (s.openChunk false).cur = s.cur := ho.cur
      rw [hf]
      simp [Shape.plain, this])
    (by simp) (by simp [calm_group hs]) rfl rfl rfl
  exact h.onlyPc hs (chunkNow_count s false) (chunkNow_seen s false)

end Sys2Proof.Machine
end

