-- ==== Sys2Proof/Laws/Cache.lean ====
section
/-! SUPPORT. What memory traffic leaves alone: the registers and chunks of every hart, but for what the arbiter records of
lines changed by others (spec/11 R268, R269; spec/12 R280, R281; spec/14 R288-R301). -/

namespace Sys2Proof.Machine

/-- A chunk apart from the lines that others changed. -/
def Chunk.inner (c : Chunk) : Chunk := { c with ext := [] }

/-- What cache traffic keeps of a hart. -/
structure HartKept (x y : Hart) : Prop where
  a : y.a = x.a
  ctx : y.ctx = x.ctx
  asid : y.asid = x.asid
  group : y.group = x.group
  inst : y.inst = x.inst
  atVec : y.atVec = x.atVec
  gang : y.gang = x.gang
  trapAt : y.trapAt = x.trapAt
  chunk : y.chunk.map Chunk.inner = x.chunk.map Chunk.inner
  lspOld : y.lspOld = x.lspOld
  running : x.status = .running → y.status = .running

theorem HartKept.refl (x : Hart) : HartKept x x := ⟨rfl, rfl, rfl, rfl, rfl, rfl, rfl, rfl, rfl, rfl, id⟩

theorem HartKept.trans {x y z : Hart} (h : HartKept x y) (g : HartKept y z) : HartKept x z :=
  ⟨g.a.trans h.a, g.ctx.trans h.ctx, g.asid.trans h.asid, g.group.trans h.group, g.inst.trans h.inst, g.atVec.trans h.atVec,
    g.gang.trans h.gang, g.trapAt.trans h.trapAt, g.chunk.trans h.chunk, g.lspOld.trans h.lspOld, fun r => g.running (h.running r)⟩

/-- What memory traffic keeps of the state: everything but copies, the bytes behind them with their keys and errors, the cores,
and the lines touched. -/
structure Quiet (s t : State) : Prop where
  harts : ∀ h, HartKept (s.hart h) (t.hart h)
  rest : { t with harts := s.harts, mem := s.mem, memKey := s.memKey, cores := s.cores, clusters := s.clusters,
                  touched := s.touched, bad := s.bad, badHard := s.badHard } = s
  banks : ∀ c, (t.core c).banks = (s.core c).banks

theorem Quiet.refl (s : State) : Quiet s s := ⟨fun _ => HartKept.refl _, rfl, fun _ => rfl⟩

theorem Quiet.trans {s t u : State} (h : Quiet s t) (g : Quiet t u) : Quiet s u := by
  refine ⟨fun k => (h.harts k).trans (g.harts k), ?_, fun c => (g.banks c).trans (h.banks c)⟩
  have h1 := h.rest
  have h2 := g.rest
  rw [← h2] at h1
  exact h1

theorem Quiet.cur {s t : State} (h : Quiet s t) : t.cur = s.cur := by have := congrArg State.cur h.rest; exact this
theorem Quiet.me {s t : State} (h : Quiet s t) : HartKept s.me t.me := by
  have := h.harts s.cur
  rw [State.me, State.me, h.cur]; exact this

/-- A pass over a list keeps what each of its steps keeps. -/
theorem Quiet.foldl {α : Type} (f : State → α → State) (hf : ∀ s a, Quiet s (f s a)) (l : List α) (s : State) :
    Quiet s (l.foldl f s) := by
  induction l generalizing s with
  | nil => exact Quiet.refl s
  | cons a l ih => exact (hf s a).trans (ih (f s a))

/-! Harts changed one by one. -/

theorem mapFind?_map {α : Type} (g : Nat × α → Nat × α) (R : α → α → Prop) (hg : ∀ e, (g e).1 = e.1 ∧ R e.2 (g e).2)
    (m : FMap α) (k : Nat) :
    (mapFind? m k = none ∧ mapFind? (m.map g) k = none) ∨
      ∃ x y, mapFind? m k = some x ∧ mapFind? (m.map g) k = some y ∧ R x y := by
  induction m with
  | nil => exact .inl ⟨rfl, rfl⟩
  | cons e m ih =>
    obtain ⟨j, u⟩ := e
    obtain ⟨h1, h2⟩ := hg (j, u)
    rw [List.map_cons]
    generalize g (j, u) = f at h1 h2
    obtain ⟨i, w⟩ := f
    simp only at h1 h2
    subst h1
    simp only [mapFind?]
    split
    · exact .inr ⟨u, w, rfl, rfl, h2⟩
    · split
      · exact .inl ⟨rfl, rfl⟩
      · exact ih

theorem Quiet.onHarts (s : State) (g : Nat × Hart → Nat × Hart) (hg : ∀ e, (g e).1 = e.1 ∧ HartKept e.2 (g e).2) :
    Quiet s { s with harts := s.harts.map g } := by
  refine ⟨fun h => ?_, rfl, fun _ => rfl⟩
  rcases mapFind?_map g HartKept hg s.harts h with ⟨h1, h2⟩ | ⟨x, y, h1, h2, h3⟩
  · simp only [State.hart, h1, h2]; exact HartKept.refl _
  · simp only [State.hart, h1, h2]; exact h3

theorem HartKept.links (x : Hart) (l : List Nat) : HartKept x { x with links := l } :=
  ⟨rfl, rfl, rfl, rfl, rfl, rfl, rfl, rfl, rfl, rfl, id⟩

theorem quiet_fireMonitors (s : State) (line : Nat) : Quiet s (s.fireMonitors line) := by
  refine Quiet.onHarts s _ fun e => ?_
  split
  · split
    · exact ⟨rfl, rfl, rfl, rfl, rfl, rfl, rfl, rfl, rfl, rfl, rfl, fun hr => by simp [hr]⟩
    · exact ⟨rfl, HartKept.refl _⟩
  · exact ⟨rfl, HartKept.refl _⟩

theorem quiet_noteChange (s : State) (k : Nat) (lines : List Nat) (h : Option Nat) : Quiet s (s.noteChange k lines h) := by
  refine Quiet.onHarts s _ fun e => ?_
  dsimp only
  split
  · split
    · exact ⟨rfl, HartKept.links _ _⟩
    · refine ⟨rfl, rfl, rfl, rfl, rfl, rfl, rfl, rfl, rfl, ?_, rfl, id⟩
      simp only [Option.map_map]
      rfl
  · exact ⟨rfl, HartKept.refl _⟩

theorem quiet_breakLinks (s : State) (k line : Nat) : Quiet s (s.breakLinks k line) := by
  refine Quiet.onHarts s _ fun e => ?_
  split
  · exact ⟨rfl, HartKept.links _ _⟩
  · exact ⟨rfl, HartKept.refl _⟩

/-! Copies and the bytes behind them. -/

theorem quiet_onCluster (s : State) (k : Nat) (f : Cluster → Cluster) : Quiet s (s.onCluster k f) := ⟨fun _ => HartKept.refl _, rfl, fun _ => rfl⟩
theorem quiet_putByte (s : State) (loc : Nat) (b : Byte) : Quiet s (s.putByte loc b) := ⟨fun _ => HartKept.refl _, rfl, fun _ => rfl⟩
theorem quiet_setCopy (s : State) (k line : Nat) (c : L2Line) : Quiet s (s.setCopy k line c) := quiet_onCluster s k _
theorem quiet_dropCopy (s : State) (k line : Nat) : Quiet s (s.dropCopy k line) := quiet_onCluster s k _

theorem quiet_homeNews (s : State) (k line : Nat) : Quiet s (s.homeNews k line) := by
  refine Quiet.foldl _ (fun s j => ?_) _ s
  split
  · exact Quiet.refl s
  · split
    · split
      · exact quiet_setCopy _ _ _ _
      · exact Quiet.refl s
    · exact quiet_noteChange _ _ _ _

theorem quiet_writeBack (s : State) (k line : Nat) : Quiet s (s.writeBack k line) := by
  unfold State.writeBack
  split
  · exact Quiet.refl s
  · split
    · exact Quiet.refl s
    · refine Quiet.trans (Quiet.trans (Quiet.trans (Quiet.foldl _ (fun s i => ?_) _ s) (quiet_setCopy _ _ _ _))
        (quiet_fireMonitors _ _)) (quiet_homeNews _ _ _)
      split
      · exact Quiet.refl s
      · exact quiet_putByte s _ _

theorem quiet_evict (s : State) (k line : Nat) : Quiet s (s.evict k line) := by
  unfold State.evict
  have h0 := quiet_writeBack s k line
  dsimp only
  split
  · exact h0
  · refine h0.trans ?_
    have h1 := (quiet_dropCopy (s.writeBack k line) k line).trans (quiet_breakLinks _ k line)
    split
    · exact h1
    · exact h1.trans (quiet_noteChange _ _ _ _)

theorem quiet_touch (s : State) (k line : Nat) (ins : Insert) (counts : Bool) : Quiet s (s.touch k line ins counts) := by
  have hc : ∀ (b : Bool), Quiet s (if counts then s.onCluster k (·.count line b) else s) := fun b => by
    split
    · exact quiet_onCluster s k _
    · exact Quiet.refl s
  unfold State.touch
  split
  · exact (hc true).trans (quiet_setCopy _ _ _ _)
  · have h0 := hc false
    generalize (if counts = true then s.onCluster k fun x => x.count line false else s) = u at h0 ⊢
    dsimp only
    split
    · exact h0
    · refine h0.trans ((quiet_onCluster u k fun _ => ((u.cluster k).choose line).1).trans
        (Quiet.trans ?_ (quiet_setCopy _ _ _ _)))
      split
      · exact quiet_evict _ _ _
      · exact Quiet.refl _

theorem quiet_touchNew (s : State) (k : Nat) (seen locs : List Nat) (ins : Insert) (efs : List Nat) :
    Quiet s (s.touchNew k seen locs ins efs) :=
  Quiet.foldl _ (fun s l => quiet_touch s k l _ _) _ s

theorem quiet_touchAll (s : State) (k : Nat) (locs : List Nat) (ins : Insert) : Quiet s (s.touchAll k locs ins) := by
  unfold State.touchAll
  exact (quiet_touchNew s k _ locs ins []).trans ⟨fun _ => HartKept.refl _, rfl, fun _ => rfl⟩

theorem quiet_keepOld (s : State) (line : Nat) : Quiet s (s.keepOld line) := by
  refine Quiet.foldl _ (fun s k => ?_) _ s
  split
  · exact quiet_touch _ _ _ _ _
  · exact Quiet.refl s

/-! Writes at a home, releases and acquires. -/

theorem Quiet.onHart (s : State) (h : Nat) (x : Hart) (hx : HartKept (s.hart h) x) : Quiet s (s.setHart h x) := by
  refine ⟨fun k => ?_, rfl, fun _ => rfl⟩
  by_cases hk : k = h
  · subst hk; rw [hart_setHart_self]; exact hx
  · rw [hart_setHart_ne s x hk]; exact HartKept.refl _

theorem quiet_keyByte (s : State) (mark loc : Nat) : Quiet s (s.keyByte mark loc) := by
  unfold State.keyByte
  split
  · exact Quiet.refl s
  · exact ⟨fun _ => HartKept.refl _, rfl, fun _ => rfl⟩

theorem quiet_homePut (s : State) (mark loc : Nat) (b keep : Byte) : Quiet s (s.homePut mark loc b keep) :=
  (quiet_keyByte s mark _).trans (quiet_putByte _ _ _)

theorem quiet_heal (s : State) (locs : List Nat) : Quiet s (s.heal locs) := by
  unfold State.heal
  split <;> exact ⟨fun _ => HartKept.refl _, rfl, fun _ => rfl⟩

theorem quiet_refreshCopy (s : State) (line k : Nat) (h : Option Nat) (stay : Bool) : Quiet s (s.refreshCopy line k h stay) := by
  unfold State.refreshCopy
  split
  · exact quiet_onCluster _ _ _
  · refine Quiet.trans ?_ (quiet_noteChange _ _ _ _)
    split
    · exact Quiet.refl s
    · split
      · exact quiet_dropCopy _ _ _
      · exact quiet_setCopy _ _ _ _

theorem quiet_refreshAll (s : State) (line : Nat) : Quiet s (s.refreshAll line) :=
  Quiet.foldl _ (fun s k => quiet_refreshCopy s line k none true) _ s

theorem quiet_homeWrite (s : State) (mark : Nat) (bytes : List (Nat × Byte)) : Quiet s (s.homeWrite mark bytes) :=
  (((Quiet.foldl _ quiet_keepOld _ s).trans
    (Quiet.foldl _ (fun s (e : Nat × Byte) => quiet_homePut s mark e.1 e.2 0) bytes _)).trans (quiet_heal _ _)).trans
    (Quiet.foldl _ (fun s l => (quiet_fireMonitors s l).trans (quiet_refreshAll _ l)) _ _)

theorem quiet_flushLine (s : State) (h loc : Nat) : Quiet s (s.flushLine h loc) := by
  unfold State.flushLine
  split
  · exact quiet_writeBack _ _ _
  · exact Quiet.refl s

theorem quiet_commitByte (s : State) (h mark loc : Nat) (b keep : Byte) : Quiet s (s.commitByte h mark loc b keep) := by
  unfold State.commitByte
  dsimp only
  split
  · split
    · split
      · exact ((quiet_keyByte s mark loc).trans (quiet_setCopy _ _ _ _)).trans (quiet_putByte _ _ _)
      · exact (quiet_keyByte s mark loc).trans (quiet_setCopy _ _ _ _)
    · exact quiet_homePut _ _ _ _ _
  · exact quiet_homePut _ _ _ _ _

theorem quiet_commitBytes (s : State) (h mark : Nat) (bytes keep : FMap Byte) : Quiet s (s.commitBytes h mark bytes keep) := by
  unfold State.commitBytes
  dsimp only
  rw [onHart_eq]
  refine Quiet.trans (Quiet.trans (Quiet.trans ?_ (Quiet.foldl _ (fun t l => ?_) _ _)) (quiet_noteChange _ _ _ _)) (Quiet.onHart _ _ _ ?_)
  · exact (Quiet.foldl _ (fun s (e : Nat × Byte) => quiet_commitByte s h mark e.1 e.2 _) bytes s).trans (quiet_heal _ _)
  · split
    · split
      · exact Quiet.refl t
      · exact (quiet_fireMonitors _ _).trans (quiet_homeNews _ _ _)
    · exact quiet_fireMonitors _ _
  · exact ⟨rfl, rfl, rfl, rfl, rfl, rfl, rfl, rfl, rfl, rfl, id⟩

theorem quiet_writeOut (s : State) (c l : Nat) (ks : List Nat) :
    Quiet s (ks.foldl (fun s k => s.refreshCopy l k) ((s.keepOld l).writeBack c l)) :=
  ((quiet_keepOld s l).trans (quiet_writeBack _ _ l)).trans (Quiet.foldl _ (fun s k => quiet_refreshCopy s l k none false) ks _)

theorem quiet_release (s : State) (h : Nat) (sc : Scope) : Quiet s (s.release h sc) := by
  cases sc with
  | core => exact Quiet.refl s
  | cluster => exact Quiet.refl s
  | die => exact Quiet.foldl _ (fun s l => quiet_writeOut s _ l _) _ s
  | device =>
    have key : ∀ (ls : List Nat) (f : State → Nat → State), (∀ s l, Quiet s (f s l)) → Quiet s ((ls.foldl f s).onHart h
        fun x => { x with wlines := [] }) := fun ls f hf => by
      refine Quiet.trans (Quiet.foldl f hf ls s) ?_
      rw [onHart_eq]
      exact Quiet.onHart _ _ _ ⟨rfl, rfl, rfl, rfl, rfl, rfl, rfl, rfl, rfl, rfl, id⟩
    exact key _ _ fun s l => quiet_writeOut s _ l _

/-- Apart from what the hart remembers of the scratchpads. -/
theorem quiet_acquire (s : State) (h : Nat) (sc : Scope) :
    Quiet (if (s.hart h).lspOld.isEmpty then s else s.onHart h fun x => { x with lspOld := [] }) (s.acquire h sc) := by
  unfold State.acquire
  generalize (if (s.hart h).lspOld.isEmpty = true then s else s.onHart h fun x => { x with lspOld := [] }) = u
  have key : ∀ (k : Nat) (l : FMap L2Line) (s : State), Quiet s (l.foldl (fun s e =>
      if s.staleAt sc e.1 e.2 = true then s.refreshCopy e.1 k (some h) else s) s) := fun k l s =>
    Quiet.foldl _ (fun s (e : Nat × L2Line) => by
      split
      · exact quiet_refreshCopy _ _ _ _ _
      · exact Quiet.refl s) l s
  dsimp only
  cases sc with
  | core => exact Quiet.refl u
  | cluster => exact Quiet.refl u
  | die => exact key _ _ u
  | device => exact key _ _ u

theorem quiet_atHome (s : State) (h mark : Nat) (locs : List Nat) : Quiet s (s.atHome h mark locs).2 :=
  Quiet.foldl _ (fun s _ => quiet_flushLine s h _) _ s

/-! Translations and checks. -/

theorem quiet_cacheTr (s : State) (c : Nat) (e : TlbEntry) : Quiet s (s.cacheTr c e) := by
  refine ⟨fun _ => HartKept.refl _, rfl, fun k => ?_⟩
  show ((s.setCore c _).core k).banks = _
  by_cases hk : k = c
  · subst hk; rw [core_setCore_self]
  · rw [core_setCore_ne s _ hk]

theorem quiet_translate {s t : State} {w : Who} {kind : Kind} {va : Word} {r : Tr} (h : s.translate w kind va = .ok (r, t)) :
    Quiet s t := by
  unfold State.translate at h
  split at h
  · cases h
  · split at h
    · cases h
    · dsimp only at h
      split at h
      · split at h
        · cases h
        · cases h; exact Quiet.refl s
      · split at h
        · cases h
        · split at h
          · cases h
          · cases h
            exact (Quiet.foldl _ (fun s l => quiet_touch s _ l _ _) _ s).trans (quiet_cacheTr _ _ _)

theorem quiet_locate {w : Who} {kind : Kind} {member : Nat} (fuel : Nat) {s t : State} {va : Word} {n : Nat} {acc a : Acc}
    (h : s.locate w kind member fuel va n acc = .ok (a, t)) : Quiet s t := by
  induction fuel generalizing s va n acc with
  | zero => simp only [State.locate] at h; cases h; exact Quiet.refl _
  | succ f ih =>
    rw [State.locate] at h
    split at h
    · cases h; exact Quiet.refl _
    · split at h
      · dsimp only at h
        split at h
        · exact ih h
        · cases h
      · split at h
        · cases h
        · next hr => exact (quiet_translate hr).trans (ih h)

/-- Checks 1 to 4 pass: the address is aligned, and the bytes are located. -/
theorem check14_ok {s t : State} {w : Who} {kind : Kind} {align member : Nat} {va : Word} {n : Nat} {a : Acc}
    (h : s.check14 w kind align member va n = .ok (a, t)) :
    va.toNat % align = 0 ∧ s.locate w kind member (n + 2) va n Acc.none = .ok (a, t) := by
  unfold State.check14 checkAlign at h
  simp only [bind, Except.bind] at h
  split at h
  · cases h
  · next hal =>
    split at h
    · cases h
    · refine ⟨?_, h⟩
      split at hal
      · assumption
      · cases hal

/-- A check that passes answers what checks 1 to 4 answer. -/
theorem check_ok {s t : State} {w : Who} {kind : Kind} {align member : Nat} {va : Word} {n : Nat} {a : Acc}
    (h : s.check w kind align member va n = .ok (a, t)) : s.check14 w kind align member va n = .ok (a, t) := by
  unfold State.check at h
  simp only [bind, Except.bind, pure, Except.pure, throw, throwThe, MonadExceptOf.throw] at h
  split at h
  · cases h
  · next r hr =>
    obtain ⟨a', u⟩ := r
    rw [hr]
    dsimp only at h
    split at h
    · cases h
    · split at h
      · split at h
        · cases h
        · split at h
          · cases h
          · exact h
      · exact h

theorem quiet_check14 {s t : State} {w : Who} {kind : Kind} {align member : Nat} {va : Word} {n : Nat} {a : Acc}
    (h : s.check14 w kind align member va n = .ok (a, t)) : Quiet s t := quiet_locate _ (check14_ok h).2

theorem quiet_check {s t : State} {w : Who} {kind : Kind} {align member : Nat} {va : Word} {n : Nat} {a : Acc}
    (h : s.check w kind align member va n = .ok (a, t)) : Quiet s t := quiet_check14 (check_ok h)

end Sys2Proof.Machine
end

