-- ==== Sys2Proof/Laws/Access.lean ====
section
/-! SUPPORT. What a located access leaves: the executing hart with what the access noted in its chunk, cache traffic
elsewhere (spec/05 R107-R109). -/

namespace Sys2Proof.Machine

/-- `t` is `s` with the executing hart at `x` and cache traffic elsewhere. -/
structure Moves (x : Hart) (s t : State) : Prop where
  cur : t.cur = s.cur
  me : t.me = x
  others : ∀ h, h ≠ s.cur → HartKept (s.hart h) (t.hart h)
  rest : { t with harts := s.harts, mem := s.mem, memKey := s.memKey, cores := s.cores, clusters := s.clusters,
                  touched := s.touched, bad := s.bad, badHard := s.badHard, pageReqs := s.pageReqs, hostReqs := s.hostReqs } = s

theorem HartOnly.moves {x : Hart} {s t : State} (h : HartOnly x s t) : Moves x s t := by
  refine ⟨h.cur, h.me, fun k hk => by rw [h.others k hk]; exact HartKept.refl _, ?_⟩
  have h1 := h.rest
  have hm : t.mem = s.mem := by have := congrArg State.mem h1; exact this
  have hk : t.clusters = s.clusters := by have := congrArg State.clusters h1; exact this
  have ht : t.touched = s.touched := by have := congrArg State.touched h1; exact this
  have hy : t.memKey = s.memKey := by have := congrArg State.memKey h1; exact this
  have hb : t.bad = s.bad := by have := congrArg State.bad h1; exact this
  have hd : t.badHard = s.badHard := by have := congrArg State.badHard h1; exact this
  rw [← hm, ← hk, ← ht, ← hy, ← hb, ← hd]
  exact h1

theorem Quiet.moves {s t : State} (h : Quiet s t) : Moves t.me s t := by
  refine ⟨h.cur, rfl, fun k _ => h.harts k, ?_⟩
  have h1 := h.rest
  have hp : t.pageReqs = s.pageReqs := by have := congrArg State.pageReqs h1; exact this
  have hh : t.hostReqs = s.hostReqs := by have := congrArg State.hostReqs h1; exact this
  rw [← hp, ← hh]
  exact h1

theorem Moves.trans {x y : Hart} {s t u : State} (h : Moves x s t) (g : Moves y t u) : Moves y s u := by
  refine ⟨g.cur.trans h.cur, g.me, fun k hk => (h.others k hk).trans (g.others k (by rw [h.cur]; exact hk)), ?_⟩
  have h1 := h.rest
  have h2 := g.rest
  rw [← h2] at h1
  exact h1

/-! Reading. -/

/-- The chunk with lines in its read signature. -/
def Chunk.withReads (ls : List Nat) (c : Chunk) : Chunk := { c with reads := nub (ls ++ c.reads) }

/-- The state in which an access finds its bytes: its lines touched. -/
def State.touchedFor (s : State) (a : Acc) (ins : Insert) : State := s.touchAll (clusterOf s.cur) a.locs (a.insert ins)

/-- A read outside a timed phase answers the bytes that the hart sees, and notes their lines. -/
theorem readAcc_spec (s : State) (a : Acc) (ins : Insert) (port : Nat) (later : Nat → Nat) (op : Nat → BankOp)
    (ht : s.timed = false) (hbk : s.myCore.banks = []) :
    s.readAcc a ins port later op = (a.locs.map ((s.touchedFor a ins).seeByte s.cur),
      (s.touchedFor a ins).setHart s.cur { (s.touchedFor a ins).me with
        chunk := (s.touchedFor a ins).me.chunk.map (Chunk.withReads (linesOf (a.locs.filter isHbm))) }) := by
  have hq : Quiet s (s.touchedFor a ins) := quiet_touchAll s (clusterOf s.cur) a.locs (a.insert ins)
  have hcur : (s.touchedFor a ins).cur = s.cur := hq.cur
  have htm : (s.touchedFor a ins).timed = false := by
    rw [State.timed, State.csr, Hart.csr, hq.me.a]
    exact ht
  have hub : ((s.touchedFor a ins).core (coreOf s.cur)).banks = [] := (hq.banks _).trans hbk
  have key : ∀ u : State, u.cur = s.cur → u.timed = false → (u.core (coreOf s.cur)).banks = [] →
      (let t := u.onChunk fun c => { c with reads := nub (linesOf (a.locs.filter isHbm) ++ c.reads) }
       if t.timed then (a.locs.map (t.seeByte t.cur), t.bankAsk port later op (lspWords a.locs))
       else if (t.core (coreOf t.cur)).banks.isEmpty then (a.locs.map (t.seeByte t.cur), t)
       else
         let lost := t.bankLost port t.me.ctx (t.csr Csr.lspswz) false (lspWords a.locs)
         ((movedLocs lost a.locs).map (t.seeByte t.cur), t.countConflicts (coreOf t.cur) lost.length)) =
      (a.locs.map (u.seeByte s.cur), u.setHart s.cur { u.me with
        chunk := u.me.chunk.map (Chunk.withReads (linesOf (a.locs.filter isHbm))) }) := by
    intro u hu hut hbk
    have e : (u.onChunk fun c => { c with reads := nub (linesOf (a.locs.filter isHbm) ++ c.reads) }) =
        u.setHart s.cur { u.me with chunk := u.me.chunk.map (Chunk.withReads (linesOf (a.locs.filter isHbm))) } := by
      rw [State.onChunk, onMe_eq, hu]; rfl
    rw [e]
    have ht2 : (u.setHart s.cur { u.me with chunk := u.me.chunk.map (Chunk.withReads (linesOf (a.locs.filter isHbm))) }).timed = false := by
      rw [← hut]
      simp only [State.timed, State.csr]
      rw [me_setHart_cur _ _ _ hu]
      rfl
    dsimp only
    rw [if_neg (by simp [ht2]), if_pos (by rw [core_setHart, setHart_cur, hu, hbk]; rfl)]
    refine Prod.ext ?_ rfl
    refine List.map_congr_left fun loc _ => ?_
    show State.seeByte _ u.cur loc = _
    have h1 := HartOnly.setHart u { u.me with chunk := u.me.chunk.map (Chunk.withReads (linesOf (a.locs.filter isHbm))) }
    rw [hu] at h1 ⊢
    have hm : u.hart s.cur = u.me := by rw [State.me, hu]
    have h2 := h1.behind rfl loc rfl
    rw [hu] at h2
    rw [seeByte_eq, seeByte_eq, h2, hart_setHart_self, hm]
    cases u.me.chunk <;> rfl
  exact key (s.touchedFor a ins) hcur htm hub

/-! Writing. -/

/-- The chunk with whole bytes stored at `locs`. -/
def Chunk.withStore (locs : List Nat) (va : Word) (bs : List Byte) (c : Chunk) : Chunk :=
  { c with buf := (locs.zip bs).foldl (fun m e => mapPut m e.1 e.2) c.buf,
           keep := (locs.zip bs).foldl (fun m e => mapErase m e.1) c.keep,
           writes := nub (linesOf (locs.filter isHbm) ++ c.writes),
           sig := (storeItems va bs).foldl sigAdd c.sig }

/-- The hart that stores at `locs`: it sees its own store of a scratchpad byte. -/
def Hart.stores (locs : List Nat) (va : Word) (bs : List Byte) (x : Hart) : Hart :=
  { x with chunk := x.chunk.map (Chunk.withStore locs va bs), lspOld := x.lspOld.filter fun e => decide (e.1 ∉ locs) }

/-- Whole bytes stored one by one. -/
theorem putBytes_eq (l : List (Nat × Byte)) (c : Chunk) :
    (l.map fun e => (e.1, e.2, (0 : Byte))).foldl (fun c e => c.putByte e.1 e.2.1 e.2.2) c =
      { c with buf := l.foldl (fun m e => mapPut m e.1 e.2) c.buf, keep := l.foldl (fun m e => mapErase m e.1) c.keep } := by
  induction l generalizing c with
  | nil => rfl
  | cons e l ih => rw [List.map_cons, List.foldl_cons, ih]; simp [Chunk.putByte]

theorem zipIdx_keep (l : List (Nat × Byte)) (n : Nat) :
    (l.zipIdx n).map (fun e => (e.1.1, e.1.2, ([] : List Byte).getD e.2 0)) = l.map fun e => (e.1, e.2, (0 : Byte)) := by
  induction l generalizing n with
  | nil => rfl
  | cons e l ih => rw [List.zipIdx_cons, List.map_cons, ih, List.map_cons]; rfl

/-- A write outside a timed phase puts its bytes into the chunk. -/
theorem writeAcc_spec (s : State) (a : Acc) (va : Word) (bs : List Byte) (ins : Insert) (ht : s.timed = false) :
    s.writeAcc a va bs ins = (s.touchedFor a ins).setHart s.cur ((s.touchedFor a ins).me.stores a.locs va bs) := by
  have hq : Quiet s (s.touchedFor a ins) := quiet_touchAll s (clusterOf s.cur) a.locs (a.insert ins)
  have htm : ¬ (s.touchedFor a ins).timed = true := by
    rw [State.timed, State.csr, Hart.csr, hq.me.a]
    intro h
    exact Bool.noConfusion (h.symm.trans ht)
  have hx : ∀ x : Hart, (if x.lspOld.isEmpty then x else { x with lspOld := x.lspOld.filter fun e => decide (e.1 ∉ a.locs) }) =
      { x with lspOld := x.lspOld.filter fun e => decide (e.1 ∉ a.locs) } := fun x => by
    split
    · next h => rw [List.isEmpty_iff] at h; cases x; simp_all
    · rfl
  unfold State.writeAcc
  dsimp only
  rw [show s.touchAll (clusterOf s.cur) a.locs (a.insert ins) = s.touchedFor a ins from rfl, if_neg htm, zipIdx_keep]
  dsimp only
  simp only [hx, putBytes_eq, State.onChunk, onMe_eq, setHart_cur, me_setHart_self, setHart_setHart]
  rw [hq.cur]
  rfl

/-- What a list of stored bytes reads as: unchanged elsewhere. -/
theorem mapFind?_stored_ne (l : List (Nat × Byte)) (m : FMap Byte) (loc : Nat) (h : ∀ e ∈ l, e.1 ≠ loc) :
    mapFind? (l.foldl (fun m e => mapPut m e.1 e.2) m) loc = mapFind? m loc := by
  induction l generalizing m with
  | nil => rfl
  | cons e l ih =>
    rw [List.foldl_cons, ih _ fun q hq => h q (List.mem_cons_of_mem _ hq)]
    exact mapFind?_put_ne m e.2 (Ne.symm (h e List.mem_cons_self))

/-- A stored byte reads as stored. -/
theorem mapFind?_stored (l : List (Nat × Byte)) (m : FMap Byte) (loc : Nat) (b : Byte) (h : (loc, b) ∈ l)
    (hn : (l.map Prod.fst).Nodup) : mapFind? (l.foldl (fun m e => mapPut m e.1 e.2) m) loc = some b := by
  induction l generalizing m with
  | nil => cases h
  | cons e l ih =>
    rw [List.map_cons, List.nodup_cons] at hn
    rw [List.foldl_cons]
    rcases List.mem_cons.mp h with rfl | h
    · rw [mapFind?_stored_ne l _ loc fun q hq e => hn.1 (List.mem_map.mpr ⟨q, hq, e⟩)]
      exact mapFind?_put_self _ _ _
    · exact ih _ h hn.2

/-- What a list of locations has erased of a sorted map. -/
theorem mapFind?_erased (l : List (Nat × Byte)) (m : FMap Byte) (loc : Nat) (h : mapSorted m = true) :
    mapFind? (l.foldl (fun m e => mapErase m e.1) m) loc = if loc ∈ l.map Prod.fst then none else mapFind? m loc := by
  induction l generalizing m with
  | nil => rfl
  | cons e l ih =>
    rw [List.foldl_cons, ih _ (mapSorted_erase m e.1 h), List.map_cons]
    by_cases h1 : loc ∈ l.map Prod.fst
    · simp [h1]
    · by_cases h2 : loc = e.1
      · subst h2; simp [h1, mapFind?_erase_self m _ h]
      · simp [h1, h2, mapFind?_erase_ne m h2 h]

theorem mapWf_erased (l : List (Nat × Byte)) {m : FMap Byte} (h : mapWf 0 m = true) :
    mapWf 0 (l.foldl (fun m e => mapErase m e.1) m) = true := by
  induction l generalizing m with
  | nil => exact h
  | cons e l ih =>
    refine ih ?_
    rw [mapWf_iff] at h ⊢
    exact ⟨mapSorted_erase m e.1 h.1, fun q hq => h.2 q (mem_mapErase hq)⟩

/-- A filtered sorted map keeps what passes the filter at a key. -/
theorem mapFind?_filter (p : Nat → Bool) (m : FMap Byte) (loc : Nat) (h : mapSorted m = true) (hp : p loc = true) :
    mapFind? (m.filter fun e => p e.1) loc = mapFind? m loc := by
  induction m with
  | nil => rfl
  | cons a m ih =>
    obtain ⟨j, u⟩ := a
    obtain ⟨h1, h2⟩ := (mapSorted_cons j u m).mp h
    rw [List.filter_cons]
    have ih := ih h2
    simp only [mapFind?]
    split
    · simp only [mapFind?, ih]
    · next hj =>
      have : loc ≠ j := fun e => hj (e ▸ hp)
      rw [ih, if_neg this]
      split
      · exact mapFind?_above fun e he => Nat.lt_trans ‹_› (h1 e he)
      · rfl

end Sys2Proof.Machine
end

