-- ==== Sys2Proof/Laws/Commit.lean ====
section
/-! SUPPORT. The end of a chunk that stored nothing (spec/14 R289-R293, R419). -/

namespace Sys2Proof.Machine

/-- Putting back what a map lists changes nothing. -/
theorem mapPut_find {α : Type} {m : FMap α} {k : Nat} {v : α} (h : mapFind? m k = some v) : mapPut m k v = m := by
  induction m with
  | nil => simp [mapFind?] at h
  | cons e m ih =>
    obtain ⟨j, u⟩ := e
    simp only [mapFind?] at h
    simp only [mapPut]
    split at h
    · simp_all
    · split at h
      · simp at h
      · simp_all

theorem hart_listed {s : State} {h : Nat} {c : Chunk} (hc : (s.hart h).chunk = some c) : s.setHart h (s.hart h) = s := by
  unfold State.hart at hc ⊢
  unfold State.setHart
  cases hf : mapFind? s.harts h with
  | none => rw [hf] at hc; simp [Hart.init] at hc
  | some x => simp [mapPut_find hf]

/-- A chunk of which nothing but its count and its signature is seen at its commit. -/
structure Chunk.Silent (c : Chunk) : Prop where
  buf : c.buf = []
  popped : c.popped = []
  pushes : c.pushes = []
  tags : c.tags = []
  census : c.census = []
  trace : c.trace = []
  close : c.close = none
  code : c.code = false
  prio : c.prio = false

/-- What the commit of a silent chunk leaves of its hart. -/
def Hart.committed (c : Chunk) (x : Hart) : Hart := Hart.afterCommit c { x with wlines := nub x.wlines }

theorem noteChange_nil (s : State) (k : Nat) (h : Option Nat) : s.noteChange k [] h = s := by
  have : ∀ e : Nat × Hart, (if clusterOf e.1 = k then
        let x := { e.2 with links := e.2.links.filter fun l => decide (l ∉ ([] : List Nat)) }
        (e.1, if some e.1 = h then x else { x with chunk := x.chunk.map fun c => { c with ext := [] ++ c.ext } })
      else e) = e := by
    intro e
    split
    · have h1 : (e.2.links.filter fun l => decide (l ∉ ([] : List Nat))) = e.2.links := by simp
      have h2 : (e.2.chunk.map fun c => { c with ext := [] ++ c.ext }) = e.2.chunk := by
        cases e.2.chunk <;> rfl
      simp only [h1, h2]
      split <;> rfl
    · rfl
  unfold State.noteChange
  simp only [this]
  simp

theorem commitBytes_nil (s : State) (h mark : Nat) (keep : FMap Byte) :
    s.commitBytes h mark [] keep = s.setHart h { s.hart h with wlines := nub (s.hart h).wlines } := by
  have h1 : s.heal [] = s := by
    unfold State.heal
    split
    · rfl
    · have : ((s.bad.map Prod.fst).filter fun l => (List.range 64).all fun i => decide (l * 64 + i ∈ ([] : List Nat))) = [] := by
        rw [List.filter_eq_nil_iff]
        intro l _
        simp only [List.not_mem_nil, decide_false]
        decide
      simp only [this]
      simp
  unfold State.commitBytes
  simp only [List.foldl_nil, List.map_nil, h1, linesOf, nub, List.filter_nil, noteChange_nil, List.nil_append, onHart_eq]

/-- A chunk without the grant passes none on, and nothing that waits is let through where nothing waits. -/
theorem passGrant_id {s : State} {h : Nat} (h2 : (s.cluster (clusterOf h)).delayed = []) : s.passGrant h false = s := by
  simp [State.passGrant, State.releaseHeld, h2]

theorem bankDrop_nil (s : State) (h : Nat) (hb : (s.core (coreOf h)).banks = []) (buf : FMap Byte) : s.bankDrop h buf = (buf, s) := by
  simp [State.bankDrop, hb]

theorem HartOnly.commit {s : State} {c : Chunk} (hc : s.me.chunk = some c) (hg : s.me.group = none) (hq : c.Silent)
    (h1 : s.myCore.banks = []) (h2 : (s.cluster (clusterOf s.cur)).delayed = []) :
    HartOnly (s.me.committed c) s (s.commit s.cur) := by
  have hf : s.follower s.cur = false := by
    simp only [State.follower, State.groupOf, show (s.hart s.cur).group = none from hg]; rfl
  have key : ∃ v : State, s.commit s.cur = v.onHart s.cur (Hart.afterCommit c) ∧
      v = { (s.setHart s.cur { s.me with wlines := nub s.me.wlines }).setCore (coreOf s.cur) (s.core (coreOf s.cur)) with
            traceOut := s.traceOut } := by
    refine ⟨_, ?_, rfl⟩
    unfold State.commit
    rw [show (s.hart s.cur).chunk = some c from hc]
    simp only [hf, hq.buf, hq.tags, hq.census, hq.trace, hq.close, hq.code, hq.prio, bankDrop_nil s s.cur h1, commitBytes_nil,
      State.commitStreams, hq.popped, hq.pushes, List.isEmpty_nil, Bool.and_self, if_true, Bool.false_eq_true, if_false,
      List.map_nil, List.append_nil, List.foldl_nil, applyTags]
    exact passGrant_id h2
  obtain ⟨v, hv, he⟩ := key
  have h0 : v.hart s.cur = { s.me with wlines := nub s.me.wlines } := by
    rw [he]; exact hart_setHart_self s s.cur _
  rw [hv, onHart_eq, h0]
  refine ⟨?_, ?_, fun h hk => ?_, fun k => ?_, ?_⟩
  · rw [he]; rfl
  · exact me_setHart_cur v s.cur _ (by rw [he]; rfl)
  · rw [hart_setHart_ne _ _ hk, he]; exact hart_setHart_ne s _ hk
  · rw [core_setHart, he]
    by_cases hk : k = coreOf s.cur
    · subst hk; exact core_setCore_self s _ _
    · exact core_setCore_ne s _ hk
  · rw [he]; rfl

theorem fresh_calm {s : State} (h : s.fresh = true) : s.calm = true := by
  simp only [State.fresh, Bool.and_eq_true] at h; exact h.1.1.1.1.1.1
theorem fresh_chunk {s : State} (h : s.fresh = true) : s.me.chunk = none := by
  simp only [State.fresh, Bool.and_eq_true, Option.isNone_iff_eq_none] at h; exact h.1.1.1.1.1.2
theorem fresh_banks {s : State} (h : s.fresh = true) : s.myCore.banks = [] := by
  simp only [State.fresh, Bool.and_eq_true, List.isEmpty_iff] at h; exact h.1.1.1.1.2
theorem fresh_grant {s : State} (h : s.fresh = true) : (s.cluster (clusterOf s.cur)).grant = none := by
  simp only [State.fresh, Bool.and_eq_true, Option.isNone_iff_eq_none] at h; exact h.1.1.1.2
theorem fresh_delayed {s : State} (h : s.fresh = true) : (s.cluster (clusterOf s.cur)).delayed = [] := by
  simp only [State.fresh, Bool.and_eq_true, List.isEmpty_iff] at h; exact h.1.1.2
theorem fresh_testMode {s : State} (h : s.fresh = true) : s.dev.testMode = false := by
  simp only [State.fresh, Bool.and_eq_true, Bool.not_eq_true'] at h; exact h.2
theorem fresh_chunkNow {s : State} (h : s.fresh = true) (own : Bool) : s.chunkNow own = s.newChunk own := by
  simp [State.chunkNow, fresh_chunk h]

/-- The chunk of an instruction that noted no access goes through the arbiter. -/
theorem endChunk_free {t : State} {c : Chunk} (hc : t.me.chunk = some c) (hg : t.me.group = none) (hn : c.count ≠ 0)
    (hr : c.reads = []) (hw : c.writes = []) (hd : c.doomed = false) (ht : t.dev.testMode = false) :
    (t.endChunk t.cur).1 = t.commit t.cur := by
  have h1 : c.blank = false := by simp [Chunk.blank, hn]
  have h2 : t.heldByGrant t.cur c = false := by
    simp [State.heldByGrant, hw, meets, show (t.hart t.cur).group = none from hg]
  have h3 : t.conflicts t.cur c = false := by simp [State.conflicts, hr, hw, hd, meets]
  have h4 : (t.hart t.cur).signature t.dev.testMode c.sig = (c.sig, t.hart t.cur) := by
    unfold Hart.signature
    dsimp only
    rw [if_neg (by simp [ht])]
  have hc' : (t.hart t.cur).chunk = some c := hc
  unfold State.endChunk
  rw [hc']
  simp only [h1, h2, h3, Bool.false_eq_true, if_false, h4, show (t.hart t.cur).group = none from hg]
  rw [hart_listed hc']

/-- A body that completes in a chunk of its own, at its end. -/
theorem run_ends {s u : State} {sh : Shape} {body : State → Res} (hc : s.me.chunk = none) (hbk : s.banksBusy s.cur = false)
    (hb : body (s.openChunk sh.own) = .ok u) (h2 : sh.after = true) (h3 : sh.n = 1) :
    s.run sh body = ((u.retire 1 s.pc).endChunk (u.retire 1 s.pc).cur).1 := by
  have hbusy : s.chunkBusy = false := by simp [State.chunkBusy, hc]
  have hd : ∀ t : State, (if (t.pageReqs.isEmpty && t.hostReqs.isEmpty) = true then t else t.dropReqs s.pc) = t.dropReqs s.pc := by
    intro t; split
    · exact (dropReqs_none t s.pc ‹_›).symm
    · rfl
  have hf : u.finish sh s.pc = ((u.retire 1 s.pc).endChunk (u.retire 1 s.pc).cur).1 := by
    unfold State.finish
    simp only [hd]
    rw [if_pos (Or.inl h2)]
    rw [h3]; rfl
  rw [run_between hc hbk]
  unfold State.runOpen
  rw [if_neg (by simp [hbusy]), hb]
  dsimp only
  rw [if_neg (by simp [hbusy]), hf]

/-- The chunk of a fresh hart's instruction that noted no access commits. -/
theorem run_commits {s u : State} {c : Chunk} {sh : Shape} {body : State → Res} (hs : s.fresh = true)
    (hb : body (s.openChunk sh.own) = .ok u) (h2 : sh.after = true) (h3 : sh.n = 1) (hcur : u.cur = s.cur)
    (hc : u.me.chunk = some c) (hg : u.me.group = none) (hr : c.reads = []) (hw : c.writes = []) (hd : c.doomed = false)
    (ht : u.dev.testMode = false) : s.run sh body = (u.retire 1 s.pc).commit s.cur := by
  rw [run_ends (fresh_chunk hs) (banksBusy_empty (fresh_banks hs)) hb h2 h3]
  obtain ⟨k, h⟩ := HartOnly.retire u 1 s.pc
  have he := endChunk_free (t := u.retire 1 s.pc) (c := c.more 1) (by rw [h.me]; show u.me.chunk.map _ = _; rw [hc]; rfl)
    (by rw [h.me]; exact hg) (by simp) hr hw hd (by rw [h.keeps State.dev fun _ _ _ _ _ => rfl]; exact ht)
  rw [he, h.cur, hcur]

/-- What an instruction of a chunk of its own leaves whose body changes its hart alone. -/
theorem run_hart_alone (s : State) (sh : Shape) (body : State → Res) (f : Hart → Hart) (hs : s.fresh = true)
    (hb : body (s.openChunk sh.own) = .ok ((s.openChunk sh.own).setHart s.cur (f (s.openChunk sh.own).me)))
    (hf : (f (s.me.inChunk (s.newChunk sh.own))).chunk = some (s.newChunk sh.own))
    (hg : (f (s.me.inChunk (s.newChunk sh.own))).group = none)
    (h2 : sh.after = true) (h3 : sh.n = 1) :
    ∃ k, HartOnly (Hart.committed ((s.newChunk sh.own).more 1) (((f (s.me.inChunk (s.newChunk sh.own))).retire 1 s.pc).asking k)) s
      (s.run sh body) := by
  have ho := HartOnly.openChunk s sh.own
  rw [fresh_chunkNow hs] at ho
  have hu := HartOnly.setHart (s.openChunk sh.own) (f (s.openChunk sh.own).me)
  rw [ho.cur, ho.me] at hu
  rw [ho.me] at hb
  have hou := ho.trans hu
  have hrun := run_commits (c := s.newChunk sh.own) hs hb h2 h3 (hou.cur) (by rw [hou.me]; exact hf) (by rw [hou.me]; exact hg)
    rfl rfl rfl (by rw [hou.keeps State.dev fun _ _ _ _ _ => rfl]; exact fresh_testMode hs)
  obtain ⟨k, hr⟩ := HartOnly.retire ((s.openChunk sh.own).setHart s.cur (f (s.me.inChunk (s.newChunk sh.own)))) 1 s.pc
  rw [hou.me] at hr
  have hrr := hou.trans hr
  refine ⟨k, ?_⟩
  rw [hrun]
  generalize ((s.openChunk sh.own).setHart s.cur (f (s.me.inChunk (s.newChunk sh.own)))).retire 1 s.pc = t at hrr
  have hcl : ∀ j, t.cluster j = s.cluster j := fun j => hrr.keeps (·.cluster j) fun _ _ _ _ _ => rfl
  have hcm := HartOnly.commit (s := t) (c := (s.newChunk sh.own).more 1)
    (by rw [hrr.me]; show (f _).chunk.map _ = _; rw [hf]; rfl) (by rw [hrr.me]; exact hg)
    ⟨rfl, rfl, rfl, rfl, rfl, rfl, rfl, rfl, by simp [Chunk.more, State.newChunk, fresh_grant hs]⟩
    (by rw [State.myCore, hrr.core, hrr.cur]; exact fresh_banks hs) (by rw [hcl, hrr.cur, fresh_delayed hs])
  rw [hrr.cur, hrr.me] at hcm
  have := hrr.trans hcm
  exact this

end Sys2Proof.Machine
end

