-- ==== Sys2Proof/Laws/Trap.lean ====
section
/-! SUPPORT. What a trap leaves (spec/01 R19). -/

namespace Sys2Proof.Machine

theorem HartOnly.dropReqs (s : State) (pc : Word) : ∃ k, HartOnly (s.me.asking k) s (s.dropReqs pc) := by
  obtain ⟨p, q, h | h⟩ := dropReqs_cases s pc
  · refine ⟨s.me.reqNext, ?_⟩
    rw [h]
    exact ⟨rfl, rfl, fun _ _ => rfl, fun _ => rfl, rfl⟩
  · refine ⟨0, ?_⟩
    rw [h]
    exact ⟨rfl, me_setHart_self s _, fun _ hk => hart_setHart_ne s _ hk, fun _ => rfl, rfl⟩

theorem loose_calm {s : State} (h : s.loose = true) : s.calm = true := by
  simp only [State.loose, Bool.and_eq_true] at h; exact h.1.1.1.1
theorem loose_chunk {s : State} (h : s.loose = true) : s.me.chunk = none := by
  simp only [State.loose, Bool.and_eq_true, Option.isNone_iff_eq_none] at h; exact h.1.1.1.2
theorem loose_banks {s : State} (h : s.loose = true) : s.myCore.banks = [] := by
  simp only [State.loose, Bool.and_eq_true, List.isEmpty_iff] at h; exact h.1.1.2
theorem loose_atVec {s : State} (h : s.loose = true) : s.me.atVec = false := by
  simp only [State.loose, Bool.and_eq_true, Bool.not_eq_true'] at h; exact h.1.2
theorem loose_lock {s : State} (h : s.loose = true) : s.me.a.lock = false := by
  simp only [State.loose, Bool.and_eq_true, Bool.not_eq_true'] at h; exact h.2

theorem Hart.csr_enterTrap_ne (x : Hart) (owns parked : Bool) (cause : Nat) (tval tval2 tepc : Word) {n : Nat}
    (hw : mapWf 0 x.a.csr = true) (hn : n ∉ [Csr.tstat, Csr.tepc, Csr.tcause, Csr.tval, Csr.tval2]) :
    (x.enterTrap owns parked cause tval tval2 tepc).csr n = x.csr n := by
  simp only [List.mem_cons, List.not_mem_nil, or_false, not_or] at hn
  obtain ⟨h1, h2, h3, h4, h5⟩ := hn
  have w1 := fun v => x.wf_setCsr Csr.tstat v hw
  have w2 := fun v => (x.setCsr Csr.tstat v).wf_setCsr Csr.tepc tepc (w1 v)
  have w3 := fun v => ((x.setCsr Csr.tstat v).setCsr Csr.tepc tepc).wf_setCsr Csr.tcause (BitVec.ofNat 64 cause) (w2 v)
  have w4 := fun v => (((x.setCsr Csr.tstat v).setCsr Csr.tepc tepc).setCsr Csr.tcause (BitVec.ofNat 64 cause)).wf_setCsr
    Csr.tval tval (w3 v)
  show Hart.csr (Hart.setCsr _ Csr.tval2 tval2) n = _
  rw [Hart.csr_setCsr_ne _ _ (w4 _) h5, Hart.csr_setCsr_ne _ _ (w3 _) h4, Hart.csr_setCsr_ne _ _ (w2 _) h3,
    Hart.csr_setCsr_ne _ _ (w1 _) h2, Hart.csr_setCsr_ne _ _ hw h1]

theorem and_two_shift (v : Word) : ((v &&& 2) <<< 1 : Word) = if v.getLsbD 1 then 4#64 else 0 := by
  have h : (v &&& 2 : Word) = if v.getLsbD 1 then BitVec.twoPow 64 1 else 0 := BitVec.and_twoPow v 1
  rw [h]
  split <;> rfl

/-- The CSRs that the entry writes, and the PC it goes to. -/
theorem Hart.enterTrap_csrs (x : Hart) (owns : Bool) (cause : Nat) (tval tval2 tepc : Word) (w0 : mapWf 0 x.a.csr = true) :
    let y := x.enterTrap owns false cause tval tval2 tepc
    y.csr Csr.tepc = tepc ∧ y.csr Csr.tcause = BitVec.ofNat 64 cause ∧ y.csr Csr.tval = tval ∧ y.csr Csr.tval2 = tval2 ∧
    y.csr Csr.tstat = (if x.a.mode = .s then 1#64 else 0) ||| (if (x.csr Csr.tstat).getLsbD 1 then 4#64 else 0) |||
      (if owns then 16#64 else 0) ∧ y.a.pc = x.csr Csr.tvec &&& ~~~1#64 := by
  have w1 := fun v => x.wf_setCsr Csr.tstat v w0
  have w2 := fun v => (x.setCsr Csr.tstat v).wf_setCsr Csr.tepc tepc (w1 v)
  have w3 := fun v => ((x.setCsr Csr.tstat v).setCsr Csr.tepc tepc).wf_setCsr Csr.tcause (BitVec.ofNat 64 cause) (w2 v)
  have w4 := fun v => (((x.setCsr Csr.tstat v).setCsr Csr.tepc tepc).setCsr Csr.tcause (BitVec.ofNat 64 cause)).wf_setCsr
    Csr.tval tval (w3 v)
  have hm : x.a.mode.bit = if x.a.mode = .s then 1#64 else 0 := by cases x.a.mode <;> rfl
  refine ⟨?_, ?_, ?_, ?_, ?_, ?_⟩
  · show Hart.csr (Hart.setCsr _ Csr.tval2 tval2) _ = _
    rw [Hart.csr_setCsr_ne _ _ (w4 _) (by decide), Hart.csr_setCsr_ne _ _ (w3 _) (by decide), Hart.csr_setCsr_ne _ _ (w2 _) (by decide),
      Hart.csr_setCsr_self _ _ _ (w1 _)]
  · show Hart.csr (Hart.setCsr _ Csr.tval2 tval2) _ = _
    rw [Hart.csr_setCsr_ne _ _ (w4 _) (by decide), Hart.csr_setCsr_ne _ _ (w3 _) (by decide), Hart.csr_setCsr_self _ _ _ (w2 _)]
  · show Hart.csr (Hart.setCsr _ Csr.tval2 tval2) _ = _
    rw [Hart.csr_setCsr_ne _ _ (w4 _) (by decide), Hart.csr_setCsr_self _ _ _ (w3 _)]
  · exact Hart.csr_setCsr_self _ _ _ (w4 _)
  · show Hart.csr (Hart.setCsr _ Csr.tval2 tval2) _ = _
    rw [Hart.csr_setCsr_ne _ _ (w4 _) (by decide), Hart.csr_setCsr_ne _ _ (w3 _) (by decide), Hart.csr_setCsr_ne _ _ (w2 _) (by decide),
      Hart.csr_setCsr_ne _ _ (w1 _) (by decide), Hart.csr_setCsr_self _ _ _ w0, hm, and_two_shift]
    simp
  · show Hart.csr (Hart.setCsr _ Csr.tval2 tval2) Csr.tvec &&& ~~~1#64 = _
    rw [Hart.csr_setCsr_ne _ _ (w4 _) (by decide), Hart.csr_setCsr_ne _ _ (w3 _) (by decide), Hart.csr_setCsr_ne _ _ (w2 _) (by decide),
      Hart.csr_setCsr_ne _ _ (w1 _) (by decide), Hart.csr_setCsr_ne _ _ w0 (by decide)]

/-- What the entry leaves as it was. -/
theorem Hart.enterTrap_rest (x : Hart) (owns : Bool) (cause : Nat) (tval tval2 tepc : Word) :
    let y := x.enterTrap owns false cause tval tval2 tepc
    y.a.mode = .s ∧ y.status = .running ∧ y.atVec = true ∧ (∀ r, y.x r = x.x r) ∧ (∀ r, y.f r = x.f r) ∧ y.a.rt = x.a.rt ∧
      y.a.rsets = x.a.rsets ∧ y.a.s0 = x.a.s0 ∧ y.a.s1 = x.a.s1 ∧ y.chunk = x.chunk ∧ y.ctx = x.ctx ∧ y.lspOld = x.lspOld := by
    simp only [Hart.enterTrap]
    refine ⟨trivial, trivial, trivial, fun r => ?_, fun r => ?_, ?_, ?_, ?_, ?_, ?_, ?_, ?_⟩ <;> simp [Hart.x, Hart.f]

/-- The six actions of R19. -/
theorem takeTrap_traps (s : State) (cause : Nat) (tval tval2 : Word) (hs : s.loose = true) :
    Traps cause tval tval2 s (s.takeTrap cause tval tval2) := by
  have hcalm := loose_calm hs
  have hc := loose_chunk hs
  have w0 : ∀ k, mapWf 0 (s.me.asking k).a.csr = true := fun _ => calm_wf_csr hcalm
  obtain ⟨k, hd⟩ := HartOnly.dropReqs s s.pc
  have hst : s.takeTrap cause tval tval2 = (s.dropReqs s.pc).trapEntry false cause tval tval2 s.pc := by
    unfold State.takeTrap State.trapAfterChunk; rw [hc]
  have hown : decide (((s.dropReqs s.pc).core (coreOf (s.dropReqs s.pc).cur)).owner = some (s.dropReqs s.pc).cur) = s.owns := by
    rw [hd.core, hd.cur]; rfl
  have ht : s.takeTrap cause tval tval2 =
      (s.dropReqs s.pc).setHart (s.dropReqs s.pc).cur ((s.me.asking k).enterTrap s.owns false cause tval tval2 s.pc) := by
    rw [hst]
    unfold State.trapEntry State.lockTrap
    rw [hd.me]
    simp only [Hart.asking_atVec, loose_atVec hs, Bool.false_eq_true, if_false, Hart.asking_a, loose_lock hs, false_and, onMe_eq,
      hd.me, hown]
  have h := hd.trans (HartOnly.setHart (s.dropReqs s.pc) ((s.me.asking k).enterTrap s.owns false cause tval tval2 s.pc))
  rw [← ht] at h
  obtain ⟨c1, c2, c3, c4, c5, c6⟩ := (s.me.asking k).enterTrap_csrs s.owns cause tval tval2 s.pc (w0 k)
  obtain ⟨r1, r2, r3, r4, r5, r6, r7, r8, r9, r10, r11, r12⟩ := (s.me.asking k).enterTrap_rest s.owns cause tval tval2 s.pc
  have hne : ∀ n, n ∉ [Csr.tstat, Csr.tepc, Csr.tcause, Csr.tval, Csr.tval2] →
      ((s.me.asking k).enterTrap s.owns false cause tval tval2 s.pc).csr n = s.me.csr n :=
    fun n hn => Hart.csr_enterTrap_ne _ _ _ _ _ _ _ (w0 k) hn
  generalize s.takeTrap cause tval tval2 = t at h
  generalize (s.me.asking k).enterTrap s.owns false cause tval tval2 s.pc = y at *
  obtain rfl := h.me
  exact ⟨c1, c2, c3, c4, c5, r1, c6, r2, r3, r4, r5, hne, r6, r7, r8, r9,
    h.sameRest (fun loc b => by rw [r10, Hart.asking_chunk]) r11 r12⟩

/-- An instruction whose body traps, between two chunks. -/
theorem run_traps {s : State} {sh : Shape} {body : State → Res} {cause : Nat} {tval tval2 : Word} (hs : s.loose = true)
    (hb : body (s.openChunk sh.own) = .error (.trap cause tval tval2)) : s.run sh body = s.takeTrap cause tval tval2 := by
  have hc := loose_chunk hs
  have hg := calm_group (loose_calm hs)
  have hbusy : s.chunkBusy = false := by simp [State.chunkBusy, hc]
  rw [run_between hc (banksBusy_empty (loose_banks hs))]
  unfold State.runOpen
  rw [if_neg (by simp [hbusy]), hb]
  show s.raise cause tval tval2 = _
  unfold State.raise State.dataTrap
  rw [hg]
  simp

end Sys2Proof.Machine
end

