-- ==== Sys2Proof/Laws/Forward.lean ====
section
/-! SUPPORT. Lead-only actions of an unreplicated hart (spec/21 R364), the ends of instructions, and a value from its bytes. -/

namespace Sys2Proof.Machine

/-- An unreplicated hart performs a lead-only action itself. -/
theorem forwarded_ok {s t : State} {v : List Word} {addr : Word} {perform : State → Except Exc (List Word × State)}
    {deliver : List Word → State → Res} {items : List Word → List Word} (hg : s.me.group = none) (h : perform s = .ok (v, t)) :
    forwarded s addr perform deliver items = deliver v t := by
  unfold forwarded; rw [hg, h]

theorem forwarded_error {s : State} {e : Exc} {addr : Word} {perform : State → Except Exc (List Word × State)}
    {deliver : List Word → State → Res} {items : List Word → List Word} (hg : s.me.group = none) (h : perform s = .error e) :
    forwarded s addr perform deliver items = .error e := by
  unfold forwarded; rw [hg, h]

theorem solo_group {s : State} (h : s.solo = true) : s.me.group = none := by
  simp only [State.solo, Bool.and_eq_true, Option.isNone_iff_eq_none] at h; exact h.1.1
theorem solo_chunk {s : State} (h : s.solo = true) : s.me.chunk = none := by
  simp only [State.solo, Bool.and_eq_true, Option.isNone_iff_eq_none] at h; exact h.1.2
theorem solo_banks {s : State} (h : s.solo = true) : s.banksBusy s.cur = false := by
  simp only [State.solo, Bool.and_eq_true, Bool.not_eq_true'] at h; exact h.2
theorem fresh_solo {s : State} (h : s.fresh = true) : s.solo = true := by
  simp [State.solo, fresh_chunk h, calm_group (fresh_calm h), banksBusy_empty (fresh_banks h)]

theorem group_openChunk (s : State) (own : Bool) : (s.openChunk own).me.group = s.me.group := by
  rw [(HartOnly.openChunk s own).me]; rfl
theorem cur_openChunk (s : State) (own : Bool) : (s.openChunk own).cur = s.cur := (HartOnly.openChunk s own).cur

theorem cur_retire (s : State) (n : Nat) (pc : Word) : (s.retire n pc).cur = s.cur := by
  obtain ⟨k, h⟩ := HartOnly.retire s n pc
  exact h.cur

/-- A body that completes in a chunk of its own, at its end. -/
theorem run_alone {s u : State} {sh : Shape} {body : State → Res} (hs : s.solo = true) (hb : body (s.openChunk sh.own) = .ok u)
    (h2 : sh.after = true) (h3 : sh.n = 1) : s.run sh body = u.ends s.pc := by
  rw [run_ends (solo_chunk hs) (solo_banks hs) hb h2 h3, State.ends, cur_retire]

theorem leNat_lt (bs : List Byte) : leNat bs < 2 ^ (8 * bs.length) := by
  induction bs with
  | nil => simp [leNat]
  | cons b l ih =>
    simp only [leNat, List.length_cons]
    have := b.isLt
    have : 2 ^ (8 * (l.length + 1)) = 256 * 2 ^ (8 * l.length) := by rw [Nat.mul_add, Nat.pow_add]; omega
    omega

end Sys2Proof.Machine
end

