-- ==== Sys2Proof/Laws/LoadStore.lean ====
section
/-! SUPPORT. What a scalar load and a scalar store do once their checks pass (spec/05 R106-R109). -/

namespace Sys2Proof.Machine

theorem Chunk.inner_eq {c d : Chunk} (h : c.inner = d.inner) : ∃ e, c = { d with ext := e } := by
  refine ⟨c.ext, ?_⟩
  cases c; cases d
  simp only [Chunk.inner, Chunk.mk.injEq] at h ⊢
  tauto

/-- The chunk after cache traffic is the chunk before but for the lines that others changed. -/
theorem HartKept.chunk_some {x y : Hart} (h : HartKept x y) {c : Chunk} (hc : x.chunk = some c) :
    ∃ e, y.chunk = some { c with ext := e } := by
  have := h.chunk
  rw [hc] at this
  cases hy : y.chunk with
  | none => rw [hy] at this; cases this
  | some d =>
    rw [hy] at this
    simp only [Option.map_some, Option.some.injEq] at this
    obtain ⟨e, he⟩ := Chunk.inner_eq this
    exact ⟨e, by rw [he]⟩

/-- The executing hart's part of an access: checked, its lines touched, with its chunk open. -/
theorem reaches_moves {s : State} {kind : Kind} {align : Nat} {va : Word} {n : Nat} {a : Acc} {u : State}
    (h : s.reaches kind align va n a u) :
    ∃ e, Moves (u.cached a).me s (u.cached a) ∧ (u.cached a).me.a = s.me.a ∧ HartKept (s.me.inChunk (s.chunkNow false)) (u.cached a).me ∧
      (u.cached a).me.chunk = some { s.chunkNow false with ext := e } ∧ u.cur = s.cur ∧ (u.cached a).cur = s.cur ∧
      u.timed = false ∧ u.myCore.banks = [] := by
  obtain ⟨h1, -, h3, h4⟩ := h
  have ho := HartOnly.openChunk s false
  have q1 : Quiet (s.openChunk false) u := quiet_check h1
  have q2 : Quiet u (u.cached a) := quiet_touchAll u _ _ _
  have q := q1.trans q2
  have hm := q.me
  rw [ho.me] at hm
  obtain ⟨e, he⟩ := hm.chunk_some (c := s.chunkNow false) rfl
  refine ⟨e, ho.moves.trans q.moves, by rw [hm.a]; rfl, hm, he, ?_, ?_, ?_, ?_⟩
  · rw [q1.cur, ho.cur]
  · rw [q.cur, ho.cur]
  · have : u.me.a = s.me.a := by rw [q1.me.a, ho.me]; rfl
    rw [State.timed, State.csr, Hart.csr, this]; exact h3
  · rw [State.myCore, q1.banks, q1.cur, ho.cur, ho.core]; exact h4

/-- An instruction of the plain shape whose body answers `v` with its hart at `y`. -/
theorem plain_after {s v : State} {body : State → Res} {y : Hart} {c : Chunk} (hs : s.calm = true) (hm : Moves v.me s v)
    (hb : body (s.openChunk false) = .ok (v.setHart s.cur y)) (hy : y.chunk = some c) (hr : c.room = true)
    (hg : y.group = none) (hctx : y.ctx = v.me.ctx) :
    ∃ k, Moves ((y.retire 1 s.pc).asking k) s (s.run .plain body) ∧
      (∀ loc, (s.run .plain body).rawByte loc = v.rawByte loc) ∧
      ∃ f : Nat → Byte, (∀ loc, (s.run .plain body).seeByte s.cur loc = seen (some c) loc (f loc)) ∧
        ∀ loc, mapFind? y.lspOld loc = mapFind? v.me.lspOld loc → f loc = v.behind s.cur loc := by
  have hv := hm.cur
  have h1 : HartOnly y v (v.setHart s.cur y) := by rw [← hv]; exact HartOnly.setHart v y
  obtain ⟨k, h2⟩ := HartOnly.retire (v.setHart s.cur y) 1 s.pc
  rw [h1.me] at h2
  have h3 := h1.trans h2
  refine ⟨k, ?_⟩
  rw [run_open s .plain body _ c hs hb (by rw [h1.me, hy]) hr (by rw [h1.me, hg]) rfl rfl rfl]
  refine ⟨hm.trans h3.moves, fun loc => ?_, ((v.setHart s.cur y).retire 1 s.pc).behind s.cur, fun loc => ?_, fun loc hl => ?_⟩
  · have := congrArg (·.rawByte loc) h3.rest
    exact this
  · rw [seeByte_eq]
    have hh : ((v.setHart s.cur y).retire 1 s.pc).hart s.cur = (y.retire 1 s.pc).asking k := by
      rw [← h3.me, State.me, h3.cur, hv]
    rw [hh]
    simp only [Hart.asking_chunk, Hart.retire_chunk, hy, Option.map_some]
    exact seen_same _ _ rfl rfl
  · have := h3.behind (by simp [hctx]) loc (by simp [hl])
    rw [hv] at this
    exact this

/-- What an instruction of the plain shape may read of the hart that it left at `y`. -/
theorem Moves.reads {s t : State} {y : Hart} {c : Chunk} {k : Nat} (h : Moves ((y.retire 1 s.pc).asking k) s t)
    (hy : y.chunk = some c) (hn : c.count = s.me.chunkCount) (hst : y.status = .running) :
    Retired y.a.pc s t ∧ (∀ r, t.x r = y.x r) ∧ (∀ r, t.f r = y.f r) ∧ (∀ n, t.csr n = y.csr n) ∧
      (∃ q, t.me.a = { y.a with seq := q }) ∧ t.me.ctx = y.ctx ∧ t.me.asid = y.asid ∧ SameOthers s t := by
  obtain ⟨q, ha⟩ := y.retire_a 1 s.pc
  have hta : t.me.a = { y.a with seq := q } := by rw [h.me]; exact ha
  refine ⟨⟨?_, ?_, ?_, ?_⟩, fun r => ?_, fun r => ?_, fun n => ?_, ⟨q, hta⟩, ?_, ?_, fun h' hh => (h.others h' hh).a⟩
  · rw [State.pc, hta]
  · rw [h.me]; exact hst
  · rw [h.me, Hart.chunkCount]; simp [hy, hn]
  · rw [h.me]; rfl
  · rw [State.x, h.me]; simp
  · rw [State.f, h.me]; simp
  · rw [State.csr, h.me]; simp
  · rw [h.me]; simp
  · rw [h.me]; simp

/-- What a result in X[rd] leaves of the registers. -/
theorem regs_setX {s t : State} {r : Hart} {rd : Reg} {val pc : Word} (hs : s.calm = true) (hra : r.a = s.me.a)
    (hcur : t.cur = s.cur) (hx : ∀ q, t.x q = (r.setX rd val).x q) (hf : ∀ q, t.f q = (r.setX rd val).f q)
    (hcs : ∀ n, t.csr n = (r.setX rd val).csr n) (hta : ∃ q, t.me.a = { ((r.setX rd val).setPc pc).a with seq := q })
    (hctx : t.me.ctx = s.me.ctx) (hasid : t.me.asid = s.me.asid) :
    (rd ≠ 0 → t.x rd = val) ∧ t.x 0 = 0 ∧ (rd ≠ 0 → t.csr Csr.ldst = rd.setWidth 64) ∧
      SameRegs { xs := if rd = 0 then [] else [rd], csrs := ldstOf rd } s t := by
  obtain ⟨q, hta⟩ := hta
  have ex : ∀ q, r.x q = s.x q := fun q => by rw [Hart.x, hra]; rfl
  have ef : ∀ q, r.f q = s.f q := fun q => by rw [Hart.f, hra]; rfl
  have ec : ∀ n, r.csr n = s.csr n := fun n => by rw [Hart.csr, hra]; rfl
  have hwx : mapWf 0 r.a.x = true := by rw [hra]; exact calm_wf_x hs
  have hwc : mapWf 0 r.a.csr = true := by rw [hra]; exact calm_wf_csr hs
  refine ⟨fun hr => ?_, ?_, fun hr => ?_, ⟨hcur, fun r' hr => ?_, fun r' _ => ?_, fun n hn => ?_, ?_, ?_, ?_, ?_, ?_, hctx, hasid⟩⟩
  · rw [hx, Hart.x_setX_self _ _ hwx hr]
  · rw [hx]; exact Hart.x_zero _
  · rw [hcs, Hart.ldst_setX _ _ _ hwc, if_neg hr]
  · rw [hx]
    by_cases h0 : rd = 0
    · subst h0; rw [Hart.setX_zero, ex]
    · have : r' ≠ rd := by rw [if_neg h0] at hr; simpa using hr
      rw [Hart.x_setX_ne _ _ hwx this, ex]
  · rw [hf, Hart.f_setX, ef]
  · rw [hcs]
    by_cases h0 : rd = 0
    · subst h0; rw [Hart.setX_zero, ec]
    · have : n ≠ Csr.ldst := fun e => hn (by simp only [ldstOf, if_neg h0, e, List.mem_singleton])
      rw [Hart.csr_setX_ne _ _ _ hwc this, ec]
  · rw [hta]; simp [hra]
  · rw [hta]; simp [hra]
  · rw [hta]; simp [hra]
  · intro _; rw [hta]; simp [hra]
  · intro _; rw [hta]; simp [hra]

/-! Loads. -/

/-- The hart that has read a located access, its chunk noting the lines. -/
def State.reader (v : State) (a : Acc) : Hart :=
  { v.me with chunk := v.me.chunk.map (Chunk.withReads (linesOf (a.locs.filter isHbm))) }

/-- A scalar read that passes its checks (R107, R108). -/
theorem scalarRead_ok {s : State} {ea : Word} {n : Nat} {a : Acc} {u : State} (isF sx : Bool) (rd : Reg)
    (h : s.reaches .load n ea n a u) : (s.openChunk false).scalarRead isF sx rd ea n =
      .ok (u.readFrom a, false, (u.cached a).setHart s.cur ((u.cached a).reader a)) := by
  obtain ⟨e, -, -, -, -, hcur, hc2, ht, hbk⟩ := reaches_moves h
  obtain ⟨h1, h2, h3, h4⟩ := h
  have hw : (s.openChunk false).who (s.openChunk false).cur = s.who s.cur := by
    have ho := HartOnly.openChunk s false
    have : (s.openChunk false).hart s.cur = s.me.inChunk (s.chunkNow false) := by rw [← ho.me, State.me, ho.cur]
    rw [ho.cur]
    simp only [State.who, this]
    rfl
  have hr : u.readFrom a = a.locs.map ((u.touchedFor a .scalar).seeByte s.cur) := by rw [State.readFrom, hcur]; rfl
  unfold State.scalarRead
  rw [hw, hr]
  simp only [bind, Except.bind, pure, Except.pure, h1, State.hostAlone, h2, Bool.false_and, Bool.false_eq_true, if_false, ht]
  rw [readAcc_spec u a .scalar _ _ _ ht hbk]
  simp only [State.hostAfter, h2, Bool.false_eq_true, if_false]
  rw [hcur]
  rfl

/-- LD, LDN and their compact forms (R108). -/
theorem loadX_loads {s : State} {ea : Word} {size : Nat} {a : Acc} {u : State} (rd : Reg) (sx : Bool) (len : Nat)
    (hs : s.calm = true) (h : s.reaches .load (2 ^ size) ea (2 ^ size) a u) :
    LoadsX rd (loadExt sx (2 ^ size) (u.readFrom a)) len (u.cached a) s (loadX s rd ea size sx len) := by
  obtain ⟨e, hm, ha, hk, hch, hcur, hc2, ht, hbk⟩ := reaches_moves h
  generalize hv : u.cached a = v at *
  generalize hval : loadExt sx (2 ^ size) (u.readFrom a) = val
  generalize hc : (Chunk.withReads (linesOf (a.locs.filter isHbm))) { s.chunkNow false with ext := e } = c
  generalize hy : ((v.reader a).setX rd val).setPc (s.pc + BitVec.ofNat 64 len) = y
  have hyc : y.chunk = some c := by rw [← hy, ← hc]; simp [State.reader, hch]
  have hra : (v.reader a).a = s.me.a := by rw [← ha]; rfl
  have hroom : c.room = true := by rw [← hc]; exact chunkNow_room s false hs
  obtain ⟨k, h1, h2, f, h3, h4⟩ := plain_after (y := y) (c := c)
    (body := fun s => do
      let (bs, late, s) ← s.scalarRead false sx rd ea (2 ^ size)
      return (s.loaded late false rd (loadExt sx (2 ^ size) bs)).next len) hs hm
    (by
      simp only [scalarRead_ok _ _ _ h, bind, Except.bind, pure, Except.pure, State.loaded, hv, hval, Bool.false_eq_true, if_false,
        State.next, setX_eq, onMe_eq, setHart_cur, hc2, me_setHart_cur _ _ _ hc2, setHart_setHart, Hart.setX_a_pc, hra, ← hy]
      rfl) hyc hroom (by rw [← hy]; simp [State.reader, hk.group, calm_group hs]) (by rw [← hy]; simp [State.reader])
  have hrun : y.status = .running := by
    rw [← hy, Hart.setPc_status, Hart.setX_status]
    exact hk.running (by simp [calm_running hs])
  obtain ⟨r1, r2, r3, r4, ⟨q, r5⟩, r6, r7, r8⟩ := h1.reads hyc (by rw [← hc]; exact chunkNow_count s false) hrun
  obtain ⟨c1, c2, c3, c4⟩ := regs_setX (pc := s.pc + BitVec.ofNat 64 len) hs hra h1.cur (fun q => by rw [r2, ← hy, Hart.x_setPc])
    (fun q => by rw [r3, ← hy, Hart.f_setPc]) (fun n => by rw [r4, ← hy, Hart.csr_setPc]) ⟨q, by rw [r5, ← hy]⟩
    (by rw [r6, ← hy]; simp [State.reader, hk.ctx]) (by rw [r7, ← hy]; simp [State.reader, hk.asid])
  refine ⟨?_, c1, c2, c3, c4, r8, fun loc => ?_, h2⟩
  · have : y.a.pc = s.pc + BitVec.ofNat 64 len := by rw [← hy]; rfl
    rw [← this]; exact r1
  · have : v.hart s.cur = v.me := by rw [State.me, hc2]
    rw [loadX, h3, h4 loc (by rw [← hy]; simp [State.reader]), seeByte_eq, this, hch, ← hc]
    rfl

/-- FLD (R108, R112). -/
theorem loadF_loads {s : State} {ea : Word} {size : Nat} {a : Acc} {u : State} (rd : Reg)
    (hs : s.calm = true) (h : s.reaches .load (2 ^ size) ea (2 ^ size) a u) :
    LoadsF rd (leWord (u.readFrom a)) (u.cached a) s (loadF s rd ea size) := by
  obtain ⟨e, hm, ha, hk, hch, hcur, hc2, ht, hbk⟩ := reaches_moves h
  generalize hv : u.cached a = v at *
  generalize hval : leWord (u.readFrom a) = val
  generalize hc : (Chunk.withReads (linesOf (a.locs.filter isHbm))) { s.chunkNow false with ext := e } = c
  generalize hy : ((v.reader a).setF rd val).setPc (s.pc + 4) = y
  have hyc : y.chunk = some c := by rw [← hy, ← hc]; simp [State.reader, hch]
  have hra : (v.reader a).a = s.me.a := by rw [← ha]; rfl
  have hroom : c.room = true := by rw [← hc]; exact chunkNow_room s false hs
  obtain ⟨k, h1, h2, f, h3, h4⟩ := plain_after (y := y) (c := c)
    (body := fun s => do
      let (bs, late, s) ← s.scalarRead true false rd ea (2 ^ size)
      return (s.loaded late true rd (leWord bs)).next 4) hs hm
    (by
      simp only [scalarRead_ok _ _ _ h, bind, Except.bind, pure, Except.pure, State.loaded, hv, hval, Bool.false_eq_true, if_false,
        if_true, State.next, setF_eq, onMe_eq, setHart_cur, hc2, me_setHart_cur _ _ _ hc2, setHart_setHart, Hart.setF_a_pc, hra, ← hy]
      rfl) hyc hroom (by rw [← hy]; simp [State.reader, hk.group, calm_group hs]) (by rw [← hy]; simp [State.reader])
  have hrun : y.status = .running := by
    rw [← hy, Hart.setPc_status, Hart.setF_status]
    exact hk.running (by simp [calm_running hs])
  obtain ⟨r1, r2, r3, r4, ⟨q, r5⟩, r6, r7, r8⟩ := h1.reads hyc (by rw [← hc]; exact chunkNow_count s false) hrun
  have hx : ∀ r, (v.reader a).x r = s.x r := fun r => by rw [Hart.x, hra]; rfl
  have hf : ∀ r, (v.reader a).f r = s.f r := fun r => by rw [Hart.f, hra]; rfl
  have hcs : ∀ n, (v.reader a).csr n = s.csr n := fun n => by rw [Hart.csr, hra]; rfl
  have hwf : mapWf 0 (v.reader a).a.f = true := by rw [hra]; exact calm_wf_f hs
  refine ⟨?_, ?_, ⟨h1.cur, fun r _ => ?_, fun r hr => ?_, fun n _ => ?_, ?_, ?_, ?_, ?_, ?_, ?_, ?_⟩, r8, fun loc => ?_, h2⟩
  · have : y.a.pc = s.pc + 4 := by rw [← hy]; rfl
    rw [← this]; exact r1
  · rw [loadF, r3, ← hy, Hart.f_setPc, Hart.f_setF_self _ _ _ hwf]
  · rw [loadF, r2, ← hy, Hart.x_setPc, Hart.x_setF, hx]
  · have : r ≠ rd := by simpa using hr
    rw [loadF, r3, ← hy, Hart.f_setPc, Hart.f_setF_ne _ _ hwf this, hf]
  · rw [loadF, r4, ← hy, Hart.csr_setPc, Hart.csr_setF, hcs]
  · rw [loadF, r5, ← hy]; simp [hra]
  · rw [loadF, r5, ← hy]; simp [hra]
  · rw [loadF, r5, ← hy]; simp [hra]
  · intro _; rw [loadF, r5, ← hy]; simp [hra]
  · intro _; rw [loadF, r5, ← hy]; simp [hra]
  · rw [loadF, r6, ← hy]; simp [State.reader, hk.ctx]
  · rw [loadF, r7, ← hy]; simp [State.reader, hk.asid]
  · have : v.hart s.cur = v.me := by rw [State.me, hc2]
    rw [loadF, h3, h4 loc (by rw [← hy]; simp [State.reader]), seeByte_eq, this, hch, ← hc]
    rfl

/-! Stores. -/

/-- An aligned access of at most a page names consecutive locations (R107). -/
theorem locate_aligned {s : State} {w : Who} {kind : Kind} {va : Word} {n : Nat} {a : Acc} {u : State} (hn : 0 < n) (hd : n ∣ 4096) (hv : va.toNat % n = 0) (h : s.locate w kind 0 (n + 2) va n Acc.none = .ok (a, u)) :
    ∃ base, a.locs = (List.range n).map (base + ·) := by
  have h0 : n ≠ 0 := by omega
  rw [State.locate, if_neg h0] at h
  split at h
  · next o ho =>
    dsimp only at h
    simp only [lspOffset?] at ho
    split at ho
    · next hw =>
      have ho' := Option.some.inj ho
      subst ho'
      split at h
      · next hlt =>
        generalize hsz : ((s.core w.core).segOf w.ctx).size = sz at *
        generalize hbs : ((s.core w.core).segOf w.ctx).base = bs at *
        obtain ⟨k, hk'⟩ := hd
        have ho2 : (va.toNat - lspBaseVa) % n = 0 := by
          have : lspBaseVa % n = 0 := by
            have : lspBaseVa = n * (k * 0x10000000000 * 16) := by unfold lspBaseVa; rw [← Nat.mul_assoc, ← Nat.mul_assoc, ← hk']
            rw [this]; exact Nat.mul_mod_right _ _
          exact (Nat.sub_mod_eq_zero_of_mod_eq (hv.trans this.symm))
        by_cases hle : n ≤ sz - (va.toNat - lspBaseVa)
        · rw [show Nat.min n (sz - (va.toNat - lspBaseVa)) = n from Nat.min_eq_left hle, Nat.sub_self] at h
          rw [State.locate, if_pos rfl] at h
          cases h
          exact ⟨lspLoc w.core (bs + (va.toNat - lspBaseVa)), by simp [Acc.none, lspLoc, Nat.add_assoc]⟩
        · have hmin : Nat.min n (sz - (va.toNat - lspBaseVa)) = sz - (va.toNat - lspBaseVa) := Nat.min_eq_right (by omega)
          rw [hmin] at h
          have hlen : n - (sz - (va.toNat - lspBaseVa)) ≠ 0 := by omega
          have hin : sz < 0x80000 := by
            by_contra hge
            have : 0x80000 - (va.toNat - lspBaseVa) < n := by omega
            have h3 : (0x80000 - (va.toNat - lspBaseVa)) % n = 0 := by
              have : (0x80000 : Nat) % n = 0 := by
                have : (0x80000 : Nat) = n * (k * 128) := by rw [← Nat.mul_assoc, ← hk']
                rw [this]; exact Nat.mul_mod_right _ _
              exact Nat.sub_mod_eq_zero_of_mod_eq (this.trans ho2.symm)
            have h4 := Nat.mod_eq_of_lt this
            omega
          have hva : (va + BitVec.ofNat 64 (sz - (va.toNat - lspBaseVa))).toNat = lspBaseVa + sz := by
            rw [BitVec.toNat_add, BitVec.toNat_ofNat]
            have : lspBaseVa = 0x0100000000000000 := rfl
            omega
          have hoff : lspOffset? (va + BitVec.ofNat 64 (sz - (va.toNat - lspBaseVa))) = some sz := by
            rw [lspOffset?, hva, if_pos (by omega), Nat.add_sub_cancel_left]
          rw [State.locate, if_neg hlen, hoff] at h
          dsimp only at h
          rw [hsz, if_neg (Nat.lt_irrefl _)] at h
          cases h
      · cases h
    · cases ho
  · split at h
    · cases h
    · next t v hr =>
      have hlen : Nat.min n (4096 - va.toNat % 4096) = n := by
        apply Nat.min_eq_left
        obtain ⟨k, hk'⟩ := hd
        have h1 : va.toNat % 4096 % n = 0 := by
          rw [Nat.mod_mod_of_dvd _ ⟨k, hk'⟩]; exact hv
        have h2 : (4096 - va.toNat % 4096) % n = 0 :=
          Nat.sub_mod_eq_zero_of_mod_eq (((by rw [hk']; exact Nat.mul_mod_right _ _ : (4096 : Nat) % n = 0)).trans h1.symm)
        have h3 : 0 < 4096 - va.toNat % 4096 := by omega
        by_contra hlt
        have := Nat.mod_eq_of_lt (show 4096 - va.toNat % 4096 < n by omega)
        omega
      rw [hlen] at h
      dsimp only at h
      rw [Nat.sub_self, State.locate, if_pos rfl] at h
      cases h
      exact ⟨t.pa, by simp [Acc.none]⟩

theorem reaches_locs {s : State} {kind : Kind} {va : Word} {n : Nat} {a : Acc} {u : State} (hn : 0 < n)
    (hd : n ∣ 4096) (h : s.reaches kind n va n a u) : ∃ base, a.locs = (List.range n).map (base + ·) :=
  have h := check14_ok (check_ok h.1)
  locate_aligned hn hd h.1 h.2

/-- A scalar write that passes its checks (R107, R108). -/
theorem scalarWrite_ok {s : State} {ea : Word} {n : Nat} {a : Acc} {u : State} (v : Word) (h : s.reaches .store n ea n a u) :
    (s.openChunk false).scalarWrite ea n v =
      .ok ((u.cached a).setHart s.cur ((u.cached a).me.stores a.locs ea (leBytes n v.toNat))) := by
  obtain ⟨e, -, -, -, -, hcur, hc2, ht, hbk⟩ := reaches_moves h
  obtain ⟨h1, h2, h3, h4⟩ := h
  have hw : (s.openChunk false).who (s.openChunk false).cur = s.who s.cur := by
    have ho := HartOnly.openChunk s false
    have : (s.openChunk false).hart s.cur = s.me.inChunk (s.chunkNow false) := by rw [← ho.me, State.me, ho.cur]
    rw [ho.cur]
    simp only [State.who, this]
    rfl
  unfold State.scalarWrite
  rw [hw]
  simp only [bind, Except.bind, pure, Except.pure, h1, State.hostAlone, h2, Bool.false_and, Bool.false_eq_true, if_false]
  rw [writeAcc_spec u a ea (leBytes n v.toNat) .scalar ht]
  simp only [State.hostAfter, h2, Bool.false_eq_true, if_false]
  rw [hcur]
  rfl

theorem zip_fst_nodup {α β : Type} (l : List α) (m : List β) (h : l.Nodup) : ((l.zip m).map Prod.fst).Nodup := by
  induction l generalizing m with
  | nil => simp
  | cons a l ih =>
    cases m with
    | nil => simp
    | cons b m =>
      rw [List.nodup_cons] at h
      simp only [List.zip_cons_cons, List.map_cons, List.nodup_cons]
      refine ⟨fun ha => h.1 ?_, ih m h.2⟩
      obtain ⟨p, hp, rfl⟩ := List.mem_map.mp ha
      exact (List.of_mem_zip hp).1

theorem mapPut_length {α : Type} (m : FMap α) (k : Nat) (v : α) : (mapPut m k v).length ≤ m.length + 1 := by
  induction m with
  | nil => simp [mapPut]
  | cons e m ih =>
    obtain ⟨j, u⟩ := e
    simp only [mapPut]
    split
    · simp
    · split <;> simp
      exact ih

theorem stored_length (l : List (Nat × Byte)) (m : FMap Byte) :
    (l.foldl (fun m e => mapPut m e.1 e.2) m).length ≤ m.length + l.length := by
  induction l generalizing m with
  | nil => simp
  | cons e l ih =>
    rw [List.foldl_cons, List.length_cons]
    have := ih (mapPut m e.1 e.2)
    have := mapPut_length m e.1 e.2
    omega

theorem leBytes_length (n v : Nat) : (leBytes n v).length = n := by
  induction n generalizing v with
  | zero => rfl
  | succ n ih => simp [leBytes, ih]

/-- The chunk takes n bytes more (R289). -/
theorem withStore_over {s : State} {n : Nat} {ls : List Nat} {ea : Word} {bs : List Byte} {e : List Nat} (hs : s.calm = true)
    (hb : s.bufRoom n = true) (hbs : bs.length = n) :
    ((Chunk.withStore ls ea bs) { s.chunkNow false with ext := e }).over = false := by
  have h1 := chunkNow_room s false hs
  simp only [Chunk.room, Bool.and_eq_true, decide_eq_true_eq, Bool.not_eq_true'] at h1
  have h2 := h1.1.1.2
  have h3 : (s.chunkNow false).buf.length + n ≤ 8192 := by
    unfold State.bufRoom at hb
    unfold State.chunkNow
    split at hb
    · next hc => simp only [hc, State.newChunk, List.length_nil]; simpa using hb
    · next c hc => simp only [hc]; simpa using hb
  have h4 : ((ls.zip bs).foldl (fun m e => mapPut m e.1 e.2) (s.chunkNow false).buf).length ≤ 8192 := by
    have := stored_length (ls.zip bs) (s.chunkNow false).buf
    have : (ls.zip bs).length ≤ n := by rw [List.length_zip, hbs]; omega
    omega
  simp only [Chunk.over, Bool.or_eq_false_iff, decide_eq_false_iff_not] at h2 ⊢
  refine ⟨⟨⟨⟨?_, h2.1.1.1.2⟩, h2.1.1.2⟩, h2.1.2⟩, h2.2⟩
  show ¬ 8192 < ((ls.zip bs).foldl (fun m e => mapPut m e.1 e.2) (s.chunkNow false).buf).length
  omega

/-- What a body does that stores the low bytes of `v` and goes on. -/
theorem store_stores {s : State} {ea v : Word} {n len : Nat} {a : Acc} {u : State} {body : State → Res} (hs : s.calm = true)
    (hn : 0 < n) (hd : n ∣ 4096) (h : s.reaches .store n ea n a u)
    (hroom : s.bufRoom n = true)
    (hb : body (s.openChunk false) = match (s.openChunk false).scalarWrite ea n v with
      | .ok t => .ok (t.next len)
      | .error e => .error e) :
    StoresTo a.locs (leBytes n v.toNat) len (u.cached a) s (s.run .plain body) := by
  obtain ⟨base, hl⟩ := reaches_locs hn hd h
  have hok := scalarWrite_ok v h
  obtain ⟨e, hm, ha, hk, hch, hcur, hc2, ht, hbk⟩ := reaches_moves h
  generalize hv : u.cached a = w at *
  generalize hc : (Chunk.withStore a.locs ea (leBytes n v.toNat)) { s.chunkNow false with ext := e } = c
  generalize hy : (w.me.stores a.locs ea (leBytes n v.toNat)).setPc (s.pc + BitVec.ofNat 64 len) = y
  have hyc : y.chunk = some c := by rw [← hy, ← hc]; simp [Hart.stores, hch]
  have hroom0 := chunkNow_room s false hs
  simp only [Chunk.room, Bool.and_eq_true, decide_eq_true_eq, Bool.not_eq_true'] at hroom0
  have hks : mapSorted (s.chunkNow false).keep = true := ((mapWf_iff 0 _).mp hroom0.2).1
  have hroom' : c.room = true := by
    have h2 := withStore_over (ls := a.locs) (ea := ea) (e := e) hs hroom (leBytes_length n v.toNat)
    rw [hc] at h2
    simp only [Chunk.room, Bool.and_eq_true, decide_eq_true_eq, Bool.not_eq_true']
    refine ⟨⟨⟨by rw [← hc]; exact hroom0.1.1.1, h2⟩, by rw [← hc]; exact hroom0.1.2⟩, ?_⟩
    rw [← hc]
    exact mapWf_erased _ hroom0.2
  rw [hok] at hb
  obtain ⟨k, h1, h2, f, h3, h4⟩ := plain_after (y := y) (c := c) (body := body) hs hm
    (by
      rw [hb]
      simp only [State.next, onMe_eq, setHart_cur, hc2, me_setHart_cur _ _ _ hc2, setHart_setHart, ← hy]
      rw [show (w.me.stores a.locs ea (leBytes n v.toNat)).a = w.me.a from rfl, ha]
      rfl) hyc hroom' (by rw [← hy]; simp [Hart.stores, hk.group, calm_group hs]) (by rw [← hy]; rfl)
  have hrun : y.status = .running := by
    rw [← hy, Hart.setPc_status]
    exact hk.running (by simp [calm_running hs])
  obtain ⟨r1, r2, r3, r4, ⟨q, r5⟩, r6, r7, r8⟩ := h1.reads hyc (by rw [← hc]; exact chunkNow_count s false) hrun
  have hya : y.a = { s.me.a with pc := s.pc + BitVec.ofNat 64 len } := by rw [← hy, ← ha]; rfl
  have hcb : c.buf = (a.locs.zip (leBytes n v.toNat)).foldl (fun m e => mapPut m e.1 e.2) (s.chunkNow false).buf := by rw [← hc]; rfl
  have hck : c.keep = (a.locs.zip (leBytes n v.toNat)).foldl (fun m e => mapErase m e.1) (s.chunkNow false).keep := by rw [← hc]; rfl
  have hnd : ((a.locs.zip (leBytes n v.toNat)).map Prod.fst).Nodup := by
    refine zip_fst_nodup _ _ ?_
    rw [hl]
    exact List.Nodup.map (fun a b h => by simpa using h) List.nodup_range
  refine ⟨?_, fun p hp => ?_, ⟨h1.cur, fun r _ => ?_, fun r _ => ?_, fun n _ => ?_, ?_, ?_, ?_, ?_, ?_, ?_, ?_⟩, r8, fun loc hloc => ?_, h2⟩
  · have : y.a.pc = s.pc + BitVec.ofNat 64 len := by rw [hya]
    rw [← this]; exact r1
  · have hmem : p.1 ∈ (a.locs.zip (leBytes n v.toNat)).map Prod.fst := List.mem_map.mpr ⟨p, hp, rfl⟩
    rw [h3]
    simp only [seen, hcb, hck, mapFind?_stored _ _ p.1 p.2 hp hnd, mapGet, mapFind?_erased _ _ _ hks, if_pos hmem]
    simp [keepBits]
  · rw [r2, Hart.x, hya]; rfl
  · rw [r3, Hart.f, hya]; rfl
  · rw [r4, Hart.csr, hya]; rfl
  · rw [r5, hya]
  · rw [r5, hya]
  · rw [r5, hya]
  · intro _; rw [r5, hya]
  · intro _; rw [r5, hya]
  · rw [r6, ← hy]; simp [Hart.stores, hk.ctx]
  · rw [r7, ← hy]; simp [Hart.stores, hk.asid]
  · have hno : loc ∉ (a.locs.zip (leBytes n v.toNat)).map Prod.fst := fun hm => by
      obtain ⟨p, hp, rfl⟩ := List.mem_map.mp hm
      exact hloc (List.of_mem_zip hp).1
    have hw : w.hart s.cur = w.me := by rw [State.me, hc2]
    have hlo : mapFind? y.lspOld loc = mapFind? w.me.lspOld loc := by
      rw [← hy]
      exact mapFind?_filter (fun l => decide (l ∉ a.locs)) _ loc (by rw [hk.lspOld]; exact calm_lspOld hs) (by simp [hloc])
    rw [h3, h4 loc hlo, seeByte_eq, hw, hch]
    simp only [seen, hcb, hck, mapGet, mapFind?_erased _ _ _ hks, if_neg hno]
    rw [mapFind?_stored_ne]
    intro p hp hpe
    exact hno (List.mem_map.mpr ⟨p, hp, hpe⟩)

end Sys2Proof.Machine
end

