-- ==== Sys2Proof/Laws/Memory.lean ====
section
/-! SUPPORT. Every operation that writes memory keeps its canonical form: the bytes and the keys of lines are listed at
strictly rising keys, and no byte is listed that reads as an unlisted one does (log 4, log 7). -/

namespace Sys2Proof.Machine

/-- The bytes of memory and the record of their keys are in canonical form. -/
def Canon (s : State) : Prop := Memory.wf s.mem = true ∧ mapSorted s.memKey = true

theorem canon_reset : Canon State.reset := ⟨rfl, rfl⟩

/-- What touches neither bytes nor keys keeps the form. -/
theorem Canon.of_eq {s t : State} (h : Canon s) (hm : t.mem = s.mem := by rfl) (hk : t.memKey = s.memKey := by rfl) : Canon t := by
  unfold Canon; rw [hm, hk]; exact h

theorem Canon.foldl {α : Type} {f : State → α → State} (hf : ∀ s a, Canon s → Canon (f s a)) (l : List α) {s : State}
    (h : Canon s) : Canon (l.foldl f s) := by
  induction l generalizing s with
  | nil => exact h
  | cons a l ih => exact ih (hf s a h)

/-! Maps. -/

theorem mapWf_foldl_set {α β : Type} [DecidableEq α] (d : α) (k : β → Nat) (v : β → α) (l : List β) {m : FMap α}
    (h : mapWf d m = true) : mapWf d (l.foldl (fun m e => mapSet d m (k e) (v e)) m) = true := by
  induction l generalizing m with
  | nil => exact h
  | cons a l ih => exact ih (mapWf_set d m _ _ h)

theorem mapAbove_filter {α : Type} {k : Nat} {m : FMap α} (p : Nat × α → Bool) (h : mapAbove k m) : mapAbove k (m.filter p) :=
  fun e he => h e (List.mem_filter.mp he).1

theorem mapSorted_filter {α : Type} (p : Nat × α → Bool) (m : FMap α) (h : mapSorted m = true) :
    mapSorted (m.filter p) = true := by
  induction m with
  | nil => rfl
  | cons a m ih =>
    obtain ⟨j, u⟩ := a
    obtain ⟨h1, h2⟩ := (mapSorted_cons j u m).mp h
    rw [List.filter_cons]
    split
    · exact (mapSorted_cons j u _).mpr ⟨mapAbove_filter p h1, ih h2⟩
    · exact ih h2

theorem mapWf_filter {α : Type} [DecidableEq α] (d : α) (p : Nat × α → Bool) {m : FMap α} (h : mapWf d m = true) :
    mapWf d (m.filter p) = true := by
  rw [mapWf_iff] at h ⊢
  exact ⟨mapSorted_filter p m h.1, fun e he => h.2 e (List.mem_filter.mp he).1⟩

theorem mapWf_erase {α : Type} [DecidableEq α] (d : α) (k : Nat) {m : FMap α} (h : mapWf d m = true) :
    mapWf d (mapErase m k) = true := by
  rw [mapWf_iff] at h ⊢
  exact ⟨mapSorted_erase m k h.1, fun e he => h.2 e (mem_mapErase he)⟩

/-- A pass over a list keeps the order of keys that each of its steps keeps. -/
theorem mapSorted_foldl {α β : Type} {f : FMap α → β → FMap α} (hf : ∀ m b, mapSorted m = true → mapSorted (f m b) = true)
    (l : List β) {m : FMap α} (h : mapSorted m = true) : mapSorted (l.foldl f m) = true := by
  induction l generalizing m with
  | nil => exact h
  | cons a l ih => exact ih (hf m a h)

/-! The operations of Machine/Memory.lean. -/

theorem canon_putByte {s : State} (loc : Nat) (b : Byte) (h : Canon s) : Canon (s.putByte loc b) := ⟨mapWf_set 0 _ _ _ h.1, h.2⟩
theorem rawByte_putByte_self {s : State} (loc : Nat) (b : Byte) (h : Canon s) : (s.putByte loc b).rawByte loc = b :=
  mapGet_set_self 0 s.mem loc b h.1
theorem rawByte_putByte_ne {s : State} {loc l : Nat} (b : Byte) (h : Canon s) (hl : l ≠ loc) :
    (s.putByte loc b).rawByte l = s.rawByte l := mapGet_set_ne 0 s.mem b h.1 hl
theorem canon_onHart {s : State} (k : Nat) (f : Hart → Hart) (h : Canon s) : Canon (s.onHart k f) := h
theorem canon_onCore {s : State} (k : Nat) (f : Core → Core) (h : Canon s) : Canon (s.onCore k f) := h
theorem canon_onCluster {s : State} (k : Nat) (f : Cluster → Cluster) (h : Canon s) : Canon (s.onCluster k f) := h
theorem canon_setCopy {s : State} (k line : Nat) (c : L2Line) (h : Canon s) : Canon (s.setCopy k line c) := h
theorem canon_dropCopy {s : State} (k line : Nat) (h : Canon s) : Canon (s.dropCopy k line) := h
theorem canon_fireMonitors {s : State} (line : Nat) (h : Canon s) : Canon (s.fireMonitors line) := h
theorem canon_noteChange {s : State} (k : Nat) (ls : List Nat) (x : Option Nat) (h : Canon s) : Canon (s.noteChange k ls x) := h
theorem canon_breakLinks {s : State} (k line : Nat) (h : Canon s) : Canon (s.breakLinks k line) := h

theorem canon_keyByte {s : State} (mark loc : Nat) (h : Canon s) : Canon (s.keyByte mark loc) := by
  unfold State.keyByte
  split
  · exact h
  · exact ⟨h.1, mapSorted_put _ _ _ (mapSorted_foldl (fun m l hm => mapSorted_put m l 0 hm) _ h.2)⟩

theorem canon_homePut {s : State} (mark loc : Nat) (b keep : Byte) (h : Canon s) : Canon (s.homePut mark loc b keep) :=
  canon_putByte _ _ (canon_keyByte _ _ h)

theorem canon_heal {s : State} (locs : List Nat) (h : Canon s) : Canon (s.heal locs) := by
  unfold State.heal
  split <;> exact h

theorem canon_homeNews {s : State} (k line : Nat) (h : Canon s) : Canon (s.homeNews k line) := by
  refine Canon.foldl (fun s j h => ?_) _ h
  split
  · exact h
  · split
    · split
      · exact canon_setCopy _ _ _ h
      · exact h
    · exact canon_noteChange _ _ _ h

theorem canon_refreshCopy {s : State} (line k : Nat) (x : Option Nat) (stay : Bool) (h : Canon s) :
    Canon (s.refreshCopy line k x stay) := by
  unfold State.refreshCopy
  split
  · exact h
  · refine canon_noteChange _ _ _ ?_
    split
    · exact h
    · split <;> exact h

theorem canon_refreshAll {s : State} (line : Nat) (h : Canon s) : Canon (s.refreshAll line) :=
  Canon.foldl (fun _ _ h => canon_refreshCopy _ _ _ _ h) _ h

theorem canon_writeBack {s : State} (k line : Nat) (h : Canon s) : Canon (s.writeBack k line) := by
  unfold State.writeBack
  split
  · exact h
  · split
    · exact h
    · refine canon_homeNews _ _ (canon_fireMonitors _ (canon_setCopy _ _ _ (Canon.foldl (fun s i h => ?_) _ h)))
      split
      · exact h
      · exact canon_putByte _ _ h

theorem canon_evict {s : State} (k line : Nat) (h : Canon s) : Canon (s.evict k line) := by
  unfold State.evict
  have h0 := canon_writeBack k line h
  dsimp only
  split
  · exact h0
  · split <;> exact h0

theorem canon_flushLine {s : State} (k loc : Nat) (h : Canon s) : Canon (s.flushLine k loc) := by
  unfold State.flushLine
  split
  · exact canon_writeBack _ _ h
  · exact h

theorem canon_touch {s : State} (k line : Nat) (ins : Insert) (counts : Bool) (h : Canon s) : Canon (s.touch k line ins counts) := by
  have hc : ∀ (b : Bool), Canon (if counts then s.onCluster k (·.count line b) else s) := fun b => by split <;> exact h
  unfold State.touch
  split
  · exact canon_setCopy _ _ _ (hc true)
  · have h0 := hc false
    generalize (if counts = true then s.onCluster k fun x => x.count line false else s) = u at h0 ⊢
    dsimp only
    split
    · exact h0
    · refine canon_setCopy _ _ _ ?_
      split
      · exact canon_evict _ _ h0
      · exact h0

theorem canon_touchNew {s : State} (k : Nat) (seen locs : List Nat) (ins : Insert) (efs : List Nat) (h : Canon s) :
    Canon (s.touchNew k seen locs ins efs) := Canon.foldl (fun _ _ h => canon_touch _ _ _ _ h) _ h

theorem canon_touchAll {s : State} (k : Nat) (locs : List Nat) (ins : Insert) (h : Canon s) : Canon (s.touchAll k locs ins) :=
  (canon_touchNew k _ locs ins [] h).of_eq

theorem canon_keepOld {s : State} (line : Nat) (h : Canon s) : Canon (s.keepOld line) := by
  refine Canon.foldl (fun s k h => ?_) _ h
  split
  · exact canon_touch _ _ _ _ h
  · exact h

theorem canon_homeWrite {s : State} (mark : Nat) (bytes : List (Nat × Byte)) (h : Canon s) : Canon (s.homeWrite mark bytes) :=
  Canon.foldl (fun _ _ h => canon_refreshAll _ (canon_fireMonitors _ h)) _
    (canon_heal _ (Canon.foldl (fun _ (e : Nat × Byte) h => canon_homePut mark e.1 e.2 0 h) bytes
      (Canon.foldl (fun _ l h => canon_keepOld l h) _ h)))

theorem canon_commitByte {s : State} (k mark loc : Nat) (b keep : Byte) (h : Canon s) : Canon (s.commitByte k mark loc b keep) := by
  unfold State.commitByte
  dsimp only
  split
  · have h0 := canon_keyByte mark loc h
    split
    · split
      · exact canon_putByte _ _ (canon_setCopy _ _ _ h0)
      · exact canon_setCopy _ _ _ h0
    · exact canon_homePut _ _ _ _ h
  · exact canon_homePut _ _ _ _ h

theorem canon_commitBytes {s : State} (k mark : Nat) (bytes keep : FMap Byte) (h : Canon s) :
    Canon (s.commitBytes k mark bytes keep) := by
  unfold State.commitBytes
  dsimp only
  refine canon_onHart _ _ (canon_noteChange _ _ _ (Canon.foldl (fun t l h => ?_) _ ?_))
  · split
    · split
      · exact h
      · exact canon_homeNews _ _ (canon_fireMonitors _ h)
    · exact canon_fireMonitors _ h
  · exact canon_heal _ (Canon.foldl (fun _ (e : Nat × Byte) h => canon_commitByte k mark e.1 e.2 _ h) bytes h)

theorem canon_writeOut {s : State} (c l : Nat) (ks : List Nat) (h : Canon s) :
    Canon (ks.foldl (fun s k => s.refreshCopy l k) ((s.keepOld l).writeBack c l)) :=
  Canon.foldl (fun _ _ h => canon_refreshCopy _ _ none false h) ks (canon_writeBack _ _ (canon_keepOld _ h))

theorem canon_release {s : State} (k : Nat) (sc : Scope) (h : Canon s) : Canon (s.release k sc) := by
  cases sc with
  | core => exact h
  | cluster => exact h
  | die => exact Canon.foldl (fun _ l h => canon_writeOut _ l _ h) _ h
  | device =>
    have key : ∀ (ls : List Nat) (f : State → Nat → State), (∀ s l, Canon s → Canon (f s l)) →
        Canon ((ls.foldl f s).onHart k fun x => { x with wlines := [] }) := fun ls f hf => canon_onHart _ _ (Canon.foldl hf ls h)
    exact key _ _ fun _ l h => canon_writeOut _ l _ h

theorem canon_acquire {s : State} (k : Nat) (sc : Scope) (h : Canon s) : Canon (s.acquire k sc) := by
  have h0 : Canon (if (s.hart k).lspOld.isEmpty then s else s.onHart k fun x => { x with lspOld := [] }) := by
    split <;> exact h
  unfold State.acquire
  generalize (if (s.hart k).lspOld.isEmpty = true then s else s.onHart k fun x => { x with lspOld := [] }) = u at h0 ⊢
  have key : ∀ (c : Nat) (l : FMap L2Line) {s : State}, Canon s → Canon (l.foldl (fun s e =>
      if s.staleAt sc e.1 e.2 = true then s.refreshCopy e.1 c (some k) else s) s) := fun c l s h =>
    Canon.foldl (fun s (e : Nat × L2Line) h => by
      split
      · exact canon_refreshCopy _ _ _ _ h
      · exact h) l h
  dsimp only
  cases sc with
  | core => exact h0
  | cluster => exact h0
  | die => exact key _ _ h0
  | device => exact key _ _ h0

theorem canon_atHome {s : State} (k mark : Nat) (locs : List Nat) (h : Canon s) : Canon (s.atHome k mark locs).2 :=
  Canon.foldl (fun _ _ h => canon_flushLine _ _ h) _ h

/-! The other writers: queues, saved segments, page migration, code placed for the host. -/

theorem canon_setQcb {s : State} (mark q : Nat) (c : Qcb) (h : Canon s) : Canon (s.setQcb mark q c) := canon_homeWrite _ _ h

theorem canon_restoreSeg {s : State} (ctx core : Nat) (h : Canon s) : Canon (s.restoreSeg ctx core) := by
  unfold State.restoreSeg
  dsimp only
  split
  · exact h
  · exact ⟨mapWf_foldl_set 0 Prod.fst Prod.snd _ (mapWf_filter 0 _ h.1),
      mapSorted_foldl (fun m e hm => mapSorted_put m e.1 e.2 hm) _ (mapSorted_filter _ _ h.2)⟩

theorem canon_copyPage {s : State} (o n : Nat) (h : Canon s) : Canon (s.copyPage o n) := by
  unfold State.copyPage
  dsimp only
  have h0 : Canon ((s.clusters.map Prod.fst).foldl (fun s k =>
      (((s.cluster k).l2.map Prod.fst).filter fun l => decide (l / 64 = o) || decide (l / 64 = n)).foldl
        (fun s l => s.evict k l) s) s) :=
    Canon.foldl (fun _ _ h => Canon.foldl (fun _ _ h => canon_evict _ _ h) _ h) _ h
  generalize (s.clusters.map Prod.fst).foldl _ s = u at h0 ⊢
  generalize List.range 4096 = l
  refine ⟨mapWf_foldl_set 0 (fun i => n * 4096 + i) (fun i => u.rawByte (o * 4096 + i)) l h0.1,
    mapSorted_foldl (fun m i hm => ?_) l h0.2⟩
  split
  · exact mapSorted_put _ _ _ hm
  · exact mapSorted_erase _ _ hm

theorem canon_repoint {s : State} (n pte : Nat) (h : Canon s) : Canon (s.repoint n pte) := canon_homeWrite _ _ h

theorem canon_placeCode {s : State} (bs : List Byte) (h : Canon s) : Canon (s.placeCode bs) :=
  ⟨mapWf_foldl_set 0 Prod.fst Prod.snd _ h.1, mapSorted_foldl (fun m l hm => mapSorted_erase m l hm) _ h.2⟩

end Sys2Proof.Machine
end

