-- ==== Sys2Proof/Laws/Route.lean ====
section
/-! SUPPORT. Tokens: what sealing writes, and that a sealed token's TAG holds (spec/10 R232, spec/17 R322). -/

namespace Sys2Proof.Machine

/-- Sealing replaces the low 64 bits and keeps the others. -/
theorem sealTok_toNat (key : Nat) (t : Line) :
    (sealTok key t).toNat = t.toNat / 2 ^ 64 * 2 ^ 64 + (tokMac key (tokSealed t)).toNat := by
  have h := (tokMac key (tokSealed t)).isLt
  have ht := t.isLt
  have hd : t.toNat / 2 ^ 64 < 2 ^ 448 := Nat.div_lt_of_lt_mul (by rw [← Nat.pow_add]; exact ht)
  have e : (2 : Nat) ^ 512 = 2 ^ 448 * 2 ^ 64 := Nat.pow_add 2 448 64
  simp only [sealTok, setTok, setField, field, BitVec.toNat_ofNat, e]
  generalize tokMac key (tokSealed t) = c at h ⊢
  clear e ht
  generalize (2 : Nat) ^ 448 = P at *
  rw [Nat.mod_eq_of_lt]
  all_goals
    simp only [Nat.pow_zero, Nat.div_one, Nat.mul_one, Nat.sub_zero, Nat.reduceAdd] at *
    have := Nat.mul_le_mul_right (2 ^ 64) (Nat.succ_le_of_lt hd)
    omega

/-- Sealing keeps what TAG covers. -/
theorem tokSealed_sealTok (key : Nat) (t : Line) : tokSealed (sealTok key t) = tokSealed t := by
  have h := (tokMac key (tokSealed t)).isLt
  apply BitVec.eq_of_toNat_eq
  have e : (sealTok key t).toNat / 2 ^ 64 = t.toNat / 2 ^ 64 := by rw [sealTok_toNat]; omega
  simp only [tokSealed, BitVec.toNat_setWidth, BitVec.toNat_ushiftRight, Nat.shiftRight_eq_div_pow, e]

/-- A sealed token's TAG holds under the key that sealed it. -/
theorem tagOk_sealTok (key : Nat) (t : Line) : tagOk key (sealTok key t) = true := by
  have h := (tokMac key (tokSealed t)).isLt
  simp only [tagOk, decide_eq_true_eq, tokSealed_sealTok]
  apply BitVec.eq_of_toNat_eq
  simp only [BitVec.toNat_ofNat, tok, sealTok_toNat]
  omega

/-- A field above the TAG is kept. -/
theorem tok_sealTok (key : Nat) (t : Line) (hi lo : Nat) (h : 64 ≤ lo) : tok (sealTok key t) hi lo = tok t hi lo := by
  have hc := (tokMac key (tokSealed t)).isLt
  have e : (sealTok key t).toNat / 2 ^ 64 = t.toNat / 2 ^ 64 := by rw [sealTok_toNat]; omega
  obtain ⟨n, rfl⟩ := Nat.exists_eq_add_of_le h
  simp only [tok, Nat.pow_add, ← Nat.div_div_eq_div_mul, e]

end Sys2Proof.Machine
end

