-- ==== Sys2Proof/Tests/Slice0.lean ====
section
/-! SUPPORT. The model's own tests: words of the spec decoded, ill-formed terms refused, one step at a time, and for each
statement with hypotheses a state and operands that meet them. Expected values are worked out from the spec. -/

/-! Small states. -/

namespace Sys2Proof.Machine

/-- With these integer registers. -/
def State.xs (s : State) (l : List (Nat × Word)) : State := s.onMe fun h => { h with a := { h.a with x := l } }
/-- With these floating registers. -/
def State.fs (s : State) (l : List (Nat × Word)) : State := s.onMe fun h => { h with a := { h.a with f := l } }
/-- With these CSRs. -/
def State.csrs (s : State) (l : List (Nat × Word)) : State := s.onMe fun h => { h with a := { h.a with csr := l } }
/-- With bytes in memory. -/
def State.mems (s : State) (l : List (Nat × List Byte)) : State :=
  l.foldl (fun s e => { s with mem := ((span e.1 e.2.length).zip e.2).foldl (fun m b => mapSet 0 m b.1 b.2) s.mem }) s
end Sys2Proof.Machine

namespace Sys2Proof.Tests
set_option Elab.async false
open Sys2Proof Sys2Proof.Machine

/-- A hart that runs at address 0, whose page is mapped to location 0x2000000. -/
def base : State := State.reset.placeCode []
/-- An outcome's state meets a condition. -/
def okNext (o : Out) (p : State → Bool) : Bool := match o with | .next t => p t | _ => false
/-- A result is there and meets a condition. -/
def okRes (r : Except Exc α) (p : α → Bool) : Bool := match r with | .ok a => p a | .error _ => false
theorem of_okRes {r : Except Exc α} {p : α → Bool} (h : okRes r p = true) : ∃ a, r = .ok a ∧ p a = true := by
  cases r with
  | ok a => exact ⟨a, rfl, h⟩
  | error => simp [okRes] at h
theorem ok_of {r : Except Exc Unit} (h : okRes r (fun _ => true) = true) : r = .ok () := by
  obtain ⟨⟨⟩, h, _⟩ := of_okRes h
  exact h
/-- The location of a byte of the mapped page. -/
def at_ (va : Nat) : Nat := 0x2000000 + va

/-- An access that passes its checks, as the statements ask for it. -/
theorem reaches_of {s : State} {kind : Kind} {al : Nat} {va : Word} {n : Nat}
    (h : okRes ((s.openChunk false).check (s.who s.cur) kind al 0 va n) (fun r => !r.1.hshared) = true) (ht : s.timed = false ∧ s.myCore.banks = []) :
    ∃ a u, s.reaches kind al va n a u := by
  obtain ⟨⟨a, u⟩, h, p⟩ := of_okRes h
  exact ⟨a, u, h, by simpa using p, ht.1, ht.2⟩

/-! Words of the spec (spec/02, spec/05, spec/09, spec/10; the words and their readings are the spec's). -/

/-- R97: `div x5, x6, x7`. -/
theorem test_decode_div : decode (leBytes 4 0x0E1CC503) = .ok (.instr (.div 5 6 7), 4) := by decide +kernel
/-- R43: `addi x5, x6, -3`. -/
theorem test_decode_addi : decode (leBytes 4 0xFFF4C50B) = .ok (.instr (.addi 5 6 0x3FFD), 4) := by decide +kernel
/-- R28: ADD.C, ADDI.C and MV.C. -/
theorem test_decode_compact :
    decode (leBytes 2 0x0384) = .ok (.instr (.addC 7), 2) ∧ decode (leBytes 2 0xE385) = .ok (.instr (.addiC 7 0xE), 2) ∧
    decode (leBytes 2 0x04B0) = .ok (.instr (.mvC 9), 2) := by decide +kernel
/-- R107: `ld.d x14, [x10+0]`, and a releasing store with offset -1. -/
theorem test_decode_memory :
    decode (leBytes 4 0x000D4E2F) = .ok (.instr (.ldD 14 10 0), 4) ∧
    decode (leBytes 4 0xFFDD6733) = .ok (.instr (.strelD 7 11 0x3FF), 4) := by decide +kernel
/-- R117: `fnma.d f1, f2, f3, f4`. -/
theorem test_decode_fnma : decode (leBytes 4 0x920C4167) = .ok (.instr (.fnma 1 1 2 3 4), 4) := by decide +kernel
/-- R196, R199: an atomic and a fence. -/
theorem test_decode_sync :
    decode (leBytes 4 0x381CC53F) = .ok (.instr (.amoAdd 0 3 1 5 6 7), 4) ∧
    decode (leBytes 4 0x0980006B) = .ok (.instr (.fenceRel 3), 4) ∧
    decode (leBytes 4 0x3024E03F) = .ok (.instr (.amoAdd 0 3 0 0 7 9), 4) := by decide +kernel
/-- R207: `enq [x6], x7` and `deq x5, [x6], x0`. -/
theorem test_decode_queue :
    decode (leBytes 4 0x009CC06F) = .ok (.instr (.enq 6 7), 4) ∧ decode (leBytes 4 0x0180C56F) = .ok (.instr (.deq 5 6 0), 4) := by
  decide +kernel
/-- R240, R236, R237, R239, R243: route instructions. -/
theorem test_decode_route :
    decode (leBytes 4 0x04986577) = .ok (.instr (.rldD 5 3 6), 4) ∧
    decode (leBytes 4 0x28186577) = .ok (.instr (.ramoAdd 1 5 3 6), 4) ∧
    decode (leBytes 4 0x01186477) = .ok (.instr (.rtnar 4 3 6), 4) ∧
    decode (leBytes 4 0x02010177) = .ok (.instr (.rtset 1 8), 4) ∧
    decode (leBytes 4 0x09012077) = .ok (.instr (.rfence 9), 4) ∧
    decode (leBytes 4 0x08D00577) = .ok (.instr (.renqm 5 0 20), 4) := by decide +kernel
/-- R254: `domset 1, x6, bb2` and `dsync 1`. -/
theorem test_decode_timed :
    decode (leBytes 4 0x0188C17F) = .ok (.instr (.domset 1 6 2), 4) ∧ decode (leBytes 4 0x0200017F) = .ok (.instr (.dsync 1), 4) := by
  decide +kernel
/-- R260, R265: VACQ, END and SYSC. -/
theorem test_decode_hart :
    decode (leBytes 4 0x02000087) = .ok (.instr .vacq, 4) ∧ decode (leBytes 4 0x03000087) = .ok (.instr .endHart, 4) ∧
    decode (leBytes 4 0x0480A087) = .ok (.instr (.sysc 5), 4) := by decide +kernel
/-- R267: `csrrs x5, cycle, x0`, `csrrw x0, rfinj, x29`. -/
theorem test_decode_csr :
    decode (leBytes 4 0x70000583) = .ok (.instr (.csrrs 5 0 0xC00), 4) ∧
    decode (leBytes 4 0x014FA083) = .ok (.instr (.csrrw 0 29 0x053), 4) := by decide +kernel
/-- R123, R122, R149, R150: vector set-up and scalar reads. -/
theorem test_decode_vector :
    decode (leBytes 4 0x00CD6A8B) = .ok (.instr (.vsetl 10 11 0x33), 4) ∧
    decode (leBytes 4 0x44350A8F) = .ok (.instr (.vsetli 10 8 0x110D), 4) ∧
    decode (leBytes 4 0x00802693) = .ok (.instr (.vmpopc 6 1), 4) ∧
    decode (leBytes 4 0x00010793) = .ok (.instr (.vmvxs 7 8 0), 4) ∧
    decode (leBytes 4 0x02004593) = .ok (.instr (.vrdsc 5 2), 4) := by decide +kernel
/-- R53: a convoy of two members. -/
theorem test_decode_convoy :
    decode (leBytes 4 0x200091FF ++ leBytes 8 0x0000022090188842 ++ leBytes 8 0x0000000000310840) =
      .ok (.convoy 0x200091FF [0x0000022090188842, 0x0000000000310840], 20) := by decide +kernel
/-- R29, R32, R38, R40: bytes that are no instruction: x0 in a compact form, a nonzero unused field, an unassigned func9, COUNT 6. -/
theorem test_decode_refuses :
    decode (leBytes 2 0x0004) = .error .reservedField ∧ decode (leBytes 4 0x10040503) = .error .reservedField ∧
    decode (leBytes 4 0x07800003) = .error .unassignedMinor ∧ decode (leBytes 4 0x000006FF) = .error .reservedCount := by decide +kernel

/-! An ill-formed term for each check of WellFormed, refused. -/

/-- R29. -/
theorem test_illformed_compact : wellFormed (.addC 0) = false ∧ wellFormed (.stC 0 0) = true := by decide +kernel
/-- R199. -/
theorem test_illformed_scope : wellFormed (.fenceAcq 5) = false ∧ wellFormed (.fenceAcq 4) = true := by decide +kernel
/-- R204, R236, R217: register numbers of a file. -/
theorem test_illformed_register :
    wellFormed (.bset 8 1) = false ∧ wellFormed (.rtld 16 1) = false ∧ wellFormed (.sbind 8 1) = false ∧ wellFormed (.dsync 4) = false := by
  decide +kernel
/-- R236: a pair at an odd register or at x0. -/
theorem test_illformed_pair : wellFormed (.ramoAdd 0 1 2 3) = false ∧ wellFormed (.ramoAdd 0 1 2 0) = false := by decide +kernel
/-- R116: rounding code 7, and a conversion to its own format. -/
theorem test_illformed_conversion : wellFormed (.fcvtFi 0 1 2 28) = false ∧ wellFormed (.fcvtFf 1 1 2 1) = false := by decide +kernel
/-- R43, R44: a mask number without MEN, a scalar with a second modifier, a modifier code above 11. -/
theorem test_illformed_word :
    let w : VWord := { imm := 0, scal := 0, satf := 0, rnd := 0, k := 0, mod2 := 0, mod1 := 0, men := 0, msk := 0, vs3 := 0, vs2 := 0, vs1 := 0, vd := 0 }
    wfVWord w = true ∧ wfVWord { w with msk := 1 } = false ∧ wfVWord { w with scal := 1, mod2 := 1 } = false ∧
    wfVWord { w with mod1 := 12 } = false := by decide +kernel
/-- R40: a COUNT that the words do not match. -/
theorem test_illformed_convoy : wellFormed (.convoy 0x200091FF [0]) = false ∧ wellFormed (.convoy 0x200091FE [0, 0]) = false := by
  decide +kernel
/-- R1: no die has cluster 12. -/
theorem test_illformed_hart : wellFormed (.waitTimeout 768) = false ∧ wellFormed (.waitTimeout 767) = true := by decide +kernel

/-! What the hypotheses of the statements ask for can be had: one theorem for each statement, on small states. -/

/-- IntegerForms, DivisionForms, ImmediateAndCompactForms, ConditionalBranches, JumpsAndLinks, SystemTraps, RandomState. -/
theorem wit_calm : base.calm = true ∧ base.loose = true ∧ base.solo = true ∧ base.fresh = true := by decide +kernel

/-- Loads: the last doubleword of a page, through ld.d and ld.c; and a byte. -/
theorem wit_Loads :
    let s := (base.xs [(1, 0x1000)]).csrs [(Csr.ldst, 1)]
    s.calm = true ∧ (∃ a u, s.reaches .load 8 (s.addr 1 0x3FF 3) 8 a u) ∧ (∃ a u, s.reaches .load 1 (s.addr 1 0x3FF 0) 1 a u) ∧
    (∃ a u, (s.xs [(1, 0xF80)]).reaches .load 8 ((s.xs [(1, 0xF80)]).x 1 + (15 : BitVec 4).setWidth 64 * 8) 8 a u) ∧
    ∃ a u, (s.xs [(1, 0)]).reaches .load 4 ((s.xs [(1, 0)]).x 1 + (0 : BitVec 4).setWidth 64 * 4) 4 a u := by
  refine ⟨by decide +kernel, ?_, ?_, ?_, ?_⟩ <;> exact reaches_of (by decide +kernel) (by decide +kernel)

/-- StoreForms. -/
theorem wit_StoreForms :
    let s := base.xs [(1, 0x1000)]
    s.calm = true ∧ s.bufRoom 8 = true ∧ (∃ a u, s.reaches .store 8 (s.addr 1 0x3FF 3) 8 a u) ∧
    ∃ a u, s.reaches .store 8 (s.x 0 + (15 : BitVec 4).setWidth 64 * 8) 8 a u := by
  refine ⟨by decide +kernel, by decide +kernel, ?_, ?_⟩ <;> exact reaches_of (by decide +kernel) (by decide +kernel)

/-- MisalignedAccessTraps. -/
theorem wit_MisalignedAccessTraps :
    let s := base.xs [(1, 1)]
    s.loose = true ∧ (s.addr 1 0 3).toNat % 2 ^ 3 ≠ 0 ∧ (s.addr 1 0 1).toNat % 2 ^ 1 ≠ 0 := by decide +kernel

/-- A hart in S-mode. -/
def super : State := base.onMe fun h => { h with a := { h.a with mode := .s } }

/-- TrapEntryAndReturn, SystemTraps: TRET in S-mode. -/
theorem wit_TrapEntryAndReturn :
    super.loose = true ∧ super.fresh = true ∧ super.me.a.mode = .s ∧ super.me.trapAt = none := by decide +kernel

/-- OrderedAccesses: an acquiring load, and a releasing store. -/
theorem wit_OrderedAccesses :
    let s := base.xs [(1, 0x1000)]
    s.solo = true ∧ s.timed = false ∧
    (∃ a u, ((s.openChunk false).acquire s.cur .device).check (s.who s.cur) .load 8 0 (s.addr 1 0x3FF 3) 8 = .ok (a, u) ∧ a.hshared = false) ∧
    ∃ a u, s.reaches .store 4 (s.addr 1 0x3FF 2) 4 a u := by
  refine ⟨by decide +kernel, by decide +kernel, ?_, reaches_of (by decide +kernel) (by decide +kernel)⟩
  obtain ⟨⟨a, u⟩, h, p⟩ := of_okRes (r := (((base.xs [(1, 0x1000)]).openChunk false).acquire 0 .device).check
    ((base.xs [(1, 0x1000)]).who 0) .load 8 0 ((base.xs [(1, 0x1000)]).addr 1 0x3FF 3) 8) (p := fun r => !r.1.hshared) (by decide +kernel)
  exact ⟨a, u, h, by simpa using p⟩

/-- RoundedFloatForms: nothing traps, and 1 / 0 with DZ enabled does. -/
theorem wit_RoundedFloatForms :
    let s := base.fs [(1, 0x3FF0000000000000)]
    let t := s.csrs [(Csr.ftrapen, 0x3F)]
    let r := f64.divV (Rm.ofFrm 0) (t.drawn (Rm.ofFrm 0)).1 (f64.value (t.fIn f64 1)) (f64.value (t.fIn f64 2))
    s.calm = true ∧ (∀ fl, s.traps fl = false) ∧ t.loose = true ∧ t.traps r.2 = true ∧ scalarFmt 1 = f64 := by decide +kernel

/-- FloatComparisonsAndMoves, FloatConversions: no flag is enabled; each kind of control that a conversion has. -/
theorem wit_FloatConversions :
    base.calm = true ∧ base.loose = true ∧ (∀ fl, base.traps fl = false) ∧
    (27 : BitVec 5).toNat / 4 ≠ 7 ∧ (0 : BitVec 2).toNat ≠ (27 : BitVec 5).toNat % 4 ∧ (28 : BitVec 5).toNat / 4 = 7 ∧
    (3 : BitVec 2).toNat = (27 : BitVec 5).toNat % 4 := by decide +kernel

/-- Atomics: a word and a doubleword of the mapped page. -/
theorem wit_Atomics :
    let s := base.xs [(6, 0xFF8)]
    s.solo = true ∧ (∀ fl, s.traps fl = false) ∧ ∀ size : BitVec 1, ∃ a u, s.reachesRmw (amoBytes size) (s.x 6) (amoBytes size) a u := by
  refine ⟨by decide +kernel, by decide +kernel, fun size => ?_⟩
  have h : ∀ size : BitVec 1, okRes (((base.xs [(6, 0xFF8)]).openChunk true).checkBoth (amoBytes size) 0xFF8 (amoBytes size))
      (fun r => !r.1.host && okRes (r.2.checkRmw 0xFF8 (amoBytes size)) (fun _ => true)) = true := by decide +kernel
  obtain ⟨⟨a, u⟩, h, p⟩ := of_okRes (h size)
  simp only [Bool.and_eq_true, Bool.not_eq_true'] at p
  exact ⟨a, u, h, p.1, (of_okRes p.2).elim fun _ h => h.1⟩

/-- FencesOfMemoryAndCode: with nothing unacknowledged and no deferred error. -/
theorem wit_FencesOfMemoryAndCode : base.solo = true ∧ base.unacked base.cur 0xFFFF = false ∧ base.me.deferred = none := by decide +kernel

/-- MonitorAndWait: the line of a MON, a fired monitor, and none. -/
theorem wit_MonitorAndWait :
    let s := base.xs [(1, 0xFF8)]
    let t := s.onMe fun h => { h with monitor := some { line := 0x80000, fired := true } }
    s.solo = true ∧ (∃ a u, (s.openChunk true).check (s.who s.cur) .load 8 0 (s.x 1) 8 = .ok (a, u)) ∧
    s.me.pending = none ∧ s.me.monitor = none ∧ t.solo = true ∧ t.me.pending = none ∧ ∃ m, t.me.monitor = some m ∧ m.fired = true := by
  refine ⟨by decide +kernel, ?_, by decide +kernel, by decide +kernel, by decide +kernel, by decide +kernel, ⟨_, rfl, rfl⟩⟩
  obtain ⟨⟨a, u⟩, h, _⟩ := of_okRes (r := ((base.xs [(1, 0xFF8)]).openChunk true).check ((base.xs [(1, 0xFF8)]).who 0) .load 8 0 0xFF8 8)
    (p := fun _ => true) (by decide +kernel)
  exact ⟨a, u, h⟩

/-- A barrier object of level 1 for two harts, at address 0x40; bb7 bound to it. -/
def barrier : State :=
  ((base.xs [(1, 0x40)]).mems [(at_ 0x40, leBytes 8 2 ++ leBytes 8 0x100000000)]).onMyCore fun k =>
    { k with bb := [(7, { obj := at_ 0x40, va := 0x40, ctx := 0, harts := [0] })] }

/-- Barriers: BSET's object, ARRIVE's register, and a phase that has passed. -/
theorem wit_Barriers :
    let t := barrier.onMe fun h => { h with arrivals := [(7, 5)] }
    barrier.solo = true ∧
    okRes ((barrier.openChunk false).load 64 (barrier.x 1) 64) (fun r => !barrierBad r.1) = true ∧
    barrier.bbReg 7 = some { obj := at_ 0x40, va := 0x40, ctx := 0, harts := [0] } ∧
    t.solo = true ∧ mapFind? t.me.arrivals 7 = some 5 ∧ t.phaseAt t.cur (at_ 0x40) ≠ 5 := by decide +kernel

/-! Queues: a control block at address 0x400 with an array at 0x800. -/

/-- A sound control block at the location of 0x400: capacity 2, elements of n bytes, the given counters. -/
def block (n head tail : Nat) : Qcb :=
  let loc := at_ 0x400
  let c : Qcb := { ctr := tail * 2 ^ 32 + head, cfg := 2 ^ 48 + n * 2 ^ 32 + (2 - (tail - head)), base := 0x800, waiters := 0,
                   ident := (homeCode? loc).getD 0 * 2 ^ 32 + 2 ^ 16, enqs := 0, deqs := 0, check := 0 }
  { c with check := c.crc }
/-- The hart beside that queue, with x6 at the block, x7 at an element in memory and x5 = 2. -/
def queueWith (c : Qcb) : State := (base.xs [(5, 2), (6, 0x400), (7, 0xC00)]).mems [(at_ 0x400, c.bytes), (at_ 0x800, leBytes 8 0x1234)]
/-- The queue is reached where these checks of the state after translation hold. -/
def reachedQ (s : State) (va : Word) (p : Nat → State → Bool) : Bool :=
  okRes ((s.openChunk true).qAddr va) (fun r => p r.1 r.2) && s.me.handoff.isNone
/-- Whether an action at a queue answers at once, and not by a park. -/
def now (r : Except Exc (Option α)) : Bool := okRes r Option.isSome

/-- EnqueueForms: room and none, for ENQ, QGATH, ENQNB and ENQM. -/
theorem wit_EnqueueForms :
    let e := queueWith (block 8 0 0)
    let f := queueWith (block 8 0 2)
    e.solo = true ∧
    (reachedQ e 0x400 fun q u => okRes (u.enqElem (u.queueAt q).esize (some 0x1234) 0x1234) fun r =>
      decide (r.2.actor = u.actor) && r.2.queueOk q .enq && now ((r.2.qRelease q).enqAt u.actor q r.1) && now (r.2.enqAt u.actor q r.1) &&
        okRes (u.load 8 (e.x 7) (Nat.min (e.x 5).toNat 64 * (u.queueAt q).esize)) fun b =>
          okRes (b.2.2.enqMany u.actor q 8 2 b.1) fun k => decide (0 < k.1)) = true ∧
    (reachedQ f 0x400 fun q u => okRes (u.enqElem (u.queueAt q).esize (some 0x1234) 0x1234) fun r =>
      r.2.queueOk q .enq && !now ((r.2.qRelease q).enqAt u.actor q r.1) && !now (r.2.enqAt u.actor q r.1)) = true ∧
    (reachedQ e 0x400 fun q u => okRes (u.enqElem (u.queueAt q).esize none (e.x 7 + e.x 0 * 8)) fun r =>
      decide (r.2.actor = u.actor) && r.2.queueOk q .enq && now ((r.2.qRelease q).enqAt u.actor q r.1)) = true := by decide +kernel

/-- DequeueForms: an element and none, of 8 and of 16 bytes, for DEQ, BQ and DEQNB. -/
theorem wit_DequeueForms :
    let e := queueWith (block 8 0 0)
    let f := queueWith (block 8 0 1)
    let g := queueWith (block 16 0 1)
    e.solo = true ∧ e.gangCode = 0 ∧
    (reachedQ f 0x400 fun q u => decide ((u.queueAt q).esize = 8) && u.queueOk q .deq &&
      (okRes (u.deqAt u.actor q) fun r => match r with
        | some (e, t) => decide (e.length = 8) && (t.qAcquire q).me.handoff.isNone
        | none => false) &&
      okRes (u.deqDest (f.x 7) 8) fun r => decide (r.2.actor = u.actor) && r.2.queueOk q .deq &&
        okRes (r.2.deqAt u.actor q) fun p => match p with
          | some (e, t) => decide (e.length % 8 = 0) && okRes ((t.qAcquire q).deqDest (f.x 7) e.length) fun _ => true
          | none => false) = true ∧
    (reachedQ e 0x400 fun q u => u.queueOk q .deq && okRes (u.deqAt u.actor q) Option.isNone &&
      okRes (u.deqDest (e.x 7) 8) fun r => r.2.queueOk q .deq && okRes (r.2.deqAt u.actor q) Option.isNone) = true ∧
    (reachedQ g 0x400 fun q u => decide (8 < (u.queueAt q).esize) && okRes (u.deqDest (g.x 7) (u.queueAt q).esize) fun r =>
      decide (r.2.actor = u.actor) && r.2.queueOk q .deq && okRes (r.2.deqAt u.actor q) fun p => match p with
        | some (e, t) => decide (8 < e.length) && decide (e.length % 8 = 0) && (t.qAcquire q).me.handoff.isNone &&
            okRes ((t.qAcquire q).deqDest (g.x 7) e.length) fun _ => true
        | none => false) = true := by decide +kernel

/-- QueueStateAndRefusals: a sound block, an unsound one, one of a KIND that refuses harts, one with waiters, and results handed over. -/
theorem wit_QueueStateAndRefusals :
    let c := block 8 0 1
    let kinded : Qcb := let d : Qcb := { c with cfg := c.cfg + 3 * 2 ^ 57 }; { d with check := d.crc }
    let e := queueWith c
    let h : Handoff := { elem := leBytes 8 5, dest := [], qcb := at_ 0x400 }
    let p := e.onMe fun x => { x with handoff := some h }
    e.solo = true ∧ e.loose = true ∧
    (reachedQ e 0x400 fun q u => (u.queueAt q).sound q && decide ((u.queueAt q).owner = 0) &&
      !refusedByKind (u.queueAt q).kind .init && !u.qInvalid 0x400 q (u.queueAt q) && decide ((u.queueAt q).waiters = 0)) = true ∧
    (reachedQ (queueWith { c with waiters := 1 }) 0x400 fun q u => !u.qInvalid 0x400 q (u.queueAt q) && decide ((u.queueAt q).waiters ≠ 0)) = true ∧
    (reachedQ (queueWith { c with cfg := 0 }) 0x400 fun q u => u.qInvalid 0x400 q (u.queueAt q)) = true ∧
    (reachedQ (queueWith { c with check := 0 }) 0x400 fun q u => !(u.queueAt q).sound q && decide ((u.queueAt q).esize = 8)) = true ∧
    (reachedQ (queueWith kinded) 0x400 fun q u => (u.queueAt q).sound q && refusedByKind (u.queueAt q).kind .enq) = true ∧
    p.solo = true ∧ p.me.handoff = some h ∧ h.elem.length % 8 = 0 ∧ 0 < h.elem.length ∧
    ((p.openChunk true).qAcquire h.qcb).me.handoff = some h ∧ p.gangCode = 0 := by decide +kernel

/-! Route registers and remote operations: rt3 holds a token of context 0 with one hop, a window of 4096 bytes and all rights. -/

/-- A token of a class. -/
def token (cls : Nat) : Line :=
  BitVec.ofNat 512 (2 ^ 64 + cls * 2 ^ 180 + 0x10000 * 2 ^ 208 + (if cls = 2 then 8 else 0x1000) * 2 ^ 256 + 0x3F * 2 ^ 296 +
    2 ^ 332 + 0x1000 * 2 ^ 380 + 0x3F * 2 ^ 420)
/-- The hart with that token, x6 = 0xFF8, x8 = 0xFF0 and x9 = 7. -/
def routed (cls : Nat) : State :=
  (base.xs [(6, 0xFF8), (8, 0xFF0), (9, 7)]).onMe fun h => { h with a := { h.a with rt := [(3, token cls)] } }
/-- A packet of the hart whose answer has come back. -/
def backPacket (op : PktOp) (a : RemoteAnswer) : Packet :=
  { tag := 1, wire := 1, src := 0, hart := 0, route := 3, token := token 0, op := op, sctx := 0, off := 0, len := 8, payload := [], plain := [], reloc := 0,
    counter := 0, epoch := 0, gcmTag := 0, at_ := .back, grace := [], answer := some a, flags := 0, sentAt := 0, orphan := false }
/-- The hart whose waiting operation has been answered. -/
def answered (op : PktOp) (a : RemoteAnswer) : State := { routed 0 with packets := [backPacket op a] }

/-- RouteRegisters: 64 bytes read and stored, a token and an empty register narrowed, a set of one member. -/
theorem wit_RouteRegisters :
    let s := (routed 0).xs [(1, 0xFC0), (6, 0x800), (7, 0x0000010000001000), (8, 0x13)]
    s.calm = true ∧ s.loose = true ∧ s.bufRoom 64 = true ∧ (∃ a u, s.reaches .load 64 (s.x 1) 64 a u) ∧
    (∃ a u, s.reaches .store 64 (s.x 1) 64 a u) ∧ s.me.rt 3 ≠ 0 ∧ s.me.rt 4 = 0 ∧ (s.x 7).toNat < 2 ^ 48 ∧
    (s.x 8).toNat < 2 ^ 20 ∧ ((List.range 4).filter fun i => (s.x 8).getLsbD (5 * i + 4)) = [0] ∧
    tokShape s.me.ctx (s.me.rt 3) = true ∧ tokStripe (s.me.rt 3) ≠ 0 := by
  refine ⟨by decide +kernel, by decide +kernel, by decide +kernel, reaches_of (by decide +kernel) (by decide +kernel),
    reaches_of (by decide +kernel) (by decide +kernel), by decide +kernel⟩

/-- RemoteLoadsAndStores: the last doubleword of the window, and a reply. -/
theorem wit_RemoteLoadsAndStores :
    let b := (routed 0).openChunk true
    let r := answered (.load 8 5) (.bytes (leBytes 8 7))
    (routed 0).solo = true ∧ b.idle ∧ b.phaseBad = false ∧ b.checkRoute 3 [0, 1] .load 0xFF8 8 8 b.phaseBad = .ok () ∧
    b.checkRoute 3 [0, 1] .store 0xFF8 8 8 b.phaseBad = .ok () ∧ r.solo = true ∧
    (r.openChunk true).replied (backPacket (.load 8 5) (.bytes (leBytes 8 7))) (.bytes (leBytes 8 7)) := by
  refine ⟨by decide +kernel, by unfold State.idle; decide +kernel, by decide +kernel, ok_of (by decide +kernel), ok_of (by decide +kernel), by decide +kernel, ?_⟩
  unfold State.replied; decide +kernel

/-- RemoteEnqueuesAndAtomics: a queue of 8-byte elements, an atomic at the last doubleword, and replies. -/
theorem wit_RemoteEnqueuesAndAtomics :
    let b := (routed 2).openChunk true
    let m := (routed 0).openChunk true
    let q := answered (.enq 5) (.performed 1)
    let a := answered (.amo 0 8 5 0) (.performed 1)
    (routed 2).solo = true ∧ b.idle ∧ b.checkRoute 3 [2] .enqueue 0 0 1 b.phaseBad = .ok () ∧ tokWlen ((routed 2).me.rt 3) = 8 ∧
    0 < ((routed 2).x 9).toNat ∧ okRes (b.load 8 ((routed 2).x 6) (1 * 8)) (fun _ => true) = true ∧
    m.checkRoute 3 [0, 1] .atomic 0xFF0 8 8 m.phaseBad = .ok () ∧ q.solo = true ∧
    (q.openChunk true).replied (backPacket (.enq 5) (.performed 1)) (.performed 1) ∧ a.solo = true ∧
    (a.openChunk true).replied (backPacket (.amo 0 8 5 0) (.performed 1)) (.performed 1) := by
  refine ⟨by decide +kernel, by unfold State.idle; decide +kernel, ok_of (by decide +kernel), by decide +kernel, by decide +kernel, by decide +kernel, ok_of (by decide +kernel),
    by decide +kernel, ?_, by decide +kernel, ?_⟩ <;> (unfold State.replied; decide +kernel)

/-- RemoteFenceAndDelegation: acknowledged, unacknowledged, with a deferred error in and out of the mask; a delegation and its answer. -/
theorem wit_RemoteFenceAndDelegation :
    let s := (routed 0).xs [(1, 8)]
    let w : State := { s with packets := [{ backPacket .store (.performed 0) with at_ := .target, answer := none }] }
    let e := s.onMe fun h => { h with deferred := some { cause := Cause.routeWindow, rt := 3, off := 0 } }
    let b := s.openChunk true
    let r := answered (.delegate 4 1 false) (.bytes (leBytes 64 0))
    s.solo = true ∧ (s.x 1).toNat < 2 ^ 16 ∧ s.unacked s.cur 8 = false ∧ s.me.deferred = none ∧ w.solo = true ∧ w.unacked w.cur 8 = true ∧
    e.solo = true ∧ e.unacked e.cur 8 = false ∧ 8 / 2 ^ 3 % 2 = 1 ∧ 4 / 2 ^ 3 % 2 = 0 ∧
    b.idle ∧ tokShape s.me.ctx (s.me.rt 3) = true ∧ (tokEff (s.me.rt 3)).testBit 5 = true ∧ 8 / 2 ^ 14 % 4 = 0 ∧ r.solo = true ∧
    (r.openChunk true).replied (backPacket (.delegate 4 1 false) (.bytes (leBytes 64 0))) (.bytes (leBytes 64 0)) ∧
    (leBytes 64 0).length = 64 := by
  refine ⟨by decide +kernel, by decide +kernel, by decide +kernel, by decide +kernel, by decide +kernel, by decide +kernel,
    by decide +kernel, by decide +kernel, by decide, by decide, by unfold State.idle; decide +kernel, by decide +kernel, by decide +kernel,
    by decide, by decide +kernel, by unfold State.replied; decide +kernel, by decide +kernel⟩

/-- RouteChecksTrap: an empty register, a token without rights, and the first offset past the window. -/
theorem wit_RouteChecksTrap :
    let s := (routed 0).xs [(6, 0xFF9)]
    let bare := s.onMe fun h => { h with a := { h.a with rt := [(3, token 0 &&& ~~~BitVec.ofNat 512 (2 ^ 297))] } }
    s.loose = true ∧ tokShape s.me.ctx (s.me.rt 4) = false ∧ tokShape s.me.ctx (s.me.rt 3) = true ∧ tokClass (s.me.rt 3) = 0 ∧
    (tokEff (s.me.rt 3)).testBit 1 = true ∧ ¬ tokNoff (s.me.rt 3) + (s.x 6).toNat + 8 ≤
      min (tokWlen (s.me.rt 3)) (tokNoff (s.me.rt 3) + tokNlen (s.me.rt 3)) ∧
    bare.loose = true ∧ tokShape bare.me.ctx (bare.me.rt 3) = true ∧ (tokEff (bare.me.rt 3)).testBit 1 = false := by decide +kernel

/-! Streams, watermarks, tags and the L2. -/

/-- A binding of 4 doublewords at 0x800. -/
def binding (out : Bool) : Binding :=
  { hart := 0, esize := 8, outbound := out, base := 0x800, c0 := 4, c1 := 1, c2 := 1, s0 := 8, s1 := 0, s2 := 0, wm := none, rlt := 1,
    pieces := [(0x800, at_ 0x800, 32)], done := 1, taken := 0, seen := [] }
/-- Port 7 with that binding and elements in its buffer. -/
def streaming (out : Bool) (buf : List (BitVec 144)) : State :=
  base.onMyCore fun k => { k with streams := [(7, { active := some (binding out), rest := [], buf := buf })] }
/-- A descriptor of four doublewords at 0x800. -/
def bindable : State :=
  (base.xs [(1, 0x40)]).mems [(at_ 0x40, leBytes 8 0x800 ++ leBytes 8 8 ++ leBytes 8 0x100000004 ++ leBytes 8 1 ++ leBytes 8 8)]

/-- Streams: a valid descriptor at a free port; SSTOP of a free port, of a foreign one, and before and after its elements are written;
elements to pop and room to push. -/
theorem wit_Streams :
    let b := bindable.openChunk false
    let i := streaming false [5]
    let o := streaming true []
    let foreign := (streaming true []).onMyCore fun k =>
      { k with streams := [(7, { active := some { binding true with hart := 1 }, rest := [], buf := [] })] }
    bindable.solo = true ∧
    okRes (b.load 64 (bindable.x 1) 64) (fun r => match descriptor? r.1 0 with
      | some d => (r.2.2.stream 7).active.isNone && okRes (r.2.2.pieces (r.2.2.who 0) .load 0 (d.hull.2 / 4096 + 4) (BitVec.ofInt 64 d.hull.1)
          d.hull.2 []) fun p => okRes (p.2.registerRange true (BitVec.ofInt 64 d.hull.1).toNat
            ((BitVec.ofInt 64 d.hull.1).toNat + d.hull.2)) fun _ => true
      | none => false) = true ∧
    (b.stream 7).active = none ∧ (foreign.solo = true ∧ ((foreign.openChunk false).stream 7).active = some { binding true with hart := 1 }) ∧
    (i.solo = true ∧ i.calm = true ∧ (i.stream 7).active = some (binding false) ∧ (i.stream 7).taken + i.popsOf 7 < (i.stream 7).total ∧
      i.popsOf 7 < 64 ∧ (i.stream 7).buf[i.popsOf 7]? = some 5 ∧
      okRes ((i.openChunk false).checkData 0 0x800 ((List.range 8).map (at_ 0x800 + ·))) (fun _ => true) = true) ∧
    (o.calm = true ∧ ((o.openChunk false).stream 7).buf = [] ∧ (o.pushesOf 7).length < 64 ∧
      (o.stream 7).taken + (o.pushesOf 7).length < (binding true).total) ∧
    ((streaming true [5]).openChunk false).stream 7 = { active := some (binding true), rest := [], buf := [5] } := by decide +kernel

/-- A cell at 0x40 with the range [0x800, 0x900) and its mark at 0x880; wm15 bound to it. -/
def marked : State :=
  ((base.xs [(1, 0x40), (2, 0x880), (3, 0xFFFF)]).mems [(at_ 0x40, leBytes 8 0x800 ++ leBytes 8 0x900 ++ leBytes 8 0x880)]).onMyCore fun k =>
    { k with wm := [(15, { cell := at_ 0x40, va := 0x40, lo := 0x800, hi := 0x900, mark := 0x880, ctx := 0 })] }

/-- Watermarks: a sound cell, a bound register, a threshold that the mark covers and one above HI that it does not. -/
theorem wit_Watermarks :
    let o := marked.openChunk false
    let r : WmReg := { cell := at_ 0x40, va := 0x40, lo := 0x800, hi := 0x900, mark := 0x880, ctx := 0 }
    marked.solo = true ∧ marked.calm = true ∧ mapFind? marked.myCore.wm 15 = some r ∧
    okRes (o.check (marked.who marked.cur) .load 32 0 (marked.x 1) 32) (fun p =>
      let b := (p.2.oldBytes p.1.locs).1
      decide (leNat (b.take 8) ≤ leNat ((b.drop 16).take 8)) && decide (leNat ((b.drop 16).take 8) ≤ leNat ((b.drop 8).take 8)) &&
        decide (leNat (b.drop 24) = 0)) = true ∧
    okRes ((marked.openChunk true).checkBoth 32 (marked.x 1) 32) (fun p => okRes (p.2.checkRmw (marked.x 1) 32) fun _ => true) = true ∧
    min (marked.x 2).toNat r.hi.toNat ≤ r.mark.toNat ∧ ¬ min (marked.x 3).toNat r.hi.toNat ≤ r.mark.toNat := by decide +kernel

/-- TagTable: a granule with an entry, one without, and a segment that holds the slot. -/
theorem wit_TagTable :
    let s := (base.xs [(1, 0x1800), (2, 0x800)]).onMyCore fun k =>
      { k with tags := [(3, 0x1000)], seg := [(0, { base := 0, size := 0x2000, grantBase := 0, grantSize := 0x2000 })] }
    s.calm = true ∧ mapFind? s.tagView (s.tagKey (s.x 1)) = some 0x1000 ∧ mapFind? s.tagView (s.tagKey (s.x 2)) = none ∧
    (s.x 2).toNat % 2048 = 0 ∧ (s.x 2).toNat < (s.myCore.segOf s.me.ctx).size ∧
    ¬ 256 ≤ (s.tagView.filter fun e => decide (e.1 / 2 ^ 53 = s.me.ctx)).length := by decide +kernel

/-- CacheControls: a free ARR with room and a range within its page, each refusal of L2PIN, and an ARR to unpin. -/
theorem wit_CacheControls :
    let good : Word := BitVec.ofNat 64 (1 * 2 ^ 60 + 12 * 2 ^ 48 + 0x1000)
    let s := base.xs [(2, good), (3, good + 1), (4, BitVec.ofNat 64 (1 * 2 ^ 60 + 13 * 2 ^ 48 + 64))]
    let p := s.onCluster 0 fun q => { q with arr := [(1, { ctx := 0, lo := at_ 0, hi := at_ 64, ways := [0], hits := 3, misses := 4 })] }
    s.solo = true ∧ s.calm = true ∧
    okRes ((s.openChunk false).check14 (s.who s.cur) .load 1 0 (s.x 1) 1) (fun r => decide (r.1.size = 4096)) = true ∧
    ([good, good + 1, s.x 4].all fun w => decide (bits w 63 62 = 0) && decide (bits w 59 52 = 0) && decide (bits w 47 40 = 0)) = true ∧
    mapFind? (s.cluster 0).arr 1 = none ∧ bits (s.x 4) 51 48 = 13 ∧ bits good 39 0 = 4096 ∧ bits (good + 1) 39 0 = 4097 ∧
    p.solo = true ∧ mapFind? (p.cluster 0).arr 1 = some { ctx := 0, lo := at_ 0, hi := at_ 64, ways := [0], hits := 3, misses := 4 } := by decide +kernel

/-! Timed instructions, special registers, and the instructions of harts. -/

/-- Phases: a change that is held, a reserved bit, a timed value without a domain; a held change that agrees with the leader's, and one
that does not. -/
theorem wit_Phases :
    let t := base.csrs [(Csr.phase, 0x0000000000000500)]
    let dom := base.csrs [(Csr.dom, 0x8000000000000000), (Csr.slotcnt, 1)]
    let h := base.onMe fun h => { h with a := { h.a with heldPhase := some 0x112 } }
    base.calm = true ∧ base.loose = true ∧ t.calm = true ∧ (0x500 : Word) &&& 0xFFFFFF000000008D#64 = 0 ∧
    (0x80 : Word) &&& 0xFFFFFF000000008D#64 ≠ 0 ∧ (0x102 : Word).getLsbD 1 = true ∧ (base.csr Csr.dom).getLsbD 63 = false ∧
    (dom.csr Csr.dom).getLsbD 63 = true ∧ bits 0x102 39 8 ≠ 0 ∧ dom.csr Csr.slotcnt ≠ 0 ∧
    mapWf 0 h.me.a.csr = true ∧ (0x112 : Word) &&& ~~~phaseMask = 0 ∧ heldFor 1 h.me.a.heldPhase ≠ heldFor 1 h.me.leadHeld ∧
    heldFor 0 h.me.a.heldPhase = heldFor 0 h.me.leadHeld := by decide +kernel

/-- A domain of the harts' two cores over the barrier of bb7. -/
def domained : State := barrier.csrs [(Csr.dom + 1, 0x8007000010010003)]

/-- Domains: a membership that the barrier fits; a DSYNC that arrives first, and one whose phase has passed. -/
theorem wit_Domains :
    let s := barrier.xs [(6, 0x10010003)]
    let w := domained.onMe fun h => { h with dsync := some 0, arrivals := [(7, 5)] }
    s.calm = true ∧ (s.openChunk false).domBad 1 (s.x 6) 7 = false ∧
    domained.solo = true ∧ (domained.csr (Csr.dom + 1)).getLsbD 63 = true ∧ bits (domained.csr (Csr.dom + 1)) 50 48 = 7 ∧
    mapFind? domained.myCore.bb 7 = some { obj := at_ 0x40, va := 0x40, ctx := 0, harts := [0] } ∧ domained.me.a.lock = false ∧ domained.me.dsync ≠ some domained.pc ∧
    w.solo = true ∧ w.me.dsync = some w.pc ∧ w.phaseAt w.cur (at_ 0x40) ≠ mapGet 0 w.me.arrivals 7 ∧
    okRes (w.syncDone 1) (fun _ => true) = true := by decide +kernel

/-- A timed communication phase of level 1, with one slot for rt3 at 0x800, open for 16 cycles from its start. -/
def slotted : State :=
  (((routed 0).xs [(1, 0x800), (2, 0x0000000800000FF8), (3, 5)]).csrs [(Csr.phase, 0x113), (Csr.slotbase, 0x800), (Csr.slotcnt, 1)]).mems
    [(at_ 0x800, leBytes 8 0x0013001000000000)]

/-- TimedCommunication: the longest send that the window holds outside a timed phase, TRECV below and at its threshold, a slot that is open and
one that is past. -/
theorem wit_TimedCommunication :
    let s := slotted.csrs []
    let b := s.openChunk true
    s.solo = true ∧ bits (s.x 2) 63 32 = 8 ∧ s.timed = false ∧
    okRes (b.check (s.who s.cur) .load 8 0 (s.x 1) 8) (fun r => okRes (r.2.checkRoute 3 [0, 1] .store 0xFF8 8 8 b.tsendBad) (fun _ => true) &&
      okRes (r.2.load 8 (s.x 1) 8) fun _ => true) = true ∧
    b.myCore.freeRlt ≠ none ∧ b.myCore.sourceWaits s.me.ctx (s.x 1).toNat 8 = false ∧
    s.timedComm = false ∧ slotted.solo = true ∧ slotted.timedComm = true ∧ slotted.me.recvBytes < (slotted.x 3).toNat ∧
    okRes (slotted.load 8 (slotted.csr Csr.slotbase) 8) (fun r => decide (fromBytes false 8 r.1 = 0x0013001000000000) &&
      decide (r.2.2.cycle = slotted.cycle)) = true ∧ slotted.cycle - slotted.me.releaseT < 16 := by decide +kernel

/-- CsrAccess: a read of CYCLE, one of FRM, writes; and each refusal of the map. -/
theorem wit_CsrAccess :
    base.calm = true ∧ base.loose = true ∧ base.csrRefused Csr.cycle false = false ∧ base.me.afterSync = none ∧ base.csrRefused Csr.frm false = false ∧
    base.csrRefused Csr.frm true = false ∧ csrAccess? 0xFFF = none ∧ csrAccess? Csr.tvec = some .rwS ∧ base.me.a.mode = .t ∧
    csrOfVf Csr.vtype = true ∧ base.owns = false ∧ csrAccess? Csr.cycle = some .ro ∧ csrAccess? Csr.ctxid = some .ro := by decide +kernel

/-- A hart that owns its core's vector file, at an address 4 beyond a multiple of 8. -/
def owner : State :=
  (base.onMyCore fun k => { k with owner := some 0, vf := { k.vf with vtype := 0x8000000000000000 } }).onMe fun h =>
    { h with a := { h.a with pc := 4 } }

/-- CsrWriteRules. -/
theorem wit_CsrWriteRules :
    base.csrRefused Csr.frm true = false ∧
    (owner.onMe fun h => { h with a := { h.a with mode := .s } }).csrRefused Csr.vdirty true = false ∧ super.csrRefused Csr.lspseg true = false ∧
    super.csrRefused Csr.lspbase true = false ∧ base.csrRefused Csr.rsetstat true = false ∧ super.csrRefused Csr.rfinj true = false ∧
    base.csrRefused Csr.ftrapen true = false ∧ csrOwnRow Csr.ftrapen = false := by decide +kernel

/-- Two harts of one gang; the second parked in GANG. -/
def ganged : State :=
  let h := { base.me with gang := [0, 1] }
  { base with harts := [(0, h), (1, { h with status := .parked .gang })] }
/-- Two harts of one pair, the second with this status. -/
def paired (st : Status) : State :=
  let h := { base.me with inst := some 9, a := { base.me.a with csr := [(Csr.pairrole, 1)], x := [(1, 0x77)] } }
  let i : Instance :=
    { launch := 5, idx := 0, harts := [[0, 1]], live := [0, 1], flags := 0, level := 0, startedAt := 0, swappedAt := none, counted := false, unpaired := [] }
  let l : Launch :=
    { ctx := 0, queue := 0, entry := 0, args := 0, count := 1, shape := 0, doneVa := 0, wmVa := 0, wmCell := none, wmThr := 0, cqVa := 0,
      slotVa := 0, readyAt := some 0, next := 1 }
  { base with harts := [(0, h), (1, { h with status := st })], instances := [(9, i)], launches := [(5, l)] }

/-- GangsAndPairs: SPLIT in lockstep; GANG as the last to come, as one of the first, and handed its turn; PAIR with a partner that waits, one
that does not, and handed a value. -/
theorem wit_GangsAndPairs :
    let l := ganged.onMe fun h => { h with a := { h.a with lock := true } }
    let first : State := { ganged with harts := [(0, { base.me with gang := [0, 1] })] }
    let told := ganged.onMe fun h => { h with handoff := some { elem := leBytes 16 4, dest := [], qcb := 0 } }
    let w := paired (.parked (.pair 3 0x55))
    let r := paired .running
    let gone : State := { r with instances := r.instances.map fun e => (e.1, { e.2 with live := [0], unpaired := [1] }) }
    let v := r.onMe fun h => { h with handoff := some { elem := leBytes 8 4, dest := [], qcb := 0 } }
    l.solo = true ∧ l.me.a.lock = true ∧ 2 ≤ l.me.gang.length ∧
    (ganged.solo = true ∧ ganged.me.a.lock = false ∧ ganged.me.handoff = none ∧ ganged.mates = [1] ∧
      (ganged.hart 1).status = .parked .gang ∧ (ganged.hart 1).a.pc = ganged.pc) ∧
    (first.solo = true ∧ first.mates = [1] ∧ (first.hart 1).status ≠ .parked .gang) ∧
    (told.solo = true ∧ told.me.handoff = some { elem := leBytes 16 4, dest := [], qcb := 0 } ∧ (leBytes 16 4).length = 16) ∧
    (base.loose = true ∧ base.me.gang.length < 2) ∧
    (w.solo = true ∧ w.calm = true ∧ w.me.handoff = none ∧ w.csr Csr.pairrole ≠ 0 ∧ w.partner = some 1 ∧ (w.hart 1).csr Csr.pairrole ≠ 0 ∧
      (w.hart 1).status = .parked (.pair 3 0x55)) ∧
    (r.solo = true ∧ r.calm = true ∧ r.partner = some 1 ∧ (r.hart 1).status = .running ∧ (r.hart 1).csr Csr.pairrole ≠ 0) ∧
    (gone.solo = true ∧ gone.loose = true ∧ gone.me.handoff = none ∧ gone.csr Csr.pairrole ≠ 0 ∧ gone.partner = none ∧ gone.unpairedAway = true) ∧
    v.solo = true ∧ v.me.handoff = some { elem := leBytes 8 4, dest := [], qcb := 0 } := by decide +kernel

/-- VectorOwnership: a free file, one that is taken, and the owner's. -/
theorem wit_VectorOwnership :
    let taken := base.onMyCore fun k => { k with owner := some 1 }
    base.solo = true ∧ base.owns = false ∧ base.myCore.owner = none ∧ base.myCore.vacqWait = [] ∧
    taken.solo = true ∧ taken.owns = false ∧ taken.myCore.owner ≠ none ∧
    owner.solo = true ∧ owner.loose = true ∧ owner.owns = true ∧ owner.myCore.copies = [] ∧ owner.myCore.fills = [] ∧ owner.myCore.bankLoads = false := by decide +kernel

/-- EndsAndHalts: a hart without an instance, one that is not the last of its instance, one that is; with and without the file. -/
theorem wit_EndsAndHalts :
    let v (s : State) : State := ((if s.owns then (s.openChunk true).giveUpVf else s.openChunk true).release s.cur .device)
    let r := paired .running
    let alone : State := { r with instances := r.instances.map fun e => (e.1, { e.2 with live := [0] }) }
    let sent : State := { base with packets := [{ backPacket (.load 8 5) (.performed 1) with op := .store, at_ := .target, answer := none }] }
    base.solo = true ∧ sent.solo = true ∧ (sent.openChunk true).unacked 0 0xFFFF = true ∧ owner.myCore.bankLoads = false ∧
    (base.openChunk true).unacked 0 0xFFFF = false ∧ (base.openChunk true).me.deferred = none ∧
    (v base).me.group = none ∧ (v base).myInstance = none ∧ owner.owns = true ∧ (v owner).me.group = none ∧ (v owner).myInstance = none ∧
    r.solo = true ∧ ((v r).myInstance.any fun i => !(v r).lastToEnd i.2) = true ∧
    alone.solo = true ∧ ((v alone).myInstance.any fun i => (v alone).lastToEnd i.2 &&
      ((mapFind? (v alone).launches i.2.launch).any fun l => okRes ((v alone).complete i.1 i.2 l) fun _ => true)) = true ∧
    base.me.noticeUntil = none ∧ super.loose = true ∧ super.me.a.mode = .s ∧ base.loose = true ∧ base.me.a.mode = .t := by decide +kernel

/-! Vectors: V8 holds 1, 2, 3, …, V9 holds 10, 20, …, m1 selects the even elements. -/

/-- A vector word without modifiers, scalar or mask. -/
def word (vd vs1 vs2 vs3 : Reg) (imm : BitVec 14) : VWord :=
  { imm := imm, scal := 0, satf := 0, rnd := 0, k := 0, mod2 := 0, mod1 := 0, men := 0, msk := 0, vs3 := vs3, vs2 := vs2, vs1 := vs1, vd := vd }
/-- Four elements of n bytes. -/
def quad (n a : Nat) : VReg := BitVec.ofNat 2048 (leNat ((List.range 4).flatMap fun i => leBytes n (a * (i + 1))))
/-- The owner under a VTYPE with VL = vl; x3 = 0x800. -/
def vec (vtype vl : Word) (n : Nat) : State :=
  ((owner.xs [(3, 0x800), (4, 3)]).onVf fun f =>
    { f with vtype := vtype, vl := vl, v := [(8, quad n 1), (9, quad n 10)], m := [(1, 5)], vdirty := 0x300 })
/-- Signed integers of 32 bits, and signed integers of 8. -/
def ints : State := vec 0x4 4 4
def bytes8 : State := vec 0x2 16 1

/-- VectorLengths: a strip, and the strip at which to break. -/
theorem wit_VectorLengths :
    let s := owner.xs [(11, 0xFFFFFFFFFFFFFFFF)]
    let b := s.csrs [(Csr.brkpc, 4), (Csr.brkord, 1)]
    s.owns = true ∧ s.calm = true ∧ s.csr Csr.brkpc = 0 ∧ b.owns = true ∧ b.loose = true ∧ b.csr Csr.brkpc ≠ 0 ∧ b.csr Csr.brkpc = b.pc ∧
    b.csr Csr.brkord = b.csr Csr.stripord + 1 := by decide +kernel

/-- VectorScalarReads: the last element and one past it, under an integer and a shared-exponent type; a mask with elements set and one
without; no vector file. -/
theorem wit_VectorScalarReads :
    let x := vec 0x36 16 4
    let set (r : Nat) := (List.range (ints.vl - ints.vpad)).filter fun i => (ints.vf.mreg r).getLsbD i
    ints.calm = true ∧ ints.owns = true ∧ ints.vectorIdle = true ∧ ints.vt.ill = false ∧ ints.vl = 4 ∧ (ints.x 4).toNat < ints.vl ∧
    ints.vl ≤ (ints.x 3).toNat ∧ ints.vt.isSx = false ∧ (x.calm = true ∧ x.vectorIdle = true ∧ x.vt.ill = false ∧ x.vt.isSx = true ∧
      (x.x 4).toNat < x.vl) ∧ set 1 = [0, 2] ∧ set 0 = [] ∧ base.loose = true ∧ base.owns = false := by decide +kernel

/-- VectorElementForms: an addition, one under a mask, a multiplication by a scalar, a square root, an exponential. -/
theorem wit_VectorElementForms :
    let f := vec 0x14 4 4
    let masked : VWord := { word 10 8 9 0 0 with men := 1, msk := 1 }
    let scaled : VWord := { word 10 8 0 4 0 with scal := 1 }
    ints.solo = true ∧ ints.unstopped = true ∧ elementwise .vadd = true ∧ ints.vectorReady .vadd (word 10 8 9 0 0) = true ∧
    ints.vectorReady .vadd masked = true ∧ ints.vectorReady .vmul scaled = true ∧ f.solo = true ∧ f.unstopped = true ∧
    elementwise .vfsqrt = true ∧ f.vectorReady .vfsqrt (word 10 8 0 0 0) = true ∧ elementwise .vexp2 = true ∧
    f.vectorReady .vexp2 (word 10 8 0 0 0) = true := by decide +kernel

/-- ConvoyForms: two additions; a header at an address that is a multiple of 8; a member whose modifier code is none. -/
theorem wit_ConvoyForms :
    let a := (memberOf .vadd (word 10 8 9 0 0)).word
    let b := (memberOf .vsub (word 11 8 9 0 0)).word
    let bad := (memberOf .vsub { word 11 8 9 0 0 with mod1 := 12 }).word
    let found (ws : List Word) := ws.zipIdx.map fun (e : Word × Nat) => Member.ofWord e.1 (headerUnit 0x1FF e.2)
    found [a, b] = [some (memberOf .vadd (word 10 8 9 0 0)), some (memberOf .vsub (word 11 8 9 0 0))] ∧
    elementwise .vsub = true ∧ ints.solo = true ∧ ints.loose = true ∧ ints.owns = true ∧ ints.vectorIdle = true ∧ ints.unstopped = true ∧
    headerOk 0x1FF 2 ints.pc = true ∧ failing ints.vt 0 false (found [a, b]) = none ∧ headerOk 0x1FF 2 0 = false ∧
    failing ints.vt 0 false (found [a, bad]) = some 1 := by decide +kernel

/-- VectorIntegerElements. -/
theorem wit_VectorIntegerElements :
    ints.calm = true ∧ ints.me.chunk = none ∧ ints.vectorReady .vadd (word 10 8 9 0 0) = true ∧ ints.unstopped = true ∧ ints.vt.isSx = false ∧
    ints.vf.vstart = 0 ∧ ints.vl ≤ ints.vt.vlmax ∧ mapWf 0 ints.vf.v = true ∧ (vecInt .vadd).isSome = true := by decide +kernel

/-- VectorWholeForms: a mask scan, a slide by the group and a reduction. -/
theorem wit_VectorWholeForms :
    ints.solo = true ∧ ints.calm = true ∧ ints.me.chunk = none ∧ ints.unstopped = true ∧ Vop.isWhole .vmsbf = true ∧
    ints.vectorReady .vmsbf (word 2 1 0 0 0) = true ∧ Vop.isWhole .vredSum = true ∧ ints.vectorReady .vredSum (word 10 8 9 0 0) = true ∧
    ints.vectorReady .vslideup (word 10 8 0 0 4) = true ∧ ints.vectorReady .vslidedn { word 10 8 0 4 0 with scal := 1 } = true ∧
    ints.vectorReady .vperm (word 10 8 9 0 0) = true ∧ ints.vl ≤ ints.vt.vlmax ∧ mapWf 0 ints.vf.v = true := by decide +kernel

/-- VectorMemoryForms: a load and a store of four words, a linked gather and a conditional scatter, and a scatter-add that has finished. -/
theorem wit_VectorMemoryForms :
    let walks (op : Vop) (w : VWord) : Bool :=
      let b := ints.openChunk false
      ((memberOf op w).walks (b.convoy (headerOf op) [memberOf op w]) ((b.convoy (headerOf op) [memberOf op w]).elems 0)
        (b.noting [memberOf op w])).isSome
    let linked := ints.onMe fun h => { h with links := [at_ 0x800 / 64] }
    let z := (ints.onVf fun f => { f with vl := 0 }).onMe fun h => { h with scatter := some (0, [(1, 2)]) }
    ints.solo = true ∧ ints.unstopped = true ∧ ints.me.a.doneMask = 0 ∧ ints.me.a.doneField = 0 ∧ ints.vectorReady .vle (word 10 0 0 3 0) = true ∧
    walks .vle (word 10 0 0 3 0) = true ∧ ints.vectorReady .vse (word 8 0 0 3 0) = true ∧ walks .vse (word 8 0 0 3 0) = true ∧
    (let b := ints.openChunk false
     let m := memberOf .vlgl (word 10 0 7 3 2)
     ints.vectorReady .vlgl (word 10 0 7 3 2) = true ∧
     okRes (m.gatherLinked (b.convoy (headerOf .vlgl) [m]) 4 0 ((b.noting [m]).onMe fun x => { x with links := [] })) (fun _ => true) = true) ∧
    (let b := linked.openChunk true
     let m := memberOf .vssc (word 8 2 7 3 2)
     linked.solo = true ∧ linked.unstopped = true ∧ linked.vectorReady .vssc (word 8 2 7 3 2) = true ∧
     okRes (m.scCandidates (b.convoy (headerOf .vssc) [m]) 4 0 (b.noting [m])) (fun r => decide (r.1.length = 1) &&
       !meets (linesOf ((r.1.filter fun e => decide (lineOf (e.2.headD 0) ∈ r.2.me.links)).flatMap fun e => e.2))
         (r.2.heldLines (clusterOf r.2.cur) (some r.2.cur))) = true) ∧
    (let b := z.openChunk true
     let m := memberOf .vsxadd (word 8 0 7 3 2)
     z.solo = true ∧ z.unstopped = true ∧ z.vectorReady .vsxadd (word 8 0 7 3 2) = true ∧
     (b.convoy (headerOf .vsxadd) [m]).elems ((b.convoy (headerOf .vsxadd) [m]).doneBits b) = [] ∧ (z.me.scatter.getD (0, [])).1 = 0) := by
  decide +kernel

/-- A loaded tile in bank 0: one column of 16 signed bytes. -/
def tiled : State :=
  (bytes8.xs [(3, 0x800), (4, 1), (5, 0x10010), (6, 16)]).onMyCore fun k =>
    { k with brec := [(0, mkRec 0x800 16 16 1 2 0 0 0 ||| (1#256) <<< 183)], cim := (List.range 16).map fun i => (i, BitVec.ofNat 8 (i + 1)) }

/-- MatrixForms: each of the register operations, a tile to load, a product with a loaded tile and an extraction. -/
theorem wit_MatrixForms :
    let b := tiled.openChunk false
    let l := memberOf .mbld (word 1 5 6 3 2)
    let m := memberOf .mma (word 0 8 0 4 0)
    tiled.solo = true ∧ tiled.unstopped = true ∧ tiled.vectorReady .mbinv (word 0 0 0 0 0) = true ∧
    tiled.vectorReady .mzero (word 1 0 0 0 0) = true ∧ tiled.vectorReady .mscl (word 7 0 0 3 0) = true ∧
    tiled.vectorReady .mcens (word 8 0 0 0 1) = true ∧ tiled.vectorReady .mbld (word 1 5 6 3 2) = true ∧
    tileOk (typeOfCode 2) (tiled.x 5) (tiled.x 3) (tiled.x 6) 1 = true ∧
    okRes ((b.noting [l]).tileLocs (tiled.x 3) (tiled.x 6) 16 1 0 []) (fun r =>
      decide (r.1.flatMap (·.locs) = (List.range 16).map (at_ 0x800 + ·)) && r.2.myCore.freeRlt.isSome) = true ∧
    tiled.vectorReady .mma (word 0 8 0 4 0) = true ∧
    okRes (m.mmaRec (b.convoy (headerOf .mma) [m]) b) (fun t => recLoaded t && decide (recN t ≤ 384)) = true ∧
    tiled.vt.isInt = true ∧ tiled.vf.vstart = 0 ∧ mapWf 0 tiled.vf.acc = true ∧
    (ints.vectorReady .mxtr (word 10 0 0 0 0) = true ∧ ints.vl ≤ 384 ∧ (ints.x 0).toNat = bits (ints.x 0) 3 0 + bits (ints.x 0) 24 16 * 65536) := by
  decide +kernel

/-- The hart with a token of this class in rt3, and rset1 over it. -/
def sender (cls : Nat) : State :=
  (ints.xs [(3, 0x800), (6, 0x400)]).onMe fun h =>
    { h with a := { h.a with rt := [(3, token cls)], rsets := [(1, { members := [3], failed := [] })] } }

/-- VectorSendForms: copies in and out, an armed receive and a send to it, a reduction, a load, a striped send, and an enqueue. -/
theorem wit_VectorSendForms :
    let m (s : State) (op : Vop) (w : VWord) : State := (s.openChunk true).noting [memberOf op w]
    let q := (sender 0).mems [(at_ 0x400, (block 8 0 0).bytes)]
    let s := sender 0
    s.solo = true ∧ s.vectorReady .cpv (word 10 0 0 3 0) = true ∧ s.vectorReady .cpvs (word 8 0 0 3 0) = true ∧
    okRes ((s.openChunk false).check14 (s.who s.cur) .load 8 0 (s.x 3) 256) (fun r =>
      decide (r.2.myCore.rltHit 0 false 0x800 0x900 = none) && okRes (r.2.registerRange true 0x800 0x900) fun _ => true) = true ∧
    okRes ((s.openChunk false).check14 (s.who s.cur) .store 8 0 (s.x 3) 256) (fun r => okRes (r.2.registerRange false 0x800 0x900) fun _ => true) = true ∧
    s.vectorReady .cprrArm (word 10 0 0 0 4) = true ∧ (sender 6).solo = true ∧ (sender 6).vectorReady .cprrSend (word 8 3 0 3 0) = true ∧
    okRes ((m (sender 6) .cprrSend (word 8 3 0 3 0)).checkSend 3 [6] .store 0x800 256 256) (fun _ => true) = true ∧
    (sender 3).vectorReady .vrredAdd (word 8 3 0 3 0) = true ∧
    okRes ((m (sender 3) .vrredAdd (word 8 3 0 3 0)).checkSend 3 [3] .reduce 0x800 16 8) (fun _ => true) = true ∧
    s.vectorReady .vrld (word 10 3 0 3 0) = true ∧
    okRes ((m s .vrld (word 10 3 0 3 0)).checkSend 3 [0, 1] .load 0x800 256 8) (fun _ => true) = true ∧
    s.vectorReady .vrsend (word 8 1 0 3 0) = true ∧ mapFind? s.me.a.rsets 1 = some { members := [3], failed := [] } ∧
    okRes ((m s .vrsend (word 8 1 0 3 0)).checkSend 3 [0, 1] .store 0x800 16 8) (fun _ => true) = true ∧
    (m q .venq (word 8 0 0 6 0)).phaseBad = false ∧ q.solo = true ∧ q.vectorReady .venq (word 8 0 0 6 0) = true ∧
    okRes ((m q .venq (word 8 0 0 6 0)).qAddr (q.x 6)) (fun r => r.2.queueOk r.1 .enq &&
      okRes (r.2.enqMany r.2.actor r.1 8 2 (leBytes 16 7)) fun k => decide (k.1 = 2)) = true := by decide +kernel

/-! Chunks, engines, the fabric and management. A module that has come up, at TIME 3 s. -/

/-- The base hart's module after a boot, with context 0's key slot 1 LIVE. -/
def up : State :=
  { base with cycle := 5700000000, dev := { base.dev with booted := true, portsOpen := true } }
/-- The base hart with a chunk of one instruction that read line 7, and another change of it. -/
def chunked (f : Chunk → Chunk) : State := ((base.openChunk false).onMe fun x => { x with chunk := x.chunk.map (fun c => f { c with count := 1, reads := [7] }) })

/-- ChunkEnds: a chunk whose line was changed, one that is not, a checkpoint with the vector file, a trap at a handler's first instruction. -/
theorem wit_ChunkEnds :
    let a := chunked id
    let b := chunked fun c => { c with ext := [7] }
    let v := (chunked fun c => { c with snap := { c.snap with vf := some VecFile.init } }).onMyCore fun k => { k with owner := some 0 }
    let d := base.onMe fun x => { x with atVec := true }
    (∀ s ∈ [a, b], (s.hart 0).chunk.isSome ∧ ((s.hart 0).chunk.all fun c => !c.blank && !s.heldByGrant 0 c) = true ∧ (s.hart 0).group = none ∧
      s.dev.testMode = false ∧ mapWf 0 (s.hart 0).a.csr = true) ∧
    ((b.hart 0).chunk.all fun c => !c.own && decide (7 ∈ c.reads ++ c.writes) && decide (7 ∈ c.ext)) = true ∧
    (b.cluster (clusterOf 0)).grant ≠ some 0 ∧ ((a.hart 0).chunk.all fun c => c.ext.isEmpty && !c.doomed) = true ∧
    ((v.hart 0).chunk.bind fun c => c.snap.vf) = some VecFile.init ∧ (v.core (coreOf 0)).owner = some 0 ∧
    d.me.atVec = true ∧ d.me.chunk = none ∧ mapWf 0 d.me.a.csr = true := by decide +kernel

/-- A copy of one register between V1 and 0x800, whose first group has moved. -/
def copying (store : Bool) : State :=
  let c : Copy :=
    { idx := 2, hart := 0, store := store, vd := 1, regs := 1, ea := 0x800, locs := (List.range 32).map fun i => at_ 0x800 + 8 * i,
      done := 1, rlt := 1, wm := none, seen := [], efs := [] }
  base.onMyCore fun k => { k with owner := some 0, copies := [c] }
/-- A launch of one instance. -/
def launch : Launch :=
  { ctx := 0, queue := 0, entry := 0, args := 0, count := 1, shape := 0x10, doneVa := 0, wmVa := 0x40, wmCell := some (at_ 0x40), wmThr := 0x880,
    cqVa := 0, slotVa := 0, readyAt := none, next := 0 }
/-- One addition of a VSXADD on its way, an advance at the cell of 0x40 and its notice. -/
def advancing : State :=
  { marked with
    advances := [{ cell := at_ 0x40, lo := 0x880, hi := 0x8C0 }], notify := [(0, 15, 0x880), (1029, 0, 0x880)], launches := [(5, launch)],
    scatter := [{ hart := 0, elem := 0, loc := at_ 0x800, mark := 1, ty := 4, rm := 0, q := 0, v := 1, host := false }] }

/-- EngineEvents. -/
theorem wit_EngineEvents :
    let w := (chunked id).onMe fun x => { x with status := .arbiter }
    let l := base.onMyCore fun k => { k with loads := [(3, { hart := 0, locs := span (at_ 0x800) 64, efs := [], failed := none })] }
    let b : State := { base with bad := [(9, true)] }
    ((w.hart 0).chunk.all fun c => !w.heldByGrant 0 c) = true ∧ (w.hart 0).chunk.isSome ∧ (w.hart 0).status = .arbiter ∧ (w.hart 0).sent = none ∧
    ((chunked id).hart 0).status = .running ∧ (((chunked id).hart 0).chunk.all fun c => !c.own) = true ∧ ((chunked id).hart 0).group = none ∧
    mapFind? base.bad 9 = none ∧ mapFind? b.bad 9 ≠ none ∧ 9 ∉ b.badHard ∧
    ((mapFind? (l.core 0).loads 3).all fun q => q.failed.isNone && !l.refetching q.locs && (l.hardAt q.locs).isNone &&
      !l.engineLate 0 q.locs && ((l.core 0).rltHit 0 false 0 0).isNone) = true ∧
    (∀ st ∈ [true, false], ((copying st).core 0).copies.map Copy.idx = [2] ∧ (copying st).engineHeld 0 = false ∧ (copying st).engineLate 0 ((List.range 128).map (at_ 0x880 + ·)) = false ∧
      ((copying st).core 0).sourceWaits 0 0x880 128 = false ∧ (copying st).refetching ((List.range 128).map (at_ 0x880 + ·)) = false ∧
      (copying st).hardAt ((List.range 128).map (at_ 0x880 + ·)) = none) ∧
    ((mapFind? ((streaming false [5]).core 0).streams 7).bind Stream.active).map (fun b => (b.outbound, b.done, b.total)) = some (false, 1, 4) ∧
    (streaming false [5]).engineHeld 0 = false ∧ (streaming false [5]).engineLate 0 [at_ 0x808] = false ∧ ((streaming false [5]).core 0).sourceWaits 0 0x808 8 = false ∧
    ((mapFind? ((streaming true [5]).core 0).streams 7).map Stream.buf) = some [5] ∧
    (advancing.cellAt (advancing.markAt (at_ 0x40)) (at_ 0x40)).2.2.ult 0x880 = false ∧
    advancing.notify.findIdx? (fun e => decide (e.1 = 0) && decide (e.2.1 = 15)) = some 0 ∧
    advancing.notify.findIdx? (fun e => decide (e.1 = 1029) && decide (e.2.1 = 0)) = some 1 ∧ (mapFind? advancing.launches 5).isSome ∧
    advancing.scatter[0]?.isSome := by decide +kernel

/-! A packet of the base hart: one hop, through port 0 at generation 1, to 0x2000000 of this device. -/

/-- The token before it is sealed. -/
def plainToken : Line :=
  BitVec.ofNat 512 (2 ^ 74 + 2 ^ 64 + 0x2000000 * 2 ^ 208 + 0x1000 * 2 ^ 256 + 0x3F * 2 ^ 296 + 2 ^ 318 + 2 ^ 332 + 0x1000 * 2 ^ 380 + 0x3F * 2 ^ 420)
/-- The packet with an operation, at a place, with an answer. -/
def packet (op : PktOp) (at_ : PktAt) (a : Option RemoteAnswer) : Packet :=
  { tag := 1, wire := 1, src := 0, hart := 0, route := 3, token := sealTok 0 plainToken, op := op, sctx := 0, off := 0, len := 8, payload := leBytes 8 5, plain := leBytes 8 5,
    reloc := 0, counter := 0, epoch := 0, gcmTag := 0, at_ := at_, grace := [], answer := a, flags := 0, sentAt := 0, orphan := false }
/-- The module with that packet, and with an access entry for its window. -/
def sending (op : PktOp) (at_ : PktAt) (a : Option RemoteAnswer) : State :=
  let e : AccessEntry :=
    { device := 0, ctx := 0, base := 0x2000000, len := 0x1000, rights := 0x3F, keyid := 1, c := false, tctx := 0, tcore := 0, space := 0, via := [] }
  { up with packets := [packet op at_ a], access := [e] }

theorem fields_token : tokHop (sealTok 0 plainToken) 0 = (0, 1) ∧ tokHops (sealTok 0 plainToken) = 1 ∧ tokCtx (sealTok 0 plainToken) = 0 ∧
    tokClass (sealTok 0 plainToken) = 0 ∧ tokDevice (sealTok 0 plainToken) = 0 ∧ tokWbase (sealTok 0 plainToken) = 0x2000000 ∧
    tokNoff (sealTok 0 plainToken) = 0 ∧ tokKeyid (sealTok 0 plainToken) = 1 ∧ tokC (sealTok 0 plainToken) = false := by
  simp only [tokHop, tokHops, tokCtx, tokClass, tokDevice, tokWbase, tokNoff, tokKeyid, tokC,
    tok_sealTok 0 plainToken _ _ (by decide : 64 ≤ 64), tok_sealTok 0 plainToken _ _ (by decide : 64 ≤ 68 + 14 * 0),
    tok_sealTok 0 plainToken _ _ (by decide : 64 ≤ 74 + 14 * 0), tok_sealTok 0 plainToken _ _ (by decide : 64 ≤ 304),
    tok_sealTok 0 plainToken _ _ (by decide : 64 ≤ 180), tok_sealTok 0 plainToken _ _ (by decide : 64 ≤ 184),
    tok_sealTok 0 plainToken _ _ (by decide : 64 ≤ 208), tok_sealTok 0 plainToken _ _ (by decide : 64 ≤ 340),
    tok_sealTok 0 plainToken _ _ (by decide : 64 ≤ 318), tok_sealTok 0 plainToken _ _ (by decide : 64 ≤ 330)]
  decide +kernel

theorem base_plain : base.fabricKey = 0 ∧ base.gens = [] ∧ base.rejoins = [] ∧ base.portsDown = [] ∧ base.reloc = [] ∧ base.dev.id = 0 ∧ base.ctxExited 0 = false := by
  decide +kernel
theorem packet_token (op : PktOp) (w : PktAt) (a : Option RemoteAnswer) : (packet op w a).token = sealTok 0 plainToken := rfl
theorem hop_packet (op : PktOp) (w : PktAt) (a : Option RemoteAnswer) : (packet op w a).hop 0 = (0, 1) := by
  simp only [Packet.hop, packet, pathPort, pathNode, portId, fields_token]

/-- FabricEvents, at a switch: the packet passes; at a port with another generation it is rejected; its answer comes back, or is dropped. -/
theorem wit_SwitchEvents :
    let s := sending .store (.going 0) none
    let r : State := { s with gens := [(0, 2)] }
    let p := packet .store (.going 0) none
    let q := packet .store (.reply 1) (some (.performed 0))
    s.packet? 1 = some p ∧ s.hopCause p 0 = none ∧ (p.hop 0).1 ∉ s.portsDown ∧ r.hopCause p 0 = some Cause.routeRevoked ∧
    (sending .store (.reply 1) (some (.performed 0))).gen (q.hop 0).1 = (q.hop 0).2 ∧ r.gen (q.hop 0).1 ≠ (q.hop 0).2 ∧
    s.isOwn p = true ∧ p.orphan = false ∧ q.grace = [] ∧ s.isOwn { p with src := 7, orphan := true } = false := by
  refine ⟨rfl, ?_, ?_, ?_, ?_, ?_, by decide +kernel, rfl, rfl, by decide +kernel⟩ <;>
    simp [State.hopCause, hop_packet, State.gen, sending, up, base_plain, packet_token, fields_token, tagOk_sealTok, mapFind?, mapGet]

theorem check_ok (s : State) (e : AccessEntry) (hk : s.fabricKey = 0) (ha : s.access = [e]) (hr : s.reloc = []) (hx : s.ctxExited 0 = false)
    (hl : (s.key 1).state = .live)
    (he : e = { device := 0, ctx := 0, base := 0x2000000, len := 0x1000, rights := 0x3F, keyid := 1, c := false, tctx := 0, tcore := 0, space := 0, via := [] }) :
    s.targetCheck (packet .store .target none) = (.ok e, s) := by
  have h : ∀ x < 8, isHbm (0x2000000 + x) = true := by decide +kernel
  subst he
  simp [State.targetCheck, packet, fields_token, tagOk_sealTok, hk, ha, hx, hl, AccessEntry.admits, Packet.addr, classSpace, PktOp.right, Right.bit,
    State.classRule, State.packetLocs, State.relocOk, State.relocated, hr, mapFind?]
  rw [if_pos h]
theorem check_none (s : State) (hk : s.fabricKey = 0) (ha : s.access = []) :
    s.targetCheck (packet .store .target none) = (.error Cause.routeWindow, s) := by
  simp [State.targetCheck, packet, fields_token, tagOk_sealTok, hk, ha, State.relocOk]

/-- FabricEvents, at the target: a store that its entry admits, and one that no entry admits. -/
theorem wit_TargetEvents :
    let s := sending .store .target none
    let n : State := { s with access := [] }
    let p := packet .store .target none
    s.packet? 1 = some p ∧ p.at_ = .target ∧ s.mustFollow p = false ∧ tokDevice p.token = s.dev.id ∧ s.cprrAway p = false ∧
    (∃ e u, s.targetCheck p = (.ok e, u)) ∧ (∃ c u, n.targetCheck p = (.error c, u)) ∧
    s.isOwn p = true ∧ p.orphan = false ∧ s.movedLine { p with at_ := .home 0 } = none := by
  refine ⟨rfl, rfl, rfl, ?_, rfl, ⟨_, _, check_ok _ _ ?_ rfl ?_ ?_ ?_ rfl⟩, ⟨Cause.routeWindow, _, check_none _ ?_ rfl⟩, ?_, rfl, ?_⟩
  · simp [packet, fields_token, sending, up, base_plain]
  · exact base_plain.1
  · exact base_plain.2.2.2.2.1
  · exact base_plain.2.2.2.2.2.2
  · decide +kernel
  · exact base_plain.1
  · simp [packet, sending, up, base_plain, State.isOwn]
  · simp [State.movedLine, sending, up, State.relocated, base_plain, mapFind?]

/-- FabricEvents, back at the sender: a reply, an acknowledgement, a rejection, a moved page and a group of a remote load; the timers; the links. -/
theorem wit_AnswerEvents :
    let back (op : PktOp) (a : RemoteAnswer) : State := sending op (.reply 0) (some a)
    let l := (back (.vload 4 1) (.bytes (leBytes 128 9))).onMyCore fun k => { k with fills := [(9, .vrld 1 3 0)] }
    let armed := up.onMyCore fun k => { k with owner := some 0, fills := [(9, .arm)] }
    let g : GcmStream := { core := 0, node := 0, keyid := 1, epoch := 0, counter := 5, high := 0, seen := [], rekeying := true, tagFails := 0 }
    ((back (.load 8 5) (.performed 7)).arrived 1).any (fun r => r.1.op.waits && decide (r.2 = .performed 7)) = true ∧
    ((back .store (.performed 0)).arrived 1).any (fun r => !r.1.op.waits && decide (r.2 = .performed 0)) = true ∧
    ((back .store (.rejected 9)).arrived 1).any (fun r => !(back .store (.rejected 9)).earlierRejection r.1 &&
      (back .store (.rejected 9)).loadReady r.1 && decide (r.2 = .rejected 9)) = true ∧
    ((back .store (.moved 3)).arrived 1).any (fun r => decide (r.2 = .moved 3)) = true ∧
    (l.arrived 1).any (fun r => decide (r.1.op = .vload 4 1) && (l.loadHolders r.1).all fun h => l.awaits r.1.sctx h 9 1) = true ∧
    (armed.core 0).owner = some 0 ∧ armed.engineHeld 0 = false ∧ mapFind? (armed.core 0).fills (2 * 4 + 1) = some .arm ∧
    ((sending .store .wait none).packet? 1).any (fun p => decide (p.at_ = .wait) && decide (p.sentAt + 1000 ≤ (sending .store .wait none).time)) = true ∧
    ((sending .store .target none).packet? 1).any (fun p => (sending .store .target none).isOwn p && !p.orphan && decide (p.at_ ≠ .back) &&
      decide (p.sentAt + 2000000 ≤ (sending .store .target none).time) && (sending .store .target none).loadReady p) = true ∧
    (∀ p ∈ [3, 4], p ∉ up.portsDown) ∧ mapGet 0 up.linkFails 3 < 16 ∧ 16 ≤ mapGet 0 ({ up with linkFails := [(4, 16)] } : State).linkFails 4 ∧
    (7 : Nat) ≠ up.dev.id ∧ facesDevice 7 (portId 7 2) = true ∧
    (mapFind? ({ up with gcm := [(2, g)] } : State).gcm 2).any GcmStream.rekeying = true := by decide +kernel

/-! Replicas, the Dispatch Unit and the host: context 3 on cores 0 and 256 of the module. -/

/-- The context, with its launch queue at 0x2000400 and its mailbox there too. -/
def ctx3 : Ctx := { Ctx.plain with cores := [0, 256], asids := [(0, 0)], keyid := 3, queues := List.replicate 8 (at_ 0x400), mailbox := at_ 0x400, tick := 10 }
/-- A launch record of one instance by itself, whose check holds. -/
def record : List Byte :=
  let b := leBytes 8 0x1000 ++ leBytes 8 0x77 ++ leBytes 8 (0x10 * 2 ^ 32 + 1) ++ leBytes 32 0
  b ++ leBytes 8 (crc64 b).toNat
/-- The module with context 3, one hart of it bound to instance 9 of launch 5, and the record in its queue. -/
def device (f : Hart → Hart) : State :=
  let q := block 64 0 1
  let q : Qcb := { q with cfg := q.cfg + 2 ^ 57 }
  let q : Qcb := { q with check := q.crc }
  let x := f { Hart.init with ctx := 3, status := .running, inst := some 9, a := { HartArch.init with csr := [(Csr.tvec, 0x4000), (Csr.tstat, 2)] } }
  let i : Instance :=
    { launch := 5, idx := 0, harts := [[0]], live := [0], flags := 0, level := 0, startedAt := 0, swappedAt := none, counted := false, unpaired := [] }
  { up with
    ctxs := [(3, ctx3)], keys := [(3, { KeySlot.init with state := .live, serial := 1 })], harts := [(0, x)], instances := [(9, i)],
    launches := [(5, { launch with ctx := 3, queue := 1, next := 1 }), (6, { launch with ctx := 3, queue := 2, readyAt := some 0 })],
    mem := ((span (at_ 0x400) 64).zip q.bytes ++ (span 0x800 64).zip record).foldl (fun m e => mapSet 0 m e.1 e.2) [],
    memKey := [] }
/-- Two replicas of one hart: harts 0 and 1024, with their group 7. -/
def replicated (f : Hart → Hart) (g : Group → Group) : State :=
  let G : Group :=
    { harts := [(0, 0), (1, 1024)], live := [0, 1], lead := 0, log := [.val [5]], lost := [], sigs := [], tries := 0, timer := none, eventAt := none,
      vote := none, cut := none, routes := [] }
  let x := f { base.me with group := some 7 }
  { base with harts := [(0, x), (1024, x)], groups := [(7, g G)] }

/-- DispatchEvents, replicas: a value that has come, the first signature and the last, two that agree, one that does not come, an event. -/
theorem wit_ReplicaEvents :
    let v := replicated (fun x => { x with status := .parked .forward }) id
    let a := replicated (fun x => { x with sent := some 5, status := .arbiter }) id
    let b := replicated (fun x => { x with sent := some 5, status := .arbiter }) fun G => { G with sigs := [(0, 5)], timer := some 9 }
    let c := replicated id fun G => { G with sigs := [(0, 5), (1, 5)] }
    let t := replicated id fun G => { G with sigs := [(0, 5)], timer := some 100000 }
    let e := replicated (fun x => { x with preempt := true }) id
    (v.groupOf 1024).isSome = true ∧ (v.hart 1024).status = .parked .forward ∧ ((v.groupOf 1024).any fun G => decide ((v.as 1024).fwdPos < (G.received 1024).length)) = true ∧
    (∀ s ∈ [a, b], (mapFind? s.groups 7).any (fun G => decide (mapFind? G.sigs 1 = none) && decide (1 ∈ G.live) && s.channelOpen G 1 G.lead) = true ∧ (s.hart 1024).sent = some 5) ∧
    ((mapFind? a.groups 7).any fun G => decide (mapFind? G.sigs 0 = none) && a.channelOpen G 0 G.lead) = true ∧
    ((mapFind? c.groups 7).any fun G => decide (G.live = [0, 1]) && G.vote.isNone && decide (mapGet 0 G.sigs 0 = mapGet 0 G.sigs 1)) = true ∧
    ((mapFind? t.groups 7).any fun G => decide (G.live = [0, 1]) && decide (100000 ≤ G.timer.getD 0) && (mapFind? G.sigs 0).isSome &&
      (mapFind? G.sigs 1).isNone) = true ∧
    ((mapFind? e.groups 7).any fun G => G.eventAt.isNone) = true ∧ (e.hart 0).eventWaits = true := by decide +kernel

/-- DispatchEvents: a record that can be taken, sound and refused; a placement; a deficit tick. -/
theorem wit_LaunchEvents :
    let s := device id
    let bad : State := { s with mem := mapSet 0 s.mem 0x800 9 }
    let a := s.launchActor 3 0 s.tagCtr
    let b := s.qcb a.mark (at_ 0x400)
    s.ctx? 3 = some ctx3 ∧ bad.ctx? 3 = some ctx3 ∧ ctx3.queues[0]? = some (at_ 0x400) ∧ s.dev.serves = true ∧ ctx3.alive = true ∧
    (s.launches.all fun p => decide (p.2.queue ≠ 0) || decide (p.2.count ≤ p.2.next)) = true ∧
    b.pois = false ∧ b.sound (at_ 0x400) = true ∧
    okRes (s.deqAt a (at_ 0x400)) (fun r => r.any fun e => (e.2.recordFault ctx3 0 e.1).isNone) = true ∧
    okRes (bad.deqAt a (at_ 0x400)) (fun r => r.any fun e => (e.2.recordFault ctx3 0 e.1).isSome) = true ∧
    ((mapFind? s.launches 6).any fun l => decide (l.next < l.count) && (s.refill 0).validPlace l ctx3 [[1]] &&
      (s.refill 0).mayTake 0 (fun e => !e.resumed && decide (e.key = 6)) [1] && decide (shapeLevel l.shape = 0) && l.readyAt.isSome) = true ∧
    mapGet 0 s.dev.ticks 0 < s.time / 1000 := by decide +kernel

/-- DispatchEvents: pre-emption of a context that exits, the end of its notice, a timer, a WAIT whose time is over, an interrupt. -/
theorem wit_InterruptEvents :
    let s : State := { device id with ctxs := [(3, { ctx3 with exited := true })] }
    let n := device fun x => { x with noticeUntil := some 0 }
    let w := device fun x => { x with status := .parked (.wait 1 (some 7)) }
    let i := device fun x => { x with irqTimer := true }
    let d : State := { device (fun x => { x with a := { x.a with csr := mapSet 0 x.a.csr Csr.phase 0x113 } }) with
      launches := [(5, { launch with ctx := 3, shape := 0x210, next := 1 })] }
    s.preemptGrounds 3 0 = true ∧ s.boundHarts 3 (s.swapCores 3 0) = [0] ∧ (s.hart 0).preempt = false ∧ (s.hart 0).noticeUntil = none ∧
    n.boundHarts 3 [0] = [0] ∧ (n.hart 0).noticeUntil = some 0 ∧
    d.preemptDeferred 0 = true ∧ (d.hart 0).releaseT + bits ((d.hart 0).csr Csr.phase) 39 8 ≤ d.cycle ∧
    ctx3.tick ≠ 0 ∧ ctx3.nextTick ≤ s.time ∧ (w.hart 0).status = .parked (.wait 1 (some 7)) ∧ 7 ≤ w.time ∧
    ((i.hart 0).irq i.time).isSome = true ∧ i.irqHarts 0 = [0] ∧ i.atPoint 0 = true ∧ ((i.hart 0).csr Csr.tstat).getLsbD 1 = true ∧
    (i.hart 0).trapAt = none ∧ (i.hart 0).chunk = none ∧ (i.hart 0).atVec = false ∧ (i.hart 0).group = none ∧ (i.hart 0).a.lock = false ∧
    mapWf 0 (i.hart 0).a.csr = true ∧ i.cur = 0 := by decide +kernel

/-- DispatchEvents: a swap out, and back from there; a visit and its result. -/
theorem wit_SwapEvents :
    let s := device fun x => { x with status := .yielded, preempt := true }
    let v := s.onCluster 0 fun q => { q with visitAt := some 0, decanted := true }
    s.swapCores 3 0 = [0] ∧ s.boundHarts 3 [0] = [0] ∧ s.haltedFor 0 = true ∧ (s.core 0).swapQuiet [0] = true ∧
    okNext (exec (.swapOut 3 0) s) (fun t => ((t.refill 0).imagesOn 3 0).any fun e => (t.refill 0).mayReturn 0 ((t.refill 0).swapImages (keySwap e.1))) = true ∧
    (s.cluster 0).visitAt = none ∧ visitCluster s.dev.visits = 0 ∧ s.dev.nextVisit ≤ s.time ∧ (s.clusters.all fun e => e.2.visitAt.isNone) = true ∧
    (s.cluster 0).fenced = false ∧ (v.cluster 0).visitAt = some 0 ∧ (v.cluster 0).decanted = true := by decide +kernel

/-! The host and management. -/

/-- A page request of function 2. -/
def pageReq (num : Nat) (queued : Bool) : PageReq :=
  { hart := 0, pc := 0, func := 2, num := num, gpa := 0x5000, gva := 0x5000, asid := 0, ctx := 3, write := false, elem := 0, member := 0, vec := false, queued := queued,
    answer := none }
/-- The module with this control block in its memory at 0x2000400 under no key, an element in its array, and function 2 of context 3. -/
def hosted (c : Qcb) (e : List Byte) : State :=
  let qcb : PortTarget := { qcb := at_ 0x400, ctx := 0 }
  let h : HostReq := { idx := 4, function := 2, addr := 0x5000, hart := 0, ctx := 3, va := 0x5000, store := false, answer := none }
  { device id with
    ctxs := [(3, { ctx3 with function := some 2 })], pageReqs := [pageReq 0 false, pageReq 1 true], hostReqs := [h],
    handles := [(66, qcb), (130, qcb), (handleKey 2 5, qcb)], memKey := [],
    mem := ((span (at_ 0x400) 64).zip c.bytes ++ (span 0x800 e.length).zip e).foldl (fun m e => mapSet 0 m e.1 e.2) [] }

/-- HostEvents, paging: a request that enters the queue, a reply to one that waits for it, the host's answer, an invalidation with no access of its range under way. -/
theorem wit_PagingEvents :
    let q := hosted (block 64 0 0) []
    let tag := q.reqTag (pageReq 1 true)
    let p := hosted (block 16 0 1) (leBytes 8 tag ++ leBytes 8 0)
    let a := q.ctxActor 0
    mapFind? q.handles (handleKey 0 (64 + 2)) = some { qcb := at_ 0x400, ctx := 0 } ∧
    q.pageReqs.findIdx? (fun r => decide (r.func = 2) && !r.queued) = some 0 ∧ (q.qcb a.mark (at_ 0x400)).sound (at_ 0x400) = true ∧
    now (q.enqAt a (at_ 0x400) (q.reqElem (pageReq 0 false))) = true ∧
    (p.qcb a.mark (at_ 0x400)).sound (at_ 0x400) = true ∧
    okRes (p.deqAt a (at_ 0x400)) (fun r => r.any fun e => decide (e.2.pageReqs.findIdx? (fun r =>
      decide (r.func = 2) && r.queued && r.answer.isNone && decide (e.2.reqTag r = leNat (e.1.take 8))) = some 1)) = true ∧
    ((q.hostReqs.find? fun r => decide (r.idx = 4) && r.answer.isNone).isSome) = true ∧
    4 ∈ ((q.hostReqs.filter fun r => r.answer.isNone && decide (r.function = 2)).take 256).map HostReq.idx ∧
    q.hostBusy (0x5008 / 4096 * 4096) (64 + 0x5008 % 4096) = false := by decide +kernel

/-- HostEvents, ports: an open port with a queue that has room, is full, holds an element and is empty; a write in a window. -/
theorem wit_PortEvents :
    let q := hosted (block 8 0 0) []
    let f := hosted (block 8 0 2) (leBytes 16 9)
    let a := q.ctxActor 0
    let w : Window := { function := 2, offset := 0, ctx := 0, asid := 0, cell := at_ 0x40, lo := 0x800, hi := 0x900, lines := [], waiting := [], drops := 0 }
    let u : State := { marked with windows := [(1, w)] }
    (∀ s ∈ [q, f], s.portOpen 2 5 = true ∧ s.ctxExited 3 = false ∧ s.portHolds 2 = false ∧ (s.qcb a.mark (at_ 0x400)).sound (at_ 0x400) = true ∧
      (s.qcb a.mark (at_ 0x400)).kind = 0 ∧ (s.qcb a.mark (at_ 0x400)).esize = 8) ∧
    (∀ o ∈ [64 * 5, 0x10000 + 128 * 5], (match q.portTarget 2 5 o with | .ok t => decide (t = { qcb := at_ 0x400, ctx := 0 }) | .error _ => false) = true) ∧
    now (q.enqAt a (at_ 0x400) (leBytes 8 5)) = true ∧ okRes (f.enqAt a (at_ 0x400) (leBytes 8 5)) Option.isNone = true ∧
    now (f.deqAt a (at_ 0x400)) = true ∧ okRes (q.deqAt a (at_ 0x400)) Option.isNone = true ∧
    u.portServed 2 = true ∧ w.va 0xC0 + 64 ≤ u.windowMark w + 0x100000 ∧ 0xC0 + 64 ≤ w.offset + (w.hi.toNat - w.lo.toNat) := by decide +kernel

/-- HostEvents: an interface in use, a halted hart, a bound hart, the SPDM slots and sessions. -/
theorem wit_DeviceAndSpdmEvents :
    let s := hosted (block 8 0 0) []
    let h := device fun x => { x with status := .halted }
    let p : State := { s with spdm := { s.spdm with chains := [(1, [1, 2, 3])], session := [(2, 7)] }, dev := { s.dev with bootFailed := true } }
    let r : State := { p with spdm := { p.spdm with heldRewrite := [(1, { chain := [4], function := some 2, done := none })] } }
    (s.func 2).tdi ≠ .error ∧ s.funcCtx 2 ≠ 0 ∧ s.dev.portsOpen = true ∧ (h.hart 0).status = .halted ∧ h.dev.portsOpen = true ∧
    s.ctxOfHart 0 = some 3 ∧ p.dev.bootFailed = true ∧ s.dev.bootFailed = false ∧
    (match p.slotChain 2 1 with | .ok c => decide (c = [1, 2, 3]) | .error _ => false) = true ∧ (p.measureBlock 4).isSome = true ∧
    mapFind? p.spdm.session 2 ≠ none ∧ p.spdm.open_ = [] ∧ mapFind? p.spdm.heldRewrite 1 = none ∧ (mapFind? r.spdm.heldRewrite 1).isSome = true ∧
    (∀ e ∈ r.spdm.reading, e.1 % 8 ≠ 1) ∧
    mapFind? s.gens 3 = none ∧ facesDevice s.dev.id 3 = true ∧ mapGet 0 s.rejoins s.dev.id < 126 := by decide +kernel

/-- What CREATE brings for context 4: one core, one address space, key 4. -/
def creation : CreateSpec :=
  let q : QueueSpec := { qcb := 0x10000, base := 0x20000, log2cap := 4 }
  { ctx := 4, cores := [5], asids := [(0, 0x30000)], keyid := 4, queues := List.replicate 8 q, mailbox := q, requests := none, replies := none,
    images := [], consent := true, tvec := 0x4000, function := none, onDemand := false, notice := true, share := 1, tick := 0, lspBase := 0,
    lspSize := 0x80000, done := 0 }

/-- ManagementEvents: invalidations, and one that is over. -/
theorem wit_InvalidationEvents :
    let s : State := { device id with mgmt := [(8, .invalidate [3] false 0 4096 [] 0 none)] }
    s.dev.booted = true ∧ ownContext none 3 = true ∧ ownContext (some 3) 3 = true ∧ s.ctx? 3 ≠ none ∧ s.ownFunction none 2 = true ∧
    (mapFind? s.mgmt 8).isSome = true ∧ s.translationBusy [3] false 0 4096 [] = false := by decide +kernel

/-- ManagementEvents: contexts that can be created, and not; one that is destroyed; a key that is killed, received and stuck. -/
theorem wit_ContextEvents :
    let s := device id
    let f : State := { s with ctxs := [(3, { ctx3 with function := some 2 })] }
    let d : State := { s with ctxs := [(3, { ctx3 with exited := true, dying := some 0 })] }
    let k : State := { s with keys := [(3, { KeySlot.init with state := .retiring, serial := 1 })], cycle := 57000000000 }
    let l : State := { d with keys := [(3, { KeySlot.init with state := .retiring, serial := 1, acks := 857 })] }
    s.dev.booted = true ∧ createBad { creation with keyid := 0 } = true ∧ createBad creation = false ∧
    f.createRefused { creation with function := some 2 } = true ∧
    (f.takeRequest 0x10 none creation.done).createRefused { creation with function := some 2 } = true ∧
    (s.takeRequest 0x10 none creation.done).createRefused creation = false ∧ s.assignable creation = true ∧
    (s.takeRequest 0x11 none 0).ctx? 3 = some ctx3 ∧ ctx3.dying = none ∧ (s.takeRequest 0x11 none 0).ctx? 5 = none ∧
    (d.key 3).state = .live ∧ d.mgmt = [] ∧ (k.key 3).state = .retiring ∧ (k.key 3).acks + 1 < 858 ∧ (l.key 3).state = .retiring ∧ 858 ≤ (l.key 3).acks + 1 ∧ (k.key 3).reported = false ∧
    (k.key 3).killedAt + 10000000 < k.time := by decide +kernel

/-- ManagementEvents: a grant that can be made, one that is malformed, one without its owner; an entry to drop; a drain that is over. -/
theorem wit_GrantEvents :
    let s : State := { sending .store .target none with ctxs := [(3, ctx3)], keys := [(3, { KeySlot.init with state := .live })] }
    let m : MintSpec :=
      { issuer := none, src := 0, agreed := false, cls := 0, node := 0, wbase := 0x2000000, wlen := 0x1000, rights := 1, keyid := 3, c := false, ctx := 3, tctx := 3, stripe := 0,
        path := [0], echo := 0, done := 0 }
    let t : State := { s with access := [mintEntry m] }
    let e : State := { s with access := (List.range 64).map fun i => { mintEntry m with base := 0x4000000 + 0x10000 * i } }
    s.dev.booted = true ∧ mintBad { m with cls := 9 } = true ∧ mintBad m = false ∧ (s.takeRequest 0x12 none 0).mintGranted m = true ∧ s.mintElsewhere m = false ∧
    s.mintGranted { m with node := 5, agreed := true } = true ∧ s.mintElsewhere { m with node := 5 } = true ∧
    t.mintGranted { m with issuer := some 3 } = true ∧ m.src = t.dev.id ∧ t.grantStands m = true ∧ (t.installEntry (mintEntry m)).isSome = true ∧
    s.grantStands { m with wbase := 0x3000000 } = false ∧
    (s.installEntry (mintEntry m)).isSome = true ∧ (e.installEntry (mintEntry m)).isNone = true ∧
    s.mintGranted { m with tctx := 7 } = false ∧
    ((s.access.zipIdx.filter fun e => decide (e.1.device = 0) && decide (e.1.ctx = 0)).map Prod.snd)[0]? = some 0 ∧
    (∀ p ∈ ({ s with packets := [] } : State).packets, p.tag ∈ [1] → p.answer ≠ none) := by decide +kernel

/-- A host's own request is permitted (R321). -/
theorem wit_mintPermitted (m : MintSpec) (h : m.issuer = none) : mintPermitted m = true := by simp [mintPermitted, h]

/-- ManagementEvents: the limits of the parameters, a migration, a window's cell, a slot, a counter, a hart with its debugger's token. -/
theorem wit_ServiceEvents :
    let s := device id
    let far : State := { s with ctxs := [(3, { ctx3 with asids := [(0, 0x100000)] })] }
    -- five tables from 0x40000 on, the last of which maps page 1 of context 0 to page 1
    let c : State := { s with
      mem := ((span 0x1040 24).zip (leBytes 8 0x800 ++ leBytes 8 0x900 ++ leBytes 8 0x880) ++ (span 0x40000 8).zip (leBytes 8 0x41001) ++
        (span 0x41000 8).zip (leBytes 8 0x42001) ++ (span 0x42000 8).zip (leBytes 8 0x43001) ++ (span 0x43000 8).zip (leBytes 8 0x44001) ++
        (span 0x44008 8).zip (leBytes 8 0x00100000000010DF)).foldl (fun m e => mapSet 0 m e.1 e.2) [],
      memKey := [], ctxs := [(0, { Ctx.plain with asids := [(0, 0x40000)] })], keys := [(1, { KeySlot.init with state := .live })] }
    let w := c.takeRequest 0x20 none 0
    let g : State := { s with mgmt := [(8, .migrate 0x2000 0x2001 0)] }
    s.dev.booted = true ∧ (1 ≤ 10000 ∧ ¬ (1 ≤ 10001 ∧ 10001 ≤ 10000)) ∧ (∃ e ∈ ctx3.asids, e.1 = 0) ∧ isHbm (0x2000 * 4096) = true ∧
    isHbm (0x2001 * 4096) = true ∧ s.reloc = [] ∧ (mapFind? g.mgmt 8).isSome = true ∧ fixedHandle 2 9 = false ∧
    far.mgmt = [] ∧ mapFind? far.reloc 0x2000 = none ∧ (far.takeRequest 0x17 none 0).largeOver 0x2000 = false ∧
    w.ctx? 0 ≠ none ∧ okRes (w.check14 { (w.ctxActor 0).who with asid := 0 } .load 32 0 0x1040 32) (fun r =>
      decide (r.1.locs.headD 0 = 0x1040) && decide ((r.2.cellAt (w.ctxActor 0).mark 0x1040).1.toNat = 0x800) &&
      decide (leNat ((span 0x1058 8).map (r.2.homeByte (w.ctxActor 0).mark)) = 0) && r.2.windows.isEmpty) = true ∧ mapFind? s.spdm.heldRewrite 1 = none ∧ (s.counter 0 0 5).isSome = true ∧
    (s.debugView 0).any (fun v => !v.saved) = true ∧
    ((s.onHart 0 fun x => { x with haltReq := true }).haltPoint 0).any (fun t => decide ((t.hart 0).status = .halted)) = true ∧
    (s.debugView 0).any (fun v => (v.read false 0 5).isSome && (v.write false 0 5 7).isSome) = true := by decide +kernel

/-- A debugger's token of context 9 for core 0, before it is sealed. -/
def debugToken : Line := BitVec.ofNat 512 (5 * 2 ^ 180 + 9 * 2 ^ 304)
/-- The module whose context 3 consents to debugging, with its hart halted or not. -/
def consenting (f : Hart → Hart) : State := { device f with ctxs := [(3, { ctx3 with consent := true })] }

theorem fields_debug : tokClass (sealTok 0 debugToken) = 5 ∧ tokDevice (sealTok 0 debugToken) = 0 ∧ tokCore (sealTok 0 debugToken) = 0 ∧
    tokCtx (sealTok 0 debugToken) = 9 := by
  simp only [tokClass, tokDevice, tokCore, tokNode, tokCtx, nodeCore, tok_sealTok 0 debugToken _ _ (by decide : 64 ≤ 180),
    tok_sealTok 0 debugToken _ _ (by decide : 64 ≤ 184), tok_sealTok 0 debugToken _ _ (by decide : 64 ≤ 304)]
  decide +kernel

/-- ManagementEvents, debug: a sealed token of CLASS 5 admits its holder to the hart, running or halted, and its element leaves the state. -/
theorem wit_DebugEvents (op : Nat) (f : Hart → Hart) (v : DebugView) (hv : v.ctx = 3) :
    (consenting f).dev.booted = true ∧ (consenting f).takeRequest op (debugIssuer (sealTok 0 debugToken)) 0 = consenting f ∧
    (consenting f).debugAdmits (sealTok 0 debugToken) 0 v = true := by
  refine ⟨rfl, ?_, ?_⟩
  · simp [State.takeRequest, debugIssuer, fields_debug, State.mailboxOf, consenting, State.ctx?, mapFind?]
  · have h : (consenting f).fabricKey = 0 ∧ (consenting f).dev.id = 0 := ⟨base_plain.1, base_plain.2.2.2.2.2.1⟩
    have h' : (device f).fabricKey = 0 ∧ (device f).dev.id = 0 := h
    simp [State.debugAdmits, h', tagOk_sealTok, fields_debug, hv, State.ctx?, mapFind?, consenting, coreOf, ctx3, Ctx.plain]

/-- The hart of that module as the debugger finds it, and its next point. -/
theorem wit_debugView :
    ((consenting id).debugView 0).any (fun v => decide (v.ctx = 3) && !v.saved) = true ∧
    ((consenting fun x => { x with status := .halted }).debugView 0).any (fun v => decide (v.ctx = 3) && decide (v.hart.status = .halted)) = true ∧
    (((consenting id).onHart 0 fun x => { x with haltReq := true }).haltPoint 0).any (fun t => decide ((t.hart 0).status = .halted) && t.dev.booted) =
      true := by decide +kernel

/-! One step each: the spec's worked examples, and values worked out by hand from the rule named. -/

/-- R28: with x6 = 10 the last written and x7 = 5, `add.c x7` writes 15. -/
theorem test_addC : okNext (exec (.addC 7) ((base.xs [(6, 10), (7, 5)]).csrs [(Csr.ldst, 6)])) (fun t => decide (t.x 7 = 15) && decide (t.csr Csr.ldst = 7) &&
    decide (t.pc = 2)) = true := by decide +kernel
/-- R28: with x7 = 15 the last written, `addi.c x7, -2` writes 13. -/
theorem test_addiC : okNext (exec (.addiC 7 0xE) ((base.xs [(7, 15)]).csrs [(Csr.ldst, 7)])) (fun t => decide (t.x 7 = 13)) = true := by decide +kernel
/-- R99, R100 (worked example): the most negative number by −1; LDST becomes 5. -/
theorem test_div_overflow :
    okNext (exec (.div 5 6 7) (base.xs [(6, 0x8000000000000000), (7, 0xFFFFFFFFFFFFFFFF)])) (fun t =>
      decide (t.x 5 = 0x8000000000000000) && decide (t.csr Csr.ldst = 5) && decide (t.pc = 4)) = true := by decide +kernel
/-- R99: REM of −7 by 2. -/
theorem test_rem : okNext (exec (.rem 5 6 7) (base.xs [(6, 0xFFFFFFFFFFFFFFF9), (7, 2)])) (fun t => decide (t.x 5 = 0xFFFFFFFFFFFFFFFF)) = true := by
  decide +kernel
/-- R99: the word forms' edge cases. -/
theorem test_divW :
    okNext (exec (.divW 5 6 7) (base.xs [(6, 0x80000000), (7, 0xFFFFFFFFFFFFFFFF)])) (fun t => decide (t.x 5 = 0xFFFFFFFF80000000)) = true := by
  decide +kernel
theorem test_divnW : okNext (exec (.divnW 5 6 7) (base.xs [(6, 9)])) (fun t => decide (t.x 5 = 0xFFFFFFFFFFFFFFFF)) = true := by decide +kernel
/-- R97: SUB wraps; CMOVZ of its own register keeps it and writes LDST. -/
theorem test_sub : okNext (exec (.sub 5 6 6) (base.xs [(6, 1)])) (fun t => decide (t.x 5 = 0)) = true := by decide +kernel
theorem test_cmovz_kept : okNext (exec (.cmovz 5 6 7) (base.xs [(5, 3), (6, 8), (7, 1)])) (fun t =>
    decide (t.x 5 = 3) && decide (t.csr Csr.ldst = 5)) = true := by decide +kernel
/-- R101 (worked routine): BGEN's offset of 12 halfwords from 0x8, where the condition holds. -/
theorem test_bgen_taken : okNext (exec (.bgen 13 11 12) ((base.xs [(13, 4), (11, 4)]).onMe fun h => { h with a := { h.a with pc := 8 } })) (fun t =>
    decide (t.pc = 0x20) && decide (t.csr Csr.ldst = 0)) = true := by decide +kernel
/-- R102 (worked routine): JAL's offset of −10 halfwords from 0x1C. -/
theorem test_jal_back : okNext (exec (.jal 0 0x7FFF6) (base.onMe fun h => { h with a := { h.a with pc := 0x1C } })) (fun t =>
    decide (t.pc = 8) && decide (t.x 0 = 0)) = true := by decide +kernel
/-- R107: LD.w sign-extends; an offset of −1 doubleword. -/
theorem test_ldW_sign : okNext (exec (.ldW 5 6 0) ((base.xs [(6, 0x800)]).mems [(at_ 0x800, leBytes 4 0x80000001)])) (fun t =>
    decide (t.x 5 = 0xFFFFFFFF80000001)) = true := by decide +kernel
theorem test_ldD_below : okNext (exec (.ldD 14 10 0x3FF) ((base.xs [(10, 0x808)]).mems [(at_ 0x800, leBytes 8 0x1122334455667788)])) (fun t =>
    decide (t.x 14 = 0x1122334455667788)) = true := by decide +kernel
/-- R106, R392: a misaligned store traps; PC and the address are saved. -/
theorem test_stD_misaligned : okNext (exec (.stD 5 6 0) (base.xs [(6, 0x801)])) (fun t =>
    decide (t.csr Csr.tcause = BitVec.ofNat 64 Cause.misaligned) && decide (t.csr Csr.tval = 0x801) && decide (t.csr Csr.tepc = 0) &&
      decide (t.me.a.mode = .s)) = true := by decide +kernel
/-- R116 (example): −123.5 by `fcvt.i32.s` under rtz raises NX; 3.0e9 gives the largest integer with NV. -/
theorem test_fcvt_truncates : okNext (exec (.fcvtFi 0 5 2 8) (base.fs [(2, 0xC2F70000)])) (fun t =>
    decide (t.x 5 = 0xFFFFFFFFFFFFFF85) && decide (t.csr Csr.fflags = 1)) = true := by decide +kernel
theorem test_fcvt_invalid : okNext (exec (.fcvtFi 0 5 2 8) (base.fs [(2, 0x4F32D05E)])) (fun t =>
    decide (t.x 5 = 0x7FFFFFFF) && decide (t.csr Csr.fflags = 0x10)) = true := by decide +kernel
/-- R117: −(2 × 3) + 1 and −(2 × 3) − 1 in binary64, for FNMA and FNMS as their table names them. -/
theorem test_fma : okNext (exec (.fma 1 1 2 3 4) (base.fs [(2, 0x4000000000000000), (3, 0x4008000000000000), (4, 0x3FF0000000000000)])) (fun t =>
    decide (t.f 1 = 0x401C000000000000)) = true := by decide +kernel
/-- R367 (worked example): the signature after its two items. -/
theorem test_signature : sigAdd (sigAdd 0 0x000000000000002A00000000040003FC) 0x000000070000000000000000040007C0 =
    0x0000000700000054000000000C000038 := by decide +kernel
/-- R84 (worked example): 300.0, 470.0 and 0.001 in binary32 to E4M3. -/
theorem test_convert_e4m3 :
    convert (.fl f32) (.fl e4m3) false 0x43960000 .rne 0 = (0x79, 1) ∧ convert (.fl f32) (.fl e4m3) false 0x43EB0000 .rne 0 = (0x7F, 5) ∧
    convert (.fl f32) (.fl e4m3) true 0x43EB0000 .rne 0 = (0x7E, 0x21) ∧ convert (.fl f32) (.fl e4m3) false 0x43EB0000 .rtz 0 = (0x7E, 1) ∧
    convert (.fl f32) (.fl e4m3) false 0x3A83126F .rne 0 = (0x01, 3) := by decide +kernel
/-- R89 (worked example): the packed block, NX and UF. -/
theorem test_pack_sx4 :
    let r := packSx 4 .rne (List.replicate 16 0) (([0x40C00000, 0xC0B00000, 0x3E99999A, 0x3DCCCCCD] ++ List.replicate 12 0).map f32.value)
    r.1 = 0x076C0181 ∧ r.2.foldl (· ||| ·) 0 = 3 := by decide +kernel
/-- Six 32-bit elements 5 to 10 in V8, −1 twice in V10, and the mask 0b101001 in m1, under i32 with masked elements zero (R174). -/
def six : State := (vec 0x404 6 4).onVf fun f =>
  { f with v := [(8, BitVec.ofNat 2048 (leNat ([5, 6, 7, 8, 9, 10].flatMap (leBytes 4))))], m := [(1, 0b101001)], vdirty := 0x100 }
/-- The first six elements of V10. -/
def sixOf (t : State) : List Nat := (List.range 6).map (t.vf.elem 10 32)
/-- R174 (worked example). -/
theorem test_vcompress : okNext (exec (.vcompress (word 10 8 1 0 0)) six) (fun t => decide (sixOf t = [5, 8, 10, 0, 0, 0])) = true := by decide +kernel
theorem test_vexpand : okNext (exec (.vexpand (word 10 8 1 0 0)) six) (fun t => decide (sixOf t = [5, 0, 0, 6, 0, 7])) = true := by decide +kernel
theorem test_vredMax : okNext (exec (.vredMax (word 10 8 9 0 0)) six) (fun t => decide (t.vf.elem 10 32 0 = 10)) = true := by decide +kernel
/-- R96 (worked example): 2^24 and four ones, by the tree and in sequence. -/
def sums : State := (vec 0x14 5 4).onVf fun f =>
  { f with v := [(8, BitVec.ofNat 2048 (leNat ([0x4B800000, 0x3F800000, 0x3F800000, 0x3F800000, 0x3F800000].flatMap (leBytes 4))))], vdirty := 0x100 }
theorem test_vfredsum : okNext (exec (.vfredsum (word 10 8 9 0 0)) sums) (fun t => decide (t.vf.elem 10 32 0 = 0x4B800002) &&
    decide (t.csr Csr.fflags = 1)) = true := by decide +kernel
theorem test_vfredosum : okNext (exec (.vfredosum (word 10 8 9 0 0)) sums) (fun t => decide (t.vf.elem 10 32 0 = 0x4B800000)) = true := by decide +kernel
/-- R74, R75: 8-bit addition wraps. -/
theorem test_vadd_wraps : okNext (exec (.vadd (word 10 8 9 0 0)) (bytes8.onVf fun f => { f with v := [(8, 0xFF), (9, 0x01)], vdirty := 0x300 })) (fun t =>
    decide (t.vf.elem 10 8 0 = 0)) = true := by decide +kernel
/-- R264, R391: SYSC traps with its argument; MODE becomes S and PC the vector. -/
theorem test_sysc : okNext (exec (.sysc 6) ((base.xs [(6, 0x77)]).csrs [(Csr.tvec, 0x4000)])) (fun t =>
    decide (t.csr Csr.tcause = BitVec.ofNat 64 Cause.syscall) && decide (t.csr Csr.tval = 0x77) && decide (t.pc = 0x4000) &&
      decide (t.me.a.mode = .s)) = true := by decide +kernel
/-- R196: AMO.ADD of a word writes the sum and returns the old value sign-extended. -/
theorem test_amo_add : okNext (exec (.amoAdd 0 0 0 5 6 7) ((base.xs [(6, 0x800), (7, 1)]).mems [(at_ 0x800, leBytes 4 0xFFFFFFFF)])) (fun t =>
    decide (t.x 5 = 0xFFFFFFFFFFFFFFFF) && decide ((List.range 4).map (fun i => t.clusterByte 0 (t.hartMark 0) (at_ 0x800 + i)) = [0, 0, 0, 0])) = true := by
  decide +kernel
/-- R267: CSRRS with x0 reads CYCLE. -/
theorem test_csr_cycle : okNext (exec (.csrrs 5 0 0xC00) { base with cycle := 1234 }) (fun t => decide (t.x 5 = 1234)) = true := by decide +kernel
/-- R385 (worked example): the leaf 0x0070_0000_0813_21D7 maps 0x2001_2344 to 0x0813_2344. -/
theorem test_leaf : ptePa 0x00700000081321D7 + 0x20012344 % leafSize 0 = 0x08132344 := by decide +kernel
/-- R23: an instruction at the PC is fetched and executed by a step. -/
theorem test_step_addi : okNext (step (State.reset.withFetchWord 32 0xFFF4C50B)) (fun t => decide (t.x 5 = 0xFFFFFFFFFFFFFFFD) && decide (t.pc = 4)) = true := by
  decide +kernel

/-! Encoding, and the step. -/

/-- DecodeOfEncode, EncodeOfDecode: each shape at a boundary of its fields, with bytes behind it. -/
theorem wit_DecodeOfEncode :
    [Instr.addC 31, .ldC 31 15, .addi 31 31 0x2000, .bgen 31 31 0x1FFF, .jal 31 0x40000, .fnms 3 31 31 31 31, .amoAdd 3 3 1 31 31 31, .l2hintFetch 0 31 31,
      .csrrw 31 31 0xFFF, .vsetli 10 8 0x110D, .illegalInstruction 0, .convoy 0x200091FF [0x0000022090188842, 0x0000000000310840]].map wellFormed =
      [true, true, true, true, true, true, true, true, true, true, true, true] ∧
    ((encode (.jal 31 0x40000)).any fun b => decide (decode (b ++ [0xFF, 0xFF]) = .ok (.instr (.jal 31 0x40000), 4))) = true ∧
    ((encode (.l2hintFetch 0 31 31)).any fun b => decide (decode (b ++ [1]) = .ok (.l2hint 0 31 31, 4))) = true ∧
    ((encode (.convoy 0x200091FF [0x0000022090188842, 0x0000000000310840])).any fun b => decide (b.length = 20)) = true := by decide +kernel

/-- A hart, or two of one gang in lockstep, whose next turn fetches these bytes. -/
def fetching (bs : List Byte) (locked : Bool) : State :=
  let s := State.reset.placeCode bs
  if locked then
    let x := { s.me with gang := [0, 1], a := { s.me.a with lock := true } }
    { s with harts := [(0, x), (1, x)] }
  else s
/-- What StepRunsDecoded asks of the state before the fetch. -/
def mayIssue (s : State) : Bool :=
  let a : State := { s with agenda := [] }
  let u := (a.rouse 0).settle 0
  decide (s.agenda = [.run 0]) && (a.haltPoint 0).isNone && (match execInterruptTake 0 a with | .next _ => false | _ => true) && u.canRun 0 &&
    !u.heldForEvent 0 && (u.hart 0).resumeTrap.isNone && (u.cutFor 0).isNone
/-- The state in which it fetches. -/
def fetches (s : State) : State := (((({ s with agenda := [] } : State).rouse 0).settle 0).as 0).onHart 0 fun x => x.setStatus .running

/-- StepRunsDecoded: a compact instruction, one of 32 bits, the hint of the L2, a convoy, and two harts in lockstep. -/
theorem wit_StepRunsDecoded :
    let c := fetching (leBytes 2 0x0384) false
    let w := fetching (leBytes 4 0xFFF4C50B) false
    let h := fetching ((encode (.l2hintFetch 0 1 2)).getD []) false
    let v := fetching (leBytes 4 0x200091FF ++ leBytes 8 0x0000022090188842 ++ leBytes 8 0x0000000000310840) false
    let g := fetching (leBytes 4 0xFFF4C50B) true
    let alone (s : State) : Bool := decide (((({ s with agenda := [] } : State).rouse 0).settle 0).turnOf 0 = .alone)
    (mayIssue c && alone c && okRes ((fetches c).codeBytes 2) fun r => decide (decode r.1 = .ok (.instr (.addC 7), 2))) = true ∧
    (mayIssue w && alone w && okRes ((fetches w).codeBytes 2) fun r => decide (leNat (r.1.take 1) % 4 = 3) &&
      okRes (r.2.codeBytes 4) fun r => decide (decode r.1 = .ok (.instr (.addi 5 6 0x3FFD), 4))) = true ∧
    (mayIssue h && alone h && okRes ((fetches h).codeBytes 2) fun r => okRes (r.2.codeBytes 4) fun r => decide (decode r.1 = .ok (.l2hint 0 1 2, 4))) = true ∧
    (mayIssue v && alone v && okRes ((fetches v).codeBytes 2) fun r => okRes (r.2.codeBytes 4) fun r => decide (r.1.take 1 = [0xFF]) &&
      okRes (r.2.codeBytes 20) fun r => decide (decode r.1 = .ok (.convoy 0x200091FF [0x0000022090188842, 0x0000000000310840], 20))) = true ∧
    (mayIssue g && decide (((({ g with agenda := [] } : State).rouse 0).settle 0).turnOf 0 = .together) &&
      okRes (fetches g).fetch (fun r => decide (r.1 = .ready (.instr (.addi 5 6 0x3FFD))) &&
        decide ((r.2.as 1).branchNext r.1 = (r.2.as 0).branchNext r.1) && decide ((r.2.as 1).pc = (r.2.as 0).pc))) = true := by decide +kernel

end Sys2Proof.Tests
end

section
/-! Proofs of the statements on machine state (spec/01): what a commit leaves of its hart, the return from a trap (R19, R24, R265), the writes
of CSRs (R13-R17), and the state after reset. -/

namespace Sys2Proof.Machine

/-! A hart whose chunk has committed. -/

@[simp] theorem Hart.committed_chunk (c : Chunk) (x : Hart) : (x.committed c).chunk = none := rfl
@[simp] theorem Hart.committed_ctx (c : Chunk) (x : Hart) : (x.committed c).ctx = x.ctx := rfl
@[simp] theorem Hart.committed_lspOld (c : Chunk) (x : Hart) : (x.committed c).lspOld = x.lspOld := rfl
@[simp] theorem Hart.committed_a_mode (c : Chunk) (x : Hart) : (x.committed c).a.mode = x.a.mode := rfl
@[simp] theorem Hart.committed_a_pc (c : Chunk) (x : Hart) : (x.committed c).a.pc = x.a.pc := rfl
@[simp] theorem Hart.committed_a_rt (c : Chunk) (x : Hart) : (x.committed c).a.rt = x.a.rt := rfl
@[simp] theorem Hart.committed_x (c : Chunk) (x : Hart) (r : Reg) : (x.committed c).x r = x.x r := rfl
@[simp] theorem Hart.committed_f (c : Chunk) (x : Hart) (r : Reg) : (x.committed c).f r = x.f r := rfl

/-- The CSRs after a commit: INSTRET, SIGLO and SIGHI are written (R290, R367). -/
theorem Hart.committed_csr (c : Chunk) (x : Hart) (n : Nat) :
    (x.committed c).csr n = (((x.setCsr Csr.instret (x.csr Csr.instret + BitVec.ofNat 64 c.count)).setCsr Csr.siglo
      (c.sig.setWidth 64)).setCsr Csr.sighi ((c.sig >>> 64).setWidth 64)).csr n := rfl

theorem Hart.committed_csr_ne (c : Chunk) (x : Hart) {n : Nat} (hw : mapWf 0 x.a.csr = true)
    (hn : n ∉ [Csr.instret, Csr.siglo, Csr.sighi]) : (x.committed c).csr n = x.csr n := by
  simp only [List.mem_cons, List.not_mem_nil, or_false, not_or] at hn
  obtain ⟨h1, h2, h3⟩ := hn
  have w1 := fun v => x.wf_setCsr Csr.instret v hw
  have w2 := fun v => (x.setCsr Csr.instret v).wf_setCsr Csr.siglo (c.sig.setWidth 64) (w1 v)
  rw [Hart.committed_csr, Hart.csr_setCsr_ne _ _ (w2 _) h3, Hart.csr_setCsr_ne _ _ (w1 _) h2, Hart.csr_setCsr_ne _ _ hw h1]

/-! A hart that has retired keeps its mode, its PC, its route registers and its CSRs. -/

@[simp] theorem Hart.retire_a_mode (n : Nat) (pc : Word) (x : Hart) : (x.retire n pc).a.mode = x.a.mode := by
  obtain ⟨q, h⟩ := x.retire_a n pc
  rw [h]
@[simp] theorem Hart.retire_a_pc (n : Nat) (pc : Word) (x : Hart) : (x.retire n pc).a.pc = x.a.pc := by
  obtain ⟨q, h⟩ := x.retire_a n pc
  rw [h]
@[simp] theorem Hart.retire_a_rt (n : Nat) (pc : Word) (x : Hart) : (x.retire n pc).a.rt = x.a.rt := by
  obtain ⟨q, h⟩ := x.retire_a n pc
  rw [h]
@[simp] theorem Hart.retire_a_csr (n : Nat) (pc : Word) (x : Hart) : (x.retire n pc).a.csr = x.a.csr := by
  obtain ⟨q, h⟩ := x.retire_a n pc
  rw [h]

/-! The hart that has returned from its trap. -/

theorem shift_and_two (v : Word) : ((v >>> 1) &&& 2 : Word) = if v.getLsbD 2 then 2#64 else 0 := by
  have h : ((v >>> 1) &&& 2 : Word) = if (v >>> 1).getLsbD 1 then BitVec.twoPow 64 1 else 0 := BitVec.and_twoPow (v >>> 1) 1
  rw [h, BitVec.getLsbD_ushiftRight]
  rfl

/-- The return of R19, with the record of a pending operation kept for the parked instruction alone (R202). -/
def Hart.returned (x : Hart) : Hart :=
  { x with pending := x.pending.filter fun p => bit (x.csr Csr.tstat) 5 && decide (p.pc = x.csr Csr.tepc &&& ~~~1#64) }.leaveTrap

@[simp] theorem Hart.returned_a_mode (x : Hart) : x.returned.a.mode = if (x.csr Csr.tstat).getLsbD 0 then .s else .t := rfl
@[simp] theorem Hart.returned_x (x : Hart) (r : Reg) : x.returned.x r = x.x r := rfl
@[simp] theorem Hart.returned_f (x : Hart) (r : Reg) : x.returned.f r = x.f r := rfl
@[simp] theorem Hart.returned_a_rt (x : Hart) : x.returned.a.rt = x.a.rt := rfl

theorem Hart.returned_a_pc (x : Hart) (hw : mapWf 0 x.a.csr = true) : x.returned.a.pc = x.csr Csr.tepc &&& ~~~1#64 := by
  show (x.setCsr Csr.tstat _).csr Csr.tepc &&& ~~~1#64 = _
  rw [Hart.csr_setCsr_ne _ _ hw (by decide)]

theorem Hart.returned_tstat (x : Hart) (hw : mapWf 0 x.a.csr = true) :
    x.returned.csr Csr.tstat = (if (x.csr Csr.tstat).getLsbD 2 then 2#64 else 0) ||| 4 ||| (x.csr Csr.tstat &&& 16) := by
  rw [← shift_and_two]
  exact Hart.csr_setCsr_self x _ _ hw

theorem Hart.returned_csr_ne (x : Hart) {n : Nat} (hw : mapWf 0 x.a.csr = true) (hn : n ≠ Csr.tstat) :
    x.returned.csr n = x.csr n :=
  Hart.csr_setCsr_ne x _ hw hn

theorem Hart.wf_returned (x : Hart) (hw : mapWf 0 x.a.csr = true) : mapWf 0 x.returned.a.csr = true :=
  Hart.wf_setCsr x _ _ hw

/-- TRET in S-mode in no replayed trap changes its hart alone: the hart returns, and its chunk commits (R265, R289). -/
theorem tret_hartOnly {s : State} (hs : s.fresh = true) (hm : s.me.a.mode = .s) (ht : s.me.trapAt = none) :
    ∃ k t, exec .tret s = .next t ∧
      HartOnly (Hart.committed ((s.newChunk false).more 1) (((s.me.inChunk (s.newChunk false)).returned.retire 1 s.pc).asking k)) s t := by
  have ho := HartOnly.openChunk s Shape.last.own
  have hm' : (s.openChunk Shape.last.own).me.a.mode = .s := by rw [ho.me]; exact hm
  have ht' : (s.openChunk Shape.last.own).me.trapAt = none := by rw [ho.me]; exact ht
  refine (run_hart_alone s .last _ Hart.returned hs ?_ rfl (calm_group (fresh_calm hs)) rfl rfl).imp fun k h => ⟨_, rfl, h⟩
  rw [← ho.cur]
  simp only [hm', ht', reduceCtorEq, if_false, csr_eq, onMe_eq, me_setHart_self, setHart_cur, setHart_setHart, Hart.returned]
  rfl

/-! The writes of CSRs. -/

/-- Where the map lets the hart write a register, its event performs the write. -/
theorem csrEvent_next {s : State} {n : Nat} (h : s.csrRefused n true = false) (f : State → State) : s.csrEvent n f = .next (f s) := by
  simp [State.csrEvent, h]

/-- FRM takes 0 to 5 and ignores the others (R16). -/
theorem writeFrm_eq (s : State) (v : Word) : s.writeFrm v = if bits v 2 0 < 6 then s.setCsr Csr.frm (v &&& 7) else s := by
  unfold State.writeFrm
  by_cases h : bits v 2 0 < 6
  · rw [if_pos h, if_neg (Nat.not_le.mpr h)]
  · rw [if_neg h, if_pos (Nat.not_lt.mp h)]

/-- A segment takes its new base or size where it stays within the grant (R274). -/
theorem writeSegment_eq (s : State) (size : Bool) (v : Word) :
    let g := s.myCore.segOf s.me.ctx
    let x := (v &&& 0xFF800#64).toNat
    let lo := if size then g.base else x
    let len := if size then x else g.size
    s.writeSegment size v =
      if g.grantBase ≤ lo ∧ lo + len ≤ g.grantBase + g.grantSize then
        (s.onMyCore fun k => { k with seg := mapPut k.seg s.me.ctx { g with base := lo, size := len } }).makeRoom s.me.ctx (coreOf s.cur)
      else s := by
  cases size <;> rfl

/-- Clearing RSETSTAT names its bit VALID (R247). -/
theorem clearRsetstat_valid (s : State) : s.clearRsetstat 0x100000000 = s.setCsr Csr.rsetstat 0 := rfl

/-- The bits that a write changes of a register with no rule of its own (R6, R14). -/
theorem csrMask_plain {n : Nat} (h : n ≠ Csr.rfinj) :
    csrMask n = if n = Csr.fflags ∨ n = Csr.ftrapen then 0x3F else if n = Csr.ldst then 0x1F else if n = Csr.lspswz then 0xF
      else if n = Csr.tcause then 0xFF else if n = Csr.tstat then 0x27 else BitVec.allOnes 64 := by
  rw [csrMask, if_neg h]

/-! The state after reset: every table is empty, and what is not listed reads as its first value. -/

theorem hart_reset (h : Nat) : State.reset.hart h = Hart.init := rfl
theorem key_reset (k : Nat) : State.reset.key k = KeySlot.init := rfl
theorem ctx_reset (n : Nat) : State.reset.ctx? n = none := rfl

/-- The parameters of R12, R334, R350, R357 and R417. -/
theorem resetParameters : Clause.ResetParameters :=
  ⟨rfl, rfl, rfl, rfl, rfl, rfl, fun k => by rw [key_reset]; rfl, fun h => by rw [hart_reset]; exact ⟨rfl, rfl⟩, ctx_reset, rfl, rfl, rfl, rfl⟩

/-- Memory and registers read zero (the model's choices: log 2, log 4). -/
theorem resetContents : Clause.ResetContents :=
  ⟨canon_reset.1, rfl, fun _ => rfl, fun h r => by rw [hart_reset]; exact ⟨rfl, rfl, rfl⟩⟩

end Sys2Proof.Machine

open Sys2Proof Sys2Proof.Machine

/-- Settles O9: the entry by `takeTrap_traps`, the return by what `Hart.returned` and the commit of its chunk leave. -/
theorem trapEntryAndReturn : Obligations.TrapEntryAndReturn := by
  intro s hs
  refine ⟨fun cause tval tval2 => takeTrap_traps s cause tval tval2 hs, fun hm ht hf => ?_⟩
  have hw : mapWf 0 (s.me.inChunk (s.newChunk false)).a.csr = true := calm_wf_csr (loose_calm hs)
  obtain ⟨k, t, he, h⟩ := tret_hartOnly hf hm ht
  have hcsr : ∀ n, n ∉ [Csr.instret, Csr.siglo, Csr.sighi] → t.csr n = (s.me.inChunk (s.newChunk false)).returned.csr n := by
    intro n hn
    rw [csr_eq, h.me, Hart.committed_csr_ne _ _ (by simpa using Hart.wf_returned _ hw) hn]
    simp
  refine ⟨t, he, ?_, ?_, ?_, fun r => ?_, fun r => ?_, fun n hn => ?_, ?_, ?_⟩
  · simp [h.me]
  · simp [h.me, Hart.returned_a_pc _ hw]
  · rw [hcsr _ (by decide), Hart.returned_tstat _ hw]
    rfl
  · simp [h.me]
  · simp [h.me]
  · obtain ⟨ht, hn⟩ := not_or.mp (List.mem_cons.not.mp hn)
    rw [hcsr n hn, Hart.returned_csr_ne _ hw ht]
    rfl
  · simp [h.me]
  · exact h.sameRest (fun loc b => by rw [Hart.committed_chunk, fresh_chunk hf]) rfl rfl

/-- Settles O36: each event performs the write of its register. -/
theorem csrWriteRules : Obligations.CsrWriteRules := by
  intro s v
  refine ⟨fun h => ?_, fun h => csrEvent_next h (·.writeVdirty v), fun size h => ?_, fun h => ?_,
    fun h => csrEvent_next h (·.writeRfinj v), fun num h hown => ?_⟩
  · rw [← writeFrm_eq]
    exact csrEvent_next h (·.writeFrm v)
  · show execLspSegmentWrite size v s = _
    rw [execLspSegmentWrite, csrEvent_next h, writeSegment_eq]
  · rw [← clearRsetstat_valid]
    exact csrEvent_next h (·.clearRsetstat 0x100000000)
  · have hrf : num.toNat ≠ Csr.rfinj := fun e => by simp [csrOwnRow, e] at hown
    show execCsrWrite num v s = _
    rw [execCsrWrite, if_neg (by simp [hown]), csrEvent_next h, State.writePlain, csrMask_plain hrf]

/-- Settles O60: the parameters of the device and the empty tables of the state after reset. -/
theorem resetValues : Obligations.ResetValues := ⟨resetParameters, resetContents⟩

end

section
/-! Proofs of the statements on the encoding (spec/02 R23-R45): bytes and numbers, the fields of a word in each format, and the round trips of
decoding and encoding. -/

namespace Sys2Proof
open Machine

/-! Bytes and numbers (R2). -/

theorem leBytes_mod (n v : Nat) : leBytes n (v % 256 ^ n) = leBytes n v := by
  induction n generalizing v with
  | zero => rfl
  | succ n ih =>
    have hlow : BitVec.ofNat 8 (v % 256 ^ (n + 1)) = BitVec.ofNat 8 v := BitVec.eq_of_toNat_eq (by simp [Nat.pow_succ])
    have hhigh : v % 256 ^ (n + 1) / 256 = v / 256 % 256 ^ n := by rw [Nat.pow_succ, Nat.mul_comm, Nat.mod_mul_right_div_self]
    rw [leBytes, leBytes, hlow, hhigh, ih]

theorem leBytes_leNat (bs : List Byte) : leBytes bs.length (leNat bs) = bs := by
  induction bs with
  | nil => rfl
  | cons b bs ih =>
    have hlow : BitVec.ofNat 8 (b.toNat + 256 * leNat bs) = b := BitVec.eq_of_toNat_eq (by simpa [Nat.add_mul_mod_self_left] using b.isLt)
    have hhigh : (b.toNat + 256 * leNat bs) / 256 = leNat bs := by have := b.isLt; omega
    rw [List.length_cons, leNat, leBytes, hlow, hhigh, ih]

theorem leNat_leBytes (n v : Nat) : leNat (leBytes n v) = v % 256 ^ n := by
  induction n generalizing v with
  | zero => simp [leNat, leBytes, Nat.mod_one]
  | succ n ih => rw [leBytes, leNat, ih, Nat.pow_succ, Nat.mul_comm (256 ^ n), Nat.mod_mul]; simp

theorem leNat_take (bs : List Byte) (n : Nat) : leNat (bs.take n) = leNat bs % 256 ^ n := by
  induction n generalizing bs with
  | zero => simp [leNat, Nat.mod_one]
  | succ n ih =>
    cases bs with
    | nil => simp [leNat]
    | cons b bs =>
      have hlow : (b.toNat + 256 * leNat bs) % 256 = b.toNat := by have := b.isLt; omega
      have hhigh : (b.toNat + 256 * leNat bs) / 256 = leNat bs := by have := b.isLt; omega
      rw [List.take_succ_cons, leNat, leNat, ih, Nat.pow_succ, Nat.mul_comm (256 ^ n), Nat.mod_mul, hlow, hhigh]

/-- The low n bytes of what a longer list holds as a number are its first n bytes. -/
theorem leBytes_leNat_take {bs : List Byte} {n : Nat} (h : n ≤ bs.length) : leBytes n (leNat bs) = bs.take n := by
  rw [← leBytes_mod, ← leNat_take]
  simpa [h] using leBytes_leNat (bs.take n)

theorem bytes64_length (ws : List (BitVec 64)) : (bytes64 ws).length = 8 * ws.length := by
  induction ws with
  | nil => rfl
  | cons w ws ih => rw [bytes64, List.length_append, leBytes_length, ih, List.length_cons]; omega

theorem words64_length (n : Nat) (bs : List Byte) : (words64 n bs).length = n := by
  induction n generalizing bs with
  | zero => rfl
  | succ n ih => rw [words64, List.length_cons, ih]

theorem words64_bytes64 (ws : List (BitVec 64)) (rest : List Byte) : words64 ws.length (bytes64 ws ++ rest) = ws := by
  induction ws with
  | nil => rfl
  | cons w ws ih =>
    have hlen := leBytes_length 8 w.toNat
    rw [bytes64, List.append_assoc, List.length_cons, words64, List.take_left' hlen, List.drop_left' hlen, ih, leNat_leBytes,
      show BitVec.ofNat 64 (w.toNat % 256 ^ 8) = w from BitVec.eq_of_toNat_eq (by simpa using w.isLt)]

theorem bytes64_words64 {n : Nat} {bs : List Byte} (h : 8 * n ≤ bs.length) : bytes64 (words64 n bs) = bs.take (8 * n) := by
  induction n generalizing bs with
  | zero => rfl
  | succ n ih =>
    have hword : leBytes 8 (BitVec.ofNat 64 (leNat (bs.take 8))).toNat = bs.take 8 := by
      rw [BitVec.toNat_ofNat, show (2 : Nat) ^ 64 = 256 ^ 8 from rfl, leBytes_mod, leBytes_leNat_take (by simp; omega), List.take_take]
      rfl
    rw [words64, bytes64, hword, ih (by simp; omega), ← List.take_add, Nat.mul_succ, Nat.add_comm]

/-! The first word of what is decoded. -/

theorem firstWord_append (w : BitVec 32) (rest : List Byte) : BitVec.ofNat 32 (leNat ((leBytes 4 w.toNat ++ rest).take 4)) = w := by
  rw [List.take_left' (leBytes_length 4 w.toNat), leNat_leBytes]
  exact BitVec.eq_of_toNat_eq (by simpa using w.isLt)

theorem firstHalf_append (w : BitVec 16) (rest : List Byte) :
    (BitVec.ofNat 32 (leNat ((leBytes 2 w.toNat ++ rest).take 4))).setWidth 16 = w := by
  apply BitVec.eq_of_toNat_eq
  have hw : leNat (leBytes 2 w.toNat ++ rest) % 256 ^ 2 = w.toNat := by
    rw [← leNat_take, List.take_left' (leBytes_length 2 w.toNat), leNat_leBytes]
    omega
  rw [BitVec.toNat_setWidth, BitVec.toNat_ofNat, leNat_take]
  omega

theorem fMajor_eq (w : BitVec 32) : fMajor w = w.toNat / 4 % 64 := by
  simp [fMajor, Nat.shiftRight_eq_div_pow]

/-! The fields of a word in each format (R30). -/

section Fields
variable (f : BitVec 9) (rs3 rs2 rs1 rd : Reg) (m : BitVec 6) (imm : BitVec 14) (disp : BitVec 10) (far : BitVec 19) (p q : BitVec 2)

theorem xa_fields :
    fMajor (xa f rs2 rs1 rd m) = m.toNat ∧ fRd (xa f rs2 rs1 rd m) = rd ∧ fRs1 (xa f rs2 rs1 rd m) = rs1 ∧
    fRs2 (xa f rs2 rs1 rd m) = rs2 ∧ fFunc9 (xa f rs2 rs1 rd m) = f.toNat := by
  simp (disch := decide) only [fMajor, fRd, fRs1, fRs2, fFunc9, xa, BitVec.extractLsb'_append_eq_of_le,
    BitVec.extractLsb'_append_eq_of_add_le, BitVec.extractLsb'_eq_self, Nat.reduceSub, and_self]

/-- The parts of func9: of an atomic (R196), a remote atomic (R236), a floating operation (R113) and a fence (R199). -/
theorem xa_func9_parts :
    fOrd (xa f rs2 rs1 rd m) = f.extractLsb' 7 2 ∧ fScope (xa f rs2 rs1 rd m) = f.extractLsb' 5 2 ∧
    fSize (xa f rs2 rs1 rd m) = f.extractLsb' 4 1 ∧ fAmoOp (xa f rs2 rs1 rd m) = (f.extractLsb' 0 4).toNat ∧
    fRamoKey (xa f rs2 rs1 rd m) = (f.extractLsb' 5 4 ++ f.extractLsb' 0 4).toNat ∧
    fFopOp (xa f rs2 rs1 rd m) = (f.extractLsb' 2 7).toNat ∧ fFmtA (xa f rs2 rs1 rd m) = f.extractLsb' 0 2 ∧
    fFenceKind (xa f rs2 rs1 rd m) = (f.extractLsb' 3 6).toNat ∧ fScope3 (xa f rs2 rs1 rd m) = f.extractLsb' 0 3 := by
  have hkey (a b : BitVec 4) : a.toNat * 16 + b.toNat = (a ++ b).toNat := by
    rw [BitVec.toNat_append, ← Nat.shiftLeft_add_eq_or_of_lt b.isLt, Nat.shiftLeft_eq]
  simp (disch := decide) only [fOrd, fScope, fSize, fAmoOp, fRamoKey, hkey, fFopOp, fFmtA, fFenceKind, fScope3, xa,
    BitVec.extractLsb'_append_eq_of_le, Nat.reduceSub, and_self]

theorem xi_fields :
    fMajor (xi imm rs1 rd m) = m.toNat ∧ fRd (xi imm rs1 rd m) = rd ∧ fRs1 (xi imm rs1 rd m) = rs1 ∧ fImm14 (xi imm rs1 rd m) = imm := by
  simp (disch := decide) only [fMajor, fRd, fRs1, fImm14, xi, BitVec.extractLsb'_append_eq_of_le,
    BitVec.extractLsb'_append_eq_of_add_le, BitVec.extractLsb'_eq_self, Nat.reduceSub, and_self]

/-- The parts of imm14: of a shift (R31) and a CSR instruction (R35). -/
theorem xi_imm14_parts :
    fSh (xi imm rs1 rd m) = imm.extractLsb' 0 6 ∧ fShiftOp (xi imm rs1 rd m) = (imm.extractLsb' 12 2).toNat ∧
    fCsrForm (xi imm rs1 rd m) = (imm.extractLsb' 12 2).toNat ∧ fCsrOp (xi imm rs1 rd m) = (imm.extractLsb' 10 2).toNat ∧
    fNum12 (xi imm rs1 rd m) = imm.extractLsb' 0 12 ∧ fNum10 (xi imm rs1 rd m) = imm.extractLsb' 0 10 := by
  simp (disch := decide) only [fSh, fShiftOp, fCsrForm, fCsrOp, fNum12, fNum10, xi, BitVec.extractLsb'_append_eq_of_le,
    Nat.reduceSub, and_self]

theorem xm_fields :
    fMajor (xm disp p q rs1 rd m) = m.toNat ∧ fRd (xm disp p q rs1 rd m) = rd ∧ fRs1 (xm disp p q rs1 rd m) = rs1 ∧
    fImm10 (xm disp p q rs1 rd m) = disp ∧ fXmForm (xm disp p q rs1 rd m) = (p ++ q).toNat := by
  have hform (w : BitVec 32) : fXmForm w = (w.extractLsb' 20 2 ++ w.extractLsb' 18 2).toNat := by
    rw [BitVec.extractLsb'_append_extractLsb'_eq_extractLsb' (by decide : 20 = 18 + 2)]; rfl
  simp (disch := decide) only [fMajor, fRd, fRs1, fImm10, hform, xm, BitVec.extractLsb'_append_eq_of_le,
    BitVec.extractLsb'_append_eq_of_add_le, BitVec.extractLsb'_eq_self, Nat.reduceSub, and_self]

theorem xb_fields :
    fMajor (xb imm rs2 rs1 m) = m.toNat ∧ fRd (xb imm rs2 rs1 m) = rs1 ∧ fRs1 (xb imm rs2 rs1 m) = rs2 ∧
    fImm14 (xb imm rs2 rs1 m) = imm := by
  simp (disch := decide) only [fMajor, fRd, fRs1, fImm14, xb, BitVec.extractLsb'_append_eq_of_le,
    BitVec.extractLsb'_append_eq_of_add_le, BitVec.extractLsb'_eq_self, Nat.reduceSub, and_self]

theorem xl_fields : fMajor (xl far rd m) = m.toNat ∧ fRd (xl far rd m) = rd ∧ fImm19 (xl far rd m) = far := by
  simp (disch := decide) only [fMajor, fRd, fImm19, xl, BitVec.extractLsb'_append_eq_of_le,
    BitVec.extractLsb'_append_eq_of_add_le, BitVec.extractLsb'_eq_self, Nat.reduceSub, and_self]

theorem xf4_fields :
    fMajor (xf4 p q rs3 rs2 rs1 rd m) = m.toNat ∧ fRd (xf4 p q rs3 rs2 rs1 rd m) = rd ∧ fRs1 (xf4 p q rs3 rs2 rs1 rd m) = rs1 ∧
    fRs2 (xf4 p q rs3 rs2 rs1 rd m) = rs2 ∧ fRs3 (xf4 p q rs3 rs2 rs1 rd m) = rs3 ∧ fFmt4 (xf4 p q rs3 rs2 rs1 rd m) = q ∧
    fXf4Op (xf4 p q rs3 rs2 rs1 rd m) = p.toNat := by
  simp (disch := decide) only [fMajor, fRd, fRs1, fRs2, fRs3, fFmt4, fXf4Op, xf4, BitVec.extractLsb'_append_eq_of_le,
    BitVec.extractLsb'_append_eq_of_add_le, BitVec.extractLsb'_eq_self, Nat.reduceSub, and_self]

/-- A word of format XA is made of its fields. -/
theorem xa_of_fields {w : BitVec 32} (h : w.toNat % 4 = 3) :
    xa (w.extractLsb' 23 9) (fRs2 w) (fRs1 w) (fRd w) (w.extractLsb' 2 6) = w := by
  have hlow : (3#2) = w.extractLsb' 0 2 := BitVec.eq_of_toNat_eq (by simp [h])
  simp only [xa, fRs2, fRs1, fRd]
  rw [BitVec.extractLsb'_append_extractLsb'_eq_extractLsb' (by decide : 23 = 18 + 5),
    BitVec.extractLsb'_append_extractLsb'_eq_extractLsb' (by decide : 18 = 13 + 5),
    BitVec.extractLsb'_append_extractLsb'_eq_extractLsb' (by decide : 13 = 8 + 5),
    BitVec.extractLsb'_append_extractLsb'_eq_extractLsb' (by decide : 8 = 2 + 6), hlow,
    BitVec.extractLsb'_append_extractLsb'_eq_extractLsb' (by decide : 2 = 0 + 2)]
  exact BitVec.extractLsb'_eq_self

end Fields

/-! The low bits of a word (R23). -/

theorem append_three_mod {n : Nat} (x : BitVec n) : (x ++ 3#2).toNat % 4 = 3 := by
  rw [BitVec.toNat_append, ← Nat.shiftLeft_add_eq_or_of_lt (by decide), Nat.shiftLeft_eq]
  simp

theorem encode32_low {i : Instr} {w : BitVec 32} (h : encode32 i = some w) : w.toNat % 4 = 3 := by
  cases i
  all_goals cases h
  all_goals exact append_three_mod _

theorem isL2hint_xa (rd rs1 rs2 : Reg) : isL2hint (xa 0x1a rs2 rs1 rd 30) = true := by
  have hlow : (xa 26#9 rs2 rs1 rd 30#6).toNat % 4 = 3 := append_three_mod _
  simp [isL2hint, xa_fields, hlow]

/-! The candidate of the decoder for an encoded word, by the groups of majors of R37: integers; memory, control and floating point;
synchronisation, queues and routes; and streams, timed phases, CSRs, harts and vector transfers. -/

theorem decodeMajor_encode32_integer {i : Instr} {w : BitVec 32} (h : encode32 i = some w) (hm : fMajor w < 11) : decodeMajor w = some i := by
  cases i
  all_goals cases h
  all_goals simp only [xa_fields, xi_fields, xm_fields, xb_fields, xl_fields, xf4_fields, BitVec.ofNat_eq_ofNat, BitVec.reduceToNat,
    Nat.reduceLT] at hm
  all_goals simp (disch := decide) only [decodeMajor, decodeOp, decodeOpw, decodeShift, xa_fields, xi_fields, xi_imm14_parts, xl_fields,
    BitVec.extractLsb'_append_eq_of_le, BitVec.extractLsb'_append_eq_of_add_le, BitVec.extractLsb'_eq_self, BitVec.ofNat_eq_ofNat,
    BitVec.reduceToNat, BitVec.reduceAppend, BitVec.reduceExtractLsb', Nat.reduceSub]

theorem decodeMajor_encode32_memory {i : Instr} {w : BitVec 32} (h : encode32 i = some w) (hm : 11 ≤ fMajor w) (hm' : fMajor w < 26) :
    decodeMajor w = some i := by
  cases i
  all_goals cases h
  all_goals simp only [xa_fields, xi_fields, xm_fields, xb_fields, xl_fields, xf4_fields, BitVec.ofNat_eq_ofNat, BitVec.reduceToNat,
    Nat.reduceLT, Nat.reduceLeDiff] at hm hm'
  all_goals simp (disch := decide) only [decodeMajor, decodeLd, decodeSt, decodeFld, decodeFst, decodeAmo, decodeFop, decodeFma,
    xa_fields, xa_func9_parts, xi_fields, xm_fields, xb_fields, xl_fields, xf4_fields, BitVec.extractLsb'_append_eq_of_le,
    BitVec.extractLsb'_append_eq_of_add_le, BitVec.extractLsb'_eq_self, BitVec.ofNat_eq_ofNat, BitVec.reduceToNat, BitVec.reduceAppend,
    Nat.reduceSub]

theorem decodeMajor_encode32_sync {i : Instr} {w : BitVec 32} (h : encode32 i = some w) (hm : 26 ≤ fMajor w) (hm' : fMajor w < 30) :
    decodeMajor w = some i := by
  cases i
  all_goals cases h
  all_goals simp only [xa_fields, xi_fields, xm_fields, xb_fields, xl_fields, xf4_fields, BitVec.ofNat_eq_ofNat, BitVec.reduceToNat,
    Nat.reduceLT, Nat.reduceLeDiff] at hm hm'
  all_goals simp (disch := decide) only [decodeMajor, decodeSync, decodeQueue, decodeRoute, xa_fields, xa_func9_parts, xb_fields,
    BitVec.extractLsb'_append_eq_of_le, BitVec.extractLsb'_append_eq_of_add_le, BitVec.extractLsb'_eq_self, BitVec.ofNat_eq_ofNat,
    BitVec.reduceToNat, BitVec.reduceAppend, BitVec.reduceExtractLsb', Nat.reduceSub]

theorem decodeMajor_encode32_system {i : Instr} {w : BitVec 32} (h : encode32 i = some w) (hm : 30 ≤ fMajor w)
    (hint : ∀ rd rs1 rs2, i ≠ .l2hintFetch rd rs1 rs2 ∧ i ≠ .l2hintDemote rd rs1 rs2 ∧ i ≠ .l2hintCounters rd rs1 rs2) : decodeMajor w = some i := by
  cases i
  all_goals cases h
  all_goals simp only [xa_fields, xi_fields, xm_fields, xb_fields, xl_fields, xf4_fields, BitVec.ofNat_eq_ofNat, BitVec.reduceToNat,
    Nat.reduceLeDiff] at hm
  case l2hintFetch.refl rd rs1 rs2 => exact absurd rfl (hint rd rs1 rs2).1
  case l2hintDemote.refl rd rs1 rs2 => exact absurd rfl (hint rd rs1 rs2).2.1
  case l2hintCounters.refl rd rs1 rs2 => exact absurd rfl (hint rd rs1 rs2).2.2
  all_goals simp (disch := decide) only [decodeMajor, decodeStream, decodeTimed, decodeCsr, decodeHart, decodeVx, xa_fields,
    xi_fields, xi_imm14_parts, BitVec.extractLsb'_append_eq_of_le, BitVec.extractLsb'_append_eq_of_add_le, BitVec.extractLsb'_eq_self,
    BitVec.ofNat_eq_ofNat, BitVec.reduceToNat, BitVec.reduceAppend, BitVec.reduceExtractLsb',
    Nat.reduceSub]

theorem decodeMajor_encode32 {i : Instr} {w : BitVec 32} (h : encode32 i = some w)
    (hint : ∀ rd rs1 rs2, i ≠ .l2hintFetch rd rs1 rs2 ∧ i ≠ .l2hintDemote rd rs1 rs2 ∧ i ≠ .l2hintCounters rd rs1 rs2) :
    decodeMajor w = some i := by
  rcases Nat.lt_or_ge (fMajor w) 11 with h1 | h1
  · exact decodeMajor_encode32_integer h h1
  rcases Nat.lt_or_ge (fMajor w) 26 with h2 | h2
  · exact decodeMajor_encode32_memory h h1 h2
  rcases Nat.lt_or_ge (fMajor w) 30 with h3 | h3
  · exact decodeMajor_encode32_sync h h2 h3
  · exact decodeMajor_encode32_system h h3 hint

theorem decodeMajor_of_isL2hint {w : BitVec 32} (h : isL2hint w = true) : decodeMajor w = none := by
  obtain ⟨⟨-, hm⟩, hf⟩ : (w.toNat % 4 = 3 ∧ fMajor w = 30) ∧ fFunc9 w = 0x1A := by simpa [isL2hint] using h
  simp only [decodeMajor, hm, decodeStream, hf]

theorem decodeMajor_header {w : BitVec 32} (h : w.toNat % 256 = 255) : decodeMajor w = none := by
  have hm : fMajor w = 63 := by rw [fMajor_eq]; omega
  simp only [decodeMajor, hm]

theorem decodeQuadrant_encodeC {i : Instr} {w : BitVec 16} (h : encodeC i = some w) : decodeQuadrant w = some i := by
  cases i
  all_goals cases h
  all_goals simp (disch := decide) only [decodeQuadrant, cw, cReg, cImm, BitVec.extractLsb'_append_eq_of_le,
    BitVec.extractLsb'_append_eq_of_add_le, BitVec.extractLsb'_eq_self, BitVec.ofNat_eq_ofNat, BitVec.reduceToNat, Nat.reduceSub]

theorem decodeC_encodeC {i : Instr} {w : BitVec 16} (hi : wellFormed i = true) (h : encodeC i = some w) : decodeC w = .ok i := by
  simp [decodeC, decodeQuadrant_encodeC h, hi, h]

/-- No compact form stands in quadrant 3, which announces a longer instruction (R23). -/
theorem encodeC_low {i : Instr} {w : BitVec 16} (h : encodeC i = some w) : w.toNat % 4 ≠ 3 := by
  intro h3
  have hq : (w.extractLsb' 0 2).toNat = 3 := by simpa using h3
  have := decodeQuadrant_encodeC h
  rw [decodeQuadrant, hq] at this
  cases this

/-! The bytes of an instruction, and what `decode` makes of bytes. -/

theorem encode_of_encodeC {i : Instr} {w : BitVec 16} (h : encodeC i = some w) : encode i = some (leBytes 2 w.toNat) := by
  unfold encode
  split
  · cases h
  · rw [h]

theorem encode_of_encode32 {i : Instr} {w : BitVec 32} (hc : encodeC i = none) (h : encode32 i = some w) :
    encode i = some (leBytes 4 w.toNat) := by
  unfold encode
  split
  · cases h
  · rw [hc, h]; rfl

/-- The bytes of an instruction that is no convoy are those of its halfword or of its word. -/
theorem encode_cases {i : Instr} {bs : List Byte} (hi : ∀ h ws, i ≠ .convoy h ws) (h : encode i = some bs) :
    (∃ w, encodeC i = some w ∧ bs = leBytes 2 w.toNat) ∨ ∃ w, encode32 i = some w ∧ bs = leBytes 4 w.toNat := by
  unfold encode at h
  split at h
  · exact absurd rfl (hi _ _)
  · split at h
    next w hw => exact .inl ⟨w, hw, (Option.some.inj h).symm⟩
    next =>
      obtain ⟨w, hw, hb⟩ := Option.map_eq_some_iff.mp h
      exact .inr ⟨w, hw, hb.symm⟩

theorem isL2hint_low {w : BitVec 32} (h : isL2hint w = true) : w.toNat % 4 = 3 ∧ w.toNat % 256 ≠ 255 := by
  obtain ⟨⟨h3, hm⟩, -⟩ : (w.toNat % 4 = 3 ∧ fMajor w = 30) ∧ fFunc9 w = 0x1A := by simpa [isL2hint] using h
  rw [fMajor_eq] at hm
  omega

theorem isL2hint_header {w : BitVec 32} (hf : w.toNat % 256 = 255) : isL2hint w = false :=
  Bool.eq_false_iff.mpr fun h => (isL2hint_low h).2 hf

theorem lengthOf_compact {w : BitVec 32} (hq : w.toNat % 4 ≠ 3) : lengthOf w = 2 := by simp [lengthOf, hq]

theorem lengthOf_word {w : BitVec 32} (h3 : w.toNat % 4 = 3) (hf : w.toNat % 256 ≠ 255) : lengthOf w = 4 := by simp [lengthOf, h3, hf]

theorem lengthOf_convoy {w : BitVec 32} (hf : w.toNat % 256 = 255) (hc : w.toNat / 256 % 8 ≤ 5) :
    lengthOf w = 4 + 8 * (w.toNat / 256 % 8 + 1) := by
  simp [lengthOf, hf, hc, show w.toNat % 4 = 3 by omega]

section Decode
variable {bs : List Byte} {w : BitVec 32} (hw : BitVec.ofNat 32 (leNat (bs.take 4)) = w)
include hw

/-! The four ways to decode bytes whose first word is w (R23): a halfword, the word of L2HINT, another word, or a convoy. -/

theorem decode_compact (hq : w.toNat % 4 ≠ 3) (hl : 2 ≤ bs.length) : decode bs = (decodeC (w.setWidth 16)).map fun i => (.instr i, 2) := by
  simp only [decode, hw, lengthOf_compact hq, or_self, Nat.not_lt.mpr hl, if_false, if_true]

theorem decode_l2hint (h : isL2hint w = true) (hl : 4 ≤ bs.length) : decode bs = .ok (.l2hint (fRd w) (fRs1 w) (fRs2 w), 4) := by
  obtain ⟨h3, hf⟩ := isL2hint_low h
  have hlen : ¬ (bs.length < 4 ∨ bs.length < 2) := by omega
  simp only [decode, hw, lengthOf_word h3 hf, hlen, h, if_false, if_true, Nat.reduceEqDiff]

theorem decode_word (hint : isL2hint w = false) (h3 : w.toNat % 4 = 3) (hf : w.toNat % 256 ≠ 255) (hl : 4 ≤ bs.length) :
    decode bs = (decode32 w).map fun i => (.instr i, 4) := by
  have hlen : ¬ (bs.length < 4 ∨ bs.length < 2) := by omega
  simp only [decode, hw, lengthOf_word h3 hf, hlen, hint, hf, if_false, if_true, Nat.reduceEqDiff, Bool.false_eq_true, ne_eq,
    not_false_eq_true]

theorem decode_convoy (hf : w.toNat % 256 = 255) (hc : w.toNat / 256 % 8 ≤ 5) (hl : 4 + 8 * (w.toNat / 256 % 8 + 1) ≤ bs.length) :
    decode bs = .ok (.convoy w (words64 (w.toNat / 256 % 8 + 1) (bs.drop 4)), 4 + 8 * (w.toNat / 256 % 8 + 1)) := by
  have hlen : ¬ (bs.length < 4 + 8 * (w.toNat / 256 % 8 + 1) ∨ bs.length < 2) := by omega
  have hn : 4 + 8 * (w.toNat / 256 % 8 + 1) ≠ 2 := by omega
  simp only [decode, hw, lengthOf_convoy hf hc, hlen, hn, isL2hint_header hf, hf, hc, if_false, if_true, Bool.false_eq_true, ne_eq,
    not_true_eq_false]

/-- Bytes that decode are long enough, and decode in one of these ways. -/
theorem decode_ok_cases {d : Decoded} {n : Nat} (h : decode bs = .ok (d, n)) :
    n ≤ bs.length ∧
    ((∃ i, decodeC (w.setWidth 16) = .ok i ∧ d = .instr i ∧ n = 2) ∨
     (isL2hint w = true ∧ d = .l2hint (fRd w) (fRs1 w) (fRs2 w) ∧ n = 4) ∨
     (∃ i, decode32 w = .ok i ∧ d = .instr i ∧ n = 4) ∨
     (w.toNat % 256 = 255 ∧ w.toNat / 256 % 8 ≤ 5 ∧ n = 4 + 8 * (w.toNat / 256 % 8 + 1) ∧
      d = .convoy w (words64 (w.toNat / 256 % 8 + 1) (bs.drop 4)))) := by
  have hlen : lengthOf w ≤ bs.length ∧ 2 ≤ bs.length := by
    by_contra hc
    have hshort : bs.length < lengthOf w ∨ bs.length < 2 := by omega
    simp only [decode, hw, if_pos hshort] at h
    cases h
  by_cases hq : w.toNat % 4 = 3
  swap
  · rw [decode_compact hw hq hlen.2] at h
    cases hd : decodeC (w.setWidth 16) with
    | error e => rw [hd] at h; cases h
    | ok i => rw [hd] at h; cases h; exact ⟨hlen.2, .inl ⟨i, rfl, rfl, rfl⟩⟩
  by_cases hf : w.toNat % 256 = 255
  · by_cases hc : w.toNat / 256 % 8 ≤ 5
    · rw [lengthOf_convoy hf hc] at hlen
      rw [decode_convoy hw hf hc hlen.1] at h
      cases h
      exact ⟨hlen.1, .inr (.inr (.inr ⟨hf, hc, rfl, rfl⟩))⟩
    · simp [decode, hw, isL2hint_header hf, hf, hc, lengthOf, hq] at h
      split at h <;> cases h
  rw [lengthOf_word hq hf] at hlen
  cases hint : isL2hint w with
  | true =>
    rw [decode_l2hint hw hint hlen.1] at h
    cases h
    exact ⟨hlen.1, .inr (.inl ⟨rfl, rfl, rfl⟩)⟩
  | false =>
    rw [decode_word hw hint hq hf hlen.1] at h
    cases hd : decode32 w with
    | error e => rw [hd] at h; cases h
    | ok i => rw [hd] at h; cases h; exact ⟨hlen.1, .inr (.inr (.inl ⟨i, rfl, rfl, rfl⟩))⟩

end Decode

theorem decodeC_ok {w : BitVec 16} {i : Instr} (h : decodeC w = .ok i) : wellFormed i = true ∧ encodeC i = some w := by
  unfold decodeC at h
  split at h
  · cases h
  · split at h
    next hi => cases h; simpa using hi
    next => cases h

theorem decode32_ok {w : BitVec 32} {i : Instr} (h : decode32 w = .ok i) : wellFormed i = true ∧ encode32 i = some w := by
  unfold decode32 at h
  split at h
  · cases h
  · split at h
    next hi => cases h; simpa using hi
    next => cases h

theorem encodeC_of_encode32 {i : Instr} {w : BitVec 32} (h : encode32 i = some w) : encodeC i = none := by
  cases i
  all_goals cases h
  all_goals rfl

/-! Decoding what was encoded. -/

theorem decode_encodeC {i : Instr} {w : BitVec 16} (hi : wellFormed i = true) (h : encodeC i = some w) (rest : List Byte) :
    decode (leBytes 2 w.toNat ++ rest) = .ok (.instr i, 2) := by
  have hhalf := firstHalf_append w rest
  have hq := encodeC_low h
  rw [decode_compact rfl ?_ (by simp [leBytes_length]), hhalf, decodeC_encodeC hi h]
  · rfl
  · have := congrArg BitVec.toNat hhalf
    rw [BitVec.toNat_setWidth] at this
    omega

theorem decode_encode32 {i : Instr} {w : BitVec 32} (hi : wellFormed i = true) (h : encode32 i = some w)
    (hint : ∀ rd rs1 rs2, i ≠ .l2hintFetch rd rs1 rs2 ∧ i ≠ .l2hintDemote rd rs1 rs2 ∧ i ≠ .l2hintCounters rd rs1 rs2)
    (rest : List Byte) : decode (leBytes 4 w.toNat ++ rest) = .ok (.instr i, 4) := by
  have hmajor := decodeMajor_encode32 h hint
  have hf : w.toNat % 256 ≠ 255 := fun hf => by simp [decodeMajor_header hf] at hmajor
  have hword : isL2hint w = false := Bool.eq_false_iff.mpr fun hw => by simp [decodeMajor_of_isL2hint hw] at hmajor
  rw [decode_word (firstWord_append w rest) hword (encode32_low h) hf (by simp [leBytes_length]), decode32, hmajor]
  simp [hi, h, Except.map]

theorem decode_encoded_l2hint (rd rs1 rs2 : Reg) (rest : List Byte) :
    decode (leBytes 4 (xa 0x1a rs2 rs1 rd 30).toNat ++ rest) = .ok (.l2hint rd rs1 rs2, 4) := by
  obtain ⟨-, hrd, hrs1, hrs2, -⟩ := xa_fields 0x1a rs2 rs1 rd 30
  rw [decode_l2hint (firstWord_append _ rest) (isL2hint_xa rd rs1 rs2) (by simp [leBytes_length]), hrd, hrs1, hrs2]

theorem decode_encoded_convoy {h : BitVec 32} {ws : List (BitVec 64)} (hi : wfConvoy h ws = true) (rest : List Byte) :
    decode (leBytes 4 h.toNat ++ bytes64 ws ++ rest) = .ok (.convoy h ws, 4 + 8 * ws.length) := by
  obtain ⟨⟨hf, hc⟩, hl⟩ : (h.toNat % 256 = 255 ∧ h.toNat / 256 % 8 ≤ 5) ∧ ws.length = h.toNat / 256 % 8 + 1 := by simpa [wfConvoy] using hi
  rw [List.append_assoc, decode_convoy (firstWord_append h _) hf hc (by simp [leBytes_length, bytes64_length]; omega),
    List.drop_left' (leBytes_length 4 h.toNat), ← hl, words64_bytes64]

/-! Encoding what was decoded. -/

theorem leBytes_firstHalf {bs : List Byte} (hl : 2 ≤ bs.length) :
    leBytes 2 ((BitVec.ofNat 32 (leNat (bs.take 4))).setWidth 16).toNat = bs.take 2 := by
  have h : ((BitVec.ofNat 32 (leNat (bs.take 4))).setWidth 16).toNat = leNat bs % 256 ^ 2 := by
    rw [BitVec.toNat_setWidth, BitVec.toNat_ofNat, leNat_take]
    omega
  rw [h, leBytes_mod, leBytes_leNat_take hl]

theorem leBytes_firstWord {bs : List Byte} (hl : 4 ≤ bs.length) : leBytes 4 (BitVec.ofNat 32 (leNat (bs.take 4))).toNat = bs.take 4 := by
  have h : (BitVec.ofNat 32 (leNat (bs.take 4))).toNat = leNat bs % 256 ^ 4 := by
    rw [BitVec.toNat_ofNat, leNat_take]
    omega
  rw [h, leBytes_mod, leBytes_leNat_take hl]

/-- The word of L2HINT is that of any of its rows (R229). -/
theorem encode32_of_isL2hint {w : BitVec 32} (h : isL2hint w = true) : encode32 (.l2hintFetch (fRd w) (fRs1 w) (fRs2 w)) = some w := by
  obtain ⟨⟨h3, hm⟩, hf⟩ : (w.toNat % 4 = 3 ∧ fMajor w = 30) ∧ fFunc9 w = 0x1A := by simpa [isL2hint] using h
  have hm' : w.extractLsb' 2 6 = 30 := BitVec.eq_of_toNat_eq hm
  have hf' : w.extractLsb' 23 9 = 0x1A := BitVec.eq_of_toNat_eq hf
  have hx := xa_of_fields h3
  rw [hm', hf'] at hx
  exact congrArg some hx

theorem wfConvoy_words64 {w : BitVec 32} (hf : w.toNat % 256 = 255) (hc : w.toNat / 256 % 8 ≤ 5) (bs : List Byte) :
    wfConvoy w (words64 (w.toNat / 256 % 8 + 1) bs) = true := by
  simp [wfConvoy, hf, hc, words64_length]

theorem encode_decoded_convoy {bs : List Byte} {n : Nat} (hl : 4 + 8 * n ≤ bs.length) :
    leBytes 4 (BitVec.ofNat 32 (leNat (bs.take 4))).toNat ++ bytes64 (words64 n (bs.drop 4)) = bs.take (4 + 8 * n) := by
  rw [leBytes_firstWord (by omega), bytes64_words64 (by simp; omega), ← List.take_add]

end Sys2Proof

open Sys2Proof Sys2Proof.Machine

/-- Settles O56: an L2HINT and a convoy by their own forms, the others by the candidate that the decoder finds for the encoded halfword or word. -/
theorem decodeOfEncode : Obligations.DecodeOfEncode := by
  intro i bs rest hi he
  split
  case h_1 | h_2 | h_3 => cases he; exact decode_encoded_l2hint _ _ _ rest
  case h_4 h ws =>
    cases he
    rw [decode_encoded_convoy hi]
    simp [leBytes_length, bytes64_length]
  case h_5 hfetch hdemote hcount hconvoy =>
    rcases encode_cases hconvoy he with ⟨w, hw, rfl⟩ | ⟨w, hw, rfl⟩
    · rw [decode_encodeC hi hw, leBytes_length]
    · rw [decode_encode32 hi hw (fun _ _ _ => ⟨hfetch _ _ _, hdemote _ _ _, hcount _ _ _⟩), leBytes_length]

/-- Settles O57: each way to decode bytes checks the encoding of its result against them. -/
theorem encodeOfDecode : Obligations.EncodeOfDecode := by
  intro bs d n h
  obtain ⟨hl, hcases⟩ := decode_ok_cases rfl h
  refine ⟨hl, ?_⟩
  rcases hcases with ⟨i, hd, rfl, rfl⟩ | ⟨hint, rfl, rfl⟩ | ⟨i, hd, rfl, rfl⟩ | ⟨hf, hc, rfl, rfl⟩
  · obtain ⟨hi, he⟩ := decodeC_ok hd
    exact ⟨hi, (encode_of_encodeC he).trans (congrArg some (leBytes_firstHalf hl))⟩
  · have he := encode32_of_isL2hint hint
    exact ⟨rfl, (encode_of_encode32 rfl he).trans (congrArg some (leBytes_firstWord hl))⟩
  · obtain ⟨hi, he⟩ := decode32_ok hd
    exact ⟨hi, (encode_of_encode32 (encodeC_of_encode32 he) he).trans (congrArg some (leBytes_firstWord hl))⟩
  · exact ⟨wfConvoy_words64 hf hc _, congrArg some (encode_decoded_convoy hl)⟩

/-- Settles O58: the words of each length are evaluated. -/
theorem decodedWords : Obligations.DecodedWords := by
  refine ⟨?_, ?_, ?_⟩
  · decide +kernel
  · decide +kernel
  · decide +kernel

end

section
/-! Proofs of the statements on convoys of element-wise members (spec/02 R40-R50, R69). -/

namespace Sys2Proof.Machine

/-! A CSR below another one in the map. -/

theorem mapFind?_put_lt {α : Type} (m : FMap α) {k j : Nat} (v : α) (h : k < j) : mapFind? (mapPut m k v) j = mapFind? m j := by
  induction m with
  | nil => simp [mapPut, mapFind?, show ¬ j = k by omega, show ¬ j < k by omega]
  | cons e m ih =>
    obtain ⟨i, u⟩ := e
    rcases Nat.lt_trichotomy k i with hki | rfl | hki
    · simp [mapPut, mapFind?, show ¬ k = i by omega, hki, show ¬ j = k by omega, show ¬ j < k by omega]
    · simp [mapPut, mapFind?, show ¬ j = k by omega, show ¬ j < k by omega]
    · simp [mapPut, mapFind?, show ¬ k = i by omega, show ¬ k < i by omega, ih]

theorem mapFind?_erase_lt {α : Type} (m : FMap α) {k j : Nat} (h : k < j) : mapFind? (mapErase m k) j = mapFind? m j := by
  induction m with
  | nil => rfl
  | cons e m ih =>
    obtain ⟨i, u⟩ := e
    rcases Nat.lt_trichotomy k i with hki | rfl | hki
    · simp [mapErase, show ¬ k = i by omega, hki]
    · simp [mapErase, mapFind?, show ¬ j = k by omega, show ¬ j < k by omega]
    · simp [mapErase, mapFind?, show ¬ k = i by omega, show ¬ k < i by omega, ih]

/-- A write below a key leaves what the key reads as, whether or not the map is in canonical form. -/
theorem mapGet_set_lt {α : Type} [DecidableEq α] (d : α) (m : FMap α) {k j : Nat} (v : α) (h : k < j) :
    mapGet d (mapSet d m k v) j = mapGet d m j := by
  unfold mapGet mapSet
  split
  · rw [mapFind?_erase_lt m h]
  · rw [mapFind?_put_lt m v h]

theorem Hart.ftrapen_orFlags (x : Hart) (f : BitVec 6) : (x.orFlags f).csr Csr.ftrapen = x.csr Csr.ftrapen :=
  mapGet_set_lt 0 _ _ (by decide)

/-! What may stop a hart inside an instruction (R17, R164, R395). -/

/-- The two states agree on what may stop their executing hart inside an instruction. -/
structure StopsAlike (s t : State) : Prop where
  cur : t.cur = s.cur
  pageReqs : t.pageReqs = s.pageReqs
  ftrapen : t.me.csr Csr.ftrapen = s.me.csr Csr.ftrapen
  stopAt : t.me.stopAt = s.me.stopAt
  rowStop : t.me.rowStop = s.me.rowStop

theorem StopsAlike.refl (s : State) : StopsAlike s s := ⟨rfl, rfl, rfl, rfl, rfl⟩

theorem StopsAlike.trans {s t u : State} (h : StopsAlike s t) (g : StopsAlike t u) : StopsAlike s u :=
  ⟨g.cur.trans h.cur, g.pageReqs.trans h.pageReqs, g.ftrapen.trans h.ftrapen, g.stopAt.trans h.stopAt, g.rowStop.trans h.rowStop⟩

theorem unstopped_iff {s : State} : s.unstopped = true ↔ s.me.csr Csr.ftrapen = 0 ∧ s.me.stopAt = none ∧ s.me.rowStop = none ∧
    ∀ r ∈ s.pageReqs, r.hart = s.cur → r.answer ≠ some false := by
  simp only [State.unstopped, Bool.and_eq_true, decide_eq_true_eq, Option.isNone_iff_eq_none, List.all_eq_true, Bool.not_eq_true',
    Bool.and_eq_false_imp, decide_eq_false_iff_not, and_assoc]
  rfl

theorem StopsAlike.unstopped {s t : State} (h : StopsAlike s t) (hs : s.unstopped = true) : t.unstopped = true := by
  rw [unstopped_iff] at hs ⊢
  rwa [h.ftrapen, h.stopAt, h.rowStop, h.pageReqs, h.cur]

theorem StopsAlike.setHart (s : State) {x : Hart} (h1 : x.csr Csr.ftrapen = s.me.csr Csr.ftrapen) (h2 : x.stopAt = s.me.stopAt)
    (h3 : x.rowStop = s.me.rowStop) : StopsAlike s (s.setHart s.cur x) :=
  ⟨rfl, rfl, by rw [me_setHart_self, h1], by rw [me_setHart_self, h2], by rw [me_setHart_self, h3]⟩

theorem StopsAlike.onVf (s : State) (f : VecFile → VecFile) : StopsAlike s (s.onVf f) := ⟨rfl, rfl, rfl, rfl, rfl⟩
theorem StopsAlike.onChunk (s : State) (f : Chunk → Chunk) : StopsAlike s (s.onChunk f) := StopsAlike.setHart s rfl rfl rfl
theorem StopsAlike.keepRng (s : State) (r : Rng) : StopsAlike s (s.keepRng r) := StopsAlike.setHart s rfl rfl rfl
theorem StopsAlike.orFlags (s : State) (f : BitVec 6) : StopsAlike s (s.orFlags f) :=
  StopsAlike.setHart s (Hart.ftrapen_orFlags _ f) rfl rfl
theorem StopsAlike.countCensus (s : State) (entry : Nat) (ks : List Nat) : StopsAlike s (s.countCensus entry ks) := by
  unfold State.countCensus
  split
  · exact StopsAlike.refl s
  · exact StopsAlike.onChunk s _
theorem StopsAlike.openChunk (s : State) (own : Bool) : StopsAlike s (s.openChunk own) := by
  unfold State.openChunk
  split
  · exact StopsAlike.refl s
  · exact StopsAlike.setHart s rfl rfl rfl

theorem StopsAlike.foldl {α : Type} (f : State → α → State) (hf : ∀ s a, StopsAlike s (f s a)) (l : List α) (s : State) :
    StopsAlike s (l.foldl f s) := by
  induction l generalizing s with
  | nil => exact StopsAlike.refl s
  | cons a l ih => exact (hf s a).trans (ih _)

theorem unstopped_trapsOn {s : State} (h : s.unstopped = true) (fl : Flags) : s.trapsOn fl = false := by
  obtain ⟨hf, -⟩ := unstopped_iff.mp h
  simp only [State.trapsOn, csr_eq, hf]
  simp

theorem unstopped_stopsAt {s : State} (h : s.unstopped = true) (e : Nat) : s.stopsAt e = false := by
  obtain ⟨-, hstop, -⟩ := unstopped_iff.mp h
  simp [State.stopsAt, hstop]

theorem unstopped_failedReq {s : State} (h : s.unstopped = true) (vec : Bool) (e : Nat) : s.failedReq vec e = none := by
  obtain ⟨-, -, -, hreq⟩ := unstopped_iff.mp h
  unfold State.failedReq
  split
  · rfl
  · refine List.find?_eq_none.mpr fun r hr => ?_
    simp only [Bool.and_eq_true, decide_eq_true_eq]
    rintro ⟨⟨⟨⟨⟨hhart, -⟩, -⟩, -⟩, -⟩, ha⟩
    exact hreq r hr hhart ha

/-! An element of the element-wise members. -/

theorem StopsAlike.compute (m : Member) (c : Cvy) (j i : Nat) (s : State) : StopsAlike s (m.compute c j i s).2 := by
  unfold Member.compute
  split
  · have h (r : Rng) (f : VecFile → VecFile) : StopsAlike s ((s.keepRng r).onVf f) := (StopsAlike.keepRng s r).trans (StopsAlike.onVf _ f)
    dsimp only
    split
    · exact (h _ _).trans (StopsAlike.countCensus _ _ _)
    · exact h _ _
  · dsimp only
    split
    · exact StopsAlike.onVf _ _
    · exact StopsAlike.refl s

theorem StopsAlike.computeSx (m : Member) (c : Cvy) (i : Nat) (s : State) : StopsAlike s (m.computeSx c i s) := by
  unfold Member.computeSx
  split
  · exact StopsAlike.onVf _ _
  · exact StopsAlike.foldl _ (fun t k => StopsAlike.onVf t _) _ s

/-- What an operation that is not element-wise may not be. -/
theorem elementwise_ne {op other : Vop} (h : elementwise op = true) (ho : elementwise other = false) : op ≠ other := by
  rintro rfl
  rw [h] at ho
  cases ho

theorem elementwise_unit {op : Vop} (h : elementwise op = true) : op.unit = 0 ∨ op.unit = 1 ∨ op.unit = 2 ∨ op.unit = 5 := by
  simp only [elementwise, Bool.and_eq_true, decide_eq_true_eq, List.mem_cons, List.not_mem_nil, or_false] at h
  exact h.1

/-- Element i of one member, in the fold of `Cvy.row`. -/
def Cvy.perform (c : Cvy) (i : Nat) (p : Flags × State) (e : Member × Nat) : Flags × State :=
  if c.t.isSx then (p.1, e.1.computeSx c i p.2)
  else let r := e.1.compute c e.2 i p.2; (p.1 ||| r.1, r.2)

theorem row_eq (c : Cvy) (i : Nat) (u : State) :
    c.row i u = (c.ms.zipIdx.foldl (c.perform i) (0, u)).2.orFlags (c.ms.zipIdx.foldl (c.perform i) (0, u)).1 := rfl

theorem StopsAlike.perform (c : Cvy) (i : Nat) (p : Flags × State) (e : Member × Nat) : StopsAlike p.2 (c.perform i p e).2 := by
  unfold Cvy.perform
  split
  · exact StopsAlike.computeSx _ _ _ _
  · exact StopsAlike.compute _ _ _ _ _

theorem StopsAlike.performAll (c : Cvy) (i : Nat) (l : List (Member × Nat)) (p : Flags × State) :
    StopsAlike p.2 (l.foldl (c.perform i) p).2 := by
  induction l generalizing p with
  | nil => exact StopsAlike.refl _
  | cons e l ih => exact (StopsAlike.perform c i p e).trans (ih _)

theorem StopsAlike.row (c : Cvy) (i : Nat) (u : State) : StopsAlike u (c.row i u) :=
  (StopsAlike.performAll c i c.ms.zipIdx (0, u)).trans (StopsAlike.orFlags _ _)

/-- The element-wise members from member j on perform element i in order (R50). -/
theorem element_elementwise (c : Cvy) (i : Nat) (ms : List Member) (hms : ∀ m ∈ ms, elementwise m.op = true) (j : Nat) (fl : Flags)
    (s : State) (hs : s.unstopped = true) :
    c.element i j ms fl false s =
      .ok (false, ((ms.zipIdx j).foldl (c.perform i) (fl, s)).1, ((ms.zipIdx j).foldl (c.perform i) (fl, s)).2) := by
  induction ms generalizing j fl s with
  | nil => rfl
  | cons m ms ih =>
    have hm : m.op.unit ≠ 3 := by have := elementwise_unit (hms m (by simp)); omega
    have ht : ∀ n ∈ ms, elementwise n.op = true := fun n hn => hms n (by simp [hn])
    have hp := (StopsAlike.perform c i (fl, s) (m, j)).unstopped hs
    rw [Cvy.element, if_neg hm, List.zipIdx_cons, List.foldl_cons]
    cases hx : c.t.isSx with
    | true =>
      have he : c.perform i (fl, s) (m, j) = (fl, m.computeSx c i s) := by simp [Cvy.perform, hx]
      rw [he] at hp ⊢
      exact ih ht (j + 1) fl _ hp
    | false =>
      have he : c.perform i (fl, s) (m, j) = (fl ||| (m.compute c j i s).1, (m.compute c j i s).2) := by simp [Cvy.perform, hx]
      rw [he] at hp ⊢
      simp only [Bool.false_eq_true, if_false, unstopped_trapsOn hp]
      exact ih ht (j + 1) _ _ hp

/-! The loop. -/

theorem pagesAtOnce_elementwise {op : Vop} (h : elementwise op = true) : Vop.pagesAtOnce op = false := by
  unfold Vop.pagesAtOnce
  split
  case h_12 => rfl
  all_goals exact absurd h (by decide)

theorem settle_completed (c : Cvy) {r : Run} (hreqs : r.reqs = []) (hstop : r.stop = none) : c.settle r = .ok (c.complete c.vl r.s) := by
  simp [Cvy.settle, hreqs, hstop]

section Loop
variable {c : Cvy} (hms : ∀ m ∈ c.ms, elementwise m.op = true)
include hms

theorem segment?_elementwise : c.segment? = none := by
  unfold Cvy.segment?
  split
  next m h =>
    have hm := hms m (by simp [h])
    rw [if_neg]
    exact not_or.mpr ⟨elementwise_ne hm (by decide), elementwise_ne hm (by decide)⟩
  next => rfl

theorem loop_elementwise (collect : Bool) (is : List Nat) (r : Run) (hs : r.s.unstopped = true) (hstop : r.stop = none) :
    (c.loop collect is r).s = c.over is r.s ∧ (c.loop collect is r).stop = none ∧ (c.loop collect is r).reqs = r.reqs := by
  induction is generalizing r with
  | nil => exact ⟨rfl, hstop, rfl⟩
  | cons i is ih =>
    have hstep : c.loop collect (i :: is) r = c.loop collect is (c.took i r (c.row i r.s)) := by
      rw [Cvy.loop]
      simp only [unstopped_stopsAt hs, unstopped_failedReq hs, segment?_elementwise hms, element_elementwise c i c.ms hms 0 0 r.s hs,
        row_eq]
      simp
    rw [hstep]
    exact ih _ ((StopsAlike.row c i r.s).unstopped hs) hstop

theorem run_elementwise {s : State} (hs : s.unstopped = true) : c.run s = .ok (c.complete c.vl (c.over (c.elems 0) s)) := by
  have hrun : c.run s = c.settle (c.loop false (c.elems 0) (Run.start s 0)) := by
    unfold Cvy.run
    split
    next m h => simp only [pagesAtOnce_elementwise (hms m (by simp [h])), Bool.false_eq_true, if_false]
    next => rfl
  obtain ⟨hs', hstop, hreqs⟩ := loop_elementwise hms false (c.elems 0) (Run.start s 0) hs rfl
  rw [hrun, settle_completed c hreqs hstop, hs']
  rfl

theorem exec_elementwise {s : State} (hs : s.unstopped = true) : c.exec s = .ok (c.complete c.vl (c.over (c.elems 0) s)) := by
  rw [← run_elementwise hms hs]
  unfold Cvy.exec
  split
  next m h =>
    have hm := hms m (by simp [h])
    have hu := elementwise_unit hm
    have hwhole : Vop.isWhole m.op = false := by simpa using (Bool.and_eq_true_iff.mp hm).2
    rw [if_neg (elementwise_ne hm (by decide)), if_neg (elementwise_ne hm (by decide)), if_neg (elementwise_ne hm (by decide)),
      if_neg (by omega), if_neg (by omega), if_neg (by simp [hwhole])]
  next => rfl

theorem checkStreams_elementwise (s : State) : c.checkStreams s 0 c.ms = .ok () := by
  suffices h : ∀ (ms : List Member) (j : Nat), (∀ m ∈ ms, elementwise m.op = true) → c.checkStreams s j ms = .ok () from h c.ms 0 hms
  intro ms
  induction ms with
  | nil => exact fun _ _ => rfl
  | cons m ms ih =>
    intro j h
    rw [Cvy.checkStreams, if_neg (elementwise_ne (h m (by simp)) (by decide))]
    exact ih (j + 1) fun n hn => h n (by simp [hn])

end Loop

theorem convoyShape_elementwise (s : State) {ms : List Member} (hms : ∀ m ∈ ms, elementwise m.op = true) :
    convoyShape s ms = { Shape.plain with n := 1 + ms.length } := by
  unfold convoyShape
  dsimp only
  split
  next m =>
    have hm := hms m (by simp)
    have hu := elementwise_unit hm
    split
    case h_13 => rw [if_neg (by omega)]
    all_goals next h => rw [h] at hm; exact absurd hm (by decide)
  next => rfl

/-! A convoy between two chunks. -/

theorem vectorIdle_vecReady {s : State} (h : s.vectorIdle = true) (reads writes : List Nat) : s.vecReady reads writes = .ok () := by
  simp only [State.vectorIdle, Bool.and_eq_true, List.isEmpty_iff, Bool.not_eq_true'] at h
  obtain ⟨⟨⟨hfills, hcopies⟩, hupset⟩, hloads⟩ := h
  have hupset' : s.myCore.vf.upset = [] := hupset
  simp [State.vecReady, hfills, hcopies, hupset', hloads]

/-- A body that completes in a chunk opened for it, where the chunk may go on. -/
theorem run_completes {s u : State} {sh : Shape} {body : State → Res} (hs : s.solo = true) (hb : body (s.openChunk sh.own) = .ok u) :
    s.run sh body = u.finish sh s.pc := by
  have hbusy : s.chunkBusy = false := by simp [State.chunkBusy, solo_chunk hs]
  rw [run_between (solo_chunk hs) (solo_banks hs), State.runOpen, if_neg (by simp [hbusy]), hb]
  exact if_neg (by simp [hbusy])

/-- What an opened chunk leaves of the core and of the hart. -/
theorem openChunk_vf (s : State) (own : Bool) : (s.openChunk own).vf = s.vf := by
  have h := HartOnly.openChunk s own
  rw [State.vf, State.myCore, h.cur, h.core]
  rfl
theorem openChunk_owns (s : State) (own : Bool) : (s.openChunk own).owns = s.owns := by
  have h := HartOnly.openChunk s own
  rw [State.owns, State.myCore, h.cur, h.core]
  rfl
theorem openChunk_vectorIdle (s : State) (own : Bool) : (s.openChunk own).vectorIdle = s.vectorIdle := by
  have h := HartOnly.openChunk s own
  rw [State.vectorIdle, State.vf, State.myCore, h.cur, h.core]
  rfl
theorem openChunk_pc (s : State) (own : Bool) : (s.openChunk own).pc = s.pc := by
  rw [State.pc, (HartOnly.openChunk s own).me]
  rfl

/-- The members that the words of a convoy name (R46-R48). -/
def membersOf (hdr : BitVec 32) (words : List Word) : List (Option Member) :=
  words.zipIdx.map fun (e : Word × Nat) => Member.ofWord e.1 (headerUnit hdr e.2)

/-- The member at which a convoy fails its checks (R48). -/
def State.wrongMember (s : State) (hdr : BitVec 32) (words : List Word) : Option Nat :=
  failing s.vt s.vf.vstart.toNat (decide (hdr.toNat / 2 ^ 29 = 1)) (membersOf hdr words)

theorem checkConvoy_header {s : State} {hdr : BitVec 32} {words : List Word} (h : headerOk hdr words.length s.pc = false ∨ s.owns = false) :
    s.checkConvoy hdr words = .error (.trap Cause.illegal (hdr.setWidth 64) (failTval2 hdr 7)) := by
  unfold State.checkConvoy
  exact if_pos (by simpa using h)

theorem checkConvoy_member {s : State} {hdr : BitVec 32} {words : List Word} {j : Nat} (h : headerOk hdr words.length s.pc = true)
    (ho : s.owns = true) (hw : s.wrongMember hdr words = some j) :
    s.checkConvoy hdr words = .error (.trap Cause.illegal (words.getD j 0) (failTval2 hdr j)) := by
  have hf : failing s.vt s.vf.vstart.toNat (decide (hdr.toNat / 2 ^ 29 = 1))
    (words.zipIdx.map fun (e : Word × Nat) => Member.ofWord e.1 (headerUnit hdr e.2)) = some j := hw
  simp only [State.checkConvoy, h, ho, hf, Bool.not_true, Bool.or_self, Bool.false_eq_true, if_false]

theorem checkConvoy_ok {s : State} {hdr : BitVec 32} {words : List Word} {ms : List Member} (h : headerOk hdr words.length s.pc = true)
    (ho : s.owns = true) (hw : s.wrongMember hdr words = none) (hm : membersOf hdr words = ms.map some) :
    s.checkConvoy hdr words = .ok { s.convoy hdr ms with sched := [] } := by
  unfold State.wrongMember at hw
  unfold membersOf at hw hm
  simp only [State.checkConvoy, h, ho, hw, Bool.not_true, Bool.or_self, Bool.false_eq_true, if_false]
  rw [hm, List.filterMap_map]
  simp [State.convoy]

theorem openChunk_wrongMember (s : State) (own : Bool) (hdr : BitVec 32) (words : List Word) :
    (s.openChunk own).wrongMember hdr words = s.wrongMember hdr words := by
  simp only [State.wrongMember, State.vt, openChunk_vf]

/-- What a checked convoy leaves whose effect was u: the registers that it wrote hold no error of before (R250, R374). -/
def Cvy.wrote (c : Cvy) (u : State) : State :=
  u.rewritten (c.ms.flatMap c.groupWrites) (vregsOf (c.ms.flatMap fun m => m.dests c.t) ++ c.ms.flatMap accWrites)

/-- A convoy of element-wise members that passes its checks (R48-R50). -/
theorem runConvoy_elementwise {s : State} {hdr : BitVec 32} {words : List Word} {ms : List Member} (hs : s.solo = true)
    (h : headerOk hdr words.length s.pc = true) (ho : s.owns = true) (hidle : s.vectorIdle = true) (hun : s.unstopped = true)
    (hw : s.wrongMember hdr words = none) (hm : membersOf hdr words = ms.map some) (hms : ∀ m ∈ ms, elementwise m.op = true) :
    let b := s.openChunk false
    let c := b.convoy hdr ms
    s.runConvoy hdr words = (c.complete c.vl (c.over (c.elems 0) (b.noting ms))).wrapUp b c false := by
  intro b c
  have hgood : words.zipIdx.filterMap (fun (e : Word × Nat) => Member.ofWord e.1 (headerUnit hdr e.2)) = ms := by
    have := congrArg (List.filterMap id) hm
    simpa [membersOf, List.filterMap_map] using this
  have hcheck : b.checkConvoy hdr words = .ok { c with sched := [] } :=
    checkConvoy_ok (by rw [openChunk_pc]; exact h) (by rw [openChunk_owns]; exact ho) (by rw [openChunk_wrongMember]; exact hw) hm
  have hready := vectorIdle_vecReady ((openChunk_vectorIdle s false).trans hidle)
  have hstreams := checkStreams_elementwise (c := { c with sched := [] }) hms b
  have hun' : (b.noting ms).unstopped = true := ((StopsAlike.openChunk s false).trans (StopsAlike.onChunk b _)).unstopped hun
  have hexec := exec_elementwise (c := c) hms hun'
  unfold State.runConvoy
  simp only [hgood, convoyShape_elementwise s hms]
  refine (run_completes hs (u := c.wrote (c.complete c.vl (c.over (c.elems 0) (b.noting ms)))) ?_).trans ?_
  · show Except.bind (b.checkConvoy hdr words) _ = _
    rw [hcheck]
    show Except.bind (b.vecReady _ _) _ = _
    rw [hready]
    show Except.bind (Cvy.checkStreams _ b 0 _) _ = _
    rw [hstreams]
    exact congrArg (Except.map c.wrote) hexec
  · rw [← openChunk_pc s false]
    rfl

theorem exec_convoy (s : State) (hdr : BitVec 32) (words : List Word) : exec (.convoy hdr words) s = .next (s.runConvoy hdr words) := rfl

/-! A convoy that is not sound. -/

theorem runConvoy_traps {s : State} {hdr : BitVec 32} {words : List Word} {cause : Nat} {tval tval2 : Word} (hs : s.loose = true)
    (h : ∀ own, (s.openChunk own).checkConvoy hdr words = .error (.trap cause tval tval2)) :
    Traps cause tval tval2 s (s.runConvoy hdr words) := by
  have hrun : s.runConvoy hdr words = s.takeTrap cause tval tval2 := by
    unfold State.runConvoy
    refine run_traps hs ?_
    show Except.bind (State.checkConvoy _ hdr words) _ = _
    rw [h]
    rfl
  rw [hrun]
  exact takeTrap_traps s cause tval tval2 hs

/-! A vector word as a convoy of one (R69). -/

theorem exec_vopInstr (op : Vop) (w : VWord) (s : State) : exec (vopInstr op w) s = .next (s.runMember op w) := by
  cases op <;> rfl

theorem vop_code_lt (op : Vop) : op.code < 256 := by
  cases op <;> decide

theorem ofBits_bits (w : VWord) (vop : BitVec 8) : VWord.ofBits (w.bits vop) = w := by
  cases w
  simp (disch := decide) only [VWord.ofBits, VWord.bits, BitVec.extractLsb'_append_eq_of_le, BitVec.extractLsb'_append_eq_of_add_le,
    BitVec.extractLsb'_eq_self, Nat.reduceSub]

theorem bits_low (w : VWord) (vop : BitVec 8) : (w.bits vop).toNat % 256 = vop.toNat := by
  have h : (w.bits vop).extractLsb' 0 8 = vop := by
    simp (disch := decide) only [VWord.bits, BitVec.extractLsb'_append_eq_of_add_le, BitVec.extractLsb'_eq_self]
  simpa using congrArg BitVec.toNat h

theorem headerOf_toNat (op : Vop) : (headerOf op).toNat = 0xFF + 2048 * op.unit ∧ op.unit < 8 := by
  have h : op.unit < 8 := by have := vop_code_lt op; unfold Vop.unit; omega
  refine ⟨?_, h⟩
  rw [headerOf, BitVec.toNat_ofNat]
  omega

theorem headerUnit_headerOf (op : Vop) (j : Nat) (hj : j < 6) : headerUnit (headerOf op) j = if j = 0 then op.unit else 0 := by
  obtain ⟨h, hu⟩ := headerOf_toNat op
  rw [headerUnit, h]
  interval_cases j <;> simp <;> omega

theorem headerOk_headerOf (op : Vop) {pc : Word} (hpc : pc.toNat % 8 = 4) : headerOk (headerOf op) 1 pc = true := by
  obtain ⟨h, hu⟩ := headerOf_toNat op
  have hunits : ∀ j < 6, j < 1 ∨ headerUnit (headerOf op) j = 0 := fun j hj => by
    rw [headerUnit_headerOf op j hj]
    by_cases h0 : j = 0 <;> simp [h0]
  simp only [headerOk, Bool.and_eq_true, decide_eq_true_eq, List.all_eq_true, List.mem_range, Bool.or_eq_true]
  rw [h]
  exact ⟨⟨⟨⟨⟨by omega, by omega⟩, by omega⟩, by omega⟩, hunits⟩, hpc⟩

theorem membersOf_headerOf {op : Vop} {w : VWord} (h : vopOf op.code w.imm.toNat = some op) :
    membersOf (headerOf op) [w.bits (BitVec.ofNat 8 op.code)] = [memberOf op w].map some := by
  have hlow : (w.bits (BitVec.ofNat 8 op.code)).toNat % 256 = op.code := by
    rw [bits_low, BitVec.toNat_ofNat, Nat.mod_eq_of_lt (vop_code_lt op)]
  have hunit := headerUnit_headerOf op 0 (by decide)
  simp [membersOf, Member.ofWord, hlow, ofBits_bits, h, hunit, memberOf]

theorem wrongMember_headerOf {op : Vop} {w : VWord} {s : State} (h : vopOf op.code w.imm.toNat = some op)
    (hok : (memberOf op w).ok s.vt s.vf.vstart.toNat = true) :
    s.wrongMember (headerOf op) [w.bits (BitVec.ofNat 8 op.code)] = none := by
  rw [State.wrongMember, membersOf_headerOf h]
  simp [failing, hok]

end Sys2Proof.Machine

open Sys2Proof Sys2Proof.Machine

/-- Settles O43: a vector word is a convoy of one, to which the loop over element-wise members applies. -/
theorem vectorElementForms : Obligations.VectorElementForms := by
  intro op w s hop hs hready hun
  simp only [State.vectorReady, Bool.and_eq_true, decide_eq_true_eq] at hready
  obtain ⟨⟨⟨⟨hvop, hpc⟩, ho⟩, hok⟩, hidle⟩ := hready
  rw [exec_vopInstr, State.runMember, if_pos hvop]
  refine congrArg Host.Outcome.next (runConvoy_elementwise hs (headerOk_headerOf op hpc) ho hidle hun (wrongMember_headerOf hvop hok)
    (membersOf_headerOf hvop) fun m hm => ?_)
  obtain rfl := List.mem_singleton.mp hm
  exact hop

/-- Settles O44: element-wise members by the loop over them, the others by the checks that their convoy fails. -/
theorem convoyForms : Obligations.ConvoyForms := by
  intro s hdr words found wrong
  rw [exec_convoy]
  refine ⟨fun ms hm _ hms hs h ho hidle hun hw => ?_, fun hs => ⟨fun h => ⟨_, rfl, ?_⟩, fun j h ho hw => ⟨_, rfl, ?_⟩⟩⟩
  · exact congrArg Host.Outcome.next (runConvoy_elementwise hs h ho hidle hun hw hm hms)
  · refine runConvoy_traps hs fun own => checkConvoy_header ?_
    rwa [openChunk_pc, openChunk_owns]
  · refine runConvoy_traps hs fun own => checkConvoy_member ?_ ?_ ?_
    · rwa [openChunk_pc]
    · rwa [openChunk_owns]
    · rw [openChunk_wrongMember]
      exact hw

end

section
/-! Proofs of the statement on a step of a hart (spec/02 R23, spec/19 R343). -/

namespace Sys2Proof.Machine

/-! Fetching (R23). -/

theorem leNat_take_one (bs : List Byte) : (BitVec.ofNat 32 (leNat (bs.take 4))).toNat % 256 = leNat (bs.take 1) := by
  rw [BitVec.toNat_ofNat, leNat_take, leNat_take]
  omega

/-- A halfword that decodes announces its length in its first byte. -/
theorem decode_two_low {bs : List Byte} {i : Instr} (h : decode bs = .ok (.instr i, 2)) : leNat (bs.take 1) % 4 ≠ 3 := by
  have hlow := leNat_take_one bs
  obtain ⟨-, ⟨i, hd, -⟩ | ⟨-, hd, -⟩ | ⟨i, -, -, hn⟩ | ⟨-, -, hn, -⟩⟩ := decode_ok_cases rfl h
  · have := encodeC_low (decodeC_ok hd).2
    rw [BitVec.toNat_setWidth] at this
    omega
  · cases hd
  · cases hn
  · omega

/-- A word that decodes by itself is no header of a convoy. -/
theorem decode_four_low {bs : List Byte} {d : Decoded} (h : decode bs = .ok (d, 4)) : leNat (bs.take 1) ≠ 255 := by
  have hlow := leNat_take_one bs
  obtain ⟨-, ⟨i, -, -, hn⟩ | ⟨hd, -⟩ | ⟨i, hd, -⟩ | ⟨-, -, hn, -⟩⟩ := decode_ok_cases rfl h
  · cases hn
  · have := (isL2hint_low hd).2
    omega
  · intro hf
    rw [hf] at hlow
    simp [decode32, decodeMajor_header hlow] at hd
  · omega

theorem decodeFetched_ok {bs : List Byte} {d : Decoded} {n : Nat} (h : decode bs = .ok (d, n)) : decodeFetched bs = .ready d := by
  rw [decodeFetched, h]

theorem fetch_compact {v t : State} {b : List Byte} {i : Instr} (hb : v.codeBytes 2 = .ok (b, t)) (h : decode b = .ok (.instr i, 2)) :
    v.fetch = .ok (.ready (.instr i), t) := by
  simp [State.fetch, hb, bind, Except.bind, decode_two_low h, decodeFetched_ok h, pure, Except.pure]

section Long
variable {v t t' : State} {b b' : List Byte} (hb : v.codeBytes 2 = .ok (b, t)) (h3 : leNat (b.take 1) % 4 = 3)
  (hb' : t.codeBytes 4 = .ok (b', t'))
include hb h3 hb'

theorem fetch_word {d : Decoded} (h : decode b' = .ok (d, 4)) : v.fetch = .ok (.ready d, t') := by
  simp [State.fetch, hb, hb', bind, Except.bind, h3, decode_four_low h, decodeFetched_ok h, pure, Except.pure]

theorem fetch_convoy {t'' : State} {b'' : List Byte} {d : Decoded} {n : Nat} (hf : b'.take 1 = [0xFF])
    (hc : leNat ((b'.drop 1).take 1) % 8 ≤ 5) (hb'' : t'.codeBytes (4 + 8 * (leNat ((b'.drop 1).take 1) % 8 + 1)) = .ok (b'', t''))
    (h : decode b'' = .ok (d, n)) : v.fetch = .ok (.ready d, t'') := by
  have hhead : ¬ (leNat (b'.take 1) ≠ 255 ∨ 6 < leNat ((b'.drop 1).take 1) % 8 + 1) := by
    have h255 : leNat [0xFF] = 255 := rfl
    rw [hf, h255]
    omega
  simp only [State.fetch, hb, hb', hb'', bind, Except.bind, h3, hhead, decodeFetched_ok h, pure, Except.pure]
  simp

end Long

/-! Executing what was fetched. -/

/-- The state in which an instruction begins. -/
def State.begun (t : State) : State := { t with touched := [], member := 0 }

section Begun
variable {t : State} (h : t.begun.failedReq false 0 = none)
include h

theorem issue_instr (i : Instr) : t.issue (.ready (.instr i)) = exec i t.begun := by
  unfold State.begun at h
  simp only [State.issue, State.begun, h]

theorem issue_l2hint (rd rs1 rs2 : Reg) : t.issue (.ready (.l2hint rd rs1 rs2)) = execL2hint rd rs1 rs2 t.begun := by
  unfold State.begun at h
  simp only [State.issue, State.begun, h]

theorem issue_convoy (hd : BitVec 32) (ws : List (BitVec 64)) : t.issue (.ready (.convoy hd ws)) = exec (.convoy hd ws) t.begun := by
  unfold State.begun at h
  simp only [State.issue, State.begun, h]
  rfl

end Begun

/-! L2HINT: bits 63:60 of its operand select the row (R231). -/

section L2hint
variable {rd rs1 rs2 : Reg} {w : State}

theorem execL2hint_fetch (h : bits (w.x rs2) 63 60 = 0) : execL2hint rd rs1 rs2 w = exec (.l2hintFetch rd rs1 rs2) w := by
  rw [execL2hint, h]
  rfl

theorem execL2hint_demote (h : bits (w.x rs2) 63 60 = 1) : execL2hint rd rs1 rs2 w = exec (.l2hintDemote rd rs1 rs2) w := by
  rw [execL2hint, h]
  rfl

theorem execL2hint_counters (h : bits (w.x rs2) 63 60 = 2) : execL2hint rd rs1 rs2 w = exec (.l2hintCounters rd rs1 rs2) w := by
  rw [execL2hint, h]
  rfl

theorem execL2hint_illegal (h : 2 < bits (w.x rs2) 63 60) :
    execL2hint rd rs1 rs2 w = exec (.illegalInstruction (hintBits rd rs1 rs2)) w := by
  obtain ⟨n, hn⟩ := Nat.exists_eq_add_of_lt h
  rw [execL2hint, hn, show 2 + n + 1 = n + 3 by omega]
  rfl

end L2hint

theorem issueOne_fetched {v t : State} {f : Fetched} (h : v.fetch = .ok (f, t)) : v.issueOne = t.issue f := by
  rw [State.issueOne, h]

/-! The turn of a hart. -/

theorem step_run {s : State} {h : Nat} {rest : List Move} (hag : s.agenda = .run h :: rest) :
    step s = Clause.delivered (({ s with agenda := rest } : State).runHart h) := by
  have hmove : s.move = ({ s with agenda := rest } : State).runHart h := by
    rw [State.move, hag]
    rfl
  rw [step, hmove]
  cases ({ s with agenda := rest } : State).runHart h <;> rfl

theorem runHart_turn {s a : State} {h : Nat} (ha : s.settleEvent h = a) (hhalt : a.haltPoint h = none)
    (hint : ∀ t, execInterruptTake h a ≠ .next t) (hrun : ((a.rouse h).settle h).canRun h = true)
    (hheld : ((a.rouse h).settle h).heldForEvent h = false) : s.runHart h = ((a.rouse h).settle h).turn h := by
  have hturn : (if ((a.rouse h).settle h).canRun h && !((a.rouse h).settle h).heldForEvent h then ((a.rouse h).settle h).turn h
      else notNow "the turn of a hart") = ((a.rouse h).settle h).turn h := if_pos (by simp [hrun, hheld])
  rw [State.runHart, ha]
  simp only [hhalt]
  cases hx : execInterruptTake h a with
  | next t => exact absurd hx (hint t)
  | fault => exact hturn
  | refused => exact hturn

section Turn
variable {u : State} {h : Nat} (hres : (u.hart h).resumeTrap = none) (hcut : u.cutFor h = none)
include hres hcut

theorem turn_alone (ht : u.turnOf h = .alone) : u.turn h = ((u.as h).onHart h fun x => x.setStatus .running).issueOne := by
  simp only [State.turn, hres, hcut, ht]

theorem turn_together (ht : u.turnOf h = .together) {t : State}
    (hg : ((u.hart h).gang.foldl (fun s k => s.onHart k fun x => x.setStatus .running) u).gangTurn (u.hart h).gang = .next t) :
    u.turn h = .next { t with cur := h } := by
  simp only [State.turn, hres, hcut, ht, hg]

end Turn

/-! Lockstep (R343). -/

theorem turnOf_together_gang {u : State} {h : Nat} (ht : u.turnOf h = .together) : (u.hart h).gang ≠ [] := by
  intro hg
  simp [State.turnOf, hg] at ht

theorem headD_mem {ms : List Nat} (h : ms ≠ []) : ms.headD 0 ∈ ms := by
  cases ms with
  | nil => exact absurd rfl h
  | cons k ks => simp

/-- Where every member passes its instruction and none traps, every member executes it. -/
theorem issueAll_passed {t : State} {ms : List Nat} {f : Fetched} (hne : ms ≠ [])
    (hall : ∀ k ∈ ms, ∃ r, (t.as k).issue f = .next r ∧ ((t.hart k).trapAt.isNone → (r.hart k).trapAt.isNone) ∧
      (t.hart k).passed (r.hart k) = true) :
    t.issueAll ms f = .next (ms.foldl (fun w k => outState ((w.as k).issue f) w) t) := by
  have htraps : ms.filter (fun k => (t.hart k).trapAt.isNone && ((outState ((t.as k).issue f) t).hart k).trapAt.isSome) = [] := by
    refine List.filter_eq_nil_iff.mpr fun k hk => ?_
    obtain ⟨r, hr, htrap, -⟩ := hall k hk
    rw [hr]
    simp only [outState, Bool.and_eq_true, not_and, Bool.not_eq_true, Option.isSome_eq_false_iff]
    exact htrap
  have hlate : ms.filter (fun k => !(t.hart k).passed ((outState ((t.as k).issue f) t).hart k)) = [] := by
    refine List.filter_eq_nil_iff.mpr fun k hk => ?_
    obtain ⟨r, hr, -, hpass⟩ := hall k hk
    rw [hr]
    simp [outState, hpass]
  obtain ⟨r, hlead, -⟩ := hall _ (headD_mem hne)
  simp only [State.issueAll, htraps, hlate, hlead]
  rfl

theorem any_ne_eq_false {α : Type} [DecidableEq α] {ms : List Nat} {g : Nat → α} {x : α} (h : ∀ k ∈ ms, g k = x) :
    (ms.any fun k => decide (g k ≠ x)) = false := by
  simpa using h

theorem gangTurn_fetched {v t : State} {ms : List Nat} {f : Fetched} (hpc : ∀ k ∈ ms, (v.as k).pc = (v.as (ms.headD 0)).pc)
    (hf : (v.as (ms.headD 0)).fetch = .ok (f, t)) (hm : (t.as (ms.headD 0)).mmaOf f = none)
    (hb : ∀ k ∈ ms, (t.as k).branchNext f = (t.as (ms.headD 0)).branchNext f) : v.gangTurn ms = t.issueAll ms f := by
  simp only [State.gangTurn, any_ne_eq_false hpc, hf, any_ne_eq_false hb, hm, Bool.false_eq_true, if_false]

end Sys2Proof.Machine

open Sys2Proof Sys2Proof.Machine

/-- Settles O59: the move is the turn of its hart, which issues what it, or the leader of its gang, fetches. -/
theorem stepRunsDecoded : Obligations.StepRunsDecoded := by
  refine ⟨fun s i h => issue_instr h i, ?_⟩
  intro s h rest hag a u hhalt hint hrun hheld hres hcut
  have hstep : step s = Clause.delivered (u.turn h) := by rw [step_run hag, runHart_turn rfl hhalt hint hrun hheld]
  constructor
  · intro ht v start
    have hone {d : Decoded} {t : State} (hf : v.fetch = .ok (.ready d, t)) : step s = Clause.delivered (t.issue (.ready d)) := by
      rw [hstep, turn_alone hres hcut ht, issueOne_fetched hf]
    refine ⟨fun b t i hb hd hq => ?_, fun b t b' t' hb h3 hb' => ⟨fun i hd hq => ?_, fun rd rs1 rs2 hd hq => ?_, ?_⟩⟩
    · exact (hone (fetch_compact hb hd)).trans (congrArg _ (issue_instr hq i))
    · exact (hone (fetch_word hb h3 hb' hd)).trans (congrArg _ (issue_instr hq i))
    · have hhint : step s = Clause.delivered (execL2hint rd rs1 rs2 (start t')) :=
        (hone (fetch_word hb h3 hb' hd)).trans (congrArg _ (issue_l2hint hq rd rs1 rs2))
      exact ⟨fun hb => hhint.trans (congrArg _ (execL2hint_fetch hb)), fun hb => hhint.trans (congrArg _ (execL2hint_demote hb)),
        fun hb => hhint.trans (congrArg _ (execL2hint_counters hb)), fun hb => hhint.trans (congrArg _ (execL2hint_illegal hb))⟩
    · intro b'' t'' hd ws hf hc hb'' hdec hq
      exact (hone (fetch_convoy hb h3 hb' hf hc hb'' hdec)).trans (congrArg _ (issue_convoy hq hd ws))
  · intro ht ms v lead hpc f t hf hm hb hall
    rw [hstep, turn_together hres hcut ht ((gangTurn_fetched hpc hf hm hb).trans (issueAll_passed (turnOf_together_gang ht) hall))]
    rfl

end

section
/-! Proofs of the statements on integer instructions (spec/05 R97-R102, spec/02 R27, R28, R31): the meaning of each listed form is the
operation `alu`, `branch` or a jump on its listed result. -/

namespace Sys2Proof.Machine

/-! The results that the model computes, as the statements write them. -/

theorem b2w_decide (p : Prop) [Decidable p] : (b2w (decide p) : Word) = flagWord p := by
  simp [b2w, flagWord]

theorem b2w_slt (a b : Word) : b2w (a.slt b) = flagWord (a.toInt < b.toInt) := by
  rw [BitVec.slt_eq_decide, b2w_decide]

theorem b2w_ult (a b : Word) : b2w (a.ult b) = flagWord (a.toNat < b.toNat) := by
  rw [BitVec.ult_eq_decide, b2w_decide]

theorem minS_eq (a b : Word) : minS a b = if a.toInt < b.toInt then a else b := by simp [minS, BitVec.slt_eq_decide]
theorem maxS_eq (a b : Word) : maxS a b = if a.toInt < b.toInt then b else a := by simp [maxS, BitVec.slt_eq_decide]
theorem minU_eq (a b : Word) : minU a b = if a.toNat < b.toNat then a else b := by simp [minU, BitVec.ult_eq_decide]
theorem maxU_eq (a b : Word) : maxU a b = if a.toNat < b.toNat then b else a := by simp [maxU, BitVec.ult_eq_decide]

/-- The leading zeros are counted from the top bit down. -/
theorem clzN_eq (w : Nat) (a : BitVec w) : clzN a = firstPos w fun i => a.getLsbD (w - 1 - i) := by
  unfold clzN firstPos
  congr 1
  refine List.find?_congr fun i hi => ?_
  rw [BitVec.getMsbD_eq_getLsbD, decide_eq_true (List.mem_range.mp hi), Bool.true_and]

theorem firstPos_le (w : Nat) (p : Nat → Bool) : firstPos w p ≤ w := by
  unfold firstPos
  cases h : (List.range w).find? p with
  | none => exact Nat.le_refl w
  | some i => exact Nat.le_of_lt (List.mem_range.mp (List.mem_of_find?_eq_some h))

theorem firstPos_congr {w : Nat} {p q : Nat → Bool} (h : ∀ i < w, p i = q i) : firstPos w p = firstPos w q := by
  unfold firstPos
  rw [List.find?_congr fun i hi => h i (List.mem_range.mp hi)]

/-- A small count keeps its value when its word is sign-extended. -/
theorem signExtend_count {n : Nat} (h : n ≤ 32) : (BitVec.ofNat 32 n).signExtend 64 = BitVec.ofNat 64 n := by
  have hmsb : (BitVec.ofNat 32 n).msb = false := by
    rw [BitVec.msb_eq_decide, BitVec.toNat_ofNat, Nat.mod_eq_of_lt (by omega), decide_eq_false (by omega)]
  rw [BitVec.signExtend_eq_setWidth_of_msb_false hmsb]
  refine BitVec.eq_of_toNat_eq ?_
  simp only [BitVec.toNat_setWidth, BitVec.toNat_ofNat]
  omega

theorem getLsbD_low (a : Word) {i : Nat} (h : i < 32) : (a.setWidth 32).getLsbD i = a.getLsbD i := by
  simp [h]

theorem clzN_low (a : Word) :
    (BitVec.ofNat 32 (clzN (a.setWidth 32))).signExtend 64 = BitVec.ofNat 64 (firstPos 32 fun i => a.getLsbD (31 - i)) := by
  rw [clzN_eq, signExtend_count (firstPos_le 32 _), firstPos_congr fun i _ => getLsbD_low a (by omega)]

theorem ctzN_low (a : Word) :
    (BitVec.ofNat 32 (ctzN (a.setWidth 32))).signExtend 64 = BitVec.ofNat 64 (firstPos 32 fun i => a.getLsbD i) := by
  rw [show ctzN (a.setWidth 32) = firstPos 32 fun i => (a.setWidth 32).getLsbD i from rfl, signExtend_count (firstPos_le 32 _),
    firstPos_congr fun i hi => getLsbD_low a hi]

theorem cpopN_low (a : Word) : (BitVec.ofNat 32 (cpopN (a.setWidth 32))).signExtend 64 =
    BitVec.ofNat 64 ((List.range 32).filter fun i => a.getLsbD i).length := by
  have hle : cpopN (a.setWidth 32) ≤ 32 := by
    simpa [cpopN] using List.length_filter_le (fun i => (a.setWidth 32).getLsbD i) (List.range 32)
  rw [signExtend_count hle, cpopN, List.filter_congr fun i hi => getLsbD_low a (List.mem_range.mp hi)]

theorem bswap4_low (a : Word) : (bswap4 (a.setWidth 32)).signExtend 64 =
    (a.extractLsb' 0 8 ++ a.extractLsb' 8 8 ++ a.extractLsb' 16 8 ++ a.extractLsb' 24 8 : BitVec 32).signExtend 64 := by
  have hbyte (k : Nat) (hk : k + 8 ≤ 32) : (a.setWidth 32).extractLsb' k 8 = a.extractLsb' k 8 := by
    ext i hi
    simp only [BitVec.getElem_extractLsb', BitVec.getLsbD_setWidth, show k + i < 32 by omega, decide_true, Bool.true_and]
  rw [bswap4, hbyte 0 (by decide), hbyte 8 (by decide), hbyte 16 (by decide), hbyte 24 (by decide)]

theorem setWidth_setWidth_ofNat (a : Word) (n : Nat) : (a.setWidth n).setWidth 64 = BitVec.ofNat 64 (a.toNat % 2 ^ n) := by
  refine BitVec.eq_of_toNat_eq ?_
  simp

theorem divS_eq (w : Nat) : divS = quotS w := by
  funext a b
  have h : a.sdiv b = BitVec.ofInt w (a.toInt.tdiv b.toInt) := BitVec.eq_of_toInt_eq (by rw [BitVec.toInt_sdiv, BitVec.toInt_ofInt])
  rw [divS, quotS, h]

theorem remS_eq (w : Nat) : remS = restS w := by
  funext a b
  have h : a.srem b = BitVec.ofInt w (a.toInt.tmod b.toInt) := by rw [← BitVec.toInt_srem, BitVec.ofInt_toInt]
  rw [remS, restS, h]

theorem divU_eq (w : Nat) : divU = quotU w := by
  funext a b
  have h : a / b = BitVec.ofNat w (a.toNat / b.toNat) := by rw [← BitVec.toNat_udiv, BitVec.ofNat_toNat, BitVec.setWidth_eq]
  rw [divU, quotU, h]

theorem remU_eq (w : Nat) : remU = restU w := by
  funext a b
  have h : a % b = BitVec.ofNat w (a.toNat % b.toNat) := by rw [← BitVec.toNat_umod, BitVec.ofNat_toNat, BitVec.setWidth_eq]
  rw [remU, restU, h]

theorem shl_one (v : Word) : v <<< 1 = v * 2 := by
  rw [BitVec.shiftLeft_eq_mul_twoPow]; rfl

/-! The meaning of each form: it writes its listed result. -/

/-- Equal results leave equal states. -/
theorem next_alu_congr {s : State} {rd : Reg} {len : Nat} {v w : Word} (h : v = w) :
    (.next (alu s rd v len) : Out) = .next (alu s rd w len) := by rw [h]

theorem exec_regForms (s : State) (rd rs1 rs2 : Reg) :
    ∀ p ∈ regForms, exec (p.1 rd rs1 rs2) s = .next (alu s rd (p.2 (s.x rs1) (s.x rs2) (s.x rd))) := by
  simp only [regForms, List.forall_mem_cons]
  exact ⟨rfl, rfl, rfl, rfl, rfl, rfl, rfl, rfl, rfl, rfl, rfl, rfl, rfl, next_alu_congr (b2w_slt _ _), next_alu_congr (b2w_ult _ _),
    next_alu_congr (minS_eq _ _), next_alu_congr (maxS_eq _ _), next_alu_congr (minU_eq _ _), next_alu_congr (maxU_eq _ _),
    rfl, rfl, rfl, rfl, rfl, rfl, List.forall_mem_nil _⟩

theorem exec_unaryForms (s : State) (rd rs1 : Reg) :
    ∀ p ∈ unaryForms, exec (p.1 rd rs1) s = .next (alu s rd (p.2 (s.x rs1))) := by
  simp only [unaryForms, List.forall_mem_cons]
  exact ⟨next_alu_congr (congrArg _ (clzN_eq 64 _)), rfl, rfl, rfl, rfl, rfl, next_alu_congr (setWidth_setWidth_ofNat _ 8),
    next_alu_congr (setWidth_setWidth_ofNat _ 16), next_alu_congr (setWidth_setWidth_ofNat _ 32), rfl, next_alu_congr (clzN_low _),
    next_alu_congr (ctzN_low _), next_alu_congr (cpopN_low _), next_alu_congr (bswap4_low _), List.forall_mem_nil _⟩

theorem exec_wordForms (s : State) (rd rs1 rs2 : Reg) :
    ∀ p ∈ wordForms, exec (p.1 rd rs1 rs2) s = .next (alu s rd (p.2 (s.x rs1) (s.x rs2))) := by
  simp only [wordForms, List.forall_mem_cons]
  exact ⟨rfl, rfl, rfl, rfl, rfl, rfl, rfl, rfl, List.forall_mem_nil _⟩

theorem exec_divForms (s : State) (rd rs1 rs2 : Reg) :
    ∀ p ∈ divForms, exec (p.1 rd rs1 rs2) s = .next (alu s rd (p.2 (s.x rs1) (s.x rs2))) := by
  simp only [divForms, List.forall_mem_cons, ← divS_eq, ← divU_eq, ← remS_eq, ← remU_eq]
  exact ⟨rfl, rfl, rfl, rfl, rfl, rfl, rfl, rfl, List.forall_mem_nil _⟩

theorem exec_immForms (s : State) (rd rs1 : Reg) (imm : BitVec 14) :
    ∀ p ∈ immForms, exec (p.1 rd rs1 imm) s = .next (alu s rd (p.2 (s.x rs1) (imm.signExtend 64))) := by
  simp only [immForms, List.forall_mem_cons]
  exact ⟨rfl, rfl, rfl, rfl, next_alu_congr (b2w_slt _ _), next_alu_congr (b2w_ult _ _), List.forall_mem_nil _⟩

theorem exec_shiftForms (s : State) (rd rs1 : Reg) (sh : BitVec 6) :
    ∀ p ∈ shiftForms, exec (p.1 rd rs1 sh) s = .next (alu s rd (p.2 (s.x rs1) sh.toNat)) := by
  simp only [shiftForms, List.forall_mem_cons]
  exact ⟨rfl, rfl, rfl, rfl, List.forall_mem_nil _⟩

theorem exec_compactForms (s : State) (r : Reg) :
    ∀ p ∈ compactForms, exec (p.1 r) s = .next (alu s r (p.2 s.lastDest (s.x r)) 2) := by
  simp only [compactForms, List.forall_mem_cons]
  exact ⟨rfl, rfl, rfl, rfl, rfl, rfl, rfl, rfl, rfl, next_alu_congr (b2w_slt _ _), next_alu_congr (b2w_ult _ _), rfl,
    List.forall_mem_nil _⟩

theorem exec_compactImmForms (s : State) (r : Reg) (imm : BitVec 4) :
    ∀ p ∈ compactImmForms, exec (p.1 r imm) s = .next (alu s r (p.2 s.lastDest imm) 2) := by
  simp only [compactImmForms, List.forall_mem_cons]
  exact ⟨rfl, rfl, rfl, rfl, rfl, rfl, List.forall_mem_nil _⟩

/-! Branches and jumps. -/

/-- The target of a branch, counted in bytes (R101). -/
theorem branchPc_eq (pc : Word) (off : BitVec 14) (taken : Bool) :
    branchPc pc off taken = if taken then pc + (off.signExtend 64) * 2 else pc + 4 := by
  rw [branchPc, offXb, shl_one]

theorem exec_branchForms (s : State) (rs1 rs2 : Reg) (off : BitVec 14) :
    ∀ p ∈ branchForms, exec (p.1 rs1 rs2 off) s = .next (branch s off (p.2 (s.x rs1) (s.x rs2))) := by
  have hlt (a b : Word) : a.slt b = decide (a.toInt < b.toInt) := BitVec.slt_eq_decide
  have hltn (a b : Word) : a.ult b = decide (a.toNat < b.toNat) := BitVec.ult_eq_decide
  have hge (a b : Word) : (!a.slt b) = decide (b.toInt ≤ a.toInt) := by rw [hlt, ← decide_not, decide_eq_decide, Int.not_lt]
  have hgen (a b : Word) : (!a.ult b) = decide (b.toNat ≤ a.toNat) := by rw [hltn, ← decide_not, decide_eq_decide, Nat.not_lt]
  have hne (a b : Word) : (a != b) = decide (a ≠ b) := decide_not.symm
  have step {b c : Bool} (h : b = c) : (.next (branch s off b) : Out) = .next (branch s off c) := by rw [h]
  simp only [branchForms, List.forall_mem_cons]
  exact ⟨rfl, step (hne _ _), step (hlt _ _), step (hge _ _), step (hltn _ _), step (hgen _ _), List.forall_mem_nil _⟩

/-- A branch changes PC alone (R101). -/
theorem branch_onlyPc {s : State} (hs : s.calm = true) (off : BitVec 14) (taken : Bool) :
    OnlyPc (if taken then s.pc + (off.signExtend 64) * 2 else s.pc + 4) s (branch s off taken) :=
  goto_onlyPc s (fun u => branchPc u.pc off taken) hs _ (by rw [pc_openChunk, branchPc_eq])

end Sys2Proof.Machine

open Sys2Proof Sys2Proof.Machine

/-- Settles O1: each form is `alu` on its listed result, which writes X[rd] alone. -/
theorem integerForms : Obligations.IntegerForms :=
  ⟨fun p hp s rd rs1 rs2 hs => ⟨_, exec_regForms s rd rs1 rs2 p hp, alu_writesX s rd _ 4 hs⟩,
   fun p hp s rd rs1 hs => ⟨_, exec_unaryForms s rd rs1 p hp, alu_writesX s rd _ 4 hs⟩,
   fun p hp s rd rs1 rs2 hs => ⟨_, exec_wordForms s rd rs1 rs2 p hp, alu_writesX s rd _ 4 hs⟩⟩

/-- Settles O2: each division is `alu` on its quotient or remainder, which has the edge cases by evaluation. -/
theorem divisionForms : Obligations.DivisionForms := by
  refine ⟨fun p hp s rd rs1 rs2 hs => ⟨_, exec_divForms s rd rs1 rs2 p hp, alu_writesX s rd _ 4 hs⟩, fun w hw a => ?_⟩
  refine ⟨if_pos rfl, if_pos rfl, if_pos rfl, if_pos rfl, ?_⟩
  rcases hw with rfl | rfl
  · decide
  · decide

/-- Settles O3: each form is `alu` on its listed result; NOP.C sets PC alone. -/
theorem immediateAndCompactForms : Obligations.ImmediateAndCompactForms := by
  refine ⟨fun s rd rs1 hs => ⟨fun p hp imm => ?_, fun p hp sh => ?_, fun imm => ?_, fun imm => ?_⟩,
    fun s r hs => ⟨fun p hp => ?_, fun p hp imm => ?_, ?_⟩⟩
  · exact ⟨_, exec_immForms s rd rs1 imm p hp, alu_writesX s rd _ 4 hs⟩
  · exact ⟨_, exec_shiftForms s rd rs1 sh p hp, alu_writesX s rd _ 4 hs⟩
  · exact ⟨_, rfl, alu_writesX s rd _ 4 hs⟩
  · exact ⟨_, rfl, alu_writesX s rd _ 4 hs⟩
  · exact ⟨_, exec_compactForms s r p hp, alu_writesX s r _ 2 hs⟩
  · exact ⟨_, exec_compactImmForms s r imm p hp, alu_writesX s r _ 2 hs⟩
  · exact ⟨_, rfl, goto_onlyPc s (fun u => u.pc + 2) hs _ (by rw [pc_openChunk])⟩

/-- Settles O4: each branch sets PC alone, on its listed relation. -/
theorem conditionalBranches : Obligations.ConditionalBranches := fun p hp s rs1 rs2 off hs =>
  ⟨_, exec_branchForms s rs1 rs2 off p hp, branch_onlyPc hs off _⟩

/-- Settles O5: both are a jump that links, with the target read before X[rd] is written. -/
theorem jumpsAndLinks : Obligations.JumpsAndLinks := by
  refine fun s rd rs1 hs => ⟨fun off => ⟨_, rfl, ?_⟩, fun imm => ⟨_, rfl, ?_⟩⟩
  · exact jump_jumps s rd (fun u => u.pc + offXj off) _ hs (by rw [pc_openChunk, offXj, shl_one])
  · exact jump_jumps s rd (fun u => jalrPc (u.x rs1) imm) _ hs (by rw [x_openChunk]; rfl)

end

section
/-! Proofs of the statements on scalar loads and stores (spec/05 R106-R112, spec/02 R28): the value of loaded bytes, the bodies of the accesses
once their checks pass, and what a misaligned access does. -/

namespace Sys2Proof.Machine

/-! The value of the loaded bytes (R108). -/

/-- Numbers that differ by 2^64 have the same word. -/
theorem ofInt_sub_two_pow_64 (v : Nat) : BitVec.ofInt 64 ((v : Int) - 2 ^ 64) = BitVec.ofNat 64 v := by
  refine BitVec.eq_of_toNat_eq ?_
  rw [BitVec.toNat_ofInt, BitVec.toNat_ofNat]
  omega

/-- A value of n bytes extended by its sign: 2^(8n) less where its top bit is set. -/
theorem signExtend_ofNat {k v : Nat} (hk : 0 < k) (hv : v < 2 ^ k) :
    (BitVec.ofNat k v).signExtend 64 = BitVec.ofInt 64 (if 2 ^ (k - 1) ≤ v then (v : Int) - 2 ^ k else v) := by
  have hpow : 2 ^ k = 2 * 2 ^ (k - 1) := by rw [← Nat.pow_succ', Nat.succ_eq_add_one, Nat.sub_add_cancel hk]
  rw [BitVec.signExtend, BitVec.toInt_eq_toNat_cond, BitVec.toNat_ofNat, Nat.mod_eq_of_lt hv]
  by_cases h : 2 ^ (k - 1) ≤ v
  · rw [if_neg (by omega), if_pos h]; rfl
  · rw [if_pos (by omega), if_neg h]

/-- The model extends the loaded bytes as the statements do. -/
theorem loadExt_eq {sx : Bool} {n : Nat} {bs : List Byte} (hl : bs.length = n) (h0 : 0 < n) (h8 : n ≤ 8) :
    loadExt sx n bs = fromBytes sx n bs := by
  have hv : leNat bs < 2 ^ (8 * n) := hl ▸ leNat_lt bs
  cases sx with
  | false => simp [loadExt, fromBytes]
  | true =>
    simp only [loadExt, fromBytes, true_and, if_true, signExtend_ofNat (by omega : 0 < 8 * n) hv]
    by_cases htop : 2 ^ (8 * n - 1) ≤ leNat bs
    · rw [if_pos htop]
      rcases Nat.lt_or_ge n 8 with hn | hn
      · rw [if_pos ⟨hn, htop⟩]
      · obtain rfl : n = 8 := by omega
        rw [if_neg (by omega)]
        exact (ofInt_sub_two_pow_64 _).symm
    · rw [if_neg (fun h => htop h.2), if_neg htop, BitVec.ofInt_natCast]

/-- An aligned access of 2^size bytes that passes its checks locates as many. -/
theorem check_locs {s u : State} {w : Who} {kind : Kind} {size : Nat} {va : Word} {a : Acc} (hsize : size ≤ 3)
    (h : s.check w kind (2 ^ size) 0 va (2 ^ size) = .ok (a, u)) : a.locs.length = 2 ^ size := by
  obtain ⟨halign, hloc⟩ := check14_ok (check_ok h)
  have hd : 2 ^ size ∣ 4096 := Nat.pow_dvd_pow 2 (by omega : size ≤ 12)
  obtain ⟨base, hl⟩ := locate_aligned (Nat.two_pow_pos size) hd halign hloc
  simp [hl]

theorem two_pow_size_le {size : Nat} (h : size ≤ 3) : 2 ^ size ≤ 8 := Nat.pow_le_pow_right (by decide) h

/-! What an access leaves of its hart: its registers, its context and its mode. -/

/-- `t` has the executing hart of `s`, with its registers and its address space. -/
structure SameHart (s t : State) : Prop where
  cur : t.cur = s.cur
  a : t.me.a = s.me.a
  ctx : t.me.ctx = s.me.ctx
  asid : t.me.asid = s.me.asid

theorem SameHart.trans {s t u : State} (h : SameHart s t) (g : SameHart t u) : SameHart s u :=
  ⟨g.cur.trans h.cur, g.a.trans h.a, g.ctx.trans h.ctx, g.asid.trans h.asid⟩

theorem SameHart.who {s t : State} (h : SameHart s t) : t.who t.cur = s.who s.cur := by
  show ({ hart := t.cur, core := coreOf t.cur, ctx := t.me.ctx, asid := t.me.asid, mode := t.me.a.mode } : Who) = _
  rw [h.cur, h.a, h.ctx, h.asid]
  rfl

theorem SameHart.timed {s t : State} (h : SameHart s t) : t.timed = s.timed := by
  rw [State.timed, State.csr, Hart.csr, h.a]
  rfl

theorem SameHart.of_quiet {s t : State} (h : Quiet s t) : SameHart s t := ⟨h.cur, h.me.a, h.me.ctx, h.me.asid⟩

theorem SameHart.openChunk (s : State) (own : Bool) : SameHart s (s.openChunk own) := by
  have h := HartOnly.openChunk s own
  exact ⟨h.cur, by rw [h.me]; rfl, by rw [h.me]; rfl, by rw [h.me]; rfl⟩

theorem SameHart.setHart (s : State) {x : Hart} (ha : x.a = s.me.a) (hc : x.ctx = s.me.ctx) (hi : x.asid = s.me.asid) :
    SameHart s (s.setHart s.cur x) := by
  have h := HartOnly.setHart s x
  exact ⟨rfl, by rw [h.me, ha], by rw [h.me, hc], by rw [h.me, hi]⟩

theorem SameHart.onChunk (s : State) (f : Chunk → Chunk) : SameHart s (s.onChunk f) := SameHart.setHart s rfl rfl rfl

theorem SameHart.onCore (s : State) (c : Nat) (f : Core → Core) : SameHart s (s.onCore c f) := ⟨rfl, rfl, rfl, rfl⟩

theorem SameHart.countConflicts (s : State) (c n : Nat) : SameHart s (s.countConflicts c n) := by
  unfold State.countConflicts
  split
  · exact ⟨rfl, rfl, rfl, rfl⟩
  · exact SameHart.onCore s c _

theorem SameHart.acquire (s : State) (sc : Scope) : SameHart s (s.acquire s.cur sc) := by
  refine SameHart.trans ?_ (SameHart.of_quiet (quiet_acquire s s.cur sc))
  split
  · exact ⟨rfl, rfl, rfl, rfl⟩
  · exact SameHart.setHart s rfl rfl rfl

/-! Reading located bytes outside a timed phase. -/

/-- The read asks no bank, so neither the cycle nor the operation of a request matters; it answers a byte for each location. -/
theorem readAcc_untimed {u : State} (ht : u.timed = false) (a : Acc) (ins : Insert) (op : Nat → BankOp) :
    u.readAcc a ins 0 (fun _ => 0) op = u.readAcc a ins ∧ SameHart u (u.readAcc a ins).2 ∧
      (u.readAcc a ins).1.length = a.locs.length := by
  have hv : SameHart u (((u.touchAll (clusterOf u.cur) a.locs (a.insert ins))).onChunk
      fun c => { c with reads := nub (linesOf (a.locs.filter isHbm) ++ c.reads) }) :=
    (SameHart.of_quiet (quiet_touchAll u _ _ _)).trans (SameHart.onChunk _ _)
  have hvt := hv.timed.trans ht
  unfold State.readAcc
  simp only [hvt, Bool.false_eq_true, if_false]
  refine ⟨trivial, ?_, ?_⟩
  · split
    · exact hv
    · exact hv.trans (SameHart.countConflicts _ _ _)
  · split
    · exact List.length_map ..
    · simp [movedLocs]

/-- A scalar read whose checks pass, on no host-shared page and outside a timed phase, reads its located bytes (R107, R108). -/
theorem scalarRead_of_check {o u : State} {ea : Word} {n : Nat} {a : Acc} (isF sx : Bool) (rd : Reg)
    (hc : o.check (o.who o.cur) .load n 0 ea n = .ok (a, u)) (hh : a.hshared = false) (ht : u.timed = false) :
    o.scalarRead isF sx rd ea n = .ok ((u.readAcc a .scalar).1, false, (u.readAcc a .scalar).2) := by
  obtain ⟨hop, -, -⟩ := readAcc_untimed ht a .scalar fun _ => u.loadOp isF sx rd ea n
  unfold State.scalarRead
  simp only [bind, Except.bind, pure, Except.pure, hc, State.hostAlone, hh, Bool.false_and, Bool.false_eq_true, if_false, ht, hop,
    State.hostAfter]

/-- A load whose value the lead supplies, in an unreplicated hart (R111). -/
theorem loadFwd_of_check {o u : State} {ea : Word} {size : Nat} {a : Acc} (rd : Reg) (before after : State → State)
    (hg : o.me.group = none) (hs : o.hostShared ea (2 ^ size) = false)
    (hc : (before o).check ((before o).who (before o).cur) .load (2 ^ size) 0 ea (2 ^ size) = .ok (a, u)) (hh : a.hshared = false)
    (ht : u.timed = false) : loadFwd o ea size rd before after =
      .ok ((after ((u.readAcc a .scalar).2.setX rd (loadExt true (2 ^ size) (u.readAcc a .scalar).1))).next 4) := by
  obtain ⟨-, hread, -⟩ := readAcc_untimed ht a .scalar fun _ => .done
  unfold loadFwd
  simp only [hs, Bool.false_and, Bool.false_eq_true, if_false]
  rw [forwarded_ok hg (v := [loadExt true (2 ^ size) (u.readAcc a .scalar).1]) (t := (u.readAcc a .scalar).2)
    (by rw [scalarRead_of_check false true rd hc hh ht]; rfl)]
  simp only [State.loaded, hread.timed.trans ht, Bool.false_and, Bool.false_eq_true, if_false, List.headD_cons]

theorem hostShared_of_check {o u : State} {ea : Word} {n : Nat} {a : Acc}
    (hc : o.check (o.who o.cur) .load n 0 ea n = .ok (a, u)) : o.hostShared ea n = a.hshared := by
  rw [State.hostShared, check_ok hc]

/-! Plain loads. -/

/-- What runs depends on the body in the open chunk alone. -/
theorem run_congr {s : State} {sh : Shape} {body other : State → Res} (hb : sh.before = false)
    (h : body (s.openChunk sh.own) = other (s.openChunk sh.own)) : s.run sh body = s.run sh other := by
  simp only [State.run, State.runOpen, hb, Bool.false_eq_true, if_false, h]

/-- Where the hart is unreplicated, LD.V loads as LD does (R111). -/
theorem loadV_eq_loadX {s u : State} {ea : Word} {size : Nat} {a : Acc} (rd : Reg) (hs : s.calm = true)
    (h : s.reaches .load (2 ^ size) ea (2 ^ size) a u) : loadV s rd ea size = loadX s rd ea size true := by
  obtain ⟨hcheck, hh, htimed, -⟩ := h
  have hopen := SameHart.openChunk s false
  rw [← hopen.who] at hcheck
  have ht : u.timed = false := ((hopen.trans (SameHart.of_quiet (quiet_check hcheck))).timed).trans htimed
  refine run_congr rfl ?_
  show loadFwd (s.openChunk false) ea size rd id id = Except.bind (State.scalarRead (s.openChunk false) false true rd ea (2 ^ size)) _
  rw [loadFwd_of_check rd id id (by rw [group_openChunk, calm_group hs]) ((hostShared_of_check hcheck).trans hh) hcheck hh ht,
    scalarRead_of_check false true rd hcheck hh ht]
  rfl

/-- A checked load writes the value of its bytes (R108, R111). -/
theorem loadX_loadsX {s u : State} {ea : Word} {size : Nat} {a : Acc} (rd : Reg) (sx : Bool) (len : Nat) (hsize : size ≤ 3)
    (hs : s.calm = true) (h : s.reaches .load (2 ^ size) ea (2 ^ size) a u) :
    LoadsX rd (fromBytes sx (2 ^ size) (u.readFrom a)) len (u.cached a) s (loadX s rd ea size sx len) := by
  have hlen : (u.readFrom a).length = 2 ^ size := by rw [State.readFrom, List.length_map, check_locs hsize h.1]
  rw [← loadExt_eq hlen (Nat.two_pow_pos size) (two_pow_size_le hsize)]
  exact loadX_loads rd sx len hs h

/-! The meaning of each form. -/

/-- The loads into X[rd]: plain, or of the lead's value, which is sign-extended. -/
theorem exec_loadForms (s : State) (rd base : Reg) (imm : BitVec 10) : ∀ p ∈ loadForms, p.2.1 ≤ 3 ∧
    (exec (p.1 rd base imm) s = .next (loadX s rd (s.addr base imm p.2.1) p.2.1 p.2.2) ∨
      p.2.2 = true ∧ exec (p.1 rd base imm) s = .next (loadV s rd (s.addr base imm p.2.1) p.2.1)) := by
  simp only [loadForms, List.forall_mem_cons]
  exact ⟨⟨by decide, .inl rfl⟩, ⟨by decide, .inl rfl⟩, ⟨by decide, .inl rfl⟩, ⟨by decide, .inl rfl⟩, ⟨by decide, .inl rfl⟩,
    ⟨by decide, .inl rfl⟩, ⟨by decide, .inl rfl⟩, ⟨by decide, .inr ⟨trivial, rfl⟩⟩, ⟨by decide, .inr ⟨trivial, rfl⟩⟩, ⟨by decide, .inr ⟨trivial, rfl⟩⟩,
    ⟨by decide, .inr ⟨trivial, rfl⟩⟩, List.forall_mem_nil _⟩

theorem exec_storeForms (s : State) (rd base : Reg) (imm : BitVec 10) : ∀ p ∈ storeForms, p.2 ≤ 3 ∧
    exec (p.1 rd base imm) s = .next (storeX s rd (s.addr base imm p.2) p.2) := by
  simp only [storeForms, List.forall_mem_cons]
  exact ⟨⟨by decide, rfl⟩, ⟨by decide, rfl⟩, ⟨by decide, rfl⟩, ⟨by decide, rfl⟩, List.forall_mem_nil _⟩

theorem exec_floatLoadForms (s : State) (rd base : Reg) (imm : BitVec 10) : ∀ p ∈ floatLoadForms,
    exec (p.1 rd base imm) s = .next (loadF s rd (s.addr base imm p.2) p.2) := by
  simp only [floatLoadForms, List.forall_mem_cons]
  exact ⟨rfl, rfl, rfl, List.forall_mem_nil _⟩

theorem exec_floatStoreForms (s : State) (rd base : Reg) (imm : BitVec 10) : ∀ p ∈ floatStoreForms, p.2 ≤ 3 ∧
    exec (p.1 rd base imm) s = .next (storeF s rd (s.addr base imm p.2) p.2) := by
  simp only [floatStoreForms, List.forall_mem_cons]
  exact ⟨⟨by decide, rfl⟩, ⟨by decide, rfl⟩, ⟨by decide, rfl⟩, List.forall_mem_nil _⟩

theorem exec_acquireForms (s : State) (rd base : Reg) (imm : BitVec 10) : ∀ p ∈ acquireForms, p.2 ≤ 3 ∧
    exec (p.1 rd base imm) s = .next (loadAcq s rd (s.addr base imm p.2) p.2) := by
  simp only [acquireForms, List.forall_mem_cons]
  exact ⟨⟨by decide, rfl⟩, ⟨by decide, rfl⟩, List.forall_mem_nil _⟩

theorem exec_releaseForms (s : State) (rd base : Reg) (imm : BitVec 10) : ∀ p ∈ releaseForms,
    exec (p.1 rd base imm) s = .next (storeRel s rd (s.addr base imm p.2) p.2) := by
  simp only [releaseForms, List.forall_mem_cons]
  exact ⟨rfl, rfl, List.forall_mem_nil _⟩

/-- The addresses of the compact forms: X[LDST] plus the scaled immediate (R28). -/
theorem imm4_scaled (imm : BitVec 4) (k : Nat) : BitVec.ofNat 64 (imm.toNat * k) = imm.setWidth 64 * BitVec.ofNat 64 k := by
  refine BitVec.eq_of_toNat_eq ?_
  simp [BitVec.toNat_mul]

theorem exec_ldC (s : State) (r : Reg) (imm : BitVec 4) :
    exec (.ldC r imm) s = .next (loadX s r (s.lastDest + imm.setWidth 64 * 8) 3 true 2) :=
  congrArg (fun d => (.next (loadX s r (s.lastDest + d) 3 true 2) : Out)) (imm4_scaled imm 8)
theorem exec_ldwC (s : State) (r : Reg) (imm : BitVec 4) :
    exec (.ldwC r imm) s = .next (loadX s r (s.lastDest + imm.setWidth 64 * 4) 2 true 2) :=
  congrArg (fun d => (.next (loadX s r (s.lastDest + d) 2 true 2) : Out)) (imm4_scaled imm 4)
theorem exec_stC (s : State) (r : Reg) (imm : BitVec 4) :
    exec (.stC r imm) s = .next (storeX s r (s.lastDest + imm.setWidth 64 * 8) 3 2) :=
  congrArg (fun d => (.next (storeX s r (s.lastDest + d) 3 2) : Out)) (imm4_scaled imm 8)

/-! Stores. -/

theorem two_pow_size_dvd {size : Nat} (h : size ≤ 3) : 2 ^ size ∣ 4096 := Nat.pow_dvd_pow 2 (by omega : size ≤ 12)

/-- A body that stores the low bytes of a register's value and goes on. -/
theorem storeBody_eq (o : State) (ea v : Word) (n len : Nat) :
    (do let t ← o.scalarWrite ea n v; return t.next len : Res) =
      match o.scalarWrite ea n v with | .ok t => .ok (t.next len) | .error e => .error e := by
  cases o.scalarWrite ea n v <;> rfl

/-- A checked store of an integer register (R108). -/
theorem storeX_storesTo {s u : State} {ea : Word} {size : Nat} {a : Acc} (rd : Reg) (len : Nat) (hsize : size ≤ 3) (hs : s.calm = true)
    (hroom : s.bufRoom (2 ^ size) = true) (h : s.reaches .store (2 ^ size) ea (2 ^ size) a u) :
    StoresTo a.locs (leBytes (2 ^ size) (s.x rd).toNat) len (u.cached a) s (storeX s rd ea size len) := by
  refine store_stores hs (Nat.two_pow_pos size) (two_pow_size_dvd hsize) h hroom ?_
  rw [x_openChunk]
  exact storeBody_eq _ _ _ _ _

/-- A checked store of a floating register (R108, R112). -/
theorem storeF_storesTo {s u : State} {ea : Word} {size : Nat} {a : Acc} (rd : Reg) (hsize : size ≤ 3) (hs : s.calm = true)
    (hroom : s.bufRoom (2 ^ size) = true) (h : s.reaches .store (2 ^ size) ea (2 ^ size) a u) :
    StoresTo a.locs (leBytes (2 ^ size) (s.f rd).toNat) 4 (u.cached a) s (storeF s rd ea size) := by
  refine store_stores hs (Nat.two_pow_pos size) (two_pow_size_dvd hsize) h hroom ?_
  rw [f_openChunk]
  exact storeBody_eq _ _ _ _ _

/-! Misaligned accesses (R107, check 1). -/

section
variable {o : State} {ea : Word} {n : Nat} (h : ea.toNat % n ≠ 0)
include h

theorem check14_misaligned (w : Who) (kind : Kind) (k : Nat) : o.check14 w kind n 0 ea k = .error (.trap Cause.misaligned ea 0) := by
  simp only [State.check14, checkAlign, if_neg h]
  rfl

theorem check_misaligned (w : Who) (kind : Kind) (k : Nat) : o.check w kind n 0 ea k = .error (.trap Cause.misaligned ea 0) := by
  rw [State.check, check14_misaligned h]
  rfl

theorem scalarRead_misaligned (isF sx : Bool) (rd : Reg) : o.scalarRead isF sx rd ea n = .error (.trap Cause.misaligned ea 0) := by
  rw [State.scalarRead, check_misaligned h]
  rfl

theorem scalarWrite_misaligned (v : Word) : o.scalarWrite ea n v = .error (.trap Cause.misaligned ea 0) := by
  rw [State.scalarWrite, check_misaligned h]
  rfl

end

theorem loadFwd_misaligned {o : State} {ea : Word} {size : Nat} (h : ea.toNat % 2 ^ size ≠ 0) (rd : Reg) (before after : State → State)
    (hg : o.me.group = none) : loadFwd o ea size rd before after = .error (.trap Cause.misaligned ea 0) := by
  unfold loadFwd State.hostShared
  simp only [check14_misaligned h, Bool.false_and, Bool.false_eq_true, if_false]
  exact forwarded_error hg (by rw [scalarRead_misaligned h]; rfl)

/-- An instruction whose body traps before any effect, between two chunks (R19). -/
theorem run_error_traps {s : State} {sh : Shape} {body : State → Res} {cause : Nat} {tval tval2 : Word} (hs : s.loose = true)
    (hb : body (s.openChunk sh.own) = .error (.trap cause tval tval2)) : Traps cause tval tval2 s (s.run sh body) :=
  run_traps hs hb ▸ takeTrap_traps s cause tval tval2 hs

section
variable {s : State} {ea : Word} {size : Nat} (hs : s.loose = true) (h : ea.toNat % 2 ^ size ≠ 0) (rd : Reg)
include hs h

theorem loadX_misaligned (sx : Bool) (len : Nat) : Traps Cause.misaligned ea 0 s (loadX s rd ea size sx len) :=
  run_error_traps hs (by simp only [scalarRead_misaligned h]; rfl)

theorem loadF_misaligned : Traps Cause.misaligned ea 0 s (loadF s rd ea size) :=
  run_error_traps hs (by simp only [scalarRead_misaligned h]; rfl)

theorem storeX_misaligned (len : Nat) : Traps Cause.misaligned ea 0 s (storeX s rd ea size len) :=
  run_error_traps hs (by simp only [scalarWrite_misaligned h]; rfl)

theorem storeF_misaligned : Traps Cause.misaligned ea 0 s (storeF s rd ea size) :=
  run_error_traps hs (by simp only [scalarWrite_misaligned h]; rfl)

theorem storeRel_misaligned : Traps Cause.misaligned ea 0 s (storeRel s rd ea size) :=
  run_error_traps hs (by simp only [scalarWrite_misaligned h]; rfl)

theorem loadV_misaligned : Traps Cause.misaligned ea 0 s (loadV s rd ea size) :=
  run_error_traps hs (loadFwd_misaligned h rd _ _ (by rw [group_openChunk, calm_group (loose_calm hs)]))

theorem loadAcq_misaligned : Traps Cause.misaligned ea 0 s (loadAcq s rd ea size) :=
  run_error_traps hs (loadFwd_misaligned h rd _ _ (by rw [group_openChunk, calm_group (loose_calm hs)]))

end

/-! Ordered accesses (R110). -/

/-- LDACQ: an acquire, the load, and an acquire, at the end of its chunk. -/
theorem loadAcq_ends {s u : State} {ea : Word} {size : Nat} {a : Acc} (rd : Reg) (hsize : size ≤ 3) (hs : s.solo = true)
    (htimed : s.timed = false)
    (hc : ((s.openChunk false).acquire s.cur .device).check (s.who s.cur) .load (2 ^ size) 0 ea (2 ^ size) = .ok (a, u))
    (hshare : (s.openChunk false).hostShared ea (2 ^ size) = false) (hh : a.hshared = false) :
    loadAcq s rd ea size = ((((u.readAcc a .scalar).2.setX rd (fromBytes true (2 ^ size) (u.readAcc a .scalar).1)).acquire
      s.cur .device).next 4).ends s.pc := by
  have hopen := SameHart.openChunk s false
  have hacq := hopen.trans (SameHart.acquire (s.openChunk false) .device)
  rw [hopen.cur] at hacq
  have hcheck := hc
  rw [← hacq.who] at hcheck
  have hu := hacq.trans (SameHart.of_quiet (quiet_check hc))
  have ht : u.timed = false := hu.timed.trans htimed
  obtain ⟨-, hread, hlen⟩ := readAcc_untimed ht a .scalar fun _ => .done
  rw [check_locs hsize hc] at hlen
  have hcur : ((u.readAcc a .scalar).2.setX rd (fromBytes true (2 ^ size) (u.readAcc a .scalar).1)).cur = s.cur := hread.cur.trans hu.cur
  refine run_alone hs ?_ rfl rfl
  show loadFwd (s.openChunk false) ea size rd (fun t => t.acquire t.cur .device) (fun t => t.acquire t.cur .device) = _
  rw [loadFwd_of_check rd _ _ (by rw [group_openChunk, solo_group hs]) hshare (by rw [hopen.cur]; exact hcheck) hh ht,
    loadExt_eq hlen (Nat.two_pow_pos size) (two_pow_size_le hsize), hcur]

/-- A scalar write whose checks pass, on no host-shared page. -/
theorem scalarWrite_of_check {o u : State} {ea : Word} {n : Nat} {a : Acc} (v : Word)
    (hc : o.check (o.who o.cur) .store n 0 ea n = .ok (a, u)) (hh : a.hshared = false) :
    o.scalarWrite ea n v = .ok (u.writeAcc a ea (leBytes n v.toNat) .scalar) := by
  unfold State.scalarWrite
  simp only [bind, Except.bind, pure, Except.pure, hc, State.hostAlone, hh, Bool.false_and, Bool.false_eq_true, if_false,
    State.hostAfter]

/-- STREL: the store, at the end of a chunk that closes at device scope. -/
theorem storeRel_ends {s u : State} {ea : Word} {size : Nat} {a : Acc} (rd : Reg) (hs : s.solo = true)
    (h : s.reaches .store (2 ^ size) ea (2 ^ size) a u) :
    storeRel s rd ea size = (((u.writeAcc a ea (leBytes (2 ^ size) (s.x rd).toNat) .scalar).onChunk
      fun c => { c with close := some .device }).next 4).ends s.pc := by
  obtain ⟨hcheck, hh, -, -⟩ := h
  rw [← (SameHart.openChunk s false).who] at hcheck
  refine run_alone hs ?_ rfl rfl
  show Except.bind (State.scalarWrite (s.openChunk false) ea (2 ^ size) ((s.openChunk false).x rd)) _ = _
  rw [scalarWrite_of_check _ hcheck hh, x_openChunk]
  rfl

end Sys2Proof.Machine

open Sys2Proof Sys2Proof.Machine

/-- Settles O6: a checked load writes the value of its bytes; LD.V of an unreplicated hart is the sign-extending load. -/
theorem loads : Obligations.Loads := by
  refine ⟨fun s u a hs => ⟨fun p hp rd base imm h => ?_, fun r imm h => ?_, fun r imm h => ?_⟩, fun p hp s u a rd base imm hs h => ?_⟩
  · obtain ⟨hsize, he | ⟨hsx, he⟩⟩ := exec_loadForms s rd base imm p hp
    · exact ⟨_, he, loadX_loadsX rd p.2.2 4 hsize hs h⟩
    · rw [hsx]
      rw [loadV_eq_loadX rd hs h] at he
      exact ⟨_, he, loadX_loadsX rd true 4 hsize hs h⟩
  · exact ⟨_, exec_ldC s r imm, loadX_loadsX (size := 3) r true 2 (by decide) hs h⟩
  · exact ⟨_, exec_ldwC s r imm, loadX_loadsX (size := 2) r true 2 (by decide) hs h⟩
  · exact ⟨_, exec_floatLoadForms s rd base imm p hp, loadF_loads rd hs h⟩

/-- Settles O7: each form is a checked store of the low bytes of its register. -/
theorem storeForms : Obligations.StoreForms := by
  refine fun s u a hs => ⟨fun p hp rd base imm hroom h => ?_, fun p hp rd base imm hroom h => ?_, fun r imm hroom h => ?_⟩
  · obtain ⟨hsize, he⟩ := exec_storeForms s rd base imm p hp
    exact ⟨_, he, storeX_storesTo rd 4 hsize hs hroom h⟩
  · obtain ⟨hsize, he⟩ := exec_floatStoreForms s rd base imm p hp
    exact ⟨_, he, storeF_storesTo rd hsize hs hroom h⟩
  · exact ⟨_, exec_stC s r imm, storeX_storesTo (size := 3) r 2 (by decide) hs hroom h⟩

/-- Settles O8: check 1 comes first in every scalar access, and its trap leaves no other effect. -/
theorem misalignedAccessTraps : Obligations.MisalignedAccessTraps := by
  intro p hp s rd base imm hs h
  simp only [accessForms, List.mem_append, List.mem_map, or_assoc] at hp
  rcases hp with ⟨q, hq, rfl⟩ | hp | hp | hp | hp | hp
  · obtain ⟨-, he | ⟨-, he⟩⟩ := exec_loadForms s rd base imm q hq
    · exact ⟨_, he, loadX_misaligned hs h rd q.2.2 4⟩
    · exact ⟨_, he, loadV_misaligned hs h rd⟩
  · exact ⟨_, (exec_storeForms s rd base imm p hp).2, storeX_misaligned hs h rd 4⟩
  · exact ⟨_, exec_floatLoadForms s rd base imm p hp, loadF_misaligned hs h rd⟩
  · exact ⟨_, (exec_floatStoreForms s rd base imm p hp).2, storeF_misaligned hs h rd⟩
  · exact ⟨_, (exec_acquireForms s rd base imm p hp).2, loadAcq_misaligned hs h rd⟩
  · exact ⟨_, exec_releaseForms s rd base imm p hp, storeRel_misaligned hs h rd⟩

/-- Settles O11: LDACQ loads between two acquires, STREL closes its chunk at device scope, each the last of its chunk. -/
theorem orderedAccesses : Obligations.OrderedAccesses := by
  refine ⟨fun p hp s u a rd base imm hs ht hc hshare hh => ?_, fun p hp s u a rd base imm hs h => ?_⟩
  · obtain ⟨hsize, he⟩ := exec_acquireForms s rd base imm p hp
    rw [he, loadAcq_ends rd hsize hs ht hc hshare hh]
  · rw [exec_releaseForms s rd base imm p hp, storeRel_ends rd hs h]

end

section
/-! Proofs of the statements on scalar floating instructions (spec/05 R112-R118, spec/01 R16, R17): what an instruction with a floating
result leaves, the trap FP_TRAP, and the meaning of each form. -/

namespace Sys2Proof.Machine

/-! A hart with raised flags and another stochastic state (R17, R83). -/

/-- The hart with another stochastic state. -/
def Hart.withRng (g : Word × Word) (x : Hart) : Hart := { x with a := { x.a with s0 := g.1, s1 := g.2 } }

/-- `y` is the hart `x` with the flags `fl` raised and the stochastic state at `g`; its CSRs are in canonical form. -/
structure Raised (fl : Flags) (g : Word × Word) (x y : Hart) : Prop where
  eq : y = { x with a := { x.a with csr := y.a.csr, s0 := g.1, s1 := g.2 } }
  flags : y.csr Csr.fflags = x.csr Csr.fflags ||| fl.setWidth 64
  csr : ∀ n, n ≠ Csr.fflags → y.csr n = x.csr n
  wf : mapWf 0 y.a.csr = true

theorem Raised.orFlags {x : Hart} (fl : Flags) (g : Word × Word) (h : mapWf 0 x.a.csr = true) :
    Raised fl g x ((x.orFlags fl).withRng g) :=
  ⟨rfl, x.csr_setCsr_self _ _ h, fun _ hn => x.csr_setCsr_ne _ h hn, x.wf_setCsr _ _ h⟩

theorem Raised.none {x : Hart} (h : mapWf 0 x.a.csr = true) : Raised 0 (x.a.s0, x.a.s1) x x :=
  ⟨rfl, by simp, fun _ _ => rfl, h⟩

section
variable {fl : Flags} {g : Word × Word} {x y : Hart} (h : Raised fl g x y)
include h

theorem Raised.reads_x (r : Reg) : y.x r = x.x r := by rw [h.eq]; rfl
theorem Raised.reads_f (r : Reg) : y.f r = x.f r := by rw [h.eq]; rfl
theorem Raised.a_x : y.a.x = x.a.x := by rw [h.eq]
theorem Raised.a_f : y.a.f = x.a.f := by rw [h.eq]
theorem Raised.a_rt : y.a.rt = x.a.rt := by rw [h.eq]
theorem Raised.a_rsets : y.a.rsets = x.a.rsets := by rw [h.eq]
theorem Raised.a_mode : y.a.mode = x.a.mode := by rw [h.eq]
theorem Raised.rng : (y.a.s0, y.a.s1) = g := by rw [h.eq]
theorem Raised.chunk : y.chunk = x.chunk := by rw [h.eq]
theorem Raised.status : y.status = x.status := by rw [h.eq]
theorem Raised.ctx : y.ctx = x.ctx := by rw [h.eq]
theorem Raised.asid : y.asid = x.asid := by rw [h.eq]
theorem Raised.lspOld : y.lspOld = x.lspOld := by rw [h.eq]

end

/-- A rounding draws what `State.drawn` says. -/
theorem draw_eq (s : State) (rm : Rm) :
    (s.rng rm).draw.1 = (s.drawn rm).1 ∧ ((s.rng rm).draw.2.s0, (s.rng rm).draw.2.s1) = (s.drawn rm).2 := by
  cases rm <;> exact ⟨rfl, rfl⟩

theorem rng_openChunk (s : State) (own : Bool) (rm : Rm) : (s.openChunk own).rng rm = s.rng rm := by
  rw [State.rng, a_openChunk, State.rng]

/-- FRM names its mode by its low three bits (R16). -/
theorem ofFrm_frm (s : State) : Rm.ofFrm s.frm = Rm.ofFrm (s.csr Csr.frm).toNat := by
  simp [Rm.ofFrm, State.frm, bits]

/-! What an instruction with a floating result leaves. -/

section
variable {s t : State} {y : Hart} {fl : Flags} {g : Word × Word} {rd : Reg} {v : Word} {k : Nat} (hs : s.calm = true)
  (hy : Raised fl g (s.me.inChunk (s.chunkNow false)) y)
include hs hy

/-- A result in F[rd]. -/
theorem HartOnly.writesF (h : HartOnly ((((y.setF rd v).setPc (s.pc + 4)).retire 1 s.pc).asking k) s t) : WritesF rd v fl g s t := by
  obtain ⟨hret, hx, hf, hcsr, ⟨q, ha⟩, hctx, hasid, -⟩ := h.moves.reads (c := s.chunkNow false) (by simp [hy.chunk])
    (chunkNow_count s false) (by simp [hy.status, calm_running hs])
  have hwf : mapWf 0 y.a.f = true := by rw [hy.a_f]; exact calm_wf_f hs
  refine ⟨hret, ?_, ?_, ?_, ⟨h.cur, fun r _ => ?_, fun r hr => ?_, fun n hn => ?_, ?_, ?_, ?_, nofun, nofun, ?_, ?_⟩,
    h.sameRest (fun loc b => ?_) ?_ ?_⟩
  · rw [hf, Hart.f_setPc, Hart.f_setF_self _ _ _ hwf]
  · rw [hcsr, Hart.csr_setPc, Hart.csr_setF, hy.flags]; rfl
  · rw [ha]; exact hy.rng
  · rw [hx, Hart.x_setPc, Hart.x_setF, hy.reads_x]; rfl
  · rw [hf, Hart.f_setPc, Hart.f_setF_ne _ _ hwf (List.mem_singleton.not.mp hr), hy.reads_f]; rfl
  · rw [hcsr, Hart.csr_setPc, Hart.csr_setF, hy.csr n (List.mem_singleton.not.mp hn)]; rfl
  · rw [ha]; exact hy.a_rt
  · rw [ha]; exact hy.a_rsets
  · rw [ha]; exact hy.a_mode
  · rw [hctx]; exact hy.ctx
  · rw [hasid]; exact hy.asid
  · simp only [Hart.asking_chunk, Hart.retire_chunk, Hart.setPc_chunk, Hart.setF_chunk, hy.chunk, Hart.inChunk_chunk, Option.map_some]
    exact (seen_same loc b rfl rfl).trans (chunkNow_seen s false loc b)
  · simp [hy.ctx]
  · simp [hy.lspOld]

/-- A result in X[rd]. -/
theorem HartOnly.writesXF (h : HartOnly ((((y.setX rd v).setPc (s.pc + 4)).retire 1 s.pc).asking k) s t) : WritesXF rd v fl g s t := by
  obtain ⟨hret, hx, hf, hcsr, ⟨q, ha⟩, hctx, hasid, -⟩ := h.moves.reads (c := s.chunkNow false) (by simp [hy.chunk])
    (chunkNow_count s false) (by simp [hy.status, calm_running hs])
  have hwf : mapWf 0 y.a.x = true := by rw [hy.a_x]; exact calm_wf_x hs
  have hxne (r : Reg) (hr : r ∉ if rd = 0 then [] else [rd]) : (y.setX rd v).x r = y.x r := by
    by_cases h0 : rd = 0
    · rw [h0, Hart.setX_zero]
    · exact Hart.x_setX_ne _ v hwf (by rw [if_neg h0] at hr; simpa using hr)
  have hcsrne (n : Nat) (hn : n ∉ ldstOf rd) : (y.setX rd v).csr n = y.csr n := by
    by_cases h0 : rd = 0
    · rw [h0, Hart.setX_zero]
    · exact Hart.csr_setX_ne _ rd v hy.wf (by rw [ldstOf, if_neg h0] at hn; simpa using hn)
  refine ⟨hret, fun h0 => ?_, ?_, fun h0 => ?_, ?_, ?_, ⟨h.cur, fun r hr => ?_, fun r _ => ?_, fun n hn => ?_, ?_, ?_, ?_, nofun, nofun, ?_, ?_⟩,
    h.sameRest (fun loc b => ?_) ?_ ?_⟩
  · rw [hx, Hart.x_setPc, Hart.x_setX_self _ _ hwf h0]
  · rw [hx, Hart.x_zero]
  · rw [hcsr, Hart.csr_setPc, Hart.ldst_setX _ _ _ hy.wf, if_neg h0]
  · rw [hcsr, Hart.csr_setPc, Hart.csr_setX_ne _ _ _ hy.wf (by decide), hy.flags]; rfl
  · rw [ha]; simpa using hy.rng
  · rw [hx, Hart.x_setPc, hxne r hr, hy.reads_x]; rfl
  · rw [hf, Hart.f_setPc, Hart.f_setX, hy.reads_f]; rfl
  · obtain ⟨hne, hn⟩ := not_or.mp (List.mem_cons.not.mp hn)
    rw [hcsr, Hart.csr_setPc, hcsrne n hn, hy.csr n hne]; rfl
  · rw [ha]; simpa using hy.a_rt
  · rw [ha]; simpa using hy.a_rsets
  · rw [ha]; simpa using hy.a_mode
  · rw [hctx]; simpa using hy.ctx
  · rw [hasid]; simpa using hy.asid
  · simp only [Hart.asking_chunk, Hart.retire_chunk, Hart.setPc_chunk, Hart.setX_chunk, hy.chunk, Hart.inChunk_chunk, Option.map_some]
    exact (seen_same loc b rfl rfl).trans (chunkNow_seen s false loc b)
  · simp [hy.ctx]
  · simp [hy.lspOld]

end

/-! The end of a floating instruction (R17). -/

theorem fpFinish_completes {o : State} {fl : Flags} (ht : o.traps fl = false) (w : Word) (write : State → State) :
    fpFinish w fl write o = .ok ((write (o.orFlags fl)).next 4) := if_neg (decide_eq_false_iff_not.mp ht)

theorem fpFinish_traps {o : State} {fl : Flags} (ht : o.traps fl = true) (w : Word) (write : State → State) :
    fpFinish w fl write o = .error (.trapIn (o.orFlags fl) Cause.fpTrap w (fl.setWidth 64)) := if_pos (decide_eq_true_iff.mp ht)

theorem traps_openChunk (s : State) (own : Bool) (fl : Flags) : (s.openChunk own).traps fl = s.traps fl := by
  rw [State.traps, csr_openChunk, State.traps]

/-! The trap FP_TRAP (R17): the flags are raised in a chunk that holds nothing yet. -/

/-- A blank chunk is forgotten before a trap is taken (R289, R392). -/
theorem takeTrap_blank {t : State} {c : Chunk} (hc : t.me.chunk = some c) (hb : c.blank = true) (cause : Nat) (tval tval2 : Word) :
    t.takeTrap cause tval tval2 = (t.setHart t.cur { t.me with chunk := none }).takeTrap cause tval tval2 := by
  have hend : t.endChunk t.cur = (t.setHart t.cur { t.me with chunk := none }, true) := by
    unfold State.endChunk
    rw [show (t.hart t.cur).chunk = some c from hc]
    exact if_pos hb
  unfold State.takeTrap State.trapAfterChunk
  rw [hc, hend, me_setHart_self]

theorem raise_fpTrap (t : State) (tval tval2 : Word) : t.raise Cause.fpTrap tval tval2 = t.takeTrap Cause.fpTrap tval tval2 :=
  if_neg (by decide)

theorem SameRest.trans {s t u : State} (hc : t.cur = s.cur) (h : SameRest s t) (g : SameRest t u) : SameRest s u := by
  refine ⟨fun k hk => ?_, fun c => (g.core c).trans (h.core c), ?_, fun loc => ?_⟩
  · rw [g.others k (by rwa [hc]), h.others k hk]
  · have hst := h.rest
    rw [← g.rest] at hst
    exact hst
  · rw [← hc, g.byte, hc, h.byte]

/-- A hart between two chunks that raised flags still stands there. -/
theorem loose_orFlags {s u : State} {fl : Flags} (hs : s.loose = true) (h : HartOnly (s.me.orFlags fl) s u) : u.loose = true := by
  have hwf : mapWf 0 (s.me.orFlags fl).a.csr = true := s.me.wf_setCsr _ _ (calm_wf_csr (loose_calm hs))
  have hcore : u.myCore = s.myCore := by rw [State.myCore, h.core, h.cur]; rfl
  simp only [State.loose, State.calm, Bool.and_eq_true] at hs ⊢
  rw [h.me, hcore]
  obtain ⟨⟨⟨⟨⟨⟨⟨⟨⟨⟨hrun, hgroup⟩, hx⟩, hf⟩, -⟩, hlsp⟩, hroom⟩, hchunk⟩, hbanks⟩, hvec⟩, hlock⟩ := hs
  exact ⟨⟨⟨⟨⟨⟨⟨⟨⟨⟨hrun, hgroup⟩, hx⟩, hf⟩, hwf⟩, hlsp⟩, hroom⟩, hchunk⟩, hbanks⟩, hvec⟩, hlock⟩

theorem trapsFp_flagged {s : State} (hs : s.loose = true) (w : Word) (fl : Flags) :
    TrapsFp w fl s (((s.openChunk false).orFlags fl).takeTrap Cause.fpTrap w (fl.setWidth 64)) := by
  have hchunk := loose_chunk hs
  have hraise := (HartOnly.openChunk s false).trans (HartOnly.setHart (s.openChunk false) ((s.openChunk false).me.orFlags fl))
  have hme : ((s.openChunk false).orFlags fl).me = (s.me.inChunk (s.newChunk false)).orFlags fl := by
    rw [orFlags_eq, hraise.me, (HartOnly.openChunk s false).me, State.chunkNow, hchunk]
  have hdrop : { ((s.openChunk false).orFlags fl).me with chunk := none } = s.me.orFlags fl := by
    rw [hme, ← hchunk]; rfl
  rw [takeTrap_blank (c := s.newChunk false) (by rw [hme]; rfl) rfl, hdrop]
  have hflag := hraise.trans (HartOnly.setHart _ (s.me.orFlags fl))
  rw [← orFlags_eq] at hflag
  generalize ((s.openChunk false).orFlags fl).setHart _ (s.me.orFlags fl) = u at hflag ⊢
  have htr := takeTrap_traps u Cause.fpTrap w (fl.setWidth 64) (loose_orFlags hs hflag)
  have hwf := calm_wf_csr (loose_calm hs)
  have hne (n : Nat) (hn : n ≠ Csr.fflags) : u.csr n = s.csr n := by
    rw [State.csr, hflag.me]; exact Hart.csr_setCsr_ne s.me _ hwf hn
  refine ⟨?_, htr.tcause, htr.tval, htr.tval2, ?_, htr.mode, ?_, fun r => ?_, fun r => ?_, fun n hn => ?_, ?_⟩
  · rw [htr.tepc, State.pc, hflag.me]; rfl
  · rw [htr.csr _ (by decide), State.csr, hflag.me]; exact Hart.csr_setCsr_self s.me _ _ hwf
  · rw [htr.pc, hne _ (by decide)]
  · rw [htr.x, State.x, hflag.me]; rfl
  · rw [htr.f, State.f, hflag.me]; rfl
  · rw [htr.csr n (fun h => hn (List.mem_append_left [Csr.fflags] h)), hne n (fun h => hn (by simp [h]))]
  · exact (hflag.sameRest (fun _ _ => rfl) rfl rfl).trans hflag.cur htr.rest

/-! What the end of a floating instruction leaves. -/

section
variable {s : State} {w : Word} {fl : Flags} {write : State → State}

/-- Where a raised flag is enabled, the trap FP_TRAP (R17). -/
theorem fpFinish_trapsFp (hs : s.loose = true) (ht : s.traps fl = true) : TrapsFp w fl s (s.run .plain (fpFinish w fl write)) := by
  have hbusy : s.chunkBusy = false := by simp [State.chunkBusy, loose_chunk hs]
  have hrun : s.run .plain (fpFinish w fl write) = ((s.openChunk false).orFlags fl).takeTrap Cause.fpTrap w (fl.setWidth 64) := by
    rw [run_between (loose_chunk hs) (banksBusy_empty (loose_banks hs)), State.runOpen, if_neg (by simp [hbusy]),
      fpFinish_traps ((traps_openChunk s _ fl).trans ht)]
    exact raise_fpTrap _ _ _
  rw [hrun]
  exact trapsFp_flagged hs w fl

variable (hs : s.calm = true) (ht : s.traps fl = false)
include hs ht

/-- Where no raised flag is enabled, the hart has its flags and its result, and goes on. -/
theorem fpFinish_hartOnly {f : Hart → Hart}
    (hw : write ((s.openChunk false).orFlags fl) = ((s.openChunk false).orFlags fl).setHart s.cur (f ((s.openChunk false).orFlags fl).me))
    (hf : ∀ x, (f x).chunk = x.chunk ∧ (f x).group = x.group ∧ (f x).a.pc = x.a.pc) :
    ∃ k, HartOnly ((((f ((s.me.inChunk (s.chunkNow false)).orFlags fl)).setPc (s.pc + 4)).retire 1 s.pc).asking k) s
      (s.run .plain (fpFinish w fl write)) := by
  refine run_hart s .plain _ (fun x => (f (x.orFlags fl)).setPc (s.pc + 4)) hs ?_ ?_ ?_ rfl rfl rfl
  · show fpFinish w fl write (s.openChunk false) = .ok ((s.openChunk false).setHart s.cur _)
    have hpc : (f ((s.openChunk false).me.orFlags fl)).a.pc = s.pc := by
      rw [(hf _).2.2, ← pc_openChunk s false]; rfl
    rw [fpFinish_completes ((traps_openChunk s false fl).trans ht), hw, State.next, ← cur_openChunk s false]
    simp only [orFlags_eq, onMe_eq, setHart_cur, me_setHart_self, setHart_setHart, hpc]
    rfl
  · rw [Hart.setPc_chunk, (hf _).1]; rfl
  · rw [Hart.setPc_group, (hf _).2.1]; exact calm_group hs

theorem fpFinish_writesF {g : Word × Word} {rd : Reg} {v : Word}
    (hw : write ((s.openChunk false).orFlags fl) =
      ((s.openChunk false).orFlags fl).setHart s.cur ((((s.openChunk false).orFlags fl).me.withRng g).setF rd v)) :
    WritesF rd v fl g s (s.run .plain (fpFinish w fl write)) := by
  obtain ⟨k, h⟩ := fpFinish_hartOnly hs ht (f := fun x => (x.withRng g).setF rd v) hw fun x => ⟨rfl, rfl, rfl⟩
  exact HartOnly.writesF hs (Raised.orFlags fl g (calm_wf_csr hs)) h

theorem fpFinish_writesXF {g : Word × Word} {rd : Reg} {v : Word}
    (hw : write ((s.openChunk false).orFlags fl) =
      ((s.openChunk false).orFlags fl).setHart s.cur ((((s.openChunk false).orFlags fl).me.withRng g).setX rd v)) :
    WritesXF rd v fl g s (s.run .plain (fpFinish w fl write)) := by
  obtain ⟨k, h⟩ := fpFinish_hartOnly hs ht (f := fun x => (x.withRng g).setX rd v) hw fun x =>
    ⟨Hart.setX_chunk _ rd v, Hart.setX_group _ rd v, Hart.setX_a_pc _ rd v⟩
  exact HartOnly.writesXF hs (Raised.orFlags fl g (calm_wf_csr hs)) h

end

/-! What the writes of results do to the executing hart. -/

theorem keepRng_setF (u : State) (r : Rng) (rd : Reg) (v : Word) :
    (u.keepRng r).setF rd v = u.setHart u.cur ((u.me.withRng (r.s0, r.s1)).setF rd v) := by
  simp only [State.keepRng, setF_eq, onMe_eq, setHart_cur, me_setHart_self, setHart_setHart]
  rfl

theorem keepRng_setX (u : State) (r : Rng) (rd : Reg) (v : Word) :
    (u.keepRng r).setX rd v = u.setHart u.cur ((u.me.withRng (r.s0, r.s1)).setX rd v) := by
  simp only [State.keepRng, setX_eq, onMe_eq, setHart_cur, me_setHart_self, setHart_setHart]
  rfl

/-- A result without a draw leaves the stochastic state. -/
theorem withRng_flagged (s : State) (fl : Flags) :
    ((s.openChunk false).orFlags fl).me.withRng (s.me.a.s0, s.me.a.s1) = ((s.openChunk false).orFlags fl).me := by
  rw [← a_openChunk s false, orFlags_eq, me_setHart_self]
  rfl

/-! The rounded operations (R113, R114, R117). -/

/-- An operation that rounds once ends with its flags and its result, for the draw of its mode. -/
theorem fpRound_eq (s : State) (w : Word) (rm : Rm) (rd : Reg) (op : Rm → Nat → FRes) :
    fpRound w s rm rd op = s.run .plain (fpFinish w (op rm (s.drawn rm).1).2
      fun u => (u.keepRng (s.rng rm).draw.2).setF rd (BitVec.ofNat 64 (op rm (s.drawn rm).1).1)) := by
  refine run_congr rfl ?_
  rw [← (draw_eq s rm).1, ← rng_openChunk s Shape.plain.own rm]

theorem fpRound_writesF {s : State} (hs : s.calm = true) (w : Word) (rm : Rm) (rd : Reg) (op : Rm → Nat → FRes)
    (ht : s.traps (op rm (s.drawn rm).1).2 = false) :
    WritesF rd (BitVec.ofNat 64 (op rm (s.drawn rm).1).1) (op rm (s.drawn rm).1).2 (s.drawn rm).2 s (fpRound w s rm rd op) := by
  rw [fpRound_eq]
  refine fpFinish_writesF hs ht ?_
  rw [keepRng_setF, (draw_eq s rm).2, ← cur_openChunk s false]
  rfl

theorem fpRound_trapsFp {s : State} (hs : s.loose = true) (w : Word) (rm : Rm) (rd : Reg) (op : Rm → Nat → FRes)
    (ht : s.traps (op rm (s.drawn rm).1).2 = true) : TrapsFp w (op rm (s.drawn rm).1).2 s (fpRound w s rm rd op) := by
  rw [fpRound_eq]
  exact fpFinish_trapsFp hs ht

/-- Whatever rounds once writes its result, or traps FP_TRAP where it raises an enabled flag. -/
theorem rounds_or_traps {s : State} {i : Instr} {w : Word} {rm : Rm} {rd : Reg} {op : Rm → Nat → FRes}
    (he : exec i s = .next (fpRound w s rm rd op)) :
    (s.calm = true → s.traps (op rm (s.drawn rm).1).2 = false → ∃ t, exec i s = .next t ∧
      WritesF rd (BitVec.ofNat 64 (op rm (s.drawn rm).1).1) (op rm (s.drawn rm).1).2 (s.drawn rm).2 s t) ∧
    (s.loose = true → s.traps (op rm (s.drawn rm).1).2 = true → ∃ t, exec i s = .next t ∧ TrapsFp w (op rm (s.drawn rm).1).2 s t) :=
  ⟨fun hs ht => ⟨_, he, fpRound_writesF hs w rm rd op ht⟩, fun hs ht => ⟨_, he, fpRound_trapsFp hs w rm rd op ht⟩⟩

theorem exec_roundedForms (s : State) (fmt : BitVec 2) (rd r1 r2 r3 : Reg) : ∀ p ∈ roundedForms,
    exec (p.1 fmt rd r1 r2 r3) s = .next (fpRound (bitsOf (p.1 fmt rd r1 r2 r3)) s (Rm.ofFrm (s.csr Csr.frm).toNat) rd fun rm q =>
      p.2 (scalarFmt fmt) rm q ((scalarFmt fmt).value (s.fIn (scalarFmt fmt) r1)) ((scalarFmt fmt).value (s.fIn (scalarFmt fmt) r2))
        ((scalarFmt fmt).value (s.fIn (scalarFmt fmt) r3))) := by
  rw [← ofFrm_frm]
  simp only [roundedForms, List.forall_mem_cons]
  exact ⟨rfl, rfl, rfl, rfl, rfl, rfl, rfl, rfl, rfl, List.forall_mem_nil _⟩

/-! Operations that do not round (R113, R115, R78). -/

/-- A result in F[rd] without flags. -/
theorem fpPlain_writesF {s : State} (hs : s.calm = true) (rd : Reg) (v : Nat) :
    WritesF rd (BitVec.ofNat 64 v) 0 (s.me.a.s0, s.me.a.s1) s (fpPlain s rd v) := by
  obtain ⟨k, h⟩ := run_hart s .plain (fun s => .ok ((s.setF rd (BitVec.ofNat 64 v)).next 4))
    (fun x => (x.setF rd (BitVec.ofNat 64 v)).setPc (x.a.pc + 4)) hs
    (by
      show Except.ok _ = Except.ok _
      simp [State.next, Shape.plain, cur_openChunk, me_setHart_cur])
    rfl (calm_group hs) rfl rfl rfl
  exact HartOnly.writesF hs (Raised.none (x := s.me.inChunk (s.chunkNow false)) (calm_wf_csr hs)) h

end Sys2Proof.Machine

open Sys2Proof Sys2Proof.Machine

/-- Settles O12: each form is `fpRound` of its listed operation, which writes F[rd] or traps FP_TRAP. -/
theorem roundedFloatForms : Obligations.RoundedFloatForms := by
  intro p hp s fmt rd r1 r2 r3
  have h := rounds_or_traps (exec_roundedForms s fmt rd r1 r2 r3 p hp)
  exact h

end

section
/-! Proofs of the statements on the floating operations that do not round, and on conversions (spec/05 R112-R116, spec/04 R78, R84). -/

namespace Sys2Proof.Machine

/-! Results without a draw. -/

theorem setF_flagged (s : State) (fl : Flags) (rd : Reg) (v : Word) : ((s.openChunk false).orFlags fl).setF rd v =
    ((s.openChunk false).orFlags fl).setHart s.cur ((((s.openChunk false).orFlags fl).me.withRng (s.me.a.s0, s.me.a.s1)).setF rd v) := by
  rw [withRng_flagged, ← cur_openChunk s false]
  rfl

theorem setX_flagged (s : State) (fl : Flags) (rd : Reg) (v : Word) : ((s.openChunk false).orFlags fl).setX rd v =
    ((s.openChunk false).orFlags fl).setHart s.cur ((((s.openChunk false).orFlags fl).me.withRng (s.me.a.s0, s.me.a.s1)).setX rd v) := by
  rw [withRng_flagged, ← cur_openChunk s false]
  rfl

/-! Signs (R78, R113). -/

theorem scalarFmt_width_pos (fmt : BitVec 2) : 0 < (scalarFmt fmt).width := by
  unfold scalarFmt
  split <;> decide

theorem signBit_fIn (s : State) {f : Fmt} (hf : 0 < f.width) (r : Reg) : f.signBit (s.fIn f r) = signIn f (s.f r) := by
  rw [Fmt.signBit, State.fIn, ← Nat.testBit_eq_decide_div_mod_eq, Nat.testBit_mod_two_pow, decide_eq_true (by omega), Bool.true_and]
  rfl

theorem withSign_fIn (s : State) (f : Fmt) (r : Reg) (neg : Bool) :
    BitVec.ofNat 64 (f.withSign (s.fIn f r) neg) = signed f (s.f r) neg := by
  have hlow : s.fIn f r % 2 ^ (f.width - 1) = (s.f r).toNat % 2 ^ (f.width - 1) :=
    Nat.mod_mod_of_dvd _ (Nat.pow_dvd_pow 2 (Nat.sub_le _ _))
  rw [Fmt.withSign, Fmt.signed, signed, hlow]
  cases neg <;> rfl

theorem exec_signForms (s : State) (fmt : BitVec 2) (rd r1 r2 : Reg) : ∀ p ∈ signForms,
    exec (p.1 fmt rd r1 r2) s = .next (fpPlain s rd ((scalarFmt fmt).withSign (s.fIn (scalarFmt fmt) r1)
      (p.2 ((scalarFmt fmt).signBit (s.fIn (scalarFmt fmt) r1)) ((scalarFmt fmt).signBit (s.fIn (scalarFmt fmt) r2))))) := by
  simp only [signForms, List.forall_mem_cons]
  exact ⟨rfl, rfl, rfl, List.forall_mem_nil _⟩

/-- R113, R78: minimum, maximum and sign injection. -/
theorem floatSelectForms : Clause.FloatSelectForms := by
  refine fun s fmt rd r1 r2 hs => ⟨fun ht => ?_, fun ht => ?_, fun p hp => ?_⟩
  · exact ⟨_, rfl, fpFinish_writesF hs ht (setF_flagged s _ rd _)⟩
  · exact ⟨_, rfl, fpFinish_writesF hs ht (setF_flagged s _ rd _)⟩
  · refine ⟨_, exec_signForms s fmt rd r1 r2 p hp, ?_⟩
    have hpos := scalarFmt_width_pos fmt
    rw [signBit_fIn s hpos, signBit_fIn s hpos, ← withSign_fIn]
    exact fpPlain_writesF hs rd _

/-! Comparisons (R115). -/

/-- Of two values only one is below the other. -/
theorem FVal.lt_asymm {a b : FVal} (h : a.lt false b = true) : b.lt false a = false := by
  cases a with
  | fin s m e =>
    cases b with
    | fin t n d =>
      simp only [FVal.lt, decide_eq_true_eq, decide_eq_false_iff_not, min_comm d e] at h ⊢
      omega
    | _ => simp_all [FVal.lt]
  | _ => cases b <;> simp_all [FVal.lt]

/-- A signaling NaN is a NaN. -/
theorem snan_or_nan (a b : FVal) : (a.snan || b.snan || (a.isNan || b.isNan)) = (a.isNan || b.isNan) := by
  cases a <;> cases b <;> simp [FVal.snan, FVal.isNan]

theorem lt_eq_order (a b : FVal) : a.lt false b = decide (floatOrder a b < 0) := by
  unfold floatOrder
  cases a.lt false b <;> cases b.lt false a <;> rfl

theorem gt_eq_order (a b : FVal) : b.lt false a = decide (0 < floatOrder a b) := by
  unfold floatOrder
  cases hab : a.lt false b with
  | true => rw [FVal.lt_asymm hab]; rfl
  | false => cases b.lt false a <;> rfl

/-- A comparison of two patterns: by the order of their values, as told where one is a NaN; a signaling NaN raises NV, and any NaN
where the relation is signaling (R115). -/
def Fmt.compared (f : Fmt) (x y : Nat) (rel : Int → Bool) (unordered signaling : Bool) : Bool × Flags :=
  let a := f.value x
  let b := f.value y
  let nan := a.isNan || b.isNan
  (if nan then unordered else rel (floatOrder a b), if a.snan || b.snan || (signaling && nan) then fNV else 0)

/-- The relation of the order that a comparison names. -/
def Rel.holds : Rel → Int → Bool
  | .eq, o => decide (o = 0)
  | .ne, o => decide (o ≠ 0)
  | .lt, o => decide (o < 0)
  | .le, o => decide (o ≤ 0)
  | .gt, o => decide (0 < o)
  | .ge, o => decide (0 ≤ o)
/-- What it tells of a NaN, and whether any NaN raises NV. -/
def Rel.unordered (r : Rel) : Bool := decide (r = .ne)
def Rel.signaling (r : Rel) : Bool := decide (r ≠ .eq) && decide (r ≠ .ne)

/-- The model's comparisons go by the order of the values. -/
theorem cmp_compared (f : Fmt) (r : Rel) (x y : Nat) : f.cmp r x y = f.compared x y r.holds r.unordered r.signaling := by
  unfold Fmt.cmp Fmt.compared FVal.eq
  generalize f.value x = a
  generalize f.value y = b
  have heq : (!decide (floatOrder a b < 0) && !decide (0 < floatOrder a b)) = decide (floatOrder a b = 0) := by
    rw [← decide_not, ← decide_not, ← Bool.decide_and, decide_eq_decide]
    omega
  have hle : (!decide (0 < floatOrder a b)) = decide (floatOrder a b ≤ 0) := by rw [← decide_not, decide_eq_decide, Int.not_lt]
  have hge : (!decide (floatOrder a b < 0)) = decide (0 ≤ floatOrder a b) := by rw [← decide_not, decide_eq_decide, Int.not_lt]
  simp only [lt_eq_order a b, gt_eq_order a b, Bool.and_assoc, heq]
  cases r with
  | eq => cases a.isNan <;> cases b.isNan <;> simp [Rel.holds, Rel.unordered, Rel.signaling]
  | ne => cases a.isNan <;> cases b.isNan <;> simp [Rel.holds, Rel.unordered, Rel.signaling]
  | lt => simp [Rel.holds, Rel.unordered, Rel.signaling, snan_or_nan]
  | le => simp [Rel.holds, Rel.unordered, Rel.signaling, snan_or_nan, hle]
  | gt => simp [Rel.holds, Rel.unordered, Rel.signaling, snan_or_nan]
  | ge => simp [Rel.holds, Rel.unordered, Rel.signaling, snan_or_nan, hge]

theorem exec_compareForms (s : State) (fmt : BitVec 2) (rd r1 r2 : Reg) : ∀ p ∈ compareForms, ∃ r,
    exec (p.1 fmt rd r1 r2) s = .next (fpCmp (bitsOf (p.1 fmt rd r1 r2)) s fmt r rd r1 r2) ∧
      p.2 = (Rel.holds r, r.unordered, r.signaling) := by
  simp only [compareForms, List.forall_mem_cons]
  exact ⟨⟨.eq, rfl, rfl⟩, ⟨.ne, rfl, rfl⟩, ⟨.lt, rfl, rfl⟩, ⟨.le, rfl, rfl⟩, ⟨.gt, rfl, rfl⟩, ⟨.ge, rfl, rfl⟩, List.forall_mem_nil _⟩

/-- A comparison ends with its flags and its result. -/
theorem fpCmp_eq (w : Word) (s : State) (fmt : BitVec 2) (r : Rel) (rd r1 r2 : Reg) : fpCmp w s fmt r rd r1 r2 =
    let c := (scalarFmt fmt).compared (s.fIn (scalarFmt fmt) r1) (s.fIn (scalarFmt fmt) r2) r.holds r.unordered r.signaling
    s.run .plain (fpFinish w c.2 fun u => u.setX rd (b2w c.1)) := by
  rw [← cmp_compared]
  rfl

/-- R115: the comparisons. -/
theorem floatCompareForms : Clause.FloatCompareForms := by
  rintro ⟨i, relation⟩ hp s fmt rd r1 r2 hs
  obtain ⟨r, he, rfl⟩ := exec_compareForms s fmt rd r1 r2 _ hp
  intro f a b nan fl ht
  exact ⟨_, he.trans (congrArg _ (fpCmp_eq _ s fmt r rd r1 r2)), fpFinish_writesXF hs ht (setX_flagged s _ rd _)⟩

/-! Classes and moves (R112, R115). -/

theorem one_shiftLeft (n : Nat) : 1#64 <<< n = BitVec.ofNat 64 (2 ^ n) := by
  refine BitVec.eq_of_toNat_eq ?_
  simp [Nat.shiftLeft_eq]

/-- FCLASS sets the bit of the class. -/
theorem fclass_writesX {s : State} (hs : s.calm = true) (fmt : BitVec 2) (rd rs1 : Reg) {b : Nat}
    (hb : (scalarFmt fmt).classOf (s.fIn (scalarFmt fmt) rs1) = b) :
    ∃ t, exec (.fclass fmt rd rs1) s = .next t ∧ WritesX rd (BitVec.ofNat 64 (2 ^ b)) 4 s t := by
  refine ⟨_, rfl, ?_⟩
  rw [hb, one_shiftLeft]
  exact alu_writesX s rd _ 4 hs

/-- R115, R112: FCLASS, and the moves between the register files. -/
theorem floatMoveForms : Clause.FloatMoveForms := by
  refine fun s fmt rd rs1 hs => ⟨?_, ⟨_, rfl, alu_writesX s rd _ 4 hs⟩, ⟨_, rfl, fpPlain_writesF hs rd _⟩⟩
  split <;> exact fclass_writesX hs fmt rd rs1 (by simp only [Fmt.classOf, *])

/-! Conversions (R116, R84). -/

theorem cvtType_toNat (ctl : BitVec 5) : (cvtType ctl).toNat = ctl.toNat % 4 := by simp [cvtType]

/-- The second type of a control is its low two bits. -/
theorem cvtType_eq (ctl : BitVec 5) : cvtType ctl = BitVec.ofNat 2 (ctl.toNat % 4) := by
  rw [← cvtType_toNat, BitVec.ofNat_toNat, BitVec.setWidth_eq]

theorem cvtInt_eq (ctl : BitVec 5) :
    cvtInt (cvtType ctl) = (if ctl.toNat % 4 < 2 then 32 else 64, decide (ctl.toNat % 4 % 2 = 0)) := by
  rw [cvtInt, cvtType_toNat]

/-- The mode of a control: FRM's where its code is 0. -/
theorem cvtMode_eq (s : State) (ctl : BitVec 5) :
    cvtMode s ctl = Rm.ofFrm (if ctl.toNat / 4 = 0 then (s.csr Csr.frm).toNat else ctl.toNat / 4 - 1) := by
  unfold cvtMode
  split
  · next h => rw [if_pos h, ofFrm_frm]
  · next h => rw [if_neg h]

theorem cvtMode_openChunk (s : State) (own : Bool) (ctl : BitVec 5) : cvtMode (s.openChunk own) ctl = cvtMode s ctl := by
  rw [cvtMode_eq, csr_openChunk, cvtMode_eq]

theorem fIn_openChunk (s : State) (own : Bool) (f : Fmt) (r : Reg) : (s.openChunk own).fIn f r = s.fIn f r := by
  rw [State.fIn, f_openChunk, State.fIn]

/-- The integer that the low bits of a register are, signed or natural. -/
theorem lowInt_eq (x : Word) (signed : Bool) {n : Nat} (hn : 0 < n) :
    (if signed ∧ 2 ^ (n - 1) ≤ x.toNat % 2 ^ n then ((x.toNat % 2 ^ n : Nat) : Int) - 2 ^ n else (x.toNat % 2 ^ n : Nat)) =
      if signed then (x.setWidth n).toInt else ((x.setWidth n).toNat : Int) := by
  have hpow : 2 ^ n = 2 * 2 ^ (n - 1) := by rw [← Nat.pow_succ', Nat.succ_eq_add_one, Nat.sub_add_cancel hn]
  cases signed with
  | false => simp
  | true =>
    simp only [true_and, if_true, BitVec.toInt_eq_toNat_cond, BitVec.toNat_setWidth]
    by_cases h : 2 ^ (n - 1) ≤ x.toNat % 2 ^ n
    · rw [if_pos h, if_neg (by omega)]; rfl
    · rw [if_neg h, if_pos (by omega)]

section
variable {s : State} {fmt : BitVec 2} {rd rs1 : Reg} {ctl : BitVec 5} (h7 : ctl.toNat / 4 ≠ 7)
include h7

theorem exec_fcvtFf (hne : fmt ≠ cvtType ctl) : exec (.fcvtFf fmt rd rs1 ctl) s =
    .next (fpRound (bitsOf (.fcvtFf fmt rd rs1 ctl)) s (cvtMode s ctl) rd fun rm q =>
      (scalarFmt fmt).ofV rm q false ((scalarFmt (cvtType ctl)).value (s.fIn (scalarFmt (cvtType ctl)) rs1))) :=
  if_neg (not_or.mpr ⟨hne, h7⟩)

theorem exec_fcvtIf : exec (.fcvtIf fmt rd rs1 ctl) s =
    .next (fpRound (bitsOf (.fcvtIf fmt rd rs1 ctl)) s (cvtMode s ctl) rd fun rm q => (scalarFmt fmt).ofInt rm q false
      (if (cvtInt (cvtType ctl)).2 then ((s.x rs1).setWidth (cvtInt (cvtType ctl)).1).toInt
        else (((s.x rs1).setWidth (cvtInt (cvtType ctl)).1).toNat : Int))) := by
  have hpos : 0 < (cvtInt (cvtType ctl)).1 := by rw [cvtInt]; dsimp only; split <;> decide
  rw [← lowInt_eq _ _ hpos]
  exact if_neg h7

theorem exec_fcvtFi :
    let r := toIntV (cvtMode s ctl) (s.drawn (cvtMode s ctl)).1 (cvtInt (cvtType ctl)).2 (cvtInt (cvtType ctl)).1
      ((scalarFmt fmt).value (s.fIn (scalarFmt fmt) rs1))
    exec (.fcvtFi fmt rd rs1 ctl) s = .next (s.run .plain (fpFinish (bitsOf (.fcvtFi fmt rd rs1 ctl)) r.2
      fun u => (u.keepRng (s.rng (cvtMode s ctl)).draw.2).setX rd (BitVec.ofInt 64 r.1))) := by
  refine Eq.trans (if_neg h7) (congrArg _ (run_congr rfl ?_))
  rw [← (draw_eq s _).1, ← rng_openChunk s Shape.plain.own, ← fIn_openChunk s Shape.plain.own, ← cvtMode_openChunk s Shape.plain.own]

end

/-- Where a control is illegal, so is the instruction (R39, R116). -/
theorem illegal_traps {s : State} (hs : s.loose = true) {i : Instr}
    (he : exec i s = .next (s.run .plain fun _ => .error (illegal (bitsOf i)))) :
    ∃ t, exec i s = .next t ∧ Traps Cause.illegal (bitsOf i) 0 s t := ⟨_, he, run_error_traps hs rfl⟩

end Sys2Proof.Machine

open Sys2Proof Sys2Proof.Machine

/-- Settles O13: selections, comparisons and moves end with one result and their flags. -/
theorem floatComparisonsAndMoves : Obligations.FloatComparisonsAndMoves := ⟨floatSelectForms, floatCompareForms, floatMoveForms⟩

/-- Settles O14: each legal conversion rounds once in the mode of its control; the illegal ones trap before any effect. -/
theorem floatConversions : Obligations.FloatConversions := by
  intro s fmt rd rs1 ctl f code type rm w d g ff fi src i_f
  have hrm : cvtMode s ctl = rm := cvtMode_eq s ctl
  have hint : cvtInt (cvtType ctl) = (w, decide (type % 2 = 0)) := cvtInt_eq ctl
  have hfmt : fmt.toNat = type ↔ fmt = cvtType ctl := by rw [← BitVec.toNat_inj, cvtType_toNat]
  refine ⟨fun hs h7 => ⟨fun hne ht => ?_, fun ht => ?_, fun ht => ?_⟩, fun hs => ⟨fun h => ?_, fun h7 => ⟨?_, ?_⟩⟩⟩
  · have he := exec_fcvtFf (s := s) (rd := rd) (rs1 := rs1) h7 (hfmt.not.mp hne)
    rw [hrm, cvtType_eq] at he
    exact (rounds_or_traps he).1 hs ht
  · have he := exec_fcvtFi (s := s) (fmt := fmt) (rd := rd) (rs1 := rs1) h7
    rw [hrm, hint] at he
    refine ⟨_, he, fpFinish_writesXF hs ht ?_⟩
    rw [keepRng_setX, (draw_eq s _).2, ← cur_openChunk s false]
    rfl
  · have he := exec_fcvtIf (s := s) (fmt := fmt) (rd := rd) (rs1 := rs1) h7
    rw [hrm, hint] at he
    simp only [decide_eq_true_eq] at he
    exact (rounds_or_traps he).1 hs ht
  · exact illegal_traps hs (if_pos (h.imp_left hfmt.mp))
  · exact illegal_traps hs (if_pos h7)
  · exact illegal_traps hs (if_pos h7)

end

section
/-! Proofs of the statement on scalar reads of vector state (spec/06 R149, R150). -/

namespace Sys2Proof.Machine

/-- A body that answers one integer result is an integer instruction with that result. -/
theorem run_setX_writesX {s : State} {rd : Reg} {v : Word} {body : State → Res} (hs : s.calm = true)
    (hb : body (s.openChunk false) = .ok (((s.openChunk false).setX rd v).next 4)) : WritesX rd v 4 s (s.run .plain body) := by
  have h : s.run .plain body = alu s rd v := run_congr rfl hb
  rw [h]
  exact alu_writesX s rd v 4 hs

/-! What the reads see of the vector file in an opened chunk. -/

theorem openChunk_vt (s : State) (own : Bool) : (s.openChunk own).vt = s.vt := by rw [State.vt, openChunk_vf, State.vt]
theorem openChunk_vl (s : State) (own : Bool) : (s.openChunk own).vl = s.vl := by rw [State.vl, openChunk_vf, State.vl]
theorem openChunk_vpad (s : State) (own : Bool) : (s.openChunk own).vpad = s.vpad := by rw [State.vpad, openChunk_vf, State.vpad]
theorem openChunk_maskBits (s : State) (own : Bool) (n : Nat) : (s.openChunk own).maskBits n = s.maskBits n := by
  rw [State.maskBits, openChunk_vf, openChunk_vl, openChunk_vpad, State.maskBits]
theorem openChunk_vxCheck (s : State) (own : Bool) (w : Word) (typed : Bool) : (s.openChunk own).vxCheck w typed = s.vxCheck w typed := by
  rw [State.vxCheck, openChunk_owns, openChunk_vt, State.vxCheck]

theorem vxCheck_untyped {s : State} (w : Word) (ho : s.owns = true) : s.vxCheck w false = .ok () := by
  simp [State.vxCheck, ho]

theorem vxCheck_typed {s : State} (w : Word) (ho : s.owns = true) (hill : s.vt.ill = false) : s.vxCheck w true = .ok () := by
  simp [State.vxCheck, ho, hill]

theorem vxCheck_unowned {s : State} (w : Word) (typed : Bool) (ho : s.owns = false) : s.vxCheck w typed = .error (illegal w) := by
  simp [State.vxCheck, ho]

/-! The values read. -/

theorem elem_lt (f : VecFile) (base w i : Nat) : f.elem base w i < 2 ^ w := Nat.mod_lt _ (Nat.two_pow_pos w)

/-- An element of at most 64 bits, extended by the signedness of its type (R149). -/
def VT.extend (t : VT) (v : Nat) : Word :=
  if t.isSigned && decide (2 ^ (t.w - 1) ≤ v) then BitVec.ofInt 64 ((v : Int) - 2 ^ t.w) else BitVec.ofNat 64 v

theorem VT.extend_eq (t : VT) {v : Nat} (hv : v < 2 ^ t.w) :
    t.extend v = if t.isSigned then (BitVec.ofNat t.w v).signExtend 64 else (BitVec.ofNat t.w v).setWidth 64 := by
  unfold VT.extend
  cases t.isSigned with
  | true =>
    rcases Nat.eq_zero_or_pos t.w with h0 | hpos
    · generalize t.w = w at *
      subst h0
      obtain rfl : v = 0 := by omega
      rfl
    · simp only [Bool.true_and, decide_eq_true_eq, if_true, signExtend_ofNat hpos hv]
      split <;> rfl
  | false =>
    apply BitVec.eq_of_toNat_eq
    simp [Nat.mod_eq_of_lt hv]

/-- The lowest set bit of a filtered range. -/
theorem head?_filter_range {n i : Nat} {p : Nat → Bool} (hi : i ∈ (List.range n).filter p)
    (hmin : ∀ j ∈ (List.range n).filter p, i ≤ j) : ((List.range n).filter p).head? = some i := by
  obtain ⟨a, l, hl⟩ := List.exists_cons_of_ne_nil (List.ne_nil_of_mem hi)
  have hsorted : ((List.range n).filter p).Pairwise (· < ·) := List.Pairwise.filter p List.pairwise_lt_range
  rw [hl] at hi hmin hsorted ⊢
  have hia := hmin a (by simp)
  rcases List.mem_cons.mp hi with rfl | hil
  · rfl
  · have := (List.pairwise_cons.mp hsorted).1 i hil
    omega

/-! Each read. -/

/-- What VMVXS answers for element n (R149). -/
def State.mvxs (s : State) (r n : Nat) : Word :=
  if s.vl ≤ n then 0
  else if s.vt.isSx then
    BitVec.ofNat 64 (f32.ofV .rne 0 false ((SxBlock.ofBits s.vt.m (s.vf.elem r (blockBits s.vt.m) (n / 16))).value s.vt.m (n % 16)
      (decide (s.vl - s.vpad ≤ n)))).1
  else s.vt.extend (s.vf.elem r s.vt.w n)

section
variable {s : State} (rd : Reg) {rs1 : Reg} (hs : s.calm = true) (ho : s.owns = true)
include hs ho

theorem vmvxs_writesX (rs2 : Reg) (hidle : s.vectorIdle = true) (hill : s.vt.ill = false) (hr : rs1.toNat % s.vt.regs = 0) :
    ∃ t, exec (.vmvxs rd rs1 rs2) s = .next t ∧ WritesX rd (s.mvxs rs1.toNat (s.x rs2).toNat) 4 s t := by
  refine ⟨_, rfl, run_setX_writesX hs ?_⟩
  have hready := fun r => vectorIdle_vecReady ((openChunk_vectorIdle s false).trans hidle) r []
  simp only [bind, Except.bind, pure, Except.pure, openChunk_vxCheck, vxCheck_typed (bitsOf (.vmvxs rd rs1 rs2)) ho hill,
    openChunk_vt, hr, hready, openChunk_vf, openChunk_vl, openChunk_vpad, x_openChunk]
  rfl

theorem vmpopc_writesX (hill : s.vt.ill = false) (hr : rs1.toNat < 8) :
    ∃ t, exec (.vmpopc rd rs1) s = .next t ∧ WritesX rd (BitVec.ofNat 64 (s.maskBits rs1.toNat).length) 4 s t := by
  refine ⟨_, rfl, run_setX_writesX hs ?_⟩
  simp only [bind, Except.bind, pure, Except.pure, openChunk_vxCheck, vxCheck_typed (bitsOf (.vmpopc rd rs1)) ho hill, regIn, hr,
    if_true, openChunk_maskBits]

theorem vmfirst_writesX {v : Word} (hill : s.vt.ill = false) (hr : rs1.toNat < 8)
    (hv : (match (s.maskBits rs1.toNat).head? with | some i => BitVec.ofNat 64 i | none => BitVec.allOnes 64) = v) :
    ∃ t, exec (.vmfirst rd rs1) s = .next t ∧ WritesX rd v 4 s t := by
  refine ⟨_, rfl, run_setX_writesX hs ?_⟩
  simp only [bind, Except.bind, pure, Except.pure, openChunk_vxCheck, vxCheck_typed (bitsOf (.vmfirst rd rs1)) ho hill, regIn, hr,
    if_true, openChunk_maskBits]
  exact congrArg (fun v => Except.ok (((s.openChunk false).setX rd v).next 4)) hv

theorem vrdsub_writesX (hill : s.vt.ill = false) (hsx : s.vt.isSx = false) :
    ∃ t, exec (.vrdsub rd) s = .next t ∧ WritesX rd (BitVec.ofNat 64 (s.vt.substitute s.vf.vsub)) 4 s t := by
  refine ⟨_, rfl, run_setX_writesX hs ?_⟩
  simp only [bind, Except.bind, pure, Except.pure, openChunk_vxCheck, vxCheck_typed (bitsOf (.vrdsub rd)) ho hill, openChunk_vt,
    hsx, openChunk_vf]
  rfl

theorem vrdsc_writesX (hr : rs1.toNat < 8) :
    ∃ t, exec (.vrdsc rd rs1) s = .next t ∧ WritesX rd ((mapGet 0 s.vf.sc rs1.toNat).setWidth 64) 4 s t := by
  refine ⟨_, rfl, run_setX_writesX hs ?_⟩
  simp only [bind, Except.bind, pure, Except.pure, openChunk_vxCheck, vxCheck_untyped (bitsOf (.vrdsc rd rs1)) ho, regIn, hr, if_true,
    openChunk_vf]

end

/-- Without the vector file every read traps before it looks at anything else (R150). -/
theorem vectorReads_unowned {s : State} (rd rs1 rs2 : Reg) (hs : s.loose = true) (ho : s.owns = false) :
    ∀ i ∈ [Instr.vmvxs rd rs1 rs2, .vmpopc rd rs1, .vmfirst rd rs1, .vrdsub rd, .vrdsc rd rs1],
      ∃ t, exec i s = .next t ∧ Traps Cause.illegal (bitsOf i) 0 s t := by
  have hb (w : Word) (typed : Bool) (k : State → Res) :
      Traps Cause.illegal w 0 s (s.run .plain fun u => (u.vxCheck w typed).bind fun _ => k u) := by
    refine run_error_traps hs ?_
    rw [openChunk_vxCheck, vxCheck_unowned w typed ho]
    rfl
  simp only [List.forall_mem_cons]
  exact ⟨⟨_, rfl, hb _ true _⟩, ⟨_, rfl, hb _ true _⟩, ⟨_, rfl, hb _ true _⟩, ⟨_, rfl, hb _ true _⟩, ⟨_, rfl, hb _ false _⟩,
    List.forall_mem_nil _⟩

end Sys2Proof.Machine

open Sys2Proof Sys2Proof.Machine

/-- Settles O42: each read is an integer instruction whose result is the value read; without the file the first check fails. -/
theorem vectorScalarReads : Obligations.VectorScalarReads := by
  intro s rd rs1 rs2 n set
  refine ⟨fun hs ho hidle => ⟨fun hill hr => ?_, fun hill hr => ⟨vmpopc_writesX rd hs ho hill hr, fun hset => ?_, fun i hi hmin => ?_⟩,
    vrdsub_writesX rd hs ho, vrdsc_writesX rd hs ho⟩, vectorReads_unowned rd rs1 rs2⟩
  · have h := vmvxs_writesX rd hs ho rs2 hidle hill hr
    refine ⟨fun hn => ?_, fun hn hsx => ?_, fun hn hsx => ?_⟩
    · rwa [State.mvxs, if_pos hn] at h
    · rwa [State.mvxs, if_neg (Nat.not_le.mpr hn), hsx, if_neg Bool.false_ne_true, VT.extend_eq _ (elem_lt ..)] at h
    · rwa [State.mvxs, if_neg (Nat.not_le.mpr hn), if_pos hsx] at h
  · refine vmfirst_writesX rd hs ho hill hr ?_
    rw [show s.maskBits rs1.toNat = [] from hset]
    rfl
  · refine vmfirst_writesX rd hs ho hill hr ?_
    rw [show (s.maskBits rs1.toNat).head? = some i from head?_filter_range hi hmin]

end

section
/-! Proofs of the statement on VSETL and VSETLI (spec/06 R119-R123): an instruction that changes the vector file and a CSR beside its result. -/

namespace Sys2Proof.Machine

/-! A state that differs in the executing hart alone, seen from one whose hart or vector file differs. -/

/-- What the base holds of the executing hart does not matter. -/
theorem HartOnly.rebase {x : Hart} {s t : State} (h : HartOnly x s t) (y : Hart) : HartOnly x (s.setHart s.cur y) t :=
  ⟨h.cur, h.me, fun k hk => (h.others k hk).trans (hart_setHart_ne s y hk).symm, h.core,
    congrArg (fun u : State => { u with harts := (s.setHart s.cur y).harts }) h.rest⟩

/-- A change of the vector file on both sides. -/
theorem HartOnly.onVf {x : Hart} {s t : State} (h : HartOnly x s t) (g : VecFile → VecFile) : HartOnly x (s.onVf g) (t.onVf g) := by
  have hcore : t.myCore = s.myCore := by rw [State.myCore, h.core, h.cur]; rfl
  have ht : t.onVf g = t.setCore (coreOf s.cur) { s.myCore with vf := g s.vf } := by
    rw [onVf_eq, h.cur, hcore, State.vf, hcore]; rfl
  rw [ht]
  refine ⟨h.cur, h.me, h.others, fun c => ?_, congrArg (fun u : State => { u with cores := (s.onVf g).cores }) h.rest⟩
  rw [onVf_eq]
  by_cases hc : c = coreOf s.cur
  · rw [hc, core_setCore_self, core_setCore_self]
  · rw [core_setCore_ne _ _ hc, core_setCore_ne _ _ hc, h.core]

theorem HartOnly.onMe {x : Hart} {s t : State} (h : HartOnly x s t) (f : Hart → Hart) : HartOnly (f x) s (t.onMe f) := by
  rw [← h.me]
  exact h.trans (HartOnly.setHart t (f t.me))

@[simp] theorem vf_onVf (s : State) (g : VecFile → VecFile) : (s.onVf g).vf = g s.vf := by
  show ((s.onVf g).core (coreOf s.cur)).vf = _
  rw [onVf_eq, core_setCore_self]

theorem core_onVf_ne (s : State) (g : VecFile → VecFile) {c : Nat} (hc : c ≠ coreOf s.cur) : (s.onVf g).core c = s.core c := by
  rw [onVf_eq, core_setCore_ne _ _ hc]

theorem HartOnly.vf {x : Hart} {s t : State} (h : HartOnly x s t) : t.vf = s.vf := by
  rw [State.vf, State.myCore, h.core, h.cur]; rfl

theorem HartOnly.mem {x : Hart} {s t : State} (h : HartOnly x s t) : t.mem = s.mem := h.keeps State.mem fun _ _ _ _ _ => rfl

/-! The grant (R120, R122, R123). -/

/-- VTYPE, the granted length and VL for an immediate and a requested length. -/
def grantOf (imm : BitVec 14) (avl : Word) : Word × Nat × Nat :=
  match expandType imm with
  | none => (illVtype, 0, 0)
  | some v => (v, min avl.toNat (VT.ofWord v).vlmax,
      (min avl.toNat (VT.ofWord v).vlmax + (VT.ofWord v).gs - 1) / (VT.ofWord v).gs * (VT.ofWord v).gs)

/-- The vector file under a grant. -/
def VecFile.granted (r : Word × Nat × Nat) (f : VecFile) : VecFile :=
  { f with vtype := r.1, vl := BitVec.ofNat 64 r.2.2, vpad := BitVec.ofNat 64 (r.2.2 - r.2.1), vstart := 0 }

/-- The trace record of a strip in the open chunk, where strips are traced (R413). -/
def State.tracedStrip (s : State) (ord : Word) (g : Nat) : State :=
  if bit (s.csr Csr.trcctl) 0 then s.onChunk fun c => { c with trace := c.trace ++ [s.stripRecord ord g] } else s

/-- The ordinal of the strip that the next VSETL begins. -/
def State.nextStrip (s : State) : Word := s.csr Csr.stripord + 1

/-- The debugger breaks at the strip that the instruction at PC asks for (R123). -/
def State.stripBreaks (s : State) : Prop := s.csr Csr.brkpc ≠ 0 ∧ s.csr Csr.brkpc = s.pc ∧ s.csr Csr.brkord = s.nextStrip

/-- The strip counted and the grant in VTYPE, VL, VPAD and VSTART. -/
def State.granted (s : State) (r : Word × Nat × Nat) : State := (s.setCsr Csr.stripord s.nextStrip).onVf (VecFile.granted r)

theorem vset_body {s : State} (w : Word) (rd : Reg) (avl : Word) (imm : BitVec 14) (ho : s.owns = true) (hb : ¬ s.stripBreaks) :
    vset s w rd avl imm = s.run .plain fun u =>
      .ok ((((u.granted (grantOf imm avl)).tracedStrip u.nextStrip (grantOf imm avl).2.1).setX rd
        (BitVec.ofNat 64 (grantOf imm avl).2.1)).next 4) := by
  refine run_congr rfl ?_
  have ho' := (openChunk_owns s false).trans ho
  have hb' : ¬ (s.openChunk false).stripBreaks := by
    simpa only [State.stripBreaks, State.nextStrip, csr_openChunk, openChunk_pc] using hb
  simp only [State.stripBreaks, State.nextStrip] at hb'
  simp only [bind, Except.bind, pure, Except.pure, ho', hb', Shape.plain, Bool.not_true, Bool.false_eq_true, if_false, grantOf]
  cases expandType imm <;> rfl

/-- A traced strip touches no more than the records of the open chunk. -/
theorem HartOnly.tracedStrip {x : Hart} {c : Chunk} {s u : State} (h : HartOnly x s u) (hc : x.chunk = some c) (ord : Word) (g : Nat) :
    ∃ tr, HartOnly (x.inChunk { c with trace := tr }) s (u.tracedStrip ord g) := by
  unfold State.tracedStrip
  split
  · refine ⟨c.trace ++ [u.stripRecord ord g], ?_⟩
    have := h.onMe fun y => { y with chunk := y.chunk.map fun c => { c with trace := c.trace ++ [u.stripRecord ord g] } }
    rwa [hc] at this
  · refine ⟨c.trace, ?_⟩
    rwa [show x.inChunk { c with trace := c.trace } = x by rw [Hart.inChunk, ← hc]]

/-- A body of the plain shape that leaves its hart at `x`, and the rest as in `s'`, retires there. -/
theorem run_plain_hartOnly {s s' u : State} {body : State → Res} {x : Hart} {c : Chunk} (hs : s.calm = true)
    (hb : body (s.openChunk false) = .ok u) (h : HartOnly x s' u) (hc : x.chunk = some c) (hr : c.room = true) (hg : x.group = none) :
    ∃ k, HartOnly ((x.retire 1 s.pc).asking k) s' (s.run .plain body) := by
  obtain ⟨k, hk⟩ := HartOnly.retire u 1 s.pc
  rw [run_open s .plain body u c hs hb (by rw [h.me, hc]) hr (by rw [h.me, hg]) rfl rfl rfl]
  rw [h.me] at hk
  exact ⟨k, h.trans hk⟩

theorem me_granted (s : State) (r : Word × Nat × Nat) : (s.granted r).me = s.me.setCsr Csr.stripord s.nextStrip := by
  simp [State.granted]

theorem granted_openChunk (s : State) (r : Word × Nat × Nat) :
    HartOnly ((s.granted r).me.inChunk (s.chunkNow false)) (s.granted r) ((s.openChunk false).granted r) := by
  have hstrip : (s.openChunk false).nextStrip = s.nextStrip := congrArg (· + 1) (csr_openChunk s false Csr.stripord)
  rw [me_granted, State.granted, State.granted, hstrip]
  exact (((HartOnly.openChunk s false).onMe (·.setCsr Csr.stripord s.nextStrip)).rebase _).onVf (VecFile.granted r)

theorem granted_calm {s : State} (r : Word × Nat × Nat) (hs : s.calm = true) : (s.granted r).calm = true := by
  have hwf := s.me.wf_setCsr Csr.stripord s.nextStrip (calm_wf_csr hs)
  simp only [State.calm, Bool.and_eq_true] at hs ⊢
  rw [me_granted]
  obtain ⟨⟨⟨⟨⟨⟨hrun, hgroup⟩, hx⟩, hf⟩, -⟩, hlsp⟩, hroom⟩ := hs
  exact ⟨⟨⟨⟨⟨⟨hrun, hgroup⟩, hx⟩, hf⟩, hwf⟩, hlsp⟩, hroom⟩

/-- Where it does not trap, VSETL is an integer instruction with the granted length in the state in which the grant stands. -/
theorem vset_writesX {s : State} (w : Word) (rd : Reg) (avl : Word) (imm : BitVec 14) (hs : s.calm = true) (ho : s.owns = true)
    (hb : ¬ s.stripBreaks) :
    WritesX rd (BitVec.ofNat 64 (grantOf imm avl).2.1) 4 (s.granted (grantOf imm avl)) (vset s w rd avl imm) := by
  rw [vset_body w rd avl imm ho hb]
  generalize grantOf imm avl = r
  obtain ⟨tr, htr⟩ := (granted_openChunk s r).tracedStrip rfl (s.openChunk false).nextStrip r.2.1
  have hpc : (s.granted r).pc = s.pc := by rw [State.pc, me_granted]; rfl
  have hbody := (htr.onMe (·.setX rd (BitVec.ofNat 64 r.2.1))).onMe fun x => x.setPc (x.a.pc + 4)
  obtain ⟨k, hk⟩ := run_plain_hartOnly (c := { s.chunkNow false with trace := tr })
    (body := fun u => .ok ((((u.granted r).tracedStrip u.nextStrip r.2.1).setX rd (BitVec.ofNat 64 r.2.1)).next 4))
    hs rfl hbody (by simp) (chunkNow_room s false hs) (by simp [me_granted, calm_group hs])
  rw [← hpc, Hart.setX_a_pc] at hk
  obtain ⟨hdone, hres, hzero, hldst, hregs, hrest⟩ := HartOnly.writesX (granted_calm r hs) hk rfl
    ((chunkNow_count s false).trans (by rw [me_granted]; rfl))
    fun loc b => (chunkNow_seen s false loc b).trans (by rw [me_granted]; rfl)
  exact ⟨hdone, hres, hzero, hldst, hregs, hrest⟩

/-! What the grant leaves. -/

theorem granted_vf (s : State) (r : Word × Nat × Nat) : (s.granted r).vf = s.vf.granted r := by
  rw [State.granted, vf_onVf]; rfl

theorem granted_csr_strip {s : State} (r : Word × Nat × Nat) (hs : s.calm = true) : (s.granted r).csr Csr.stripord = s.nextStrip := by
  rw [State.csr, me_granted]
  exact Hart.csr_setCsr_self _ _ _ (calm_wf_csr hs)

theorem granted_csr_ne {s : State} (r : Word × Nat × Nat) (hs : s.calm = true) {n : Nat} (hn : n ≠ Csr.stripord) :
    (s.granted r).csr n = s.csr n := by
  rw [State.csr, me_granted]
  exact Hart.csr_setCsr_ne _ _ (calm_wf_csr hs) hn

theorem granted_hart_ne (s : State) (r : Word × Nat × Nat) {h : Nat} (hh : h ≠ s.cur) : (s.granted r).hart h = s.hart h :=
  hart_setHart_ne s _ hh

theorem granted_core_ne (s : State) (r : Word × Nat × Nat) {c : Nat} (hc : c ≠ coreOf s.cur) : (s.granted r).core c = s.core c :=
  core_onVf_ne (s.setCsr Csr.stripord s.nextStrip) _ hc

theorem stripord_not_ldst (rd : Reg) : Csr.stripord ∉ ldstOf rd := by
  unfold ldstOf
  split <;> decide

/-- Beside its result the instruction has counted the strip. -/
theorem granted_sameRegs {s t : State} {rd : Reg} {r : Word × Nat × Nat} {xs : List Reg} (hs : s.calm = true)
    (h : SameRegs { xs := xs, csrs := ldstOf rd } (s.granted r) t) : SameRegs { xs := xs, csrs := Csr.stripord :: ldstOf rd } s t := by
  obtain ⟨hcur, hx, hf, hcsr, hrt, hrsets, hmode, hs0, hs1, hctx, hasid⟩ := h
  rw [me_granted] at hrt hrsets hmode hs0 hs1 hctx hasid
  refine ⟨hcur, fun q hq => ?_, fun q hq => ?_, fun n hn => ?_, hrt, hrsets, hmode, hs0, hs1, hctx, hasid⟩
  · rw [hx q hq, State.x, me_granted]; rfl
  · rw [hf q hq, State.f, me_granted]; rfl
  · obtain ⟨hne, hn⟩ := not_or.mp (List.mem_cons.not.mp hn)
    rw [hcsr n hn, granted_csr_ne r hs hne]

theorem SameRest.vf {s t : State} (h : SameRest s t) (hc : t.cur = s.cur) : t.vf = s.vf := by
  rw [State.vf, State.myCore, h.core, hc]; rfl

theorem SameRest.mem {s t : State} (h : SameRest s t) : t.mem = s.mem := by
  have := congrArg State.mem h.rest
  exact this

/-- At the strip to break at the instruction traps before it counts the strip (R123). -/
theorem vset_breaks {s : State} (w : Word) (rd : Reg) (avl : Word) (imm : BitVec 14) (hs : s.loose = true) (ho : s.owns = true)
    (hb : s.stripBreaks) : Traps Cause.stripBreak s.nextStrip 0 s (vset s w rd avl imm) := by
  refine run_error_traps hs ?_
  have ho' := (openChunk_owns s false).trans ho
  obtain ⟨hpc, hat, hord⟩ := hb
  simp only [bind, Except.bind, Shape.plain, ho', csr_openChunk, openChunk_pc, Bool.not_true, Bool.false_eq_true, if_false]
  rw [if_pos ⟨hpc, hat, hord⟩]
  rfl

end Sys2Proof.Machine

open Sys2Proof Sys2Proof.Machine

/-- Settles O41: VSETL is an integer instruction in the state in which the strip is counted and the grant stands; at a strip to break at, it traps
before any effect. -/
theorem vectorLengths : Obligations.VectorLengths := by
  intro s i rd rs1 imm avl hi ho ord broken
  obtain ⟨w, hexec⟩ : ∃ w, exec i s = .next (vset s w rd avl imm) := by
    rcases hi with ⟨rfl, rfl⟩ | ⟨rfl, rfl⟩
    · exact ⟨_, rfl⟩
    · exact ⟨_, rfl⟩
  refine ⟨fun hs hb => ?_, fun hs hb => ⟨_, hexec, vset_breaks w rd avl imm hs ho hb⟩⟩
  intro r
  have h := vset_writesX w rd avl imm hs ho hb
  rw [show grantOf imm avl = r from rfl] at h
  obtain ⟨⟨hpc, hstatus, hcount, hvec⟩, hres, hzero, -, hregs, hrest⟩ := h
  have hme := me_granted s r
  have hvf : (vset s w rd avl imm).vf = s.vf.granted r := (hrest.vf hregs.cur).trans (granted_vf s r)
  refine ⟨_, hexec, ⟨?_, hstatus, ?_, hvec⟩, hres, hzero, ?_, ?_, ?_, ?_, ?_, ?_, ?_, ?_, ?_, ?_, ?_, granted_sameRegs hs hregs,
    fun h hh => (hrest.others h hh).trans (granted_hart_ne s r hh), fun c hc => (hrest.core c).trans (granted_core_ne s r hc), hrest.mem⟩
  · rw [hpc, State.pc, hme]; rfl
  · rw [hcount, hme]; rfl
  · exact (hregs.csr _ (stripord_not_ldst rd)).trans (granted_csr_strip r hs)
  all_goals rw [hvf]; rfl

end

section
/-! The registers and elements of the vector file (spec/01 R10, spec/04 R74, spec/06 R126, R127): what a write of an element and the end of a
group leave. -/

namespace Sys2Proof.Machine

/-! Bits of a register. -/

theorem testBit_regBits (r : VReg) (lo w k : Nat) : (regBits r lo w).testBit k = (decide (k < w) && r.getLsbD (lo + k)) := by
  rw [regBits, Nat.testBit_mod_two_pow, Nat.testBit_div_two_pow, Nat.add_comm k lo]
  rfl

/-- A field of a register depends on its own bits alone. -/
theorem regBits_congr {r q : VReg} {lo w : Nat} (h : ∀ k, k < w → r.getLsbD (lo + k) = q.getLsbD (lo + k)) : regBits r lo w = regBits q lo w := by
  refine Nat.eq_of_testBit_eq fun k => ?_
  rw [testBit_regBits, testBit_regBits]
  by_cases hk : k < w
  · rw [h k hk]
  · simp [hk]

theorem getLsbD_setRegBits (r : VReg) (lo w v k : Nat) (hk : k < 2048) :
    (setRegBits r lo w v).getLsbD k = if lo ≤ k ∧ k < lo + w then v.testBit (k - lo) else r.getLsbD k := by
  simp only [setRegBits, BitVec.getLsbD_or, BitVec.getLsbD_and, BitVec.getLsbD_not, BitVec.getLsbD_ofNat, hk, Nat.testBit_mul_two_pow,
    Nat.testBit_two_pow_sub_one, Nat.testBit_mod_two_pow, decide_true, Bool.true_and]
  by_cases hlo : lo ≤ k
  · by_cases hw : k < lo + w
    · simp [hlo, hw, show k - lo < w by omega]
    · simp [hlo, hw, show ¬ k - lo < w by omega]
  · simp [hlo]

theorem regBits_set_self (r : VReg) {lo w : Nat} (v : Nat) (h : lo + w ≤ 2048) : regBits (setRegBits r lo w v) lo w = v % 2 ^ w := by
  refine Nat.eq_of_testBit_eq fun k => ?_
  rw [testBit_regBits, Nat.testBit_mod_two_pow]
  by_cases hk : k < w
  · rw [getLsbD_setRegBits _ _ _ _ _ (by omega), if_pos (by omega), Nat.add_sub_cancel_left]
  · simp [hk]

theorem regBits_set_apart (r : VReg) {lo w l u : Nat} (v : Nat) (h : l + u ≤ 2048) (ha : lo + w ≤ l ∨ l + u ≤ lo) :
    regBits (setRegBits r lo w v) l u = regBits r l u :=
  regBits_congr fun k hk => by rw [getLsbD_setRegBits _ _ _ _ _ (by omega), if_neg (by omega)]

theorem regBits_and_low (r : VReg) {n lo w : Nat} (h : lo + w ≤ n) (hn : lo + w ≤ 2048) :
    regBits (r &&& BitVec.ofNat 2048 (2 ^ n - 1)) lo w = regBits r lo w := by
  refine regBits_congr fun k hk => ?_
  rw [BitVec.getLsbD_and, BitVec.getLsbD_ofNat, Nat.testBit_two_pow_sub_one]
  simp [show lo + k < 2048 by omega, show lo + k < n by omega]

/-! Registers. -/

theorem bit_or_shift (d : Word) {n : Nat} (hn : n < 64) (k : Nat) : bit (d ||| ((1#64) <<< n)) k = (bit d k || decide (k = n)) := by
  have h : (1#64) <<< n = BitVec.twoPow 64 n := by rw [BitVec.twoPow]
  rw [bit, BitVec.getLsbD_or, h, BitVec.getLsbD_twoPow]
  simp [hn, bit, eq_comm]

theorem reg_setReg_self (f : VecFile) {n : Nat} (x : VReg) (hw : mapWf 0 f.v = true) (hn : n < 64) : (f.setReg n x).reg n = x := by
  simp only [VecFile.reg, VecFile.setReg, bit_or_shift f.vdirty hn, decide_true, Bool.or_true, if_true]
  exact mapGet_set_self 0 _ _ _ hw

theorem bit_or_shift_ne (d : Word) {n k : Nat} (hk : k ≠ n) : bit (d ||| ((1#64) <<< n)) k = bit d k := by
  by_cases hn : n < 64
  · rw [bit_or_shift d hn]; simp [hk]
  · simp [bit, BitVec.shiftLeft_eq_zero (x := 1#64) (n := n) (by omega)]

theorem reg_setReg_ne (f : VecFile) {n r : Nat} (x : VReg) (hw : mapWf 0 f.v = true) (hr : r ≠ n) : (f.setReg n x).reg r = f.reg r := by
  simp only [VecFile.reg, VecFile.setReg, bit_or_shift_ne _ hr]
  rw [mapGet_set_ne 0 _ _ hw hr]

/-! Files that differ in one group. -/

/-- `g` is the file `f` but for the registers of the group of `regs` at `vd`; its registers are in canonical form. -/
structure GroupOnly (vd regs : Nat) (f g : VecFile) : Prop where
  wf : mapWf 0 g.v = true
  reg : ∀ r, r < vd ∨ vd + regs ≤ r → g.reg r = f.reg r
  rest : { g with v := f.v, vdirty := f.vdirty } = f

theorem GroupOnly.refl {f : VecFile} (vd regs : Nat) (hw : mapWf 0 f.v = true) : GroupOnly vd regs f f := ⟨hw, fun _ _ => rfl, rfl⟩

/-- What is read neither of the registers nor of VDIRTY is as before. -/
theorem GroupOnly.keeps {vd regs : Nat} {f g : VecFile} (h : GroupOnly vd regs f g) {α : Type} (p : VecFile → α)
    (hp : ∀ u v d, p { u with v := v, vdirty := d } = p u) : p g = p f := (hp g f.v f.vdirty).symm.trans (congrArg p h.rest)

theorem GroupOnly.setReg {vd regs : Nat} {f g : VecFile} (h : GroupOnly vd regs f g) {n : Nat} (x : VReg) (h1 : vd ≤ n)
    (h2 : n < vd + regs) : GroupOnly vd regs f (g.setReg n x) :=
  ⟨mapWf_set 0 _ _ _ h.wf, fun r hr => (reg_setReg_ne g x h.wf (by omega)).trans (h.reg r hr), h.rest⟩

/-! Elements (R74). -/

theorem perReg_mul_le (w : Nat) : perReg w * w ≤ 2048 := by
  unfold perReg
  split
  next h => rw [h]; decide
  · exact Nat.div_mul_le_self 2048 w

/-- The slot of element i lies in its register. -/
theorem slot_fits {w : Nat} (i : Nat) (hp : 0 < perReg w) : i % perReg w * w + w ≤ 2048 := by
  have h := Nat.mod_lt i hp
  calc i % perReg w * w + w = (i % perReg w + 1) * w := by rw [Nat.add_mul, Nat.one_mul]
    _ ≤ perReg w * w := Nat.mul_le_mul_right w h
    _ ≤ 2048 := perReg_mul_le w

theorem slots_apart {w p q : Nat} (h : p < q) : p * w + w ≤ q * w := by
  rw [← Nat.succ_mul]
  exact Nat.mul_le_mul_right w h

section
variable {f : VecFile} (hw : mapWf 0 f.v = true) {base w i : Nat} (hp : 0 < perReg w)
include hw hp

theorem elem_setElem_self (v : Nat) (hn : base + i / perReg w < 64) : (f.setElem base w i v).elem base w i = v % 2 ^ w := by
  rw [VecFile.elem, VecFile.setElem, reg_setReg_self f _ hw hn, regBits_set_self _ _ (slot_fits i hp)]

theorem elem_setElem_ne (v : Nat) (hn : base + i / perReg w < 64) {j : Nat} (hj : j ≠ i) :
    (f.setElem base w i v).elem base w j = f.elem base w j := by
  rw [VecFile.elem, VecFile.setElem]
  by_cases hreg : j / perReg w = i / perReg w
  · have hslot : j % perReg w ≠ i % perReg w := fun h => hj (by rw [← Nat.div_add_mod j (perReg w), ← Nat.div_add_mod i (perReg w), hreg, h])
    rw [hreg, reg_setReg_self f _ hw hn, regBits_set_apart _ _ (slot_fits j hp), VecFile.elem, hreg]
    rcases Nat.lt_or_gt_of_ne hslot with h | h
    · exact .inr (slots_apart h)
    · exact .inl (slots_apart h)
  · rw [reg_setReg_ne f _ hw (by omega), VecFile.elem]

/-- What an element reads after a write of element i. -/
theorem elem_setElem (v : Nat) (hn : base + i / perReg w < 64) (j : Nat) :
    (f.setElem base w i v).elem base w j = if j = i then v % 2 ^ w else f.elem base w j := by
  by_cases hj : j = i
  · rw [if_pos hj, hj, elem_setElem_self hw hp v hn]
  · rw [if_neg hj, elem_setElem_ne hw hp v hn hj]

end

theorem GroupOnly.setElem {vd regs : Nat} {f g : VecFile} (h : GroupOnly vd regs f g) {w i : Nat} (v : Nat) (hi : i / perReg w < regs) :
    GroupOnly vd regs f (g.setElem vd w i v) := h.setReg _ (Nat.le_add_right _ _) (Nat.add_lt_add_left hi vd)

/-! The end of a group (R126, R127). -/

/-- The end of register k of a group leaves the units below `total`. -/
theorem elem_endReg {f : VecFile} (hw : mapWf 0 f.v = true) {base w i total k : Nat} (hp : 0 < perReg w) (hk : base + k < 64)
    (hi : i < total) (tpol : Bool) :
    (f.endReg (base + k) w (total - k * perReg w) tpol).elem base w i = f.elem base w i := by
  rw [VecFile.elem, VecFile.endReg]
  by_cases hreg : i / perReg w = k
  · have hslot := Nat.mod_lt i hp
    have hdiv : k * perReg w + i % perReg w = i := by rw [← hreg, Nat.mul_comm]; exact Nat.div_add_mod i (perReg w)
    rw [hreg, reg_setReg_self f _ hw hk, VecFile.elem, hreg]
    refine regBits_and_low _ ?_ (slot_fits i hp)
    rw [Nat.mul_comm w]
    refine slots_apart ?_
    split
    · exact Nat.lt_min.mpr ⟨by omega, hslot⟩
    · exact hslot
  · rw [reg_setReg_ne f _ hw (by omega), VecFile.elem]

theorem endGroup_succ (f : VecFile) (base n ub total : Nat) (tpol : Bool) :
    f.endGroup base (n + 1) ub total tpol = (f.endGroup base n ub total tpol).endReg (base + n) ub (total - n * perReg ub) tpol := by
  simp [VecFile.endGroup, List.range_succ]

theorem GroupOnly.endGroup {vd regs : Nat} {f g : VecFile} (h : GroupOnly vd regs f g) (ub total : Nat) (tpol : Bool) {n : Nat} (hn : n ≤ regs) :
    GroupOnly vd regs f (g.endGroup vd n ub total tpol) := by
  induction n with
  | zero => exact h
  | succ n ih =>
    rw [endGroup_succ]
    exact (ih (by omega)).setReg _ (by omega) (by omega)

theorem elem_endGroup {f : VecFile} (hw : mapWf 0 f.v = true) {vd w i total : Nat} (hp : 0 < perReg w) (hi : i < total) (tpol : Bool) {n : Nat}
    (hn : vd + n ≤ 64) : (f.endGroup vd n w total tpol).elem vd w i = f.elem vd w i := by
  induction n with
  | zero => rfl
  | succ n ih =>
    have hwf := ((GroupOnly.refl vd n hw).endGroup w total tpol le_rfl).wf
    rw [endGroup_succ, elem_endReg hwf hp (by omega) hi, ih (by omega)]

end Sys2Proof.Machine
end

section
/-! Proofs of the statement on vector operations performed as a whole (spec/06 R141, R145, R146, spec/07 R172-R174): they complete in one action. -/

namespace Sys2Proof.Machine

/-! Packing and unpacking of blocks completes where nothing stops it (R145, R146). -/

theorem packBlock_completes {m : Member} {c : Cvy} (k : Nat) (xs : List FVal) (live : Nat → Bool) {s : State} (hs : s.unstopped = true) :
    ∃ t, m.packBlock c k xs live s = .ok t ∧ StopsAlike s t := by
  unfold Member.packBlock
  simp only [unstopped_stopsAt hs, unstopped_trapsOn hs, Bool.false_eq_true, if_false]
  refine ⟨_, rfl, StopsAlike.trans (StopsAlike.trans ((StopsAlike.keepRng s _).trans (StopsAlike.onVf _ _)) (StopsAlike.foldl _ ?_ _ _))
    (StopsAlike.orFlags _ _)⟩
  intro t e
  split
  · exact StopsAlike.countCensus _ _ _
  · exact StopsAlike.refl t

theorem sxpack_completes (m : Member) (c : Cvy) (n k : Nat) {s : State} (hs : s.unstopped = true) : ∃ t, m.sxpack c n k s = .ok t := by
  induction n generalizing k s with
  | zero => exact ⟨s, rfl⟩
  | succ n ih =>
    obtain ⟨t, ht, hst⟩ := packBlock_completes (m := m) (c := c) k ((List.range 16).map fun e =>
      if c.real ≤ 16 * k + e then FVal.zero false else (packFmt m.w).value (s.vf.elem m.w.vs1.toNat (packWidth m.w) (16 * k + e)))
      (fun _ => true) hs
    rw [Member.sxpack]
    simp only [ht]
    exact ih (k + 1) (hst.unstopped hs)

theorem sxunpk_completes (m : Member) (c : Cvy) (n k : Nat) {s : State} (hs : s.unstopped = true) : ∃ t, m.sxunpk c n k s = .ok t := by
  induction n generalizing k s with
  | zero => exact ⟨s, rfl⟩
  | succ n ih =>
    rw [Member.sxunpk]
    simp only [unstopped_stopsAt hs, unstopped_trapsOn hs, Bool.false_eq_true, if_false]
    exact ih (k + 1) ((((StopsAlike.keepRng s _).trans (StopsAlike.onVf _ _)).trans (StopsAlike.orFlags _ _)).unstopped hs)

/-- Where no flag traps and no event stops the hart, a whole operation completes. -/
theorem whole_completes (m : Member) (c : Cvy) {s : State} (hs : s.unstopped = true) : ∃ u, m.whole c s = .ok u := by
  unfold Member.whole
  split
  · exact ⟨_, rfl⟩
  · exact ⟨_, rfl⟩
  · exact ⟨_, rfl⟩
  · exact ⟨_, rfl⟩
  · obtain ⟨t, ht⟩ := sxpack_completes m c (c.vl / 16 - c.vstart / 16) (c.vstart / 16) hs
    rw [ht]
    exact ⟨_, rfl⟩
  · obtain ⟨t, ht⟩ := sxunpk_completes m c (c.vl / 16 - c.vstart / 16) (c.vstart / 16) hs
    rw [ht]
    exact ⟨_, rfl⟩
  · exact ⟨_, rfl⟩
  · split
    · simp only [unstopped_trapsOn hs, Bool.false_eq_true, if_false]
      exact ⟨_, rfl⟩
    · exact ⟨_, rfl⟩

/-! A convoy that completes in a chunk opened for it. -/

/-- A body that completes in a chunk opened for it, of an instruction that ends no chunk before itself. -/
theorem run_completes_between {s u : State} {sh : Shape} {body : State → Res} (hc : s.me.chunk = none) (hsh : sh.before = false)
    (hb : body (s.openChunk sh.own) = .ok u) : s.run sh body = u.finish sh s.pc := by
  have hbusy : s.chunkBusy = false := by simp [State.chunkBusy, hc]
  rw [State.run, if_neg (by simp [hsh]), State.runOpen, if_neg (by simp [hbusy]), hb]
  exact if_neg (by simp [hbusy])

/-- A convoy that passes its checks and whose effect completes with `v` (R48-R50). -/
theorem runConvoy_completes {s v : State} {hdr : BitVec 32} {words : List Word} {ms : List Member} (hc : s.me.chunk = none)
    (h : headerOk hdr words.length s.pc = true) (ho : s.owns = true) (hidle : s.vectorIdle = true)
    (hw : s.wrongMember hdr words = none) (hm : membersOf hdr words = ms.map some)
    (hshape : convoyShape s ms = { Shape.plain with n := 1 + ms.length })
    (hstreams : ∀ c : Cvy, c.checkStreams (s.openChunk false) 0 ms = .ok ())
    (hexec : ((s.openChunk false).convoy hdr ms).exec ((s.openChunk false).noting ms) = .ok v) :
    s.runConvoy hdr words = v.wrapUp (s.openChunk false) ((s.openChunk false).convoy hdr ms) false := by
  have hgood : words.zipIdx.filterMap (fun (e : Word × Nat) => Member.ofWord e.1 (headerUnit hdr e.2)) = ms := by
    have := congrArg (List.filterMap id) hm
    simpa [membersOf, List.filterMap_map] using this
  have hcheck : (s.openChunk false).checkConvoy hdr words = .ok { (s.openChunk false).convoy hdr ms with sched := [] } :=
    checkConvoy_ok (by rw [openChunk_pc]; exact h) (by rw [openChunk_owns]; exact ho) (by rw [openChunk_wrongMember]; exact hw) hm
  have hready := vectorIdle_vecReady ((openChunk_vectorIdle s false).trans hidle)
  unfold State.runConvoy
  simp only [hgood, hshape]
  refine (run_completes_between hc rfl (u := ((s.openChunk false).convoy hdr ms).wrote v) ?_).trans ?_
  · show Except.bind (State.checkConvoy (s.openChunk false) hdr words) _ = _
    rw [hcheck]
    show Except.bind (State.vecReady (s.openChunk false) _ _) _ = _
    rw [hready]
    show Except.bind (Cvy.checkStreams _ (s.openChunk false) 0 ms) _ = _
    rw [hstreams]
    exact congrArg (Except.map ((s.openChunk false).convoy hdr ms).wrote) hexec
  · rw [← openChunk_pc s false]
    rfl

/-! The whole operations of the units 1, 2 and 4. -/

section
variable {m : Member} (hu : m.op.unit ∈ [1, 2, 4])
include hu

theorem unit_whole_cases : m.op.unit = 1 ∨ m.op.unit = 2 ∨ m.op.unit = 4 := by simpa using hu

theorem op_ne_of_unit {op : Vop} (ho : op.unit ∉ [1, 2, 4]) : m.op ≠ op := fun h => ho (h ▸ hu)

theorem exec_whole {c : Cvy} (hms : c.ms = [m]) (hwhole : Vop.isWhole m.op = true) (s : State) :
    c.exec s = (m.whole c s).map c.advance := by
  have hunit := unit_whole_cases hu
  unfold Cvy.exec
  rw [hms]
  dsimp only
  rw [if_neg (op_ne_of_unit hu (by decide)), if_neg (op_ne_of_unit hu (by decide)), if_neg (op_ne_of_unit hu (by decide)),
    if_neg (by omega), if_neg (by omega), if_pos hwhole]

theorem checkStreams_whole (c : Cvy) (s : State) : c.checkStreams s 0 [m] = .ok () := by
  rw [Cvy.checkStreams, if_neg (op_ne_of_unit hu (by decide))]
  rfl

theorem convoyShape_whole (s : State) : convoyShape s [m] = { Shape.plain with n := 1 + [m].length } := by
  have hunit := unit_whole_cases hu
  unfold convoyShape
  dsimp only
  split
  case h_13 => rw [if_neg (by omega)]
  all_goals next h => exact absurd h (op_ne_of_unit hu (by decide))

end

theorem memberOf_op (op : Vop) (w : VWord) : (memberOf op w).op = op := rfl

/-- A vector word that completes as a whole leaves its effect (R69, R172). -/
theorem exec_vectorWhole {op : Vop} {w : VWord} {s u : State} (hwhole : Vop.isWhole op = true) (hu : op.unit ∈ [1, 2, 4])
    (hc : s.me.chunk = none) (hready : s.vectorReady op w = true)
    (hok : (memberOf op w).whole ((s.openChunk false).convoy (headerOf op) [memberOf op w]) ((s.openChunk false).noting [memberOf op w]) = .ok u) :
    exec (vopInstr op w) s = .next ((((s.openChunk false).convoy (headerOf op) [memberOf op w]).advance u).wrapUp (s.openChunk false)
      ((s.openChunk false).convoy (headerOf op) [memberOf op w]) false) := by
  simp only [State.vectorReady, Bool.and_eq_true, decide_eq_true_eq] at hready
  obtain ⟨⟨⟨⟨hvop, hpc⟩, ho⟩, hmok⟩, hidle⟩ := hready
  rw [exec_vopInstr, State.runMember, if_pos hvop]
  refine congrArg Host.Outcome.next (runConvoy_completes hc (headerOk_headerOf op hpc) ho hidle (wrongMember_headerOf hvop hmok)
    (membersOf_headerOf hvop) (convoyShape_whole hu s) (fun c => checkStreams_whole hu c _)
    ((exec_whole hu rfl hwhole _).trans (congrArg (Except.map _) hok)))

end Sys2Proof.Machine

open Sys2Proof Sys2Proof.Machine

/-- R141, R145, R146, R172-R174: nothing that a whole operation meets in a hart that nothing stops keeps it from its end. -/
theorem wholeForms : Clause.WholeForms := by
  intro op w s hwhole hu hs hready hun b m c
  obtain ⟨u, hok⟩ := whole_completes m c (s := b.noting [m]) (((StopsAlike.openChunk s false).trans (StopsAlike.onChunk _ _)).unstopped hun)
  exact ⟨u, hok, exec_vectorWhole hwhole hu (solo_chunk hs) hready hok⟩

end

section
/-! What a vector word that has completed in a chunk opened for it leaves (spec/02 R50, R69, spec/06 R126). -/

namespace Sys2Proof.Machine

/-! The core around the vector file. -/

theorem fills_onVf (s : State) (g : VecFile → VecFile) : (s.onVf g).myCore.fills = s.myCore.fills := by
  show ((s.onVf g).core (coreOf s.cur)).fills = _
  rw [onVf_eq, core_setCore_self]

theorem HartOnly.fills {x : Hart} {s t : State} (h : HartOnly x s t) : t.myCore.fills = s.myCore.fills := by
  rw [State.myCore, h.core, h.cur]; rfl

/-- Where no register of the file holds an error and none is unfilled, a convoy at its end forgets what it waited for, and no more (R250,
R374). -/
theorem rewritten_hartOnly {s : State} (groups regs : List Nat) (hup : s.vf.upset = []) (hfills : s.myCore.fills = []) :
    HartOnly { s.me with fillWait := none } s (s.rewritten groups regs) := by
  unfold State.rewritten
  simp only [hup, hfills, List.isEmpty_nil, if_true]
  split
  next h =>
    rw [show ({ s.me with fillWait := none } : Hart) = s.me by rw [← Option.isNone_iff_eq_none.mp h]]
    exact HartOnly.refl s
  · exact HartOnly.setHart s _

/-- The hart behind a vector word that left it at `y`. -/
def Hart.pastWord (y : Hart) : Hart := { y.setPc (y.a.pc + 12) with fillWait := none }

theorem wrapUp_hartOnly {s u b : State} {y : Hart} {c : Cvy} {q : Chunk} (hu : HartOnly y s u) (hup : s.vf.upset = [])
    (hfills : s.myCore.fills = []) (hms : c.ms.length = 1) (hq : y.chunk = some q) (hcount : q.count = 0) (hover : q.over = false)
    (hclose : q.close = none) :
    ∃ k, HartOnly ((y.pastWord.retire 2 b.pc).asking k) (s.setVstart 0) ((c.advance u).wrapUp b c false) := by
  have hadv : HartOnly (y.setPc (y.a.pc + 12)) (s.setVstart 0) (c.advance u) := by
    rw [Cvy.advance, hms]
    exact (hu.onVf _).onMe fun x => x.setPc (x.a.pc + 12)
  have hup' : (c.advance u).vf.upset = [] := by rw [hadv.vf, State.setVstart, vf_onVf]; exact hup
  have hfills' : (c.advance u).myCore.fills = [] := by rw [hadv.fills, State.setVstart, fills_onVf, hfills]
  have hpast := hadv.trans (rewritten_hartOnly (c.ms.flatMap c.groupWrites)
    (vregsOf (c.ms.flatMap fun m => m.dests b.vt) ++ c.ms.flatMap accWrites) hup' hfills')
  rw [hadv.me] at hpast
  obtain ⟨k, hk⟩ := HartOnly.retire ((c.advance u).rewritten (c.ms.flatMap c.groupWrites)
    (vregsOf (c.ms.flatMap fun m => m.dests b.vt) ++ c.ms.flatMap accWrites)) 2 b.pc
  rw [hpast.me] at hk
  refine ⟨k, ?_⟩
  have hfin := finish_open ((c.advance u).rewritten (c.ms.flatMap c.groupWrites)
    (vregsOf (c.ms.flatMap fun m => m.dests b.vt) ++ c.ms.flatMap accWrites)) { before := false, after := false, own := false, n := 2 } b.pc q
    (by rw [hpast.me]; exact hq) rfl (by rw [hcount]; decide) hover hclose
  rw [State.wrapUp, hms]
  exact hfin ▸ hpast.trans hk

/-! What is written of the hart and of the file. -/

/-- `y` is the hart of `s` with a chunk of its own and with flags ORed into FFLAGS. -/
structure Flagged (s : State) (y : Hart) : Prop where
  a : y.a = { s.me.a with csr := y.a.csr }
  csr : ∀ n, n ≠ Csr.fflags → y.csr n = s.csr n
  status : y.status = s.me.status
  ctx : y.ctx = s.me.ctx
  asid : y.asid = s.me.asid

theorem Flagged.inChunk (s : State) (q : Chunk) : Flagged s (s.me.inChunk q) := ⟨rfl, fun _ _ => rfl, rfl, rfl, rfl⟩

theorem Flagged.orFlags {s : State} (q : Chunk) (fl : Flags) (hw : mapWf 0 s.me.a.csr = true) : Flagged s ((s.me.inChunk q).orFlags fl) :=
  ⟨rfl, fun _ hn => Hart.csr_setCsr_ne _ _ hw hn, rfl, rfl, rfl⟩

theorem Flagged.sameRegs {s t : State} {y : Hart} {k : Nat} (hy : Flagged s y) (hcur : t.cur = s.cur)
    (h : t.me = (y.pastWord.retire 2 s.pc).asking k) : SameRegs { csrs := [Csr.fflags], rng := true } s t ∧ t.pc = s.pc + 12 := by
  obtain ⟨q, ha⟩ := y.pastWord.retire_a 2 s.pc
  have hta : t.me.a = { s.me.a with csr := y.a.csr, pc := s.pc + 12, seq := q } := by
    have hpast : y.pastWord.a = { y.a with pc := y.a.pc + 12 } := rfl
    rw [h, Hart.asking_a, ha, hpast, hy.a]
    rfl
  refine ⟨⟨hcur, fun r _ => ?_, fun r _ => ?_, fun n hn => ?_, ?_, ?_, ?_, nofun, nofun, ?_, ?_⟩, ?_⟩
  · rw [State.x, Hart.x, hta]; rfl
  · rw [State.f, Hart.f, hta]; rfl
  · rw [State.csr, Hart.csr, hta]
    exact hy.csr n (List.mem_singleton.not.mp hn)
  · rw [hta]
  · rw [hta]
  · rw [hta]
  · rw [h]; exact hy.ctx
  · rw [h]; exact hy.asid
  · rw [State.pc, hta]

/-- A word whose effect is a change of one register group, with flags ORed into FFLAGS. -/
theorem wrapUp_writesGroup {s u b : State} {y : Hart} {c : Cvy} {q : Chunk} {g : VecFile → VecFile} {vd regs : Nat}
    (hs : s.calm = true) (hidle : s.vectorIdle = true) (hb : b.pc = s.pc) (hu : HartOnly y (s.onVf g) u) (hy : Flagged s y)
    (hg : GroupOnly vd regs s.vf (g s.vf)) (hms : c.ms.length = 1) (hq : y.chunk = some q) (hcount : q.count = 0) (hover : q.over = false)
    (hclose : q.close = none) :
    WritesGroup vd regs s ((c.advance u).wrapUp b c false) ∧
      ((c.advance u).wrapUp b c false).vf = { g s.vf with vstart := 0 } := by
  simp only [State.vectorIdle, Bool.and_eq_true, List.isEmpty_iff, Bool.not_eq_true'] at hidle
  obtain ⟨⟨⟨hfills, -⟩, hupset⟩, -⟩ := hidle
  have hup : (s.onVf g).vf.upset = [] := by rw [vf_onVf, hg.keeps VecFile.upset fun _ _ _ => rfl]; exact hupset
  obtain ⟨k, h⟩ := wrapUp_hartOnly (b := b) (c := c) hu hup ((fills_onVf s g).trans hfills) hms hq hcount hover hclose
  rw [hb] at h
  generalize (c.advance u).wrapUp b c false = t at h
  have hvf : t.vf = { g s.vf with vstart := 0 } := by rw [h.vf, State.setVstart, vf_onVf, vf_onVf]; rfl
  obtain ⟨hregs, hpc⟩ := hy.sameRegs h.cur h.me
  refine ⟨⟨hpc, ?_, by rw [hvf], fun r _ hr => ?_, fun r => ?_, ?_, hregs, h.others, fun d hd => ?_, h.mem⟩, hvf⟩
  · rw [h.me]; exact hy.status.trans (calm_running hs)
  · rw [hvf]; exact hg.reg r hr
  · rw [hvf]; exact hg.keeps (·.mreg r) fun _ _ _ => rfl
  · rw [hvf]
    exact ⟨hg.keeps (·.vl) fun _ _ _ => rfl, hg.keeps (·.vpad) fun _ _ _ => rfl, hg.keeps (·.vtype) fun _ _ _ => rfl,
      hg.keeps (·.vsub) fun _ _ _ => rfl, hg.keeps (·.acc) fun _ _ _ => rfl, hg.keeps (·.sc) fun _ _ _ => rfl⟩
  · rw [h.core, State.setVstart, core_onVf_ne (s.onVf g) _ hd, core_onVf_ne s g hd]

end Sys2Proof.Machine
end

section
/-! Words performed as a whole that write one register group: their destination as a chunk counts it, and what they leave (spec/02 R50, spec/06
R121, R129, spec/14 R289); and the permutations of spec/07 R172 position by position. -/

namespace Sys2Proof.Machine

/-! The types and groups of the members (R121, R129). -/

theorem VT.ofWord_regs (v : Word) : (VT.ofWord v).regs ≤ 8 := by
  have h : bits v 8 7 ≤ 3 := Nat.le_of_lt_succ (Nat.mod_lt _ (by decide))
  exact Nat.pow_le_pow_right (by decide) h

theorem VT.vlmax_le (t : VT) (hsx : t.isSx = false) : t.vlmax ≤ perReg t.w * t.regs := by
  rw [VT.vlmax, VT.e, hsx]
  exact Nat.mul_le_mul_right _ (Nat.div_mul_le_self _ _)

/-- An element below VLMAX lies in its group. -/
theorem VT.elem_in_group {t : VT} {i : Nat} (hsx : t.isSx = false) (hi : i < t.vlmax) : 0 < perReg t.w ∧ i / perReg t.w < t.regs := by
  have h := Nat.lt_of_lt_of_le hi (t.vlmax_le hsx)
  exact ⟨Nat.pos_of_mul_pos_right (Nat.zero_lt_of_lt h), Nat.div_lt_of_lt_mul h⟩

/-! The destination of a member as the limits of its chunk count it (R289). -/

theorem nub_length_le (l : List Nat) : (nub l).length ≤ l.length := by
  induction l with
  | nil => exact le_rfl
  | cons a l ih =>
    rw [nub]
    split
    · exact Nat.le_succ_of_le ih
    · exact Nat.succ_le_succ ih

theorem regsOf_vec (op : Vop) (w : VWord) (t : VT) (v : Nat) :
    (vregsOf (FU.vec.regsOf op w t v)).length ≤ t.regs ∧ mregsOf (FU.vec.regsOf op w t v) = [] := by
  unfold FU.regsOf
  dsimp only [FU.span]
  split
  next n h =>
    have hn : t.regs = n + 1 := Option.some.inj h
    simp [vregsOf, mregsOf, hn]
  · exact ⟨Nat.zero_le _, rfl⟩

/-- The chunk opened for a word, with the destinations of the word. -/
def State.wordChunk (s : State) (m : Member) : Chunk :=
  { s.newChunk false with
    vwr := nub (vregsOf ([m].flatMap fun m => m.dests s.vt) ++ []), mwr := nub (mregsOf ([m].flatMap fun m => m.dests s.vt) ++ []) }

theorem noting_hartOnly {s : State} (m : Member) (hc : s.me.chunk = none) :
    HartOnly (s.me.inChunk (s.wordChunk m)) s ((s.openChunk false).noting [m]) := by
  have hnow : s.chunkNow false = s.newChunk false := by rw [State.chunkNow, hc]
  have hopen := HartOnly.openChunk s false
  rw [hnow] at hopen
  have h := hopen.onMe fun x => { x with chunk := x.chunk.map fun q => { q with
    vwr := nub (vregsOf ([m].flatMap fun m => m.dests (s.openChunk false).vt) ++ q.vwr),
    mwr := nub (mregsOf ([m].flatMap fun m => m.dests (s.openChunk false).vt) ++ q.mwr) } }
  rw [openChunk_vt] at h
  rw [State.noting, openChunk_vt]
  exact h

/-- A word that writes one group stays within the limits of its chunk. -/
theorem wordChunk_over {s : State} {m : Member} (hvec : m.op.fields.vd = .vec) (hsrc : m.op.vdSource = false) (hssc : m.op ≠ .vssc) :
    (s.wordChunk m).over = false := by
  have hdests : [m].flatMap (fun m => m.dests s.vt) = FU.vec.regsOf m.op m.w s.vt m.w.vd.toNat := by
    simp [Member.dests, hvec, hsrc, hssc]
  obtain ⟨hlen, hmask⟩ := regsOf_vec m.op m.w s.vt m.w.vd.toNat
  have hregs : s.vt.regs ≤ 8 := VT.ofWord_regs _
  have hv : (nub (vregsOf (FU.vec.regsOf m.op m.w s.vt m.w.vd.toNat))).length ≤ 8 := (nub_length_le _).trans (hlen.trans hregs)
  simp only [Chunk.over, State.wordChunk, hdests, hmask, List.append_nil, nub]
  simp [State.newChunk, Nat.not_lt.mpr hv]

/-! A word performed as a whole that writes one group. -/

section
variable {op : Vop} {w : VWord} {s u : State} {y : Hart} {g : VecFile → VecFile}

/-- The word has had its effect, and its group alone has changed. -/
theorem vectorWhole_writesGroup (hwhole : Vop.isWhole op = true) (hu : op.unit ∈ [1, 2, 4]) (hvec : op.fields.vd = .vec)
    (hsrc : op.vdSource = false) (hs : s.calm = true) (hc : s.me.chunk = none) (hready : s.vectorReady op w = true)
    (hok : (memberOf op w).whole ((s.openChunk false).convoy (headerOf op) [memberOf op w]) ((s.openChunk false).noting [memberOf op w]) = .ok u)
    (hh : HartOnly y (s.onVf g) u) (hy : Flagged s y) (hq : y.chunk = some (s.wordChunk (memberOf op w)))
    (hg : GroupOnly w.vd.toNat s.vt.regs s.vf (g s.vf)) :
    ∃ t, exec (vopInstr op w) s = .next t ∧ WritesGroup w.vd.toNat s.vt.regs s t ∧ t.vf = { g s.vf with vstart := 0 } := by
  refine ⟨_, exec_vectorWhole hwhole hu hc hready hok, ?_⟩
  have hidle : s.vectorIdle = true := by
    simp only [State.vectorReady, Bool.and_eq_true] at hready
    exact hready.2
  exact wrapUp_writesGroup hs hidle (openChunk_pc s false) hh hy hg rfl hq rfl
    (wordChunk_over hvec hsrc (op_ne_of_unit (m := memberOf op w) hu (by decide))) rfl

end

/-! Permutations (R172). -/

/-- Position i after a permutation, of results `val` under a mask. -/
def Member.lane (m : Member) (c : Cvy) (f : VecFile) (val : Nat → Nat) (i : Nat) : Nat :=
  if m.active f i then val i % 2 ^ c.t.w else if c.t.mpol then 0 else f.elem m.w.vd.toNat c.t.w i

section
variable {m : Member} {c : Cvy} {f : VecFile} (val : Nat → Nat)

theorem permute_succ (n : Nat) : m.permute c f (n + 1) (m.active f) val =
    if m.active f n then (m.permute c f n (m.active f) val).setElem m.w.vd.toNat c.t.w n (val n)
    else if c.t.mpol then (m.permute c f n (m.active f) val).setElem m.w.vd.toNat c.t.w n 0
    else m.permute c f n (m.active f) val := by
  simp [Member.permute, List.range_succ]

variable (hw : mapWf 0 f.v = true)
include hw

theorem permute_groupOnly {n : Nat} (hn : ∀ i < n, i / perReg c.t.w < c.t.regs) :
    GroupOnly m.w.vd.toNat c.t.regs f (m.permute c f n (m.active f) val) := by
  induction n with
  | zero => exact GroupOnly.refl _ _ hw
  | succ n ih =>
    have h := ih fun i hi => hn i (by omega)
    rw [permute_succ]
    split
    · exact h.setElem _ (hn n (by omega))
    · split
      · exact h.setElem _ (hn n (by omega))
      · exact h

theorem elem_permute (hp : 0 < perReg c.t.w) (hregs : m.w.vd.toNat + c.t.regs ≤ 64) {n : Nat} (hn : ∀ i < n, i / perReg c.t.w < c.t.regs)
    (j : Nat) : (m.permute c f n (m.active f) val).elem m.w.vd.toNat c.t.w j =
      if j < n then m.lane c f val j else f.elem m.w.vd.toNat c.t.w j := by
  induction n with
  | zero => rfl
  | succ n ih =>
    have hn' : ∀ i < n, i / perReg c.t.w < c.t.regs := fun i hi => hn i (by omega)
    have hwf := (permute_groupOnly (m := m) (c := c) val hw hn').wf
    have hreg : m.w.vd.toNat + n / perReg c.t.w < 64 := Nat.lt_of_lt_of_le (Nat.add_lt_add_left (hn n (by omega)) _) hregs
    have hstep : (m.permute c f (n + 1) (m.active f) val).elem m.w.vd.toNat c.t.w j =
        if j = n then m.lane c f val n else (m.permute c f n (m.active f) val).elem m.w.vd.toNat c.t.w j := by
      rw [permute_succ, Member.lane]
      split
      · rw [elem_setElem hwf hp _ hreg]
      · split
        · rw [elem_setElem hwf hp _ hreg, Nat.zero_mod]
        · split
          next hj => rw [ih hn', hj, if_neg (Nat.lt_irrefl n)]
          · rfl
    rw [hstep, ih hn']
    rcases Nat.lt_trichotomy j n with hj | rfl | hj
    · rw [if_neg (Nat.ne_of_lt hj), if_pos hj, if_pos (Nat.lt_succ_of_lt hj)]
    · rw [if_pos rfl, if_pos (Nat.lt_succ_self j)]
    · rw [if_neg (Nat.ne_of_gt hj), if_neg (Nat.lt_asymm hj), if_neg (by omega)]

end

end Sys2Proof.Machine
end

section
/-! Proofs of the statement on slides and VPERM (spec/07 R172). -/

namespace Sys2Proof.Machine

/-- The end of a member that writes a group of the VTYPE size under a type that is not SX (R126). -/
theorem finish_vec {m : Member} {c : Cvy} (hvec : m.op.fields.vd = .vec) (hsrc : m.op.vdSource = false) (hsx : c.t.isSx = false) (vl : Nat)
    (f : VecFile) : m.finish c vl f = f.endGroup m.w.vd.toNat c.t.regs c.t.w vl c.t.tpol := by
  simp [Member.finish, hvec, hsrc, hsx, Member.finishGroup]

section
variable {m : Member} {c : Cvy} {f : VecFile} (val : Nat → Nat) (hw : mapWf 0 f.v = true) (hvec : m.op.fields.vd = .vec)
  (hsrc : m.op.vdSource = false) (hsx : c.t.isSx = false) (hvl : c.vl ≤ c.t.vlmax)
include hw hvec hsrc hsx hvl

theorem permuted_groupOnly : GroupOnly m.w.vd.toNat c.t.regs f (m.finish c c.vl (m.permute c f c.vl (m.active f) val)) := by
  rw [finish_vec hvec hsrc hsx]
  exact (permute_groupOnly val hw fun i hi => (VT.elem_in_group hsx (Nat.lt_of_lt_of_le hi hvl)).2).endGroup _ _ _ le_rfl

theorem elem_permuted (hregs : c.t.regs ≤ 8) {i : Nat} (hi : i < c.vl) :
    (m.finish c c.vl (m.permute c f c.vl (m.active f) val)).elem m.w.vd.toNat c.t.w i = m.lane c f val i := by
  have hgroup : ∀ j < c.vl, j / perReg c.t.w < c.t.regs := fun j hj => (VT.elem_in_group hsx (Nat.lt_of_lt_of_le hj hvl)).2
  have hp := (VT.elem_in_group hsx (Nat.lt_of_lt_of_le hi hvl)).1
  have hlast : m.w.vd.toNat + c.t.regs ≤ 64 := by have := m.w.vd.isLt; omega
  rw [finish_vec hvec hsrc hsx, elem_endGroup (permute_groupOnly val hw hgroup).wf hp hi _ hlast, elem_permute val hw hp hlast hgroup, if_pos hi]

end

/-- What the permutations of R172 put at position i, before the mask: an element of the sources `a` and `b`, or the substitute. -/
def permuted (op : Vop) (k vl sub : Nat) (a b : Nat → Nat) (i : Nat) : Nat :=
  if op = .vslideup then (if i < k then sub else a (i - k))
  else if op = .vslidedn then (if i + k < vl then a (i + k) else sub)
  else if b i < vl then a (b i) else sub

/-- The slide distance (R172). -/
def State.slide (s : State) (w : VWord) : Nat := if w.scal = 1 then (s.x w.vs3).toNat else w.imm.toNat

theorem lanes_permuted {m : Member} (hop : m.op ∈ [Vop.vslideup, .vslidedn, .vperm]) (c : Cvy) (s : State) (f : VecFile) :
    m.lanes c s f = m.finish c c.vl (m.permute c f c.vl (m.active f) (permuted m.op (s.slide m.w) c.vl (c.t.substitute c.vsub)
      (f.elem m.w.vs1.toNat c.t.w) (f.elem m.w.vs2.toNat c.t.w))) := by
  obtain ⟨word, op, w⟩ := m
  simp only [List.mem_cons, List.not_mem_nil, or_false] at hop
  rcases hop with rfl | rfl | rfl
  · have h : (fun i => if s.slide w ≤ i then f.elem w.vs1.toNat c.t.w (i - s.slide w) else c.t.substitute c.vsub) =
        permuted .vslideup (s.slide w) c.vl (c.t.substitute c.vsub) (f.elem w.vs1.toNat c.t.w) (f.elem w.vs2.toNat c.t.w) := by
      funext i
      simp only [permuted, if_true, ← Nat.not_le, ite_not]
    exact congrArg (fun val => Member.finish ⟨word, .vslideup, w⟩ c c.vl (Member.permute ⟨word, .vslideup, w⟩ c f c.vl _ val)) h
  · rfl
  · rfl

/-- Each position gets its value modulo 2^w. -/
theorem permuted_mod {w : Nat} (op : Vop) (k vl sub : Nat) {a b : Nat → Nat} (ha : ∀ i, a i < 2 ^ w) (i : Nat) :
    permuted op k vl sub a b i % 2 ^ w = permuted op k vl (sub % 2 ^ w) a b i := by
  have hmod (j : Nat) : a j % 2 ^ w = a j := Nat.mod_eq_of_lt (ha j)
  simp only [permuted, apply_ite (· % 2 ^ w), hmod]

/-! The convoy of one word as it executes. -/

theorem convoy_t (s : State) (hdr : BitVec 32) (ms : List Member) : ((s.openChunk false).convoy hdr ms).t = s.vt := openChunk_vt s false
theorem convoy_vl (s : State) (hdr : BitVec 32) (ms : List Member) : ((s.openChunk false).convoy hdr ms).vl = s.vl := openChunk_vl s false
theorem convoy_real (s : State) (hdr : BitVec 32) (ms : List Member) : ((s.openChunk false).convoy hdr ms).real = s.vl - s.vpad :=
  congrArg₂ (· - ·) (openChunk_vl s false) (openChunk_vpad s false)
theorem convoy_vsub (s : State) (hdr : BitVec 32) (ms : List Member) : ((s.openChunk false).convoy hdr ms).vsub = s.vf.vsub :=
  congrArg VecFile.vsub (openChunk_vf s false)

theorem active_iff (m : Member) (f : VecFile) (i : Nat) :
    m.active f i = true ↔ m.w.men = 0 ∨ (f.mreg m.w.msk.toNat).getLsbD i = true := by
  simp [Member.active]

theorem ready_typesOk {op : Vop} {w : VWord} {s : State} (h : s.vectorReady op w = true) (ht : op.typeless = false) :
    typesOk op w s.vt = true := by
  simp only [State.vectorReady, Member.ok, memberOf, ht, Bool.false_or, Bool.and_eq_true] at h
  obtain ⟨⟨-, hok⟩, -⟩ := h
  obtain ⟨⟨⟨⟨⟨⟨⟨-, -, htypes⟩, -⟩, -⟩, -⟩, -⟩, -⟩, -⟩ := hok
  exact htypes

/-! A permutation as an instruction. -/

/-- What is fixed of the three permutations of R172. -/
structure IsPermutation (op : Vop) : Prop where
  whole : Vop.isWhole op = true
  unit : op.unit ∈ [1, 2, 4]
  vec : op.fields.vd = .vec
  dest : op.vdSource = false
  typed : op.typeless = false
  lanes : ∀ (m : Member) (c : Cvy) (s : State), m.op = op → m.whole c s = .ok (s.onVf (m.lanes c s))
  types : ∀ (w : VWord) (t : VT), typesOk op w t = true → t.isSx = false

theorem isPermutation {op : Vop} (hop : op ∈ [Vop.vslideup, .vslidedn, .vperm]) : IsPermutation op := by
  have htypes (t : VT) (h : (false || !t.isSx) = true) : t.isSx = false := by simpa using h
  simp only [List.mem_cons, List.not_mem_nil, or_false] at hop
  rcases hop with rfl | rfl | rfl
  all_goals
    refine ⟨rfl, by decide, rfl, rfl, rfl, fun m c s hm => ?_, fun w t h => htypes t h⟩
    obtain ⟨word, op, w⟩ := m
    obtain rfl := hm
    rfl

/-- The results of a permutation (R172), in the state in which it begins. -/
def State.permutes (s : State) (op : Vop) (w : VWord) : Nat → Nat :=
  permuted op (s.slide w) s.vl (s.vt.substitute s.vf.vsub % 2 ^ s.vt.w) (s.vf.elem w.vs1.toNat s.vt.w) (s.vf.elem w.vs2.toNat s.vt.w)

/-- A permutation writes its group alone, and below VL each active position gets its value; the sources are read before (R172). -/
theorem lanes_spec {m : Member} {c : Cvy} {s u : State} (hop : m.op ∈ [Vop.vslideup, .vslidedn, .vperm]) (ht : c.t = s.vt) (hcv : c.vl = s.vl)
    (hcs : c.vsub = s.vf.vsub) (hslide : u.slide m.w = s.slide m.w) (hsx : s.vt.isSx = false) (hvl : s.vl ≤ s.vt.vlmax)
    (hw : mapWf 0 s.vf.v = true) :
    GroupOnly m.w.vd.toNat s.vt.regs s.vf (m.lanes c u s.vf) ∧
      ∀ i, i < s.vl → (m.lanes c u s.vf).elem m.w.vd.toNat s.vt.w i =
        if m.active s.vf i then s.permutes m.op m.w i else if s.vt.mpol then 0 else s.vf.elem m.w.vd.toNat s.vt.w i := by
  have hp := isPermutation hop
  rw [lanes_permuted hop, hslide, hcs, ← ht, ← hcv]
  have hsx' : c.t.isSx = false := ht ▸ hsx
  have hvl' : c.vl ≤ c.t.vlmax := by rw [ht, hcv]; exact hvl
  refine ⟨permuted_groupOnly _ hw hp.vec hp.dest hsx' hvl', fun i hi => ?_⟩
  rw [elem_permuted _ hw hp.vec hp.dest hsx' hvl' (ht ▸ VT.ofWord_regs _) hi, Member.lane, permuted_mod _ _ _ _ (elem_lt _ _ _),
    State.permutes, ht, hcv]

/-- A slide or VPERM as an instruction (R172). -/
theorem vectorPermutation {op : Vop} {w : VWord} {s : State} (hop : op ∈ [Vop.vslideup, .vslidedn, .vperm]) (hs : s.calm = true)
    (hc : s.me.chunk = none) (hready : s.vectorReady op w = true) (hvl : s.vl ≤ s.vt.vlmax) (hw : mapWf 0 s.vf.v = true) :
    ∃ t, exec (vopInstr op w) s = .next t ∧ WritesGroup w.vd.toNat s.vt.regs s t ∧
      ∀ i, i < s.vl → t.vf.elem w.vd.toNat s.vt.w i =
        if (memberOf op w).active s.vf i then s.permutes op w i else if s.vt.mpol then 0 else s.vf.elem w.vd.toNat s.vt.w i := by
  have hp := isPermutation hop
  have hnote := noting_hartOnly (memberOf op w) hc
  have hslide : ((s.openChunk false).noting [memberOf op w]).slide w = s.slide w := by
    rw [State.slide, State.x, hnote.me]; rfl
  obtain ⟨hgroup, helem⟩ := lanes_spec (m := memberOf op w) hop (convoy_t s (headerOf op) _) (convoy_vl s (headerOf op) _)
    (convoy_vsub s (headerOf op) _) hslide (hp.types _ _ (ready_typesOk hready hp.typed)) hvl hw
  obtain ⟨t, hexec, hwrites, hvf⟩ := vectorWhole_writesGroup hp.whole hp.unit hp.vec hp.dest hs hc hready (hp.lanes _ _ _ rfl) (hnote.onVf _)
    (Flagged.inChunk s _) rfl hgroup
  exact ⟨t, hexec, hwrites, fun i hi => by rw [hvf]; exact helem i hi⟩

end Sys2Proof.Machine

open Sys2Proof Sys2Proof.Machine

/-- R172: the slides and VPERM. -/
theorem permutedElements : Clause.PermutedElements := by
  intro op w s hop hs hc hready _ hvl hw e k sub
  obtain ⟨t, hexec, hwrites, helem⟩ := vectorPermutation hop hs hc hready hvl hw
  refine ⟨t, hexec, hwrites, fun i hi => (helem i hi).trans ?_⟩
  exact if_congr (active_iff (memberOf op w) s.vf i) rfl rfl

end

section
/-! Proofs of the statement on integer reductions (spec/07 R173). -/

namespace Sys2Proof.Machine

/-! A combination of patterns as one of bit vectors. -/

theorem sgnN_toNat {w : Nat} (a : BitVec w) : sgnN w a.toNat = a.toInt := by
  rw [sgnN, Nat.mod_eq_of_lt a.isLt, BitVec.toInt_eq_toNat_cond]
  have ha := a.isLt
  rcases Nat.eq_zero_or_pos w with rfl | hpos
  · simp [show a.toNat = 0 by omega]
  · have hpow : 2 ^ w = 2 * 2 ^ (w - 1) := by rw [← Nat.pow_succ']; congr 1; omega
    by_cases h : 2 ^ (w - 1) ≤ a.toNat
    · rw [if_pos h, if_neg (by omega)]; push_cast; rfl
    · rw [if_neg h, if_pos (by omega)]

/-- The order of an integer type (R173). -/
def lessBy (signed : Bool) {w : Nat} (a b : BitVec w) : Bool := if signed then decide (a.toInt < b.toInt) else decide (a.toNat < b.toNat)

theorem numN_lt_iff (signed : Bool) {w : Nat} (a b : BitVec w) : numN signed w a.toNat < numN signed w b.toNat ↔ lessBy signed a b = true := by
  cases signed with
  | true => simp [numN, lessBy, sgnN_toNat]
  | false =>
    simp only [numN, lessBy, Bool.false_eq_true, if_false, Nat.mod_eq_of_lt a.isLt, Nat.mod_eq_of_lt b.isLt, decide_eq_true_eq]
    exact Nat.cast_lt

/-- The combination of an integer reduction on bit vectors (R173). -/
def joinBy (op : Vop) (signed : Bool) {w : Nat} (a b : BitVec w) : BitVec w :=
  match op with
  | .vredSum => a + b
  | .vredMax => if lessBy signed a b then b else a
  | .vredMin => if lessBy signed b a then b else a
  | .vredAnd => a &&& b
  | .vredOr => a ||| b
  | _ => a ^^^ b

/-- The integer reductions (R173). -/
def intReductions : List Vop := [.vredSum, .vredMax, .vredMin, .vredAnd, .vredOr, .vredXor]

theorem redInt_toNat {op : Vop} (hop : op ∈ intReductions) (t : VT) (a b : BitVec t.w) :
    redInt op t a.toNat b.toNat = (joinBy op t.isSigned a b).toNat := by
  simp only [intReductions, List.mem_cons, List.not_mem_nil, or_false] at hop
  rcases hop with rfl | rfl | rfl | rfl | rfl | rfl
  · exact (BitVec.toNat_add a b).symm
  · simp only [redInt, joinBy, numN_lt_iff, apply_ite BitVec.toNat]
  · simp only [redInt, joinBy, numN_lt_iff, apply_ite BitVec.toNat]
  · exact (BitVec.toNat_and a b).symm
  · exact (BitVec.toNat_or a b).symm
  · exact (BitVec.toNat_xor a b).symm

/-! The elements that enter a reduction. -/

/-- Element i of a reduction over elements of which those from `real` on are padding, which enters as zero (R173). -/
def Member.entering (m : Member) (t : VT) (real : Nat) (f : VecFile) (i : Nat) : Nat := if real ≤ i then 0 else f.elem m.w.vs1.toNat t.w i

theorem foldl_redElem (m : Member) (c : Cvy) (f : VecFile) (join : Nat → Nat → Nat) (l : List Nat) (a : Nat) :
    ((l.map (m.redElem c f)).filterMap id).foldl (fun a e => join a e.1) a =
      (l.filter (m.active f)).foldl (fun a i => join a (m.entering c.t c.real f i)) a := by
  induction l generalizing a with
  | nil => rfl
  | cons i l ih =>
    cases h : m.active f i with
    | true =>
      obtain ⟨p, he⟩ : ∃ p, m.redElem c f i = some (m.entering c.t c.real f i, p) := by
        unfold Member.redElem Member.entering
        rw [if_pos h]
        split
        · exact ⟨true, rfl⟩
        · exact ⟨false, rfl⟩
      rw [List.filter_cons_of_pos h, List.map_cons, List.filterMap_cons_some (by rw [he]; rfl), List.foldl_cons, List.foldl_cons]
      exact ih _
    | false =>
      have he : m.redElem c f i = none := by rw [Member.redElem, if_neg (by simp [h])]
      rw [List.filter_cons_of_neg (by simp [h]), List.map_cons, List.filterMap_cons_none (by rw [he]; rfl)]
      exact ih a

/-- What an integer reduction computes (R173). -/
def Member.reduced (m : Member) (t : VT) (vl real : Nat) (f : VecFile) : BitVec t.w :=
  ((List.range vl).filter (m.active f)).foldl (fun a i => joinBy m.op t.isSigned a (BitVec.ofNat t.w (m.entering t real f i)))
    (BitVec.ofNat t.w (f.elem m.w.vs2.toNat t.w 0))

theorem entering_lt (m : Member) (t : VT) (real : Nat) (f : VecFile) (i : Nat) : m.entering t real f i < 2 ^ t.w := by
  unfold Member.entering
  split
  · exact Nat.two_pow_pos _
  · exact elem_lt _ _ _ _

theorem foldl_redInt {m : Member} (hop : m.op ∈ intReductions) (t : VT) (vl real : Nat) (f : VecFile) :
    ((List.range vl).filter (m.active f)).foldl (fun a i => redInt m.op t a (m.entering t real f i)) (f.elem m.w.vs2.toNat t.w 0) =
      (m.reduced t vl real f).toNat := by
  have hinit : f.elem m.w.vs2.toNat t.w 0 = (BitVec.ofNat t.w (f.elem m.w.vs2.toNat t.w 0)).toNat := by
    rw [BitVec.toNat_ofNat, Nat.mod_eq_of_lt (elem_lt _ _ _ _)]
  rw [hinit, Member.reduced]
  refine List.foldl_hom _ fun a i => ?_
  rw [← redInt_toNat hop, BitVec.toNat_ofNat, Nat.mod_eq_of_lt (entering_lt m t real f i)]

/-- An integer reduction raises no flag and draws nothing. -/
theorem reduce_int {m : Member} (hop : m.op ∈ intReductions) (c : Cvy) (f : VecFile) (r : Rng) :
    m.reduce c f r = ((m.reduced c.t c.vl c.real f).toNat, 0, r) := by
  rw [← foldl_redInt hop, ← foldl_redElem]
  obtain ⟨word, op, w⟩ := m
  simp only [intReductions, List.mem_cons, List.not_mem_nil, or_false] at hop
  rcases hop with rfl | rfl | rfl | rfl | rfl | rfl <;> rfl

/-! The one element written (R172, R173). -/

theorem perReg_pos {w : Nat} (h0 : 0 < w) (h : w ≤ 2048) : 0 < perReg w := by
  unfold perReg
  split
  · decide
  · exact Nat.div_pos h h0

theorem VT.w_le (t : VT) : t.w ≤ 64 := by
  unfold VT.w
  split <;> decide

theorem putFirst_groupOnly (m : Member) {c : Cvy} {f : VecFile} (v : Nat) (hw : mapWf 0 f.v = true) (hregs : 0 < c.t.regs) :
    GroupOnly m.w.vd.toNat c.t.regs f (m.putFirst c f v) :=
  ((GroupOnly.refl _ _ hw).setElem v (by rw [Nat.zero_div]; exact hregs)).endGroup _ _ _ le_rfl

theorem elem_putFirst (m : Member) {c : Cvy} {f : VecFile} {v : Nat} (hv : v < 2 ^ c.t.w) (hw : mapWf 0 f.v = true) (hregs : c.t.regs ≤ 8) :
    (m.putFirst c f v).elem m.w.vd.toNat c.t.w 0 = v := by
  have hvd := m.w.vd.isLt
  have hlt := elem_lt (m.putFirst c f v) m.w.vd.toNat c.t.w 0
  rcases Nat.eq_zero_or_pos c.t.w with h0 | hpos
  · rw [h0] at hv hlt ⊢
    omega
  · have hp := perReg_pos hpos (c.t.w_le.trans (by decide))
    have hreg : m.w.vd.toNat + 0 / perReg c.t.w < 64 := by rw [Nat.zero_div]; omega
    have hwf : mapWf 0 (f.setElem m.w.vd.toNat c.t.w 0 v).v = true := mapWf_set 0 _ _ _ hw
    rw [Member.putFirst, elem_endGroup hwf hp Nat.one_pos c.t.tpol (by omega), elem_setElem_self hw hp _ hreg, Nat.mod_eq_of_lt hv]

/-! A reduction as an instruction. -/

/-- A reduction that combines integers writes its result, without a flag or a draw. -/
theorem whole_reduction {m : Member} (hop : m.op ∈ intReductions) (c : Cvy) (s : State) :
    m.whole c s = .ok (((s.keepRng (s.rngOf m.w)).onVf fun f => m.putFirst c f (m.reduced c.t c.vl c.real s.vf).toNat).orFlags 0) := by
  have hdef : m.whole c s = (fun p : Nat × Flags × Rng => if s.trapsOn p.2.1 then .error (fpStop s 0 p.2.1)
      else .ok (((s.keepRng p.2.2).onVf fun f => m.putFirst c f p.1).orFlags p.2.1)) (m.reduce c s.vf (s.rngOf m.w)) := by
    obtain ⟨word, op, w⟩ := m
    simp only [intReductions, List.mem_cons, List.not_mem_nil, or_false] at hop
    rcases hop with rfl | rfl | rfl | rfl | rfl | rfl <;> rfl
  rw [hdef, reduce_int hop]
  exact if_neg (by simp [State.trapsOn])

/-- A stochastic state that was not drawn from is kept as it is. -/
theorem HartOnly.keepRng_rngOf {x : Hart} {s t : State} (h : HartOnly x s t) (w : VWord) : HartOnly x s (t.keepRng (t.rngOf w)) := by
  obtain rfl := h.me
  exact h.onMe fun y => { y with a := { y.a with s0 := t.me.a.s0, s1 := t.me.a.s1 } }

theorem reduction_facts {op : Vop} (hop : op ∈ intReductions) :
    Vop.isWhole op = true ∧ op.unit ∈ [1, 2, 4] ∧ op.fields.vd = .vec ∧ op.vdSource = false := by
  simp only [intReductions, List.mem_cons, List.not_mem_nil, or_false] at hop
  rcases hop with rfl | rfl | rfl | rfl | rfl | rfl <;> decide

/-- An integer reduction as an instruction (R173). -/
theorem vectorReduction {op : Vop} {w : VWord} {s : State} (hop : op ∈ intReductions) (hs : s.calm = true) (hc : s.me.chunk = none)
    (hready : s.vectorReady op w = true) (hw : mapWf 0 s.vf.v = true) :
    ∃ t, exec (vopInstr op w) s = .next t ∧ WritesGroup w.vd.toNat s.vt.regs s t ∧
      t.vf.elem w.vd.toNat s.vt.w 0 = ((memberOf op w).reduced s.vt s.vl (s.vl - s.vpad) s.vf).toNat := by
  obtain ⟨hwhole, hunit, hvec, hdest⟩ := reduction_facts hop
  have hct := convoy_t s (headerOf op) [memberOf op w]
  have hnote := noting_hartOnly (memberOf op w) hc
  have hok := whole_reduction (m := memberOf op w) hop ((s.openChunk false).convoy (headerOf op) [memberOf op w])
    ((s.openChunk false).noting [memberOf op w])
  have hregs : 0 < s.vt.regs := Nat.two_pow_pos _
  rw [hnote.vf, hct, convoy_vl, convoy_real] at hok
  obtain ⟨t, hexec, hwrites, hvf⟩ := vectorWhole_writesGroup hwhole hunit hvec hdest hs hc hready hok
    (((hnote.keepRng_rngOf w).onVf _).onMe _) (Flagged.orFlags _ 0 (calm_wf_csr hs)) rfl
    (hct ▸ putFirst_groupOnly (memberOf op w) _ hw (hct ▸ hregs))
  refine ⟨t, hexec, hwrites, ?_⟩
  have helem := elem_putFirst (memberOf op w) (c := (s.openChunk false).convoy (headerOf op) [memberOf op w])
    (v := ((memberOf op w).reduced s.vt s.vl (s.vl - s.vpad) s.vf).toNat) (hct ▸ BitVec.isLt _) hw (hct ▸ VT.ofWord_regs _)
  rw [hct] at helem
  rw [hvf]
  exact helem

end Sys2Proof.Machine

open Sys2Proof Sys2Proof.Machine

/-- R173: the integer reductions. -/
theorem reducedElements : Clause.ReducedElements := by
  intro op w s hop hs hc hready _ hw e live less join
  obtain ⟨t, hexec, hwrites, helem⟩ := vectorReduction hop hs hc hready hw
  refine ⟨t, hexec, hwrites, helem.trans (congrArg BitVec.toNat ?_)⟩
  have hjoin (a : BitVec s.vt.w) (i : Nat) :
      joinBy op s.vt.isSigned a (BitVec.ofNat s.vt.w ((memberOf op w).entering s.vt (s.vl - s.vpad) s.vf i)) =
        join a (if s.vl - s.vpad ≤ i then 0 else e w.vs1 i) := by
    rw [Member.entering, apply_ite (BitVec.ofNat s.vt.w)]
    rfl
  rw [Member.reduced]
  simp only [memberOf_op, hjoin]
  rfl

/-- Settles O46: every whole operation completes where no flag traps and nothing stops the hart; a permutation and an integer reduction change
one register group, and its elements are read off the writes. -/
theorem vectorWholeForms : Obligations.VectorWholeForms := ⟨wholeForms, permutedElements, reducedElements⟩

end

section
/-! The statement on vector integer operations fails for a VTYPE that R120 never writes: IEEE binary of 8 bits, whose elements the logic
operations take at the 64 bits of the widest binary format. -/

namespace Sys2Proof.Machine

/-- The owner of a vector file whose VTYPE is format 2 with width code 2, with VL = 2; V1 holds 1 and 2 as elements of 8 bits, and m1 selects
element 0. -/
def oddType : State :=
  (State.reset.onMe fun h => { h with status := .running, a := { h.a with pc := 4 } }).onMyCore fun k =>
    { k with owner := some 0, vf := { k.vf with vtype := 0x12, vl := 2, v := [(1, 0x0201)], m := [(1, 1)], vdirty := 2 } }

/-- VMV of V1 to V0 under m1. -/
def maskedMove : VWord :=
  { imm := 0, scal := 0, satf := 0, rnd := 0, k := 0, mod2 := 0, mod1 := 0, men := 1, msk := 1, vs3 := 0, vs2 := 0, vs1 := 1, vd := 0 }

/-- The state meets every premise of the statement. -/
theorem oddType_premises : oddType.calm = true ∧ oddType.me.chunk = none ∧ oddType.vectorReady .vmv maskedMove = true ∧
    oddType.unstopped = true ∧ oddType.vt.isSx = false ∧ oddType.vf.vstart = 0 ∧ oddType.vl ≤ oddType.vt.vlmax ∧
    mapWf 0 oddType.vf.v = true := by decide +kernel

/-- Element 1 is inactive and undisturbed, so it should keep 0; the move of element 0 at 64 bits has written 2 there. -/
theorem oddType_moved : oddType.vt.w = 8 ∧ oddType.vt.mpol = false ∧ (oddType.vf.mreg 1).getLsbD 1 = false ∧ oddType.vf.elem 0 8 1 = 0 ∧
    (oddType.runMember .vmv maskedMove).vf.elem 0 8 1 = 2 := by decide +kernel

end Sys2Proof.Machine

open Sys2Proof Sys2Proof.Machine

/-- Refutes O45: no premise ties the width of VTYPE's format to its element width. Under format 2 (IEEE binary) with width code 2 (8 bits), a
VTYPE that no VSETL writes (R120) and that is not marked ILL, the accepted logic operations and moves write elements of 64 bits, so that
active element 0 overwrites inactive element 1. -/
theorem not_vectorIntegerElements : ¬ Obligations.VectorIntegerElements := by
  intro h
  obtain ⟨hcalm, hchunk, hready, hun, hsx, hstart, hvl, hwf⟩ := oddType_premises
  obtain ⟨hw, hmpol, hmask, hold, hnew⟩ := oddType_moved
  obtain ⟨t, hexec, -, helem⟩ := h .vmv _ rfl maskedMove oddType hcalm hchunk hready hun rfl rfl hsx hstart hvl hwf
  rw [exec_vopInstr] at hexec
  obtain rfl := Host.Outcome.next.inj hexec
  have hinactive : ¬ (maskedMove.men = 0 ∨ (oddType.vf.mreg maskedMove.msk.toNat).getLsbD 1 = true) :=
    not_or.mpr ⟨by decide, Bool.eq_false_iff.mp hmask⟩
  have hkept := helem 1 (by decide)
  rw [hw, if_neg hinactive, if_neg (Bool.eq_false_iff.mp hmpol)] at hkept
  have hzero : (BitVec.ofNat 8 (oddType.vf.elem 0 8 1)).toNat = 0 := by rw [hold]; rfl
  exact absurd ((hnew.symm.trans hkept).trans hzero) (by decide)

end

section
/-! Proofs of the statement on the events of chunks and engines (spec/08 R179, spec/09 R217-R226, spec/14 R290, spec/21 R373): each event, where the
state enables it, does what its rule says. -/

namespace Sys2Proof.Machine

/-- R290, R373: no test of the event refuses a chunk that waits, a running chunk that may be squashed, or a line whose read may be in error. -/
theorem chunkAndDataEvents : Clause.ChunkAndDataEvents := by
  refine fun s => ⟨fun h c hst hc hsent hheld => ?_, fun h c hst hc hown => ?_, fun h line check flip hbad hseen => ?_, fun line hbad hhard => ?_⟩
  · show execChunkCommit h false s = _
    simp [execChunkCommit, hst, hc, hsent, hheld, State.doom]
  · show execChunkCommit h true s = _
    simp [execChunkCommit, hst, hc, hown, State.doom]
  · refine if_neg ?_
    rcases hseen with hcheck | hflip
    · simp [hbad, hcheck]
    · simp [hbad, hflip]
  · have hwaits : ¬ ((mapFind? s.bad line).isNone = true ∨ line ∈ s.badHard) := not_or.mpr ⟨by simpa using hbad, hhard⟩
    exact ⟨if_neg hwaits, if_neg hwaits⟩

/-- R179, R221: what a bank load and a copy wait for is there. -/
theorem transferEvents : Clause.TransferEvents := by
  refine fun s core => ⟨fun bank l hl hfailed hfetch hhard hlate => ?_, fun idx c hc hheld => ?_⟩
  · intro tile colb lo hfree r
    have hwaits : ¬ (l.failed.isSome = true ∨ s.refetching l.locs = true ∨
        ((s.core core).rltHit (s.hart l.hart).ctx false lo (lo + (recN tile - 1) * (recStride tile).toNat + colb)).isSome = true ∨
        s.engineLate l.hart l.locs = true) := by simp [hfailed, hfetch, hfree, hlate]
    show execMbldLoadComplete core bank s = _
    simp only [execMbldLoadComplete, hl, hhard]
    exact if_neg hwaits
  · intro g va reg locs hlate moved
    have hgo : ¬ (s.engineHeld c.hart || s.engineLate c.hart locs) = true := by simp [hheld, hlate]
    refine ⟨fun hstore => ?_, fun hstore hsource hfetch hhard => ?_⟩
    · show execCopyGroupTransfer core idx s = _
      simp only [execCopyGroupTransfer, hc]
      exact (if_neg hgo).trans (if_pos hstore)
    · have hready : ¬ ((s.core core).sourceWaits (s.hart c.hart).ctx va.toNat 128 || s.refetching locs) = true := by simp [hsource, hfetch]
      have hload : ¬ c.store = true := by simp [hstore]
      show execCopyGroupTransfer core idx s = _
      simp only [execCopyGroupTransfer, hc]
      refine (if_neg hgo).trans ((if_neg hload).trans ((if_neg hready).trans ?_))
      simp only [locs, g] at hhard
      simp only [hhard]
      rfl

/-! Streams (R217, R218). -/

/-- The bindings that have fetched all their elements, and the first that has one left. -/
theorem takeWhile_spent {ahead behind : List Binding} {p : Binding} (hahead : ∀ a ∈ ahead, a.total ≤ a.done) (hp : p.done < p.total) :
    (ahead ++ p :: behind).takeWhile (fun b => decide (b.total ≤ b.done)) = ahead := by
  rw [List.takeWhile_append_of_pos (by simpa using hahead), List.takeWhile_cons_of_neg (by simpa using hp), List.append_nil]

/-- R217, R218: an inbound port has an element left to fetch and room for it, an outbound port one to write. -/
theorem streamEvents : Clause.StreamEvents := by
  refine fun s core port st b hst hb => ⟨fun ahead behind p hin hheld hlist hahead hp hleft hroom => ?_, fun v rest hout hbuf => ?_⟩
  · intro e hsource hfetch hlate r all st'
    have hgo : ¬ (s.engineHeld b.hart = true ∨ b.outbound = true ∨ st.total ≤ st.done ∨ 64 ≤ st.buf.length ∨
        (s.core core).sourceWaits (s.hart b.hart).ctx e.1.toNat b.esize = true ∨ s.refetching e.2 = true ∨ s.engineLate b.hart e.2 = true) := by
      simp [hheld, hin, hleft, hroom, hsource, hfetch, hlate]
    have hall : st.list = ahead ++ p :: behind := by simp [Stream.list, hb, hlist]
    show execStreamElementFetch core port s = _
    simp only [execStreamElementFetch, hst, hb]
    refine (if_neg hgo).trans ?_
    have hdrop : (ahead ++ p :: behind).drop (ahead.length + 1) = behind := by simp
    simp only [hall, takeWhile_spent hahead hp, hdrop, List.drop_left, List.headD_cons]
    rfl
  · intro e hlate u st'
    show execStreamElementWrite core port s = _
    simp only [execStreamElementWrite, hst, hb, hbuf]
    refine (if_neg (by simp [hout, e, hlate])).trans ?_
    rfl

/-! Watermarks and scatter-adds (R169, R224, R226). -/

/-- R169, R224, R226: the advance, the notice and the scatter-add that the event names stand in their lists. -/
theorem homeEvents : Clause.HomeEvents := by
  refine fun s => ⟨fun i a ha hreached => ?_, fun core wm i e hfind he => ?_, fun i e he => ?_⟩
  · show execWatermarkAdvance i s = _
    simp only [execWatermarkAdvance, ha]
    exact if_neg (by simp [hreached])
  · intro u
    have hmark : s.notify.getD i (0, 0, 0) = e := by simp [List.getD, he]
    refine ⟨fun hcore => ?_, fun l hlaunch hl => ?_⟩
    · show execWatermarkNotify core wm s = _
      simp only [execWatermarkNotify, hfind, hmark]
      exact if_neg (by omega)
    · show execWatermarkNotify core wm s = _
      simp only [execWatermarkNotify, hfind, hmark]
      refine (if_pos hlaunch).trans ?_
      simp only [hl, Option.isNone_iff_eq_none]
      rfl
  · show execScatterAddPerform i s = _
    simp only [execScatterAddPerform, he]

end Sys2Proof.Machine

open Sys2Proof Sys2Proof.Machine

/-- Settles O51: the events of chunks and lines, of bank loads and copies, of streams, and at a home. -/
theorem engineEvents : Obligations.EngineEvents := ⟨chunkAndDataEvents, transferEvents, streamEvents, homeEvents⟩

end

section
/-! What memory traffic leaves of a hart beside what `HartKept` tells: it changes what others may see of the hart's lines, and may wake it, and
nothing else (spec/12 R280, R281; spec/14 R288-R301). -/

namespace Sys2Proof.Machine

/-- Traffic changes the foreign lines of a hart's chunk, its links, its monitor and its status alone. -/
def Hart.Aside (x y : Hart) : Prop := { y with chunk := x.chunk, links := x.links, monitor := x.monitor, status := x.status } = x

theorem Hart.Aside.refl (x : Hart) : x.Aside x := rfl

theorem Hart.Aside.trans {x y z : Hart} (h : x.Aside y) (g : y.Aside z) : x.Aside z := by
  unfold Hart.Aside at h g ⊢
  rw [← g] at h
  exact h

theorem Hart.Aside.stopAt {x y : Hart} (h : x.Aside y) : y.stopAt = x.stopAt := by have := congrArg Hart.stopAt h; exact this
theorem Hart.Aside.rowStop {x y : Hart} (h : x.Aside y) : y.rowStop = x.rowStop := by have := congrArg Hart.rowStop h; exact this

/-- What memory traffic leaves of every hart. -/
def Traffic (s t : State) : Prop := ∀ h, (s.hart h).Aside (t.hart h)

theorem Traffic.refl (s : State) : Traffic s s := fun _ => rfl
theorem Traffic.trans {s t u : State} (h : Traffic s t) (g : Traffic t u) : Traffic s u := fun k => (h k).trans (g k)

theorem Traffic.foldl {α : Type} {f : State → α → State} (hf : ∀ s a, Traffic s (f s a)) (l : List α) (s : State) :
    Traffic s (l.foldl f s) := by
  induction l generalizing s with
  | nil => exact Traffic.refl s
  | cons a l ih => exact (hf s a).trans (ih _)

theorem Traffic.onHarts (s : State) {g : Nat × Hart → Nat × Hart} (hg : ∀ e, (g e).1 = e.1 ∧ e.2.Aside (g e).2) :
    Traffic s { s with harts := s.harts.map g } := by
  intro h
  rcases mapFind?_map g Hart.Aside hg s.harts h with ⟨hs, ht⟩ | ⟨x, y, hs, ht, hxy⟩
  · simp only [State.hart, hs, ht]; exact Hart.Aside.refl _
  · simp only [State.hart, hs, ht]; exact hxy

theorem traffic_fireMonitors (s : State) (line : Nat) : Traffic s (s.fireMonitors line) := by
  refine Traffic.onHarts s fun e => ?_
  split
  · split <;> exact ⟨rfl, rfl⟩
  · exact ⟨rfl, rfl⟩

theorem traffic_noteChange (s : State) (k : Nat) (lines : List Nat) (h : Option Nat) : Traffic s (s.noteChange k lines h) := by
  refine Traffic.onHarts s fun e => ?_
  dsimp only
  split
  · split <;> exact ⟨rfl, rfl⟩
  · exact ⟨rfl, rfl⟩

theorem traffic_breakLinks (s : State) (k line : Nat) : Traffic s (s.breakLinks k line) := by
  refine Traffic.onHarts s fun e => ?_
  split <;> exact ⟨rfl, rfl⟩

theorem traffic_setCopy (s : State) (k line : Nat) (c : L2Line) : Traffic s (s.setCopy k line c) := fun _ => rfl

theorem traffic_homeNews (s : State) (k line : Nat) : Traffic s (s.homeNews k line) := by
  refine Traffic.foldl (fun s j => ?_) _ s
  split
  · exact Traffic.refl s
  · split
    · split <;> exact Traffic.refl s
    · exact traffic_noteChange _ _ _ _

theorem traffic_writeBack (s : State) (k line : Nat) : Traffic s (s.writeBack k line) := by
  unfold State.writeBack
  split
  · exact Traffic.refl s
  · split
    · exact Traffic.refl s
    · refine ((Traffic.foldl (fun s i => ?_) _ s).trans (traffic_setCopy _ k line _)).trans
        ((traffic_fireMonitors _ line).trans (traffic_homeNews _ k line))
      split <;> exact Traffic.refl s

theorem traffic_evict (s : State) (k line : Nat) : Traffic s (s.evict k line) := by
  have hback := traffic_writeBack s k line
  unfold State.evict
  dsimp only
  split
  · exact hback
  · have hbreak := hback.trans (traffic_breakLinks ((s.writeBack k line).dropCopy k line) k line)
    split
    · exact hbreak
    · exact hbreak.trans (traffic_noteChange _ _ _ _)

theorem traffic_touch (s : State) (k line : Nat) (ins : Insert) (counts : Bool) : Traffic s (s.touch k line ins counts) := by
  have hcount (b : Bool) : Traffic s (if counts then s.onCluster k (·.count line b) else s) := by
    split <;> exact Traffic.refl s
  unfold State.touch
  split
  · exact hcount true
  · have hmissed := hcount false
    generalize (if counts then s.onCluster k (·.count line false) else s) = u at hmissed ⊢
    dsimp only
    split
    · exact hmissed
    · refine hmissed.trans (Traffic.trans ?_ (traffic_setCopy _ k line _))
      split
      · exact traffic_evict (u.onCluster k _) _ _
      · exact Traffic.refl u

theorem traffic_touchAll (s : State) (k : Nat) (locs : List Nat) (ins : Insert) : Traffic s (s.touchAll k locs ins) :=
  Traffic.foldl (fun s l => traffic_touch s k l _ _) _ s

theorem traffic_translate {s t : State} {w : Who} {kind : Kind} {va : Word} {r : Tr} (h : s.translate w kind va = .ok (r, t)) :
    Traffic s t := by
  unfold State.translate at h
  split at h
  · cases h
  · split at h
    · cases h
    · dsimp only at h
      split at h
      · split at h
        · cases h
        · cases h; exact Traffic.refl s
      · split at h
        · cases h
        · split at h
          · cases h
          · cases h
            exact Traffic.foldl (fun s l => traffic_touch s _ l _ _) _ s

theorem traffic_locate {w : Who} {kind : Kind} {member : Nat} (fuel : Nat) {s t : State} {va : Word} {n : Nat} {acc a : Acc}
    (h : s.locate w kind member fuel va n acc = .ok (a, t)) : Traffic s t := by
  induction fuel generalizing s va n acc with
  | zero => simp only [State.locate] at h; cases h; exact Traffic.refl _
  | succ f ih =>
    rw [State.locate] at h
    split at h
    · cases h; exact Traffic.refl _
    · split at h
      · dsimp only at h
        split at h
        · exact ih h
        · cases h
      · split at h
        · cases h
        · next hr => exact (traffic_translate hr).trans (ih h)

theorem traffic_check {s t : State} {w : Who} {kind : Kind} {align member : Nat} {va : Word} {n : Nat} {a : Acc}
    (h : s.check w kind align member va n = .ok (a, t)) : Traffic s t := traffic_locate _ (check14_ok (check_ok h)).2

end Sys2Proof.Machine
end

section
/-! Proofs of the statement on vector memory operations (spec/07 R151-R170): what an element leaves of its hart, the loop over the elements, and
the operations that are performed in one action. -/

namespace Sys2Proof.Machine

/-! What an element that completes leaves of the executing hart. -/

/-- The two states agree on what may stop their executing hart, on the sphere it is in, and on the fields done of its record. -/
structure ElementKept (s t : State) : Prop where
  stops : StopsAlike s t
  group : t.me.group = s.me.group
  doneField : t.me.a.doneField = s.me.a.doneField

theorem ElementKept.refl (s : State) : ElementKept s s := ⟨StopsAlike.refl s, rfl, rfl⟩

theorem ElementKept.trans {s t u : State} (h : ElementKept s t) (g : ElementKept t u) : ElementKept s u :=
  ⟨h.stops.trans g.stops, g.group.trans h.group, g.doneField.trans h.doneField⟩

theorem ElementKept.onMe (s : State) {g : Hart → Hart}
    (hg : ∀ x, (g x).a = x.a ∧ (g x).stopAt = x.stopAt ∧ (g x).rowStop = x.rowStop ∧ (g x).group = x.group) : ElementKept s (s.onMe g) := by
  obtain ⟨ha, hstop, hrow, hgroup⟩ := hg s.me
  rw [onMe_eq]
  exact ⟨StopsAlike.setHart s (by rw [Hart.csr, Hart.csr, ha]) hstop hrow, by rw [me_setHart_self, hgroup], by rw [me_setHart_self, ha]⟩

theorem ElementKept.onChunk (s : State) (f : Chunk → Chunk) : ElementKept s (s.onChunk f) := ElementKept.onMe s fun _ => ⟨rfl, rfl, rfl, rfl⟩
theorem ElementKept.onCore (s : State) (k : Nat) (f : Core → Core) : ElementKept s (s.onCore k f) := ⟨⟨rfl, rfl, rfl, rfl, rfl⟩, rfl, rfl⟩
theorem ElementKept.atMember (s : State) (n : Nat) : ElementKept s { s with member := n } := ⟨⟨rfl, rfl, rfl, rfl, rfl⟩, rfl, rfl⟩
theorem ElementKept.onVf (s : State) (f : VecFile → VecFile) : ElementKept s (s.onVf f) :=
  ElementKept.onCore s (coreOf s.cur) fun k => { k with vf := f k.vf }
theorem ElementKept.orFlags (s : State) (f : Flags) : ElementKept s (s.orFlags f) :=
  ⟨StopsAlike.orFlags s f, by rw [orFlags_eq, me_setHart_self]; rfl, by rw [orFlags_eq, me_setHart_self]; rfl⟩

theorem ElementKept.ite {p : Prop} [Decidable p] {s t u : State} (ht : ElementKept s t) (hu : ElementKept s u) :
    ElementKept s (if p then t else u) := by
  split
  · exact ht
  · exact hu

theorem ElementKept.of_quiet {s t : State} (h : Quiet s t) (g : Traffic s t) : ElementKept s t := by
  have hme : s.me.Aside t.me := by have := g s.cur; rw [State.me, State.me, h.cur]; exact this
  have hreqs : t.pageReqs = s.pageReqs := by have := congrArg State.pageReqs h.rest; exact this
  exact ⟨⟨h.cur, hreqs, by rw [Hart.csr, Hart.csr, h.me.a], hme.stopAt, hme.rowStop⟩, h.me.group, by rw [h.me.a]⟩

theorem elementKept_check {s t : State} {w : Who} {kind : Kind} {align member : Nat} {va : Word} {n : Nat} {a : Acc}
    (h : s.check w kind align member va n = .ok (a, t)) : ElementKept s t := ElementKept.of_quiet (quiet_check h) (traffic_check h)

theorem elementKept_touchAll (s : State) (k : Nat) (locs : List Nat) (ins : Insert) : ElementKept s (s.touchAll k locs ins) :=
  ElementKept.of_quiet (quiet_touchAll s k locs ins) (traffic_touchAll s k locs ins)

theorem elementKept_bankAsk (s : State) (port : Nat) (later : Nat → Nat) (op : Nat → BankOp) (words : List Nat) :
    ElementKept s (s.bankAsk port later op words) := by
  unfold State.bankAsk
  induction words generalizing s with
  | nil => exact ElementKept.refl s
  | cons w ws ih => exact (ElementKept.onCore s _ _).trans (ih _)

theorem elementKept_countConflicts (s : State) (k n : Nat) : ElementKept s (s.countConflicts k n) :=
  ElementKept.ite (ElementKept.refl s) (ElementKept.onCore s k _)

theorem elementKept_readAcc (s : State) (a : Acc) (ins : Insert) (port : Nat) (later : Nat → Nat) (op : Nat → BankOp) :
    ElementKept s (s.readAcc a ins port later op).2 := by
  have hread := (elementKept_touchAll s (clusterOf s.cur) a.locs (a.insert ins)).trans
    (ElementKept.onChunk _ fun c => { c with reads := nub (linesOf (a.locs.filter isHbm) ++ c.reads) })
  unfold State.readAcc
  dsimp only
  split
  · exact hread.trans (elementKept_bankAsk _ _ _ _ _)
  · split
    · exact hread
    · exact hread.trans (elementKept_countConflicts _ _ _)

theorem elementKept_writeAcc (s : State) (a : Acc) (va : Word) (bs : List Byte) (ins : Insert) (port : Nat) (later : Nat → Nat)
    (keep : List Byte) : ElementKept s (s.writeAcc a va bs ins port later keep) := by
  have hbytes (u : State) (f : Chunk → Chunk) : ElementKept u ((u.onMe fun x => if x.lspOld.isEmpty then x else
      { x with lspOld := x.lspOld.filter fun e => decide (e.1 ∉ a.locs) }).onChunk f) := by
    refine (ElementKept.onMe u fun x => ?_).trans (ElementKept.onChunk _ f)
    split <;> exact ⟨rfl, rfl, rfl, rfl⟩
  refine (elementKept_touchAll s (clusterOf s.cur) a.locs (a.insert ins)).trans ?_
  unfold State.writeAcc
  dsimp only
  split
  · exact (elementKept_bankAsk _ _ _ _ _).trans (hbytes _ _)
  · exact hbytes _ _

section
variable {m : Member} {c : Cvy} {j i : Nat} {s t : State}

theorem elementKept_read {va : Word} {n : Nat} {d : Dst} {r : List Byte × Bool × State} (h : m.read c j i va n d s = .ok r) :
    ElementKept s r.2.2 := by
  unfold Member.read at h
  simp only [bind, Except.bind, pure, Except.pure] at h
  split at h
  · cases h
  · next hcheck =>
    cases h
    exact (elementKept_check hcheck).trans (elementKept_readAcc _ _ _ _ _ _)

theorem elementKept_store {va : Word} {n v keep : Nat} {h' : Bool} (h : m.store c j i va n v keep s = .ok (h', t)) : ElementKept s t := by
  unfold Member.store at h
  simp only [bind, Except.bind, pure, Except.pure] at h
  split at h
  · cases h
  · next hcheck =>
    cases h
    exact (elementKept_check hcheck).trans (elementKept_writeAcc _ _ _ _ _ _ _ _)

theorem elementKept_loadElem {h' : Bool} (h : m.loadElem c j i s = .ok (h', t)) : ElementKept s t := by
  unfold Member.loadElem at h
  simp only [bind, Except.bind, pure, Except.pure] at h
  split at h
  · cases h; exact ElementKept.ite (ElementKept.onVf _ _) (ElementKept.refl s)
  · split at h
    · cases h; exact ElementKept.onVf _ _
    · split at h
      · cases h
      · next hread =>
        cases h
        exact (elementKept_read hread).trans (ElementKept.onVf _ _)

theorem elementKept_storeElem {h' : Bool} (h : m.storeElem c j i s = .ok (h', t)) : ElementKept s t := by
  unfold Member.storeElem at h
  split at h
  · dsimp only at h
    split at h
    · exact elementKept_store h
    · exact elementKept_store h
  · cases h; exact ElementKept.refl s

theorem elementKept_loadBlock {h' : Bool} (h : m.loadBlock c j i s = .ok (h', t)) : ElementKept s t := by
  unfold Member.loadBlock at h
  simp only [bind, Except.bind, pure, Except.pure] at h
  split at h
  · cases h; exact ElementKept.onVf _ _
  · split at h
    · cases h
    · next hread =>
      cases h
      exact (elementKept_read hread).trans (ElementKept.onVf _ _)

theorem elementKept_storeBlock {h' : Bool} (h : m.storeBlock c j i s = .ok (h', t)) : ElementKept s t := by
  unfold Member.storeBlock at h
  split at h
  · cases h; exact ElementKept.refl s
  · exact elementKept_store h

/-- A block under an SX type, an element under another (R157). -/
theorem elementKept_storeUnit {h' : Bool} (h : (if c.t.isSx then m.storeBlock c j i s else m.storeElem c j i s) = .ok (h', t)) :
    ElementKept s t := by
  split at h
  · exact elementKept_storeBlock h
  · exact elementKept_storeElem h

theorem elementKept_wordElem {h' : Bool} (h : m.wordElem c j i s = .ok (h', t)) : ElementKept s t := by
  unfold Member.wordElem at h
  simp only [bind, Except.bind, pure, Except.pure] at h
  split at h
  · split at h
    · cases h
    · next hread =>
      cases h
      exact (elementKept_read hread).trans (ElementKept.onVf _ _)
  · exact elementKept_store h

theorem elementKept_segElem (n f : Nat) (b : Bool) {h' : Bool} (h : m.segElem c j i n f b s = .ok (h', t)) : ElementKept s t := by
  induction n generalizing f b s with
  | zero => cases h; exact ElementKept.refl _
  | succ n ih =>
    rw [Member.segElem] at h
    dsimp only at h
    split at h
    · split at h
      · exact (ElementKept.ite (ElementKept.onVf s _) (ElementKept.refl s)).trans (ih _ _ h)
      · split at h
        · exact (ElementKept.onVf _ _).trans (ih _ _ h)
        · split at h
          · cases h
          · next hread => exact (elementKept_read hread).trans ((ElementKept.onVf _ _).trans (ih _ _ h))
    · split at h
      · split at h
        · cases h
        · next hstore => exact (elementKept_store hstore).trans (ih _ _ h)
      · cases h; exact ElementKept.refl _

/-- An unreplicated hart takes a stream element from its port: the pop is counted in its chunk (R219). -/
theorem popStream_ok {n esize : Nat} {glob : Bool} {deliver : Nat → State → Res} (hg : s.me.group = none)
    (h : s.popStream j n esize glob deliver = .ok t) : ∃ v f, deliver v (s.onChunk f) = .ok t := by
  unfold State.popStream at h
  dsimp only at h
  split at h
  · cases h
  · rw [if_neg (by simp [hg])] at h
    split at h
    · cases h
    · exact ⟨_, _, h⟩

theorem elementKept_popElem {h' : Bool} (hg : s.me.group = none) (h : m.popElem c j i s = .ok (h', t)) : ElementKept s t := by
  unfold Member.popElem at h
  dsimp only at h
  split at h
  · cases h
    exact ElementKept.ite (ElementKept.onVf _ _) (ElementKept.ite (ElementKept.onVf _ _) (ElementKept.refl s))
  · split at h
    · cases h
    · split at h
      · cases h
      · split at h
        · cases h
        · next hpop =>
          cases h
          obtain ⟨v, f, hd⟩ := popStream_ok hg hpop
          cases hd
          exact (ElementKept.onChunk s f).trans
            (ElementKept.ite (ElementKept.onVf _ _) (ElementKept.ite (ElementKept.onVf _ _) (ElementKept.refl _)))

/-- An element of a memory member that completes. -/
theorem elementKept_memElem {h' : Bool} (hg : s.me.group = none) (h : m.memElem c j i s = .ok (h', t)) : ElementKept s t := by
  unfold Member.memElem at h
  split at h
  · exact elementKept_popElem hg h
  · exact elementKept_wordElem h
  · exact elementKept_wordElem h
  · split at h
    · cases h
    · exact elementKept_segElem _ _ _ h
  · split at h
    · cases h
    · exact elementKept_segElem _ _ _ h
  · exact elementKept_storeUnit h
  · exact elementKept_storeUnit h
  · exact elementKept_storeUnit h
  · split at h
    · exact elementKept_loadBlock h
    · exact elementKept_loadElem h

end

/-! The loop over the elements of a memory member (R50, R161, R164). -/

theorem walks_cons {m : Member} {c : Cvy} {i : Nat} {is : List Nat} {s u : State} (h : m.walks c (i :: is) s = some u) :
    ∃ v, m.memElem c 0 i { s with member := 0 } = .ok (false, v) ∧ m.walks c is (v.orFlags 0) = some u := by
  rw [Member.walks] at h
  split at h
  · next v hv => exact ⟨v, hv, h⟩
  · cases h

/-- No transfer of elements is performed as a whole. -/
theorem isWhole_transfer (op : Vop) : op.unit = 3 → op ∉ [Vop.vlgl, .vssc] → Vop.isWhole op = false := by
  cases op <;> decide

section
variable {m : Member} (hu : m.op.unit = 3) (hop : m.op ∉ [Vop.vlgl, .vssc, .vsxadd])
include hop

theorem op_ne_transfer : m.op ≠ .vlgl ∧ m.op ≠ .vssc ∧ m.op ≠ .vsxadd := by simpa using hop

include hu
variable {c : Cvy} (hms : c.ms = [m])
include hms

theorem element_memory {i : Nat} {s v : State} (h : m.memElem c 0 i { s with member := 0 } = .ok (false, v)) :
    c.element i 0 c.ms 0 false s = .ok (false, 0, v) := by
  rw [hms, Cvy.element, if_pos hu, if_neg (op_ne_transfer hop).2.2, h]
  rfl

/-- The loop over elements that all complete outside host-shared pages ends with them, and asks for no page. -/
theorem loop_walks (collect : Bool) (is : List Nat) {r : Run} {u : State} (hs : r.s.unstopped = true) (hg : r.s.me.group = none)
    (hd : r.s.me.a.doneField = 0) (hstop : r.stop = none) (h : m.walks c is r.s = some u) :
    (c.loop collect is r).s = u ∧ (c.loop collect is r).stop = none ∧ (c.loop collect is r).reqs = r.reqs := by
  induction is generalizing r with
  | nil => exact ⟨Option.some.inj h, hstop, rfl⟩
  | cons i is ih =>
    obtain ⟨v, hv, hrest⟩ := walks_cons h
    have hkept : ElementKept r.s (v.orFlags 0) :=
      ((ElementKept.atMember r.s 0).trans (elementKept_memElem hg hv)).trans (ElementKept.orFlags v 0)
    have hstep : c.loop collect (i :: is) r = c.loop collect is (c.took i r (v.orFlags 0)) := by
      rw [Cvy.loop]
      simp only [unstopped_stopsAt hs, unstopped_failedReq hs, hd, ite_self, Nat.lt_irrefl, Bool.false_eq_true, if_false]
      rw [element_memory hu hop hms hv]
    rw [hstep]
    exact ih (hkept.stops.unstopped hs) (hkept.group.trans hg) (hkept.doneField.trans hd) hstop hrest

theorem run_walks {s u : State} (hs : s.unstopped = true) (hg : s.me.group = none) (hmask : s.me.a.doneMask = 0)
    (hd : s.me.a.doneField = 0) (h : m.walks c (c.elems 0) s = some u) : c.run s = .ok (c.complete c.vl u) := by
  have hbits : c.doneBits s = 0 := by rw [Cvy.doneBits, hmask, ite_self]
  obtain ⟨hs', hstop, hreqs⟩ := loop_walks hu hop hms (Vop.pagesAtOnce m.op) (c.elems 0) (r := Run.start s 0) hs hg hd rfl h
  unfold Cvy.run
  simp only [hms, hbits, ite_self]
  rw [settle_completed c hreqs hstop, hs']

theorem exec_walks {s u : State} (hs : s.unstopped = true) (hg : s.me.group = none) (hmask : s.me.a.doneMask = 0)
    (hd : s.me.a.doneField = 0) (h : m.walks c (c.elems 0) s = some u) : c.exec s = .ok (c.complete c.vl u) := by
  obtain ⟨hvlgl, hvssc, hvsxadd⟩ := op_ne_transfer hop
  have hwhole := isWhole_transfer m.op hu (by simp [hvlgl, hvssc])
  have h6 : m.op.unit ≠ 6 := by omega
  have h7 : m.op.unit ≠ 7 := by omega
  unfold Cvy.exec
  rw [hms]
  dsimp only
  rw [if_neg hvsxadd, if_neg hvlgl, if_neg hvssc, if_neg h6, if_neg h7, if_neg (by simp [hwhole])]
  exact run_walks hu hop hms hs hg hmask hd h

end

/-! A vector word as an instruction of a hart between two chunks, whatever the shape of its operation (R48-R50, R69). -/

theorem filterMap_of_membersOf {hdr : BitVec 32} {words : List Word} {ms : List Member} (h : membersOf hdr words = ms.map some) :
    words.zipIdx.filterMap (fun (e : Word × Nat) => Member.ofWord e.1 (headerUnit hdr e.2)) = ms := by
  have := congrArg (List.filterMap id) h
  simpa [membersOf, List.filterMap_map] using this

section
variable {op : Vop} {w : VWord} {s v : State} {sh : Shape}

theorem checkConvoy_word (own : Bool) (hready : s.vectorReady op w = true) :
    (s.openChunk own).checkConvoy (headerOf op) [w.bits (BitVec.ofNat 8 op.code)] =
      .ok { (s.openChunk own).convoy (headerOf op) [memberOf op w] with sched := [] } := by
  simp only [State.vectorReady, Bool.and_eq_true, decide_eq_true_eq] at hready
  obtain ⟨⟨⟨⟨hvop, hpc⟩, ho⟩, hok⟩, -⟩ := hready
  refine checkConvoy_ok ?_ ?_ ?_ (membersOf_headerOf hvop)
  · rw [openChunk_pc]; exact headerOk_headerOf op hpc
  · rw [openChunk_owns]; exact ho
  · rw [openChunk_wrongMember]; exact wrongMember_headerOf hvop hok

theorem checkStreams_single {c : Cvy} {m : Member} {b : State} (h : m.op = .vlst → m.checkStream c 0 b = .ok ()) :
    c.checkStreams b 0 [m] = .ok () := by
  rw [Cvy.checkStreams]
  split
  · next hif =>
    split at hif
    · next hop => rw [h hop] at hif; cases hif
    · cases hif
  · rfl

theorem bind_of_ok {α β : Type} {x : Except Exc α} {f : α → Except Exc β} {a : α} {r : Except Exc β} (hx : x = .ok a) (hf : f a = r) :
    x >>= f = r := by
  rw [hx]
  exact hf

/-- A vector word whose effect completes. -/
theorem exec_word_completes (hs : s.solo = true) (hready : s.vectorReady op w = true) (hshape : convoyShape s [memberOf op w] = sh)
    (hstream : op = .vlst → (memberOf op w).checkStream ((s.openChunk sh.own).convoy (headerOf op) [memberOf op w]) 0 (s.openChunk sh.own) = .ok ())
    (hexec : ((s.openChunk sh.own).convoy (headerOf op) [memberOf op w]).exec ((s.openChunk sh.own).noting [memberOf op w]) = .ok v)
    (hn : sh.n = 2) :
    exec (vopInstr op w) s =
      .next (v.wrapUp (s.openChunk sh.own) ((s.openChunk sh.own).convoy (headerOf op) [memberOf op w]) sh.after) := by
  have hcheck := checkConvoy_word sh.own hready
  have hstreams : ({ (s.openChunk sh.own).convoy (headerOf op) [memberOf op w] with sched := [] } : Cvy).checkStreams (s.openChunk sh.own) 0
      [memberOf op w] = .ok () := checkStreams_single hstream
  simp only [State.vectorReady, Bool.and_eq_true, decide_eq_true_eq] at hready
  obtain ⟨⟨⟨⟨hvop, -⟩, -⟩, -⟩, hidle⟩ := hready
  have hvec := vectorIdle_vecReady ((openChunk_vectorIdle s sh.own).trans hidle)
  have hgood := filterMap_of_membersOf (membersOf_headerOf hvop)
  rw [exec_vopInstr, State.runMember, if_pos hvop]
  refine congrArg Host.Outcome.next ?_
  show s.runConvoy (headerOf op) _ = _
  unfold State.runConvoy
  simp only [hgood, hshape]
  refine (run_completes hs (u := ((s.openChunk sh.own).convoy (headerOf op) [memberOf op w]).wrote v) ?_).trans ?_
  · exact bind_of_ok hcheck (bind_of_ok (hvec _ _) (bind_of_ok hstreams (bind_of_ok hexec rfl)))
  · have hwrap (u : State) (pc : Word) : u.finish sh pc = u.finish { before := false, after := sh.after, own := false, n := 2 } pc := by
      rw [← hn]; rfl
    rw [hwrap, ← openChunk_pc s sh.own]
    rfl

end

/-- A memory word but for VSSC and VSXADD ends no chunk. -/
theorem convoyShape_transfer (s : State) {m : Member} (hu : m.op.unit = 3) (hssc : m.op ≠ .vssc) (hadd : m.op ≠ .vsxadd) :
    convoyShape s [m] = { Shape.plain with n := 2 } := by
  unfold convoyShape
  dsimp only
  split
  case h_11 h => exact absurd h hssc
  case h_12 h => exact absurd h hadd
  case h_13 => rw [if_neg (by omega)]; rfl
  all_goals next h => rw [h] at hu; exact absurd hu (by decide)

/-! What a chunk opened for a convoy leaves of the hart. -/

theorem noting_unstopped {s : State} (own : Bool) (ms : List Member) (hs : s.unstopped = true) :
    ((s.openChunk own).noting ms).unstopped = true :=
  ((StopsAlike.openChunk s own).trans (StopsAlike.onChunk _ _)).unstopped hs

theorem noting_me (s : State) (own : Bool) (ms : List Member) :
    ((s.openChunk own).noting ms).me.a = s.me.a ∧ ((s.openChunk own).noting ms).me.group = s.me.group ∧
      ((s.openChunk own).noting ms).me.scatter = s.me.scatter := by
  have hopen := (HartOnly.openChunk s own).me
  rw [State.noting]
  rw [State.onChunk, onMe_eq, me_setHart_self, hopen]
  exact ⟨rfl, rfl, rfl⟩

section
variable {m : Member} {c : Cvy} (hms : c.ms = [m])
include hms

theorem exec_vlgl (hop : m.op = .vlgl) (s : State) : c.exec s = (m.vlgl c s).map c.advance := by
  simp [Cvy.exec, hms, hop]
theorem exec_vssc (hop : m.op = .vssc) (s : State) : c.exec s = (m.vssc c s).map c.advance := by
  simp [Cvy.exec, hms, hop]
theorem exec_vsxadd (hop : m.op = .vsxadd) (s : State) : c.exec s = c.vsxadd s := by
  simp [Cvy.exec, hms, hop]

end

/-! Gather-linked and scatter-conditional (R167, R168). -/

/-- Links set by loads that pass their checks, and the group as loaded. -/
theorem vlgl_completes {m : Member} {c : Cvy} {s u : State} (hg : s.me.group = none)
    (h : m.gatherLinked c c.vl 0 (s.onMe fun x => { x with links := [] }) = .ok u) :
    m.vlgl c s = .ok (u.onVf fun f => f.setWords m.w.vd.toNat ((m.finish c c.vl u.vf).words m.w.vd.toNat c.t.regs)) :=
  forwarded_ok hg (bind_of_ok h rfl)

/-- The first n words of a mask make up its bits below 64 n. -/
theorem getLsbD_join_pieces (mask : BitVec 4096) {i : Nat} (hi : i < 4096) (n : Nat) :
    (((List.range n).map fun k => (mask >>> (64 * k)).setWidth 64).zipIdx.foldl
      (fun (a : BitVec 4096) (e : Word × Nat) => a ||| (e.1.setWidth 4096) <<< (64 * e.2)) (0#4096)).getLsbD i =
      (decide (i < 64 * n) && mask.getLsbD i) := by
  induction n with
  | zero => simp
  | succ n ih =>
    rw [List.range_succ, List.map_append, List.zipIdx_append, List.foldl_append]
    simp only [List.map_cons, List.map_nil, List.zipIdx_cons, List.zipIdx_nil, List.foldl_cons, List.foldl_nil, BitVec.getLsbD_or, ih,
      List.length_map, List.length_range, Nat.zero_add, BitVec.getLsbD_shiftLeft, BitVec.getLsbD_setWidth, BitVec.getLsbD_ushiftRight]
    by_cases hlow : i < 64 * n
    · simp [hlow, show i < 64 * (n + 1) by omega]
    · have hplace : 64 * n + (i - 64 * n) = i := by omega
      have hpiece : i - 64 * n < 64 ↔ i < 64 * (n + 1) := by omega
      simp [hlow, hi, hplace, hpiece, show i - 64 * n < 4096 by omega]

/-- The success mask that the lead forwards is the one it found (R168). -/
theorem join_pieces (mask : BitVec 4096) :
    ((List.range 64).map fun k => (mask >>> (64 * k)).setWidth 64).zipIdx.foldl
      (fun (a : BitVec 4096) (e : Word × Nat) => a ||| (e.1.setWidth 4096) <<< (64 * e.2)) (0#4096) = mask := by
  refine BitVec.eq_of_getLsbD_eq fun i hi => ?_
  rw [getLsbD_join_pieces mask hi, decide_eq_true (show i < 64 * 64 from hi), Bool.true_and]

theorem onMe_links_twice (s : State) : ((s.onMe fun x => { x with links := [] }).onMe fun x => { x with links := [] }) =
    s.onMe fun x => { x with links := [] } := by
  simp only [onMe_eq, setHart_cur, me_setHart_self, setHart_setHart]

/-- The candidates of VSSC whose lines are still linked, and the bytes that they store. -/
def State.linkedHits (u : State) (cs : List (Nat × List Nat)) : List (Nat × List Nat) :=
  cs.filter fun e => decide (lineOf (e.2.headD 0) ∈ u.me.links)
def Member.hitBytes (m : Member) (c : Cvy) (u : State) (cs : List (Nat × List Nat)) : List (Nat × Byte) :=
  (u.linkedHits cs).flatMap fun e => e.2.zip (leBytes (m.size c e.1) (u.vf.elem m.w.vd.toNat c.t.w e.1))
/-- The state in which these bytes are stored. -/
def Member.scattered (m : Member) (c : Cvy) (u : State) (bytes : List (Nat × Byte)) : State :=
  let t := u.touchAll (clusterOf u.cur) (bytes.map Prod.fst) (m.insert c u)
  t.commitBytes t.cur (t.hartMark t.cur) (bytes.foldl (fun q e => mapPut q e.1 e.2) []) []

/-- VSSC stores where no other chunk of the cluster holds a line that it writes. -/
theorem vssc_completes {m : Member} {c : Cvy} {s u : State} {cs : List (Nat × List Nat)} (hg : s.me.group = none)
    (h : m.scCandidates c c.vl 0 s = .ok (cs, u))
    (hfree : meets (linesOf ((m.hitBytes c u cs).map Prod.fst)) (u.heldLines (clusterOf u.cur) (some u.cur)) = false) :
    m.vssc c s = .ok (((m.scattered c u (m.hitBytes c u cs)).onMe fun x => { x with links := [] }).onVf fun f =>
      f.setMreg m.w.vs1.toNat ((u.linkedHits cs).foldl (fun q e => q ||| (1#4096) <<< e.1) 0)) := by
  refine (forwarded_ok hg (bind_of_ok h ((if_neg (by simpa [Member.hitBytes, State.linkedHits] using hfree)).trans rfl))).trans ?_
  dsimp only
  rw [join_pieces, onMe_links_twice]
  rfl

/-! Scatter-adds (R169). -/

theorem loop_nil (c : Cvy) (collect : Bool) (r : Run) : c.loop collect [] r = r := by rw [Cvy.loop]

/-- The additions of a VSXADD that has none left to send and none under way: it hands on their flags. -/
theorem scatter_done {c : Cvy} {s : State} (hun : s.unstopped = true) (hsent : c.elems (c.doneBits s) = [])
    (hleft : (s.me.scatter.getD (0, [])).1 = 0) :
    c.scatter s = .ok ([0, (flagsOf (s.me.scatter.getD (0, [])).2).setWidth 64, 4096], s.onMe fun x => { x with scatter := none }) := by
  have hquiet : ((s.me.scatter.getD (0, [])).2.filter fun e => s.trapsOn e.2) = [] := by simp [unstopped_trapsOn hun]
  simp only [Cvy.scatter, hsent, loop_nil, Run.start, List.isEmpty_nil, hleft, hquiet]
  rfl

/-- Such a VSXADD raises the flags and completes. -/
theorem vsxadd_done {c : Cvy} {s : State} (hun : s.unstopped = true) (hg : s.me.group = none) (hsent : c.elems (c.doneBits s) = [])
    (hleft : (s.me.scatter.getD (0, [])).1 = 0) :
    c.vsxadd s = .ok ((c.complete c.vl (s.onMe fun x => { x with scatter := none })).orFlags (flagsOf (s.me.scatter.getD (0, [])).2)) := by
  have hun' : (s.onMe fun x => { x with scatter := none }).unstopped = true :=
    (ElementKept.onMe s (g := fun x => { x with scatter := none }) fun _ => ⟨rfl, rfl, rfl, rfl⟩).stops.unstopped hun
  refine (forwarded_ok hg (scatter_done hun hsent hleft)).trans ?_
  have hflags : ((flagsOf (s.me.scatter.getD (0, [])).2).setWidth 64).setWidth 6 = flagsOf (s.me.scatter.getD (0, [])).2 :=
    BitVec.setWidth_setWidth_of_le _ (by decide)
  simp only [List.headD_cons, List.getD_cons_succ, List.getD_cons_zero, hflags, if_true, unstopped_trapsOn hun', Bool.false_eq_true, if_false]

end Sys2Proof.Machine

open Sys2Proof Sys2Proof.Machine

/-- R151-R166, R170: the loop over the elements of a memory word that nothing stops. -/
theorem elementTransfers : Clause.ElementTransfers := by
  intro op w s u hu hop hs hready hun hmask hfield b m c hstream hwalks
  obtain ⟨ha, hg, -⟩ := noting_me s false [m]
  obtain ⟨-, hssc, hadd⟩ := op_ne_transfer (m := m) hop
  have hexec : c.exec (b.noting [m]) = .ok (c.complete c.vl u) :=
    exec_walks (m := m) hu hop rfl (noting_unstopped false [m] hun) (hg.trans (solo_group hs)) ((congrArg _ ha).trans hmask)
      ((congrArg _ ha).trans hfield) hwalks
  exact exec_word_completes (sh := { Shape.plain with n := 2 }) hs hready (convoyShape_transfer s hu hssc hadd) hstream hexec rfl

/-- R167, R168: VLGL and VSSC in one action of an unreplicated hart. -/
theorem linkedTransfers : Clause.LinkedTransfers := by
  intro w s hs hun
  constructor
  · intro hready b m c u hload
    obtain ⟨-, hg, -⟩ := noting_me s false [m]
    have hexec := (exec_vlgl rfl rfl _).trans (congrArg (Except.map c.advance) (vlgl_completes (m := m) (hg.trans (solo_group hs)) hload))
    have hshape : convoyShape s [m] = { Shape.plain with n := 2 } := convoyShape_transfer s (show Vop.unit .vlgl = 3 by decide) nofun nofun
    exact exec_word_completes (op := .vlgl) (sh := { Shape.plain with n := 2 }) hs hready hshape nofun hexec rfl
  · intro hready b m c cs u hcand hits bytes t v hfree
    obtain ⟨-, hg, -⟩ := noting_me s true [m]
    have hexec := (exec_vssc rfl rfl _).trans (congrArg (Except.map c.advance) (vssc_completes (m := m) (hg.trans (solo_group hs)) hcand hfree))
    exact exec_word_completes (op := .vssc) (sh := { before := true, after := true, own := true, n := 2 }) hs hready rfl
      nofun hexec rfl

/-- R169: no addition is left to send or under way. -/
theorem scatterAdds : Clause.ScatterAdds := by
  intro w s hs hun hready b m c hsent hleft
  obtain ⟨ha, hg, hscatter⟩ := noting_me s true [m]
  have hbits : c.doneBits (b.noting [m]) = c.doneBits b := by rw [Cvy.doneBits, Cvy.doneBits, ha, a_openChunk]
  have hdone := vsxadd_done (c := c) (noting_unstopped true [m] hun) (hg.trans (solo_group hs)) (hbits ▸ hsent) (hscatter ▸ hleft)
  rw [hscatter] at hdone
  exact exec_word_completes (op := .vsxadd) (sh := { before := true, after := true, own := true, n := 2 }) hs hready rfl
    nofun ((exec_vsxadd (m := m) rfl rfl _).trans hdone) rfl

/-- Settles O47: transfers element by element, the linked ones in one action, scatter-adds once they are done. -/
theorem vectorMemoryForms : Obligations.VectorMemoryForms := ⟨elementTransfers, linkedTransfers, scatterAdds⟩

end

section
/-! Proofs of the clauses on matrix operations that complete in one action (spec/08 R176-R195). -/

namespace Sys2Proof.Machine

/-! A matrix word as an instruction (R52, R69). -/

/-- The convoy of one word as it executes, and the state in which it does: a chunk is open that notes its destinations. -/
abbrev State.wordConvoy (s : State) (op : Vop) (w : VWord) : Cvy := (s.openChunk false).convoy (headerOf op) [memberOf op w]
abbrev State.wordState (s : State) (op : Vop) (w : VWord) : State := (s.openChunk false).noting [memberOf op w]

theorem matrix_cases {op : Vop} (hu : op.unit = 6) : op ∈ [Vop.mxtr, .mbld, .mbinv, .mma, .mmas, .mzero, .mxtrz, .mcens, .mscl] := by
  revert hu
  cases op <;> decide

/-- A matrix word ends its chunk, but for MXTR (R52). -/
theorem convoyShape_matrix (s : State) {m : Member} (hu : m.op.unit = 6) :
    ∃ before, convoyShape s [m] = { before := before, after := decide (m.op ≠ .mxtr), own := false, n := 2 } := by
  obtain ⟨word, op, w⟩ := m
  have hop := matrix_cases hu
  simp only [List.mem_cons, List.not_mem_nil, or_false] at hop
  rcases hop with rfl | hends
  · exact ⟨false, if_neg (show ¬ Vop.unit .mxtr = 7 by decide)⟩
  · refine ⟨s.chunkBusy, ?_⟩
    rcases hends with rfl | rfl | rfl | rfl | rfl | rfl | rfl | rfl <;> rfl

theorem exec_matrix {m : Member} {c : Cvy} (hms : c.ms = [m]) (hu : m.op.unit = 6) (s : State) :
    c.exec s = (m.matrix c s).map c.advance := by
  have hne {op : Vop} (h : op.unit ≠ 6) : m.op ≠ op := fun e => h (e ▸ hu)
  unfold Cvy.exec
  rw [hms]
  dsimp only
  rw [if_neg (hne (by decide)), if_neg (hne (by decide)), if_neg (hne (by decide)), if_pos hu]

/-- A matrix word whose effect completes with `v`. -/
theorem exec_matrixWord {op : Vop} {w : VWord} {s v : State} (hu : op.unit = 6) (hs : s.solo = true) (hready : s.vectorReady op w = true)
    (hv : (memberOf op w).matrix (s.wordConvoy op w) (s.wordState op w) = .ok v) :
    exec (vopInstr op w) s =
      .next (((s.wordConvoy op w).advance v).wrapUp (s.openChunk false) (s.wordConvoy op w) (decide (op ≠ .mxtr))) := by
  obtain ⟨before, hshape⟩ := convoyShape_matrix s (m := memberOf op w) hu
  have hstream : op ≠ .vlst := fun e => absurd (e ▸ hu) (by decide)
  exact exec_word_completes (sh := { before := before, after := decide (op ≠ .mxtr), own := false, n := 2 }) hs hready hshape
    (fun h => absurd h hstream) ((exec_matrix rfl hu _).trans (congrArg (Except.map _) hv)) rfl

theorem noting_x (s : State) (ms : List Member) (r : Reg) : ((s.openChunk false).noting ms).x r = s.x r := by
  obtain ⟨ha, -, -⟩ := noting_me s false ms
  show Hart.x _ r = Hart.x _ r
  rw [Hart.x, Hart.x, ha]

theorem noting_myCore (s : State) (ms : List Member) : ((s.openChunk false).noting ms).myCore = s.myCore := by
  have h := HartOnly.openChunk s false
  have hcore : (s.openChunk false).myCore = s.myCore := by rw [State.myCore, h.core, h.cur]; rfl
  exact hcore

end Sys2Proof.Machine

open Sys2Proof Sys2Proof.Machine

/-- R176, R181, R190, R193, R195: each operation on the matrix registers is its arm of the matrix unit. -/
theorem matrixRegisters : Clause.MatrixRegisters := by
  intro op w s hs hready b m c v goes
  refine ⟨?_, ?_, ?_, ?_⟩
  · rintro rfl
    exact exec_matrixWord (by decide) hs hready rfl
  · rintro rfl
    exact exec_matrixWord (by decide) hs hready rfl
  · rintro rfl
    have hx : v.x w.vs3 = s.x w.vs3 := noting_x s [m] w.vs3
    rw [← hx]
    exact exec_matrixWord (by decide) hs hready rfl
  · rintro rfl
    intro reg u
    have hcens : m.mcens v = if w.imm.toNat % 2 = 1 then u.onMyCore fun k => { k with census := [] } else u := by
      have hcore : v.myCore = s.myCore := noting_myCore s [m]
      rw [Member.mcens, hcore]
      rfl
    rw [← hcens]
    exact exec_matrixWord (by decide) hs hready rfl

/-- R177-R179: a tile whose columns pass their checks. -/
theorem tileLoads : Clause.TileLoads := by
  intro w s u as e hs hready b m c first n code shape st base k cols colb hshape hlocs v hfree
  refine exec_matrixWord (op := .mbld) (by decide) hs hready ?_
  have hx (r : Reg) : (b.noting [m]).x r = s.x r := noting_x s [m] r
  show m.mbld c (b.noting [m]) = _
  rw [Member.mbld]
  dsimp only
  have hlegal : tileOk (typeOfCode (m.w.imm.toNat % 32)) (s.x m.w.vs1) (s.x m.w.vs3) (s.x m.w.vs2) (m.w.imm.toNat / 32 % 4 + 1) = true := hshape
  rw [hx, hx, hx, hlegal]
  refine bind_of_ok hlocs ?_
  dsimp only
  split
  next hnone => cases hnone.symm.trans hfree
  next e' hsome =>
    obtain rfl := Option.some.inj (hsome.symm.trans hfree)
    rfl

end

section
/-! The products and extractions complete where nothing stops the hart (spec/08 R185, R187, R191, R192). -/

namespace Sys2Proof.Machine

theorem unstopped_rowStop {s : State} (h : s.unstopped = true) (r : Nat) : s.me.rowStop ≠ some r := by
  obtain ⟨-, -, hrow, -⟩ := unstopped_iff.mp h
  rw [hrow]
  exact nofun

/-- A row written where no flag traps and no event stops the hart (R185, R187). -/
def Member.writeRow (m : Member) (c : Cvy) (s : State) (r : Nat) (p : BitVec 12288 × Flags × List Nat) (extra : Flags) : State :=
  ((s.onVf fun f => { f with acc := mapSet 0 f.acc (16 * m.w.vd.toNat + r) p.1 }).countCensus (censusEntry (c.memberPc 0)) p.2.2).orFlags
    (p.2.1 ||| extra)

theorem StopsAlike.writeRow (m : Member) (c : Cvy) (s : State) (r : Nat) (p : BitVec 12288 × Flags × List Nat) (extra : Flags) :
    StopsAlike s (m.writeRow c s r p extra) :=
  ((StopsAlike.onVf s _).trans (StopsAlike.countCensus _ _ _)).trans (StopsAlike.orFlags _ _)

theorem rows_succ (m : Member) (c : Cvy) (tile : BitVec 256) (sc n r : Nat) (extra : Flags) {s : State} (hs : s.unstopped = true) :
    m.rows c tile sc (n + 1) r extra s = m.rows c tile sc n (r + 1) 0 (m.writeRow c s r (m.accRow c s.myCore tile sc r) extra) := by
  rw [Member.rows]
  simp only [unstopped_stopsAt hs, unstopped_trapsOn hs, unstopped_rowStop hs, Bool.false_eq_true, if_false]
  rfl

theorem rows_completes (m : Member) (c : Cvy) (tile : BitVec 256) (sc n r : Nat) (extra : Flags) {s : State} (hs : s.unstopped = true) :
    ∃ u, m.rows c tile sc n r extra s = .ok u := by
  induction n generalizing r extra s with
  | zero => exact ⟨s, rfl⟩
  | succ n ih =>
    rw [rows_succ m c tile sc n r extra hs]
    exact ih _ _ ((StopsAlike.writeRow m c s r _ extra).unstopped hs)

/-- A product with a loaded tile is its rows (R185). -/
theorem mma_loaded {m : Member} {c : Cvy} {tile : BitVec 256} {s : State} (hrec : m.mmaRec c s = .ok tile) (hloaded : recLoaded tile = true) :
    m.mma c s = m.rows c tile (m.scale s.vf).1 ((s.x m.w.vs3).toNat - c.vstart) c.vstart (m.scale s.vf).2 s := by
  refine bind_of_ok hrec (bind_of_ok (a := s) ?_ rfl)
  rw [tileReady]
  exact if_pos hloaded

theorem extractFrom_completes (m : Member) (c : Cvy) (row c0 n i : Nat) {s : State} (hs : s.unstopped = true) :
    ∃ u, m.extractFrom c row c0 n i s = .ok u := by
  induction n generalizing i s with
  | zero => exact ⟨s, rfl⟩
  | succ n ih =>
    have hzero (t : State) (len : Nat) (ht : StopsAlike s t) : (if m.op = .mxtrz then t.onVf fun f => (List.range len).foldl
        (fun f k => f.accZero m.w.vs1.toNat row (c0 + i + k)) f else t).unstopped = true := by
      split
      · exact (ht.trans (StopsAlike.onVf t _)).unstopped hs
      · exact ht.unstopped hs
    rw [Member.extractFrom]
    dsimp only
    split
    · obtain ⟨t, ht, hst⟩ := packBlock_completes (m := m) (c := c) (i / 16) ((List.range 16).map fun e =>
        if c.real ≤ i + e ∨ m.active s.vf (i + e) = false then FVal.zero false
        else f32.value (s.vf.accAt m.w.vs1.toNat row (c0 + i + e))) (fun e => m.active s.vf (i + e)) hs
      rw [ht]
      exact ih _ (hzero t 16 hst)
    · simp only [unstopped_stopsAt hs, unstopped_trapsOn hs, Bool.false_eq_true, if_false]
      split
      · have hwrite (f : VecFile → VecFile) (r : Rng) (fl : Flags) : StopsAlike s (((s.keepRng r).onVf f).orFlags fl) :=
          ((StopsAlike.keepRng s r).trans (StopsAlike.onVf _ f)).trans (StopsAlike.orFlags _ _)
        refine ih _ (hzero _ 1 ?_)
        split
        · exact hwrite _ _ _
        · exact (hwrite _ _ _).trans (StopsAlike.countCensus _ _ _)
      · refine ih _ (hzero _ 1 ?_)
        split
        · exact StopsAlike.onVf s _
        · exact StopsAlike.refl s

end Sys2Proof.Machine

open Sys2Proof Sys2Proof.Machine

/-- R191, R192: nothing stops an extraction at a position within the accumulator. -/
theorem extractions : Clause.Extractions := by
  intro op w s hop hs hun hready b m c pos row c0 hpos hc0 hend
  have hpos' : ((b.noting [m]).x m.w.vs3) = pos := noting_x s [m] w.vs3
  have hvl : c.vl = s.vl := convoy_vl s (headerOf op) [m]
  obtain ⟨t, ht⟩ := extractFrom_completes m c row c0 ((c.vl - c.vstart) / if c.t.isSx then 16 else 1) c.vstart (noting_unstopped false [m] hun)
  have hmxtr : m.mxtr c (b.noting [m]) = .ok (t.onVf (m.finish c c.vl)) := by
    rw [Member.mxtr, hpos']
    dsimp only
    rw [if_neg (by omega), ht]
  refine ⟨_, hmxtr, ?_⟩
  rcases hop with rfl | rfl
  · exact exec_matrixWord (by decide) hs hready hmxtr
  · exact exec_matrixWord (by decide) hs hready hmxtr

end

section
/-! What an integer product leaves in the accumulators (spec/04 R95; spec/08 R185), where the CSRs and the accumulators are in canonical form. -/

namespace Sys2Proof.Machine

/-! Elements of a row. -/

/-- Element `col` of a row. -/
def lane (row : BitVec 12288) (col : Nat) : Nat := row.toNat / 2 ^ (32 * col) % 2 ^ 32

/-- A row with element `col` replaced, as the update of a row writes it. -/
def putLane (row : BitVec 12288) (col v : Nat) : BitVec 12288 :=
  (row &&& ~~~(BitVec.ofNat 12288 ((2 ^ 32 - 1) * 2 ^ (32 * col)))) ||| BitVec.ofNat 12288 (v * 2 ^ (32 * col))

theorem testBit_lane (row : BitVec 12288) (col k : Nat) : (lane row col).testBit k = (decide (k < 32) && row.getLsbD (32 * col + k)) := by
  rw [lane, Nat.testBit_mod_two_pow, Nat.testBit_div_two_pow, Nat.add_comm k]
  rfl

theorem getLsbD_putLane (row : BitVec 12288) {col v k : Nat} (hv : v < 2 ^ 32) (hk : k < 12288) :
    (putLane row col v).getLsbD k = if 32 * col ≤ k ∧ k < 32 * col + 32 then v.testBit (k - 32 * col) else row.getLsbD k := by
  simp only [putLane, BitVec.getLsbD_or, BitVec.getLsbD_and, BitVec.getLsbD_not, BitVec.getLsbD_ofNat, hk, Nat.testBit_mul_two_pow,
    Nat.testBit_two_pow_sub_one, decide_true, Bool.true_and]
  by_cases hlo : 32 * col ≤ k
  · by_cases hw : k < 32 * col + 32
    · simp [hlo, hw, show k - 32 * col < 32 by omega]
    · have hout : v.testBit (k - 32 * col) = false :=
        Nat.testBit_lt_two_pow (hv.trans_le (Nat.pow_le_pow_right (by decide) (by omega)))
      simp [hlo, hw, show ¬ k - 32 * col < 32 by omega, hout]
  · simp [hlo]

theorem lane_putLane (row : BitVec 12288) {col v : Nat} (hv : v < 2 ^ 32) {j : Nat} (hj : j < 384) :
    lane (putLane row col v) j = if j = col then v else lane row j := by
  refine Nat.eq_of_testBit_eq fun k => ?_
  rw [testBit_lane]
  by_cases hk : k < 32
  · rw [getLsbD_putLane row hv (by omega)]
    by_cases hcol : j = col
    · simp [hcol, hk]
    · rw [if_neg (by omega), if_neg hcol, testBit_lane]
  · split
    · rw [Nat.testBit_lt_two_pow (hv.trans_le (Nat.pow_le_pow_right (by decide) (by omega)))]
      simp [hk]
    · rw [testBit_lane]
      simp [hk]

/-- A row whose first n elements are replaced in order. -/
theorem lane_foldl_putLane (row : BitVec 12288) {v : Nat → Nat} (hv : ∀ col, v col < 2 ^ 32) (n : Nat) {j : Nat} (hj : j < 384) :
    lane ((List.range n).foldl (fun p col => putLane p col (v col)) row) j = if j < n then v j else lane row j := by
  induction n with
  | zero => rfl
  | succ n ih =>
    rw [List.range_succ, List.foldl_append, List.foldl_cons, List.foldl_nil, lane_putLane _ (hv n) hj, ih]
    by_cases hlast : j = n
    · subst hlast
      simp
    · have hlt : j < n + 1 ↔ j < n := by omega
      simp [hlast, hlt]

/-! The integer update of an element (R95). -/

/-- Without saturation an element keeps the sum modulo 2^32, raises no flag and counts nothing. -/
theorem intUpdate_wraps (acc : Nat) (sum : Int) :
    intUpdate acc sum false = { v := (BitVec.ofInt 32 ((acc : Int) + sum)).toNat, flags := 0, counts := [] } := by
  have hmod : (sgnN 32 acc + sum) % 2 ^ 32 = ((acc : Int) + sum) % 2 ^ 32 := by
    unfold sgnN
    split <;> omega
  have hv : wrapN 32 (sgnN 32 acc + sum) = (BitVec.ofInt 32 ((acc : Int) + sum)).toNat := by
    rw [wrapN, hmod, BitVec.toNat_ofInt]
    rfl
  simp [intUpdate, hv]

/-- The product of the elements that row r and column col take from A and B at step j (R185). -/
def Member.product (m : Member) (c : Cvy) (k : Core) (tile : BitVec 256) (r col j : Nat) : Int :=
  (if c.real ≤ r * recK tile + j then 0 else numN c.t.isSigned 8 (k.vf.elem m.w.vs1.toNat 8 (r * recK tile + j))) *
    numN (typeOfCode (recType tile)).isSigned 8 (k.cimNat (recFirst tile) (col * recK tile + j) 1)

/-- What an integer product makes of an element of the accumulator (R95, R185). -/
def Member.gained (m : Member) (c : Cvy) (k : Core) (tile : BitVec 256) (r col : Nat) : Nat :=
  (BitVec.ofInt 32 ((k.vf.accAt m.w.vd.toNat r col : Int) + ((List.range (recK tile)).map (m.product c k tile r col)).sum)).toNat

section
variable {m : Member} {c : Cvy} {tile : BitVec 256} (hint : c.t.isInt = true) (hw : c.t.w = 8) (hpairs : pairs c.t (recType tile) = true)
  (hsat : m.w.satf = 0)
include hint hw hpairs hsat

theorem accElem_int (k : Core) (sc r col : Nat) : m.accElem c k tile sc r col = { v := m.gained c k tile r col, flags := 0, counts := [] } := by
  have hcls : c.t.cls = .int := by simpa [VT.isInt] using hint
  have hb : (typeOfCode (recType tile)).cls = .int ∧ (typeOfCode (recType tile)).w = 8 := by simpa [pairs, hcls] using hpairs
  have hsx : c.t.isSx = false := by simp [VT.isSx, hcls]
  have hbsx : (typeOfCode (recType tile)).isSx = false := by simp [VT.isSx, hb.1]
  have hcol : (typeOfCode (recType tile)).colBytes (recK tile) = recK tile := by simp [VT.colBytes, hbsx, hb.2]
  have hterm (j : Nat) : numN c.t.isSigned 8 (if c.real ≤ r * recK tile + j then 0 else k.vf.elem m.w.vs1.toNat 8 (r * recK tile + j)) *
      numN (typeOfCode (recType tile)).isSigned 8 (k.cimNat (recFirst tile) (col * recK tile + j) 1) = m.product c k tile r col j := by
    have hzero : numN c.t.isSigned 8 0 = 0 := by cases c.t.isSigned <;> rfl
    rw [Member.product, apply_ite (numN c.t.isSigned 8), hzero]
  rw [Member.accElem]
  simp only [hsx, hint, hw, hb.2, hcol, hsat, Bool.false_eq_true, if_false, if_true, Nat.mul_one, hterm, Nat.div_self (show 0 < 8 by decide)]
  rw [← List.foldl_map (f := m.product c k tile r col) (g := fun a p => a + p), ← List.sum_eq_foldl]
  exact intUpdate_wraps _ _

theorem accRow_int (k : Core) (sc r : Nat) :
    m.accRow c k tile sc r = ((List.range (recN tile)).foldl (fun p col => putLane p col (m.gained c k tile r col))
      (mapGet 0 k.vf.acc (16 * m.w.vd.toNat + r)), 0, []) := by
  rw [Member.accRow]
  simp only [accElem_int hint hw hpairs hsat]
  refine List.foldl_hom (fun p => (p, (0 : Flags), ([] : List Nat))) fun p col => ?_
  simp only [List.append_nil]
  rfl

end

/-! The rows in order. -/

/-- `u` follows from `s` by n rows of an integer product from row r on. -/
structure RowsGained (m : Member) (c : Cvy) (tile : BitVec 256) (r n : Nat) (s u : State) : Prop where
  gained : ∀ i col, r ≤ i → i < r + n → col < recN tile → u.vf.accAt m.w.vd.toNat i col = m.gained c s.myCore tile i col
  kept : ∀ key, (∀ i, r ≤ i → i < r + n → key ≠ 16 * m.w.vd.toNat + i) → mapGet 0 u.vf.acc key = mapGet 0 s.vf.acc key
  v : u.vf.v = s.vf.v
  fflags : u.csr Csr.fflags = s.csr Csr.fflags

theorem RowsGained.none (m : Member) (c : Cvy) (tile : BitVec 256) (r : Nat) (s : State) : RowsGained m c tile r 0 s s :=
  ⟨fun _ _ h1 h2 _ => by omega, fun _ _ => rfl, rfl, rfl⟩

/-- Row r of an integer product as it is written: it raises no flag. -/
def Member.addRow (m : Member) (s : State) (r : Nat) (row : BitVec 12288) : State :=
  (s.onVf fun f => { f with acc := mapSet 0 f.acc (16 * m.w.vd.toNat + r) row }).orFlags 0

section
variable (m : Member) (s : State) (r : Nat) (row : BitVec 12288)

theorem writeRow_quiet (c : Cvy) : m.writeRow c s r (row, 0, []) 0 = m.addRow s r row := by
  simp only [Member.writeRow, Member.addRow, State.countCensus, List.isEmpty_nil, if_true, BitVec.or_self]

theorem addRow_myCore :
    (m.addRow s r row).myCore = { s.myCore with vf := { s.vf with acc := mapSet 0 s.vf.acc (16 * m.w.vd.toNat + r) row } } := by
  have h : (m.addRow s r row).myCore = (s.onVf fun f => { f with acc := mapSet 0 f.acc (16 * m.w.vd.toNat + r) row }).core (coreOf s.cur) := rfl
  rw [h, onVf_eq, core_setCore_self]

theorem addRow_me : (m.addRow s r row).me = s.me.orFlags 0 := by
  rw [Member.addRow, orFlags_eq, me_setHart_self]
  rfl

theorem addRow_stopsAlike : StopsAlike s (m.addRow s r row) := (StopsAlike.onVf s _).trans (StopsAlike.orFlags _ _)

variable (hcsr : mapWf 0 s.me.a.csr = true)
include hcsr

theorem addRow_fflags : (m.addRow s r row).csr Csr.fflags = s.csr Csr.fflags := by
  rw [csr_eq, addRow_me, Hart.orFlags, Hart.csr_setCsr_self _ _ _ hcsr]
  simp

theorem addRow_csrWf : mapWf 0 (m.addRow s r row).me.a.csr = true := by
  rw [addRow_me]
  exact mapWf_set 0 _ _ _ hcsr

end

/-- A row leaves what another row gains. -/
theorem gained_addRow {m : Member} {c : Cvy} {tile : BitVec 256} {s : State} (hacc : mapWf 0 s.vf.acc = true) {r i : Nat} (hi : i ≠ r)
    (row : BitVec 12288) (col : Nat) : m.gained c (m.addRow s r row).myCore tile i col = m.gained c s.myCore tile i col := by
  rw [addRow_myCore]
  have haccAt : { s.vf with acc := mapSet 0 s.vf.acc (16 * m.w.vd.toNat + r) row }.accAt m.w.vd.toNat i col = s.vf.accAt m.w.vd.toNat i col := by
    rw [VecFile.accAt, mapGet_set_ne 0 _ _ hacc (by omega)]
    rfl
  rw [Member.gained, haccAt]
  rfl

section
variable {m : Member} {c : Cvy} {tile : BitVec 256} (hint : c.t.isInt = true) (hw : c.t.w = 8) (hpairs : pairs c.t (recType tile) = true)
  (hsat : m.w.satf = 0) (hcols : recN tile ≤ 384)
include hint hw hpairs hsat hcols

theorem rows_int (sc n r : Nat) {s : State} (hs : s.unstopped = true) (hacc : mapWf 0 s.vf.acc = true) (hcsr : mapWf 0 s.me.a.csr = true) :
    ∃ u, m.rows c tile sc n r 0 s = .ok u ∧ RowsGained m c tile r n s u := by
  induction n generalizing r s with
  | zero => exact ⟨s, rfl, RowsGained.none m c tile r s⟩
  | succ n ih =>
    let row := (List.range (recN tile)).foldl (fun p col => putLane p col (m.gained c s.myCore tile r col))
      (mapGet 0 s.vf.acc (16 * m.w.vd.toNat + r))
    have hfile : (m.addRow s r row).vf = { s.vf with acc := mapSet 0 s.vf.acc (16 * m.w.vd.toNat + r) row } :=
      congrArg Core.vf (addRow_myCore m s r row)
    have hstep : m.rows c tile sc (n + 1) r 0 s = m.rows c tile sc n (r + 1) 0 (m.addRow s r row) := by
      rw [rows_succ m c tile sc n r 0 hs, accRow_int hint hw hpairs hsat, writeRow_quiet]
      rfl
    obtain ⟨u, hu, hrest⟩ := ih (r + 1) ((addRow_stopsAlike m s r row).unstopped hs) (by rw [hfile]; exact mapWf_set 0 _ _ _ hacc)
      (addRow_csrWf m s r row hcsr)
    refine ⟨u, hstep.trans hu, ⟨fun i col hlow hhigh hcol => ?_, fun key hkey => ?_, ?_, ?_⟩⟩
    · by_cases hi : i = r
      · subst hi
        have hrow : mapGet 0 u.vf.acc (16 * m.w.vd.toNat + i) = row := by
          rw [hrest.kept _ fun i' _ _ => by omega, hfile]
          exact mapGet_set_self 0 _ _ _ hacc
        have hgained : lane row col = m.gained c s.myCore tile i col :=
          (lane_foldl_putLane _ (fun col => BitVec.isLt _) _ (by omega)).trans (if_pos hcol)
        rw [VecFile.accAt, hrow]
        exact hgained
      · rw [hrest.gained i col (by omega) (by omega) hcol, gained_addRow hacc hi]
    · rw [hrest.kept key fun i _ _ => hkey i (by omega) (by omega), hfile]
      exact mapGet_set_ne 0 _ _ hacc (hkey r (by omega) (by omega))
    · rw [hrest.v, hfile]
    · rw [hrest.fflags, addRow_fflags m s r row hcsr]

end

/-! The type and the tile of a product (R184, R185). -/

theorem mma_int_width {w : VWord} {t : VT} (h : typesOk .mma w t = true) (hint : t.isInt = true) : t.w = 8 := by
  have hcls : t.cls = .int := by simpa [VT.isInt] using hint
  have htypes : ((t.isSx || decide (t.w = 8) || decide (t.w = 16 ∧ t.isFl = true)) && (t.isInt || decide (w.satf = 0))) = true := h
  simpa [VT.isSx, VT.isFl, hcls] using (Bool.and_eq_true_iff.mp htypes).1

/-- The tile of a product pairs with VTYPE (R184). -/
theorem mmaRec_pairs {m : Member} {c : Cvy} {s : State} {tile : BitVec 256} (h : m.mmaRec c s = .ok tile) :
    pairs c.t (recType tile) = true := by
  unfold Member.mmaRec at h
  dsimp only at h
  split at h
  · cases h
  next hok =>
    cases h
    push Not at hok
    obtain ⟨-, -, -, hpairs, -⟩ := hok
    simpa using hpairs

/-- The chunk that notes the destinations of a product has the same records and X registers. -/
theorem mmaRec_wordState (m : Member) (c : Cvy) (s : State) (op : Vop) (w : VWord) :
    m.mmaRec c (s.wordState op w) = m.mmaRec c (s.openChunk false) := by
  have hcore : (s.wordState op w).myCore = (s.openChunk false).myCore := rfl
  rw [Member.mmaRec, Member.mmaRec, hcore, noting_x, x_openChunk]

end Sys2Proof.Machine

open Sys2Proof Sys2Proof.Machine

/-- R185, R187: a product with a loaded tile completes all its rows. -/
theorem matrixProduct_completes {op : Vop} {w : VWord} {s : State} {tile : BitVec 256} (hop : op = .mma ∨ op = .mmas) (hs : s.solo = true)
    (hun : s.unstopped = true) (hready : s.vectorReady op w = true)
    (hrec : (memberOf op w).mmaRec (s.wordConvoy op w) (s.openChunk false) = .ok tile) (hloaded : recLoaded tile = true) :
    ∃ u, (memberOf op w).mma (s.wordConvoy op w) (s.wordState op w) = .ok u ∧
      exec (vopInstr op w) s = .next (((s.wordConvoy op w).advance u).wrapUp (s.openChunk false) (s.wordConvoy op w) true) := by
  obtain ⟨u, hu⟩ := rows_completes _ _ tile _ _ _ _ (noting_unstopped false [memberOf op w] hun)
  have hmma := (mma_loaded ((mmaRec_wordState _ _ s op w).trans hrec) hloaded).trans hu
  refine ⟨u, hmma, ?_⟩
  rcases hop with rfl | rfl
  · exact exec_matrixWord (by decide) hs hready hmma
  · exact exec_matrixWord (by decide) hs hready hmma

/-- R95, R185: where the CSRs are in canonical form too, each element of an INT product without saturation gains the sum of its products modulo
2^32, and the other rows, the vector registers and FFLAGS stay. -/
theorem integerProduct {w : VWord} {s : State} {tile : BitVec 256} (hun : s.unstopped = true) (hready : s.vectorReady .mma w = true)
    (hrec : (memberOf .mma w).mmaRec (s.wordConvoy .mma w) (s.openChunk false) = .ok tile) (hloaded : recLoaded tile = true)
    (hcols : recN tile ≤ 384) (hint : s.vt.isInt = true) (hsat : w.satf = 0) (hstart : s.vf.vstart = 0) (hacc : mapWf 0 s.vf.acc = true)
    (hcsr : mapWf 0 s.me.a.csr = true) :
    ∃ u, (memberOf .mma w).mma (s.wordConvoy .mma w) (s.wordState .mma w) = .ok u ∧
      RowsGained (memberOf .mma w) (s.wordConvoy .mma w) tile 0 (s.x w.vs3).toNat s u := by
  have hcore : (s.wordState .mma w).myCore = s.myCore := noting_myCore s [memberOf .mma w]
  obtain ⟨ha, -, -⟩ := noting_me s false [memberOf .mma w]
  have hct : (s.wordConvoy .mma w).t = s.vt := convoy_t s (headerOf .mma) [memberOf .mma w]
  have hcstart : (s.wordConvoy .mma w).vstart = 0 := by
    have h : (s.wordConvoy .mma w).vstart = (s.openChunk false).vf.vstart.toNat := rfl
    rw [h, openChunk_vf, hstart]
    rfl
  have hw8 := mma_int_width (ready_typesOk hready rfl) hint
  have hpairs := mmaRec_pairs hrec
  have hrec' := (mmaRec_wordState (memberOf .mma w) (s.wordConvoy .mma w) s .mma w).trans hrec
  obtain ⟨u, hu, hgained⟩ := rows_int (m := memberOf .mma w) (c := s.wordConvoy .mma w) (hct ▸ hint) (hct ▸ hw8) hpairs hsat hcols
    0x3F800000 (s.x w.vs3).toNat 0 (noting_unstopped false [memberOf .mma w] hun) (by rw [State.vf, hcore]; exact hacc) (by rw [ha]; exact hcsr)
  refine ⟨u, ?_, ?_⟩
  · rw [mma_loaded hrec' hloaded, hcstart, noting_x]
    exact hu
  · have hfile : (s.wordState .mma w).vf = s.vf := congrArg Core.vf hcore
    have hflags : (s.wordState .mma w).csr Csr.fflags = s.csr Csr.fflags := congrArg (fun a : HartArch => mapGet 0 a.csr Csr.fflags) ha
    obtain ⟨h1, h2, h3, h4⟩ := hgained
    rw [hcore] at h1
    rw [hfile] at h2 h3
    exact ⟨h1, h2, h3, h4.trans hflags⟩

end

section
/-! The statement on the matrix operations fails for CSRs outside the canonical form of their map: its product clause asks that form of the
accumulators alone, yet says that FFLAGS reads as before. -/

namespace Sys2Proof.Machine

/-- MMA of V8 with the tile of bank 0 into accumulator 0, over the rows in x4. -/
def tileProduct : VWord :=
  { imm := 0, scal := 0, satf := 0, rnd := 0, k := 0, mod2 := 0, mod1 := 0, men := 0, msk := 0, vs3 := 4, vs2 := 0, vs1 := 8, vd := 0 }

/-- The record of a loaded tile of one column of 16 signed bytes (R178). -/
def loadedTile : BitVec 256 := mkRec 0x800 16 16 1 2 0 0 0 ||| (1#256) <<< 183

/-- The owner of a vector file with VL = 16 signed bytes, the loaded tile in bank 0, and one row in x4. Its CSRs list FFLAGS twice, so that they
are not in canonical form: the first entry, 0, is the one that is read. -/
def flagsTwice : State :=
  (State.reset.onMe fun h =>
    { h with status := .running, a := { h.a with pc := 4, x := [(4, 1)], csr := [(Csr.fflags, 0), (Csr.fflags, 1)] } }).onMyCore fun k =>
    { k with owner := some 0, brec := [(0, loadedTile)], vf := { k.vf with vtype := 0x2, vl := 16 } }

theorem ok_of_toOption {α : Type} {r : Except Exc α} {a : α} (h : r.toOption = some a) : r = .ok a := by
  cases r with
  | ok b => exact congrArg Except.ok (Option.some.inj h)
  | error e => cases h

/-- The state meets every premise of the product clause. -/
theorem flagsTwice_premises : flagsTwice.solo = true ∧ flagsTwice.unstopped = true ∧ flagsTwice.vectorReady .mma tileProduct = true ∧
    ((memberOf .mma tileProduct).mmaRec (flagsTwice.wordConvoy .mma tileProduct) (flagsTwice.openChunk false)).toOption = some loadedTile ∧
    recLoaded loadedTile = true ∧ recN loadedTile ≤ 384 ∧ flagsTwice.vt.isInt = true ∧ tileProduct.satf = 0 ∧ flagsTwice.vf.vstart = 0 ∧
    mapWf 0 flagsTwice.vf.acc = true := by
  refine ⟨?_, ?_, ?_, ?_, ?_, ?_, ?_, ?_, ?_, ?_⟩ <;> decide +kernel

/-- FFLAGS read 0; the row's write of 0 | 0 removes the first entry, and FFLAGS read 1. -/
theorem flagsTwice_fflags : flagsTwice.csr Csr.fflags = 0 ∧
    ((memberOf .mma tileProduct).mma (flagsTwice.wordConvoy .mma tileProduct) (flagsTwice.wordState .mma tileProduct)).toOption.map
      (·.csr Csr.fflags) = some 1 := by
  decide +kernel

end Sys2Proof.Machine

open Sys2Proof Sys2Proof.Machine

/-- Refutes O48: no premise of its product clause puts the CSRs in canonical form. Where they list FFLAGS as 0 and once more as 1, the integer row
of an MMA, which raises no flag, writes back the 0 that it read; that removes the first entry, and FFLAGS then read 1. The other clauses hold
(`matrixRegisters`, `tileLoads`, `extractions`), and so does this one for CSRs in that form (`matrixProduct_completes`, `integerProduct`). -/
theorem not_matrixForms : ¬ Obligations.MatrixForms := by
  rintro ⟨-, -, hproducts, -⟩
  obtain ⟨hsolo, hun, hready, hrec, hloaded, hcols, hint, hsat, hstart, hwf⟩ := flagsTwice_premises
  obtain ⟨hbefore, hafter⟩ := flagsTwice_fflags
  obtain ⟨u, hmma, -, hproduct⟩ :=
    hproducts .mma tileProduct flagsTwice loadedTile (.inl rfl) hsolo hun hready (ok_of_toOption hrec) hloaded hcols
  obtain ⟨-, -, -, hflags⟩ := hproduct hint hsat hstart hwf rfl
  have hread : some (u.csr Csr.fflags) = some 1 := by rw [← hafter]; exact (congrArg (fun r => r.toOption.map (·.csr Csr.fflags)) hmma).symm
  rw [hbefore] at hflags
  exact absurd ((Option.some.inj hread).symm.trans hflags) (by decide)

end

section
/-! Proofs of the statements on atomics, fences, monitors and barriers (spec/09 R196-R206): an instruction between two chunks that performs an
action at a home, and each of these actions. -/

namespace Sys2Proof.Machine

/-! The ends of an instruction between two chunks. -/

/-- Between two chunks an instruction opens a new one. -/
theorem openChunk_solo {s : State} (hs : s.solo = true) (own : Bool) :
    s.openChunk own = s.setHart s.cur { s.me with chunk := some (s.newChunk own) } := by
  unfold State.openChunk
  rw [solo_chunk hs, onMe_eq]

/-- A body that does not complete, between two chunks. -/
theorem run_handles {s : State} {sh : Shape} {body : State → Res} {e : Exc} (hs : s.solo = true)
    (hb : body (s.openChunk sh.own) = .error e) : s.run sh body = s.handle e := by
  have hbusy : s.chunkBusy = false := by simp [State.chunkBusy, solo_chunk hs]
  rw [run_between (solo_chunk hs) (solo_banks hs), State.runOpen, if_neg (by simp [hbusy]), hb]

/-- A lead-only action of an unreplicated hart is performed and delivered in its own chunk (R364). -/
theorem forwarded_performs {s t : State} {own : Bool} {addr : Word} {perform : State → Except Exc (List Word × State)}
    {deliver : List Word → State → Res} {items : List Word → List Word} {v : List Word} (hs : s.solo = true)
    (h : perform (s.openChunk own) = .ok (v, t)) : forwarded (s.openChunk own) addr perform deliver items = deliver v t :=
  forwarded_ok (by rw [group_openChunk, solo_group hs]) h

theorem forwarded_fails {s : State} {own : Bool} {e : Exc} {addr : Word} {perform : State → Except Exc (List Word × State)}
    {deliver : List Word → State → Res} {items : List Word → List Word} (hs : s.solo = true)
    (h : perform (s.openChunk own) = .error e) : forwarded (s.openChunk own) addr perform deliver items = .error e :=
  forwarded_error (by rw [group_openChunk, solo_group hs]) h

/-! What actions at a home leave of the executing hart. -/

theorem Quiet.hartMark {s t : State} (h : Quiet s t) : t.hartMark t.cur = s.hartMark s.cur := by
  have hctx : (t.hart t.cur).ctx = (s.hart s.cur).ctx := h.me.ctx
  have hctxs : t.ctxs = s.ctxs := by have := congrArg State.ctxs h.rest; exact this
  have hkeys : t.keys = s.keys := by have := congrArg State.keys h.rest; exact this
  simp only [State.hartMark, hctx, State.ctx?, hctxs, State.keyMark, State.key, hkeys]

theorem quiet_checkBoth {s t : State} {align : Nat} {va : Word} {n : Nat} {a : Acc} (h : s.checkBoth align va n = .ok (a, t)) :
    Quiet s t := by
  unfold State.checkBoth at h
  simp only [bind, Except.bind] at h
  split at h
  · cases h
  next r hr => exact (quiet_check14 hr).trans (quiet_check14 h)

/-- An aligned operand of an action at a home has as many locations as bytes. -/
theorem checkBoth_locs {s t : State} {n : Nat} {va : Word} {a : Acc} (hn : 0 < n) (hd : n ∣ 4096) (h : s.checkBoth n va n = .ok (a, t)) :
    a.locs.length = n := by
  unfold State.checkBoth at h
  simp only [bind, Except.bind] at h
  split at h
  · cases h
  next r hr =>
    obtain ⟨halign, hloc⟩ := check14_ok h
    obtain ⟨base, hl⟩ := locate_aligned hn hd halign hloc
    simp [hl]

theorem reachesRmw_locs {s u : State} {va : Word} {a : Acc} {size : BitVec 1} (h : s.reachesRmw (amoBytes size) va (amoBytes size) a u) :
    a.locs.length = amoBytes size := by
  obtain ⟨hboth, -, -⟩ := h
  refine checkBoth_locs ?_ ?_ hboth <;> (unfold amoBytes; split <;> decide)

theorem quiet_releaseIf (s : State) (on : Bool) (sc : Scope) : Quiet s (s.releaseIf on sc) := by
  unfold State.releaseIf
  split
  · exact quiet_release _ _ _
  · exact Quiet.refl s

theorem quiet_oldBytes (s : State) (locs : List Nat) : Quiet s (s.oldBytes locs).2 := quiet_atHome _ _ _ _

theorem oldBytes_length (s : State) (locs : List Nat) : (s.oldBytes locs).1.length = locs.length := List.length_map ..

theorem quiet_cached (s : State) (a : Acc) : Quiet s (s.cached a) := quiet_touchAll _ _ _ _

theorem quiet_replace (s : State) (locs : List Nat) (bs : List Byte) : Quiet s (s.replace locs bs) := quiet_homeWrite _ _ _

theorem acquireIf_a (s : State) (on : Bool) (sc : Scope) : (s.acquireIf on sc).me.a = s.me.a := by
  unfold State.acquireIf
  split
  · exact (SameHart.acquire s sc).a
  · rfl

/-- LDST and FFLAGS lie below FTRAPEN. -/
theorem Hart.ftrapen_setX (x : Hart) (r : Reg) (v : Word) : (x.setX r v).csr Csr.ftrapen = x.csr Csr.ftrapen := by
  unfold Hart.setX
  split
  · rfl
  · exact mapGet_set_lt 0 _ _ (by decide)

/-! Atomics (R196-R198). -/

theorem scopeOf_amoScopes : ∀ p ∈ amoScopes, scopeOf p.1 = p.2 := by decide

theorem amoOperand_leWord {bs : List Byte} {size : BitVec 1} (h : bs.length = amoBytes size) : amoOperand size (leWord bs) = leWord bs := by
  have hlt := leNat_lt bs
  rw [h] at hlt
  unfold amoOperand amoBytes at *
  split
  · next h0 =>
    rw [if_pos h0] at hlt
    exact BitVec.eq_of_toNat_eq (by simp [leWord]; omega)
  · rfl

theorem and_low_eq (size : BitVec 1) (v : Word) :
    v &&& (if (if size = 0 then 4 else 8) = 4 then 0xFFFFFFFF else BitVec.allOnes 64) = amoOperand size v := by
  unfold amoOperand
  by_cases h : size = 0
  · rw [if_pos h, if_pos rfl, if_pos h]
    refine BitVec.eq_of_toNat_eq ?_
    simp only [BitVec.toNat_and, BitVec.toNat_setWidth]
    exact (Nat.and_two_pow_sub_one_eq_mod _ 32).trans (by have := Nat.mod_lt v.toNat (Nat.two_pow_pos 32); omega)
  · rw [if_neg h, if_neg (by decide), if_neg h, BitVec.and_allOnes]

theorem amoWidth_eq (size : BitVec 1) : (if size = 0 then 4 else 8) = amoBytes size := rfl

theorem bit_of_ord (ord : BitVec 2) {n : Nat} (hn : n < 64) : bit (ord.setWidth 64) n = ord.getLsbD n := by
  simp [bit, hn]

theorem amoExt_eq (size : BitVec 1) (old : Word) :
    (if (if size = 0 then 4 else 8) = 4 then (old.setWidth 32).signExtend 64 else old) = amoExt size old := by
  unfold amoExt
  by_cases h : size = 0 <;> simp [h]

theorem release_of_ord (s : State) (ord : BitVec 2) (sc : Scope) :
    (if bit (ord.setWidth 64) 1 then s.release s.cur sc else s) = s.releaseIf (ord.getLsbD 1) sc := by
  rw [bit_of_ord ord (by decide)]; rfl

theorem acquire_of_ord (s : State) (ord : BitVec 2) (sc : Scope) :
    (if bit (ord.setWidth 64) 0 then s.acquire s.cur sc else s) = s.acquireIf (ord.getLsbD 0) sc := by
  rw [bit_of_ord ord (by decide)]; rfl

/-- The destination, the flags and the acquire of an atomic leave FTRAPEN. -/
theorem ftrapen_amo (s : State) (rd : Reg) (v : Word) (fl : Flags) (on : Bool) (sc : Scope) :
    ((((s.setX rd v).orFlags fl).next 4).acquireIf on sc).csr Csr.ftrapen = s.csr Csr.ftrapen := by
  show mapGet 0 (State.acquireIf _ on sc).me.a.csr Csr.ftrapen = s.me.csr Csr.ftrapen
  rw [acquireIf_a]
  simp only [State.next, setX_eq, orFlags_eq, onMe_eq, setHart_cur, setHart_setHart, me_setHart_self, Hart.setPc_a_csr]
  exact (Hart.ftrapen_orFlags _ _).trans (Hart.ftrapen_setX _ _ _)

/-- An atomic whose operand passes its checks and that raises no enabled flag, with the operation of the given number (R197, R198, R301). -/
theorem amo_ends {s u : State} {a : Acc} {op : Nat} {ord scope : BitVec 2} {size : BitVec 1} {rd rs1 rs2 : Reg} {old : Word} {r : Word × Flags}
    (hs : s.solo = true) (h : s.reachesRmw (amoBytes size) (s.x rs1) (amoBytes size) a u) {o : List Byte × State}
    (ho : (u.releaseIf (ord.getLsbD 1) (scopeOf scope)).oldBytes a.locs = o)
    (hold : leWord o.1 = old) (hr : amoNew op (amoBytes size) old (amoOperand size (s.x rs2)) (amoOperand size (s.x rd)) = r)
    (ht : s.traps r.2 = false) :
    amo s op ord scope size rd rs1 rs2 =
      (((((((o.2.cached a).replace a.locs (leBytes (amoBytes size) r.1.toNat)).setX rd (amoExt size old)).orFlags r.2).next
        4).acquireIf (ord.getLsbD 0) (scopeOf scope)).ends s.pc) := by
  obtain ⟨hboth, hhost, hrmw⟩ := h
  have hcached : Quiet (u.releaseIf (ord.getLsbD 1) (scopeOf scope)) (o.2.cached a) := by
    rw [← ho]
    exact (quiet_oldBytes _ _).trans (quiet_cached _ _)
  set t := (o.2.cached a).replace a.locs (leBytes (amoBytes size) r.1.toNat) with ht'
  have hcsr : t.csr Csr.ftrapen = s.csr Csr.ftrapen := by
    have hq := (quiet_checkBoth hboth).trans
      (((quiet_releaseIf u _ _).trans hcached).trans (quiet_replace _ a.locs (leBytes (amoBytes size) r.1.toNat)))
    show mapGet 0 t.me.a.csr Csr.ftrapen = mapGet 0 s.me.a.csr Csr.ftrapen
    rw [ht', hq.me.a, a_openChunk]
  refine run_alone hs ((forwarded_performs (own := true) hs (v := old :: if 10 ≤ op then [r.2.setWidth 64] else []) (t := t) ?_).trans ?_) rfl rfl
  · have hhome : (u.releaseIf (ord.getLsbD 1) (scopeOf scope)).atHome (u.releaseIf (ord.getLsbD 1) (scopeOf scope)).cur
        ((u.releaseIf (ord.getLsbD 1) (scopeOf scope)).hartMark (u.releaseIf (ord.getLsbD 1) (scopeOf scope)).cur) a.locs = o := ho
    simp only [x_openChunk, and_low_eq, bind, Except.bind, pure, Except.pure]
    simp only [amoWidth_eq, hboth, hhost, hrmw, release_of_ord, hhome, hold, hr, Bool.false_eq_true, if_false]
    rw [ht', State.replace, hcached.hartMark]
    rfl
  · simp only [x_openChunk, and_low_eq, amoExt_eq, List.headD_cons]
    simp only [amoWidth_eq, hr, acquire_of_ord]
    rw [if_neg]
    rw [ftrapen_amo, hcsr]
    simpa [State.traps] using of_decide_eq_false ht

/-- The operation of the given number is the function `f`, at both widths, and raises no flag (R197). -/
def AmoComputes (op : Nat) (f : (w : Nat) → BitVec w → BitVec w → BitVec w → BitVec w) : Prop :=
  (∀ o b d : BitVec 32, amoNew op 4 (o.setWidth 64) (b.setWidth 64) (d.setWidth 64) = ((f 32 o b d).setWidth 64, 0)) ∧
    ∀ o b d : Word, amoNew op 8 o b d = (f 64 o b d, 0)

theorem AmoComputes.result {op : Nat} {f : (w : Nat) → BitVec w → BitVec w → BitVec w → BitVec w} (h : AmoComputes op f) {size : BitVec 1}
    {o b d : Word} (ho : amoOperand size o = o) :
    ∃ v : Word, amoNew op (amoBytes size) o (amoOperand size b) (amoOperand size d) = (v, 0) ∧ v.toNat = amoResult f size o b d := by
  obtain ⟨hword, hdword⟩ := h
  unfold amoOperand amoBytes amoResult at *
  by_cases h0 : size = 0
  · simp only [h0, if_true] at ho ⊢
    exact ⟨_, by rw [← ho]; simpa using hword (o.setWidth 32) (b.setWidth 32) (d.setWidth 32), by simp; omega⟩
  · simp only [h0, if_false] at ho ⊢
    exact ⟨_, hdword o b d, rfl⟩

theorem amoAdd_computes : AmoComputes 0 fun _ o b _ => o + b := by
  refine ⟨fun o b d => Prod.ext ?_ rfl, fun o b d => Prod.ext ?_ rfl⟩
  · refine BitVec.eq_of_toNat_eq ?_
    simp [amoNew]
    exact (Nat.and_two_pow_sub_one_eq_mod _ 32).trans (by omega)
  · exact BitVec.and_allOnes

theorem amoSwap_computes : AmoComputes 1 fun _ _ b _ => b := ⟨fun _ _ _ => rfl, fun _ _ _ => rfl⟩

theorem amoAnd_computes : AmoComputes 2 fun _ o b _ => o &&& b :=
  ⟨fun _ _ _ => Prod.ext BitVec.setWidth_and.symm rfl, fun _ _ _ => rfl⟩

theorem amoOr_computes : AmoComputes 3 fun _ o b _ => o ||| b :=
  ⟨fun _ _ _ => Prod.ext BitVec.setWidth_or.symm rfl, fun _ _ _ => rfl⟩

theorem amoXor_computes : AmoComputes 4 fun _ o b _ => o ^^^ b :=
  ⟨fun _ _ _ => Prod.ext BitVec.setWidth_xor.symm rfl, fun _ _ _ => rfl⟩

/-- The order of words, compared as the atomics do: extended to 64 bits. -/
theorem slt_extended (o b : BitVec 32) : (o.signExtend 64 : Word).slt (b.signExtend 64) = decide (o.toInt < b.toInt) := by
  rw [BitVec.slt_eq_decide]
  simp [BitVec.toInt_signExtend_of_le]

theorem ult_extended (o b : BitVec 32) : (o.setWidth 64 : Word).ult (b.setWidth 64) = decide (o.toNat < b.toNat) := by
  rw [BitVec.ult_eq_decide]
  simp; omega

theorem amoMin_computes : AmoComputes 5 fun _ o b _ => if o.toInt < b.toInt then o else b := by
  refine ⟨fun o b d => Prod.ext ?_ rfl, fun o b d => Prod.ext ?_ rfl⟩
  · simp [amoNew, slt_extended, apply_ite (BitVec.setWidth 64)]
  · simp [amoNew, BitVec.slt_eq_decide]

theorem amoMax_computes : AmoComputes 6 fun _ o b _ => if o.toInt < b.toInt then b else o := by
  refine ⟨fun o b d => Prod.ext ?_ rfl, fun o b d => Prod.ext ?_ rfl⟩
  · simp [amoNew, slt_extended, apply_ite (BitVec.setWidth 64)]
  · simp [amoNew, BitVec.slt_eq_decide]

theorem amoMinn_computes : AmoComputes 7 fun _ o b _ => if o.toNat < b.toNat then o else b := by
  refine ⟨fun o b d => Prod.ext ?_ rfl, fun o b d => Prod.ext ?_ rfl⟩
  · simp [amoNew, ult_extended, apply_ite (BitVec.setWidth 64)]
  · simp [amoNew, BitVec.ult_eq_decide]

theorem amoMaxn_computes : AmoComputes 8 fun _ o b _ => if o.toNat < b.toNat then b else o := by
  refine ⟨fun o b d => Prod.ext ?_ rfl, fun o b d => Prod.ext ?_ rfl⟩
  · simp [amoNew, ult_extended, apply_ite (BitVec.setWidth 64)]
  · simp [amoNew, BitVec.ult_eq_decide]

theorem cas_computes : AmoComputes 9 fun _ o b d => if o = d then b else o := by
  refine ⟨fun o b d => Prod.ext ?_ rfl, fun o b d => rfl⟩
  have hinj : (o.setWidth 64 : Word) = d.setWidth 64 ↔ o = d :=
    ⟨fun h => by simpa using congrArg (BitVec.setWidth 32) h, congrArg _⟩
  simp [amoNew, hinj, apply_ite (BitVec.setWidth 64)]

/-- Each integer atomic runs the operation of its own number (R197). -/
theorem exec_amoForms : ∀ p ∈ amoForms, ∃ op, AmoComputes op p.2 ∧ ∀ ord scope size rd rs1 rs2 s,
    exec (p.1 ord scope size rd rs1 rs2) s = .next (amo s op ord scope size rd rs1 rs2) := by
  simp only [amoForms, List.forall_mem_cons, List.not_mem_nil, false_implies, implies_true, and_true]
  exact ⟨⟨0, amoAdd_computes, fun _ _ _ _ _ _ _ => rfl⟩, ⟨1, amoSwap_computes, fun _ _ _ _ _ _ _ => rfl⟩,
    ⟨2, amoAnd_computes, fun _ _ _ _ _ _ _ => rfl⟩, ⟨3, amoOr_computes, fun _ _ _ _ _ _ _ => rfl⟩,
    ⟨4, amoXor_computes, fun _ _ _ _ _ _ _ => rfl⟩, ⟨5, amoMin_computes, fun _ _ _ _ _ _ _ => rfl⟩,
    ⟨6, amoMax_computes, fun _ _ _ _ _ _ _ => rfl⟩, ⟨7, amoMinn_computes, fun _ _ _ _ _ _ _ => rfl⟩,
    ⟨8, amoMaxn_computes, fun _ _ _ _ _ _ _ => rfl⟩, ⟨9, cas_computes, fun _ _ _ _ _ _ _ => rfl⟩⟩

theorem integerAtomics : Clause.IntegerAtomics := by
  intro p hp sc hsc s u a ord size rd rs1 rs2 hs hreach o old
  obtain ⟨op, hop, hexec⟩ := exec_amoForms p hp
  have hlen : o.1.length = amoBytes size := (oldBytes_length _ _).trans (reachesRmw_locs hreach)
  obtain ⟨v, hnew, hv⟩ := hop.result (b := s.x rs2) (d := s.x rd) (amoOperand_leWord hlen)
  rw [hexec, amo_ends hs hreach (by rw [scopeOf_amoScopes sc hsc]) rfl hnew (by simp [State.traps]), scopeOf_amoScopes sc hsc, hv]
  rfl

theorem amoNew_float {op : Nat} {f : Fmt → Nat → Nat → FRes} {size : BitVec 1} {o b d : Word}
    (h : ∀ n : Nat, ∀ o b d : Word, amoNew op n o b d =
      (BitVec.ofNat 64 (f (if n = 4 then f32 else f64) o.toNat b.toNat).1, (f (if n = 4 then f32 else f64) o.toNat b.toNat).2)) :
    amoNew op (amoBytes size) o (amoOperand size b) d =
      (BitVec.ofNat 64 (f (if size = 0 then f32 else f64) o.toNat (b.toNat % 2 ^ (8 * amoBytes size))).1,
        (f (if size = 0 then f32 else f64) o.toNat (b.toNat % 2 ^ (8 * amoBytes size))).2) := by
  have hb : (amoOperand size b).toNat = b.toNat % 2 ^ (8 * amoBytes size) := by
    unfold amoOperand amoBytes
    by_cases h0 : size = 0
    · simp only [h0, if_true, BitVec.toNat_setWidth]
      omega
    · simp only [h0, if_false]
      omega
  have hn : (if amoBytes size = 4 then f32 else f64) = if size = 0 then f32 else f64 := by
    unfold amoBytes
    by_cases h0 : size = 0 <;> simp [h0]
  rw [h, hb, hn]

/-- The bytes of a value that is first made a word. -/
theorem leBytes_word {n : Nat} (hn : n ∣ 8) (v : Nat) : leBytes n (BitVec.ofNat 64 v).toNat = leBytes n v := by
  rw [← leBytes_mod, ← leBytes_mod n v, BitVec.toNat_ofNat]
  exact congrArg _ (Nat.mod_mod_of_dvd v ((pow_dvd_pow 256 (Nat.le_of_dvd (by decide) hn)).trans (by decide)))

/-- Each floating atomic runs the operation of its own number (R197). -/
theorem exec_famoForms : ∀ p ∈ famoForms, ∃ op,
    (∀ n : Nat, ∀ o b d : Word, amoNew op n o b d = (BitVec.ofNat 64 (p.2 (if n = 4 then f32 else f64) o.toNat b.toNat).1,
      (p.2 (if n = 4 then f32 else f64) o.toNat b.toNat).2)) ∧
    ∀ ord scope size rd rs1 rs2 s, exec (p.1 ord scope size rd rs1 rs2) s = .next (amo s op ord scope size rd rs1 rs2) := by
  simp only [famoForms, List.forall_mem_cons, List.not_mem_nil, false_implies, implies_true, and_true]
  exact ⟨⟨10, fun _ _ _ _ => rfl, fun _ _ _ _ _ _ _ => rfl⟩, ⟨11, fun _ _ _ _ => rfl, fun _ _ _ _ _ _ _ => rfl⟩,
    ⟨12, fun _ _ _ _ => rfl, fun _ _ _ _ _ _ _ => rfl⟩⟩

theorem floatAtomics : Clause.FloatAtomics := by
  intro p hp sc hsc s u a ord size rd rs1 rs2 hs hreach o old r ht
  obtain ⟨op, hop, hexec⟩ := exec_famoForms p hp
  rw [hexec, amo_ends hs hreach (by rw [scopeOf_amoScopes sc hsc]) rfl (amoNew_float hop) ht, scopeOf_amoScopes sc hsc,
    leBytes_word (by unfold amoBytes; split <;> decide)]
  rfl

/-! Fences (R199, R200). -/

theorem drainRemote_ok {s : State} {mask : Nat} (hu : s.unacked s.cur mask = false) (hd : s.me.deferred = none) :
    s.drainRemote mask = .ok () := by
  unfold State.drainRemote
  simp [hu, hd]

theorem drainRemote_openChunk {s : State} {own : Bool} {mask : Nat} (hs : s.solo = true) (hu : s.unacked s.cur mask = false)
    (hd : s.me.deferred = none) : (s.openChunk own).drainRemote mask = .ok () := by
  rw [openChunk_solo hs]
  refine drainRemote_ok (Eq.trans ?_ hu) (by rw [me_setHart_self]; exact hd)
  simp only [State.unacked, State.ownPacket, State.replicas, State.groupOf, setHart_cur, hart_setHart_self, setHart_packets, setHart_jobs,
    setHart_dev, setHart_groups]
  rfl

theorem fenceScope_fenceScopes : ∀ sc ∈ fenceScopes, fenceScope sc.1 = sc.2 := by decide

theorem exec_fenceForms : ∀ p ∈ fenceForms, ∀ (sc : BitVec 3) (s : State), exec (p.1 sc) s = .next (fence s p.2.1 p.2.2 sc) := by
  simp only [fenceForms, List.forall_mem_cons, List.not_mem_nil, false_implies, implies_true, and_true]
  exact ⟨fun _ _ => rfl, fun _ _ => rfl, fun _ _ => rfl⟩

/-- A fence between two chunks whose scope has nothing to drain. -/
theorem fence_ends {s : State} {rel acq : Bool} {scope : BitVec 3} (hs : s.solo = true)
    (hfab : scope = 4 → s.unacked s.cur 0xFFFF = false ∧ s.me.deferred = none) :
    fence s rel acq scope =
      ((((if rel then (s.openChunk false).closing (fenceScope scope) else s.openChunk false).acquireIf acq (fenceScope scope)).next 4).ends s.pc) := by
  refine run_alone hs ?_ rfl rfl
  by_cases h4 : scope = 4
  · obtain ⟨hu, hd⟩ := hfab h4
    have hdrain := drainRemote_openChunk (own := false) hs hu hd
    simp only [h4, show (4 : BitVec 3).toNat = 4 from rfl, if_true, bind, Except.bind, Shape.last]
    rw [hdrain]
    rfl
  · have h4' : scope.toNat ≠ 4 := fun h => h4 (BitVec.eq_of_toNat_eq h)
    simp only [h4', if_false]
    rfl

theorem fences : Clause.Fences := by
  intro p hp sc hsc s hs hfab
  rw [exec_fenceForms p hp, fence_ends hs hfab, fenceScope_fenceScopes sc hsc]

theorem codeFence : Clause.CodeFence := by
  intro s hs
  refine congrArg _ (run_alone (sh := .last) hs ?_ rfl rfl)
  rw [← cur_openChunk s false]
  rfl

/-! Monitors (R201, R202). -/

theorem mon_ends {s u : State} {size : Nat} {rd rs1 : Reg} {a : Acc} (hsize : size ≤ 3) (hs : s.solo = true)
    (h : (s.openChunk true).check (s.who s.cur) .load (2 ^ size) 0 (s.x rs1) (2 ^ size) = .ok (a, u)) :
    mon s (2 ^ size) rd rs1 =
      ((((((u.oldBytes a.locs).2.onMe fun x => { x with monitor := some { line := lineOf (a.locs.headD 0), fired := false } }).setX rd
          (fromBytes true (2 ^ size) (u.oldBytes a.locs).1)).acquire s.cur .device).next 4).ends s.pc) := by
  have hcur : (u.oldBytes a.locs).2.cur = s.cur :=
    ((quiet_check h).trans (quiet_oldBytes u a.locs)).cur.trans (cur_openChunk s true)
  have hext : loadExt true (2 ^ size) (u.oldBytes a.locs).1 = fromBytes true (2 ^ size) (u.oldBytes a.locs).1 :=
    loadExt_eq ((oldBytes_length _ _).trans (check_locs hsize h)) (Nat.two_pow_pos size) (two_pow_size_le hsize)
  refine run_alone hs ((forwarded_performs (own := true) hs (v := [fromBytes true (2 ^ size) (u.oldBytes a.locs).1])
    (t := (u.oldBytes a.locs).2.onMe fun x => { x with monitor := some { line := lineOf (a.locs.headD 0), fired := false } }) ?_).trans ?_) rfl rfl
  · rw [(SameHart.openChunk s true).who]
    simp only [x_openChunk, h, bind, Except.bind, pure, Except.pure]
    rw [← hext]
    rfl
  · rw [← hcur]
    rfl

/-- WAIT that need not park. -/
theorem wait_ends {s : State} {rd rs1 : Reg} {code : Nat} (hs : s.solo = true) (h : (s.openChunk true).me.waitOutcome = some code) :
    exec (.wait rd rs1) s = .next
        ((((((s.openChunk true).onMe fun x => { x with monitor := none }).setX rd (BitVec.ofNat 64 code)).acquire s.cur .device).next
          4).ends s.pc) := by
  refine congrArg _ (run_alone hs ((forwarded_performs (own := true) hs (v := [BitVec.ofNat 64 code])
    (t := (s.openChunk true).onMe fun x => { x with monitor := none }) ?_).trans ?_) rfl rfl)
  · rw [h]
  · rw [← cur_openChunk s true]
    rfl

theorem waitOutcome_fired {x : Hart} {m : Monitor} (hp : x.pending = none) (hm : x.monitor = some m) (hf : m.fired = true) :
    x.waitOutcome = some 0 := by
  unfold Hart.waitOutcome
  simp [hp, hm, hf]

theorem waitOutcome_unarmed {x : Hart} (hp : x.pending = none) (hm : x.monitor = none) : x.waitOutcome = some 3 := by
  unfold Hart.waitOutcome
  simp [hp, hm]


theorem monitor_openChunk {s : State} (hs : s.solo = true) (own : Bool) :
    (s.openChunk own).me.pending = s.me.pending ∧ (s.openChunk own).me.monitor = s.me.monitor := by
  rw [openChunk_solo hs, me_setHart_self]
  exact ⟨rfl, rfl⟩

theorem mon_forms {s : State} {rd rs1 : Reg} (hs : s.solo = true) : ∀ p ∈ [(Instr.monW, 4), (Instr.monD, 8)], ∀ (a : Acc) (u : State),
    (s.openChunk true).check (s.who s.cur) .load p.2 0 (s.x rs1) p.2 = .ok (a, u) →
    let o := u.oldBytes a.locs
    exec (p.1 rd rs1) s = .next
      (((((o.2.onMe fun x => { x with monitor := some { line := lineOf (a.locs.headD 0), fired := false } }).setX rd
        (fromBytes true p.2 o.1)).acquire s.cur .device).next 4).ends s.pc) := by
  simp only [List.forall_mem_cons, List.not_mem_nil, false_implies, implies_true, and_true]
  exact ⟨fun a u h => congrArg _ (mon_ends (size := 2) (by decide) hs h), fun a u h => congrArg _ (mon_ends (size := 3) (by decide) hs h)⟩

theorem wait_forms {s : State} {rd rs1 : Reg} {code : Nat} (hs : s.solo = true) (hp : s.me.pending = none)
    (hcode : code = 0 ∧ (∃ m, s.me.monitor = some m ∧ m.fired = true) ∨ code = 3 ∧ s.me.monitor = none) :
    exec (.wait rd rs1) s = .next
      ((((((s.openChunk true).onMe fun x => { x with monitor := none }).setX rd (BitVec.ofNat 64 code)).acquire s.cur .device).next
        4).ends s.pc) := by
  obtain ⟨hpend, hmon⟩ := monitor_openChunk hs true
  refine wait_ends hs ?_
  rcases hcode with ⟨rfl, m, hm, hf⟩ | ⟨rfl, hm⟩
  · exact waitOutcome_fired (hpend.trans hp) (hmon.trans hm) hf
  · exact waitOutcome_unarmed (hpend.trans hp) (hmon.trans hm)

/-! Barriers (R204, R205). -/

theorem SameHart.bankAsk (s : State) (port : Nat) (later : Nat → Nat) (op : Nat → BankOp) (words : List Nat) :
    SameHart s (s.bankAsk port later op words) := by
  unfold State.bankAsk
  induction words generalizing s with
  | nil => exact ⟨rfl, rfl, rfl, rfl⟩
  | cons w ws ih => exact (SameHart.onCore s _ _).trans (ih _)

theorem SameHart.readAcc (s : State) (a : Acc) (ins : Insert) : SameHart s (s.readAcc a ins).2 := by
  have hread := (SameHart.of_quiet (quiet_touchAll s (clusterOf s.cur) a.locs (a.insert ins))).trans
    (SameHart.onChunk _ fun c => { c with reads := nub (linesOf (a.locs.filter isHbm) ++ c.reads) })
  unfold State.readAcc
  dsimp only
  split
  · exact hread.trans (SameHart.bankAsk _ _ _ _ _)
  · split
    · exact hread
    · exact hread.trans (SameHart.countConflicts _ _ _)

theorem SameHart.load {s u : State} {align n : Nat} {va : Word} {ins : Insert} {o : List Byte} {a : Acc}
    (h : s.load align va n ins = .ok (o, a, u)) : SameHart s u := by
  unfold State.load at h
  simp only [bind, Except.bind, pure, Except.pure] at h
  split at h
  · cases h
  next r hcheck =>
    cases h
    exact (SameHart.of_quiet (quiet_check hcheck)).trans (SameHart.readAcc _ _ _)

theorem regIn_ok {n : Nat} {r : Reg} {w : Word} (h : r.toNat < n) : regIn n r w = .ok () := if_pos h

theorem bset_ends {s u : State} {bb rs1 : Reg} {o : List Byte} {a : Acc} (hs : s.solo = true) (hbb : bb.toNat < 8)
    (h : (s.openChunk false).load 64 (s.x rs1) 64 = .ok (o, a, u)) (ho : barrierBad o = false) :
      exec (.bset bb rs1) s = .next
        ((((hartsOfCore (coreOf s.cur)).foldl
          (fun s h => if (mapFind? s.harts h).isSome then s.onHart h fun x => { x with arrivals := mapErase x.arrivals bb.toNat } else s)
          (u.onMyCore fun k => { k with
            bb := mapPut k.bb bb.toNat { obj := a.locs.headD 0, va := s.x rs1, ctx := s.me.ctx, harts := hartsOfCore (coreOf s.cur) } })).next
            4).ends s.pc) := by
  have hsame : SameHart s u := (SameHart.openChunk s false).trans (SameHart.load h)
  refine congrArg _ (run_alone hs ?_ rfl rfl)
  simp only [regIn_ok hbb, bind, Except.bind, pure, Except.pure, x_openChunk, Shape.alone]
  simp only [h, ho, Bool.false_eq_true, if_false, onMyCore_eq, setCore_cur, hsame.cur, hsame.ctx]

theorem bbReg_openChunk {s : State} (hs : s.solo = true) (own : Bool) (n : Nat) : (s.openChunk own).bbReg n = s.bbReg n := by
  rw [openChunk_solo hs]
  rfl

theorem arriveAt_lt (s : State) (h obj : Nat) : (s.arriveAt h obj).1 < 2 ^ 32 := Nat.mod_lt _ (by decide)

theorem arrive_ends {s : State} {bb : Reg} {reg : BbReg} (hs : s.solo = true) (hbb : bb.toNat < 8) (h : s.bbReg bb.toNat = some reg) :
    let r := ((s.openChunk true).release s.cur .device).arriveAt s.cur reg.obj
    exec (.arrive bb) s = .next
          (((r.2.onMe fun x => { x with arrivals := mapPut x.arrivals bb.toNat r.1 }).next 4).ends s.pc) := by
  intro r
  have hb : (s.openChunk true).bbReg bb.toNat = some reg := (bbReg_openChunk hs true _).trans h
  have hr : ((s.openChunk true).release (s.openChunk true).cur .device).arriveAt (s.openChunk true).cur reg.obj = r := by
    rw [cur_openChunk]
  have hphase : (BitVec.ofNat 64 r.1).toNat = r.1 := by
    have : r.1 < 2 ^ 32 := arriveAt_lt _ _ _
    rw [BitVec.toNat_ofNat]
    omega
  refine congrArg _ (run_alone hs ?_ rfl rfl)
  simp only [regIn_ok hbb, bind, Except.bind, Shape.home, hb]
  refine (forwarded_performs (own := true) hs (v := [BitVec.ofNat 64 r.1]) (t := r.2) ?_).trans ?_
  · rw [← hr]
  · rw [List.headD_cons, hphase]

theorem phaseAt_openChunk {s : State} (hs : s.solo = true) (own : Bool) (h obj : Nat) :
    (s.openChunk own).phaseAt h obj = s.phaseAt h obj := by
  have hctx : ((s.openChunk own).hart h).ctx = (s.hart h).ctx := by
    rw [openChunk_solo hs]
    by_cases hk : h = s.cur
    · rw [hk, hart_setHart_self]
      rfl
    · rw [hart_setHart_ne s _ hk]
  simp only [State.phaseAt, State.hartMark, hctx]
  rw [openChunk_solo hs]
  rfl

/-- BWAIT whose phase has changed need not park. -/
theorem bwait_ends {s : State} {bb : Reg} {reg : BbReg} {phase : Nat} (hs : s.solo = true) (hbb : bb.toNat < 8)
    (h : s.bbReg bb.toNat = some reg) (hrec : mapFind? s.me.arrivals bb.toNat = some phase) (hphase : s.phaseAt s.cur reg.obj ≠ phase) :
    exec (.bwait bb) s = .next
      (((((s.openChunk true).onMe fun x => { x with arrivals := mapErase x.arrivals bb.toNat }).acquire s.cur .device).next
        4).ends s.pc) := by
  have hb : (s.openChunk true).bbReg bb.toNat = some reg := (bbReg_openChunk hs true _).trans h
  have ha : mapFind? (s.openChunk true).me.arrivals bb.toNat = some phase := by
    rw [openChunk_solo hs, me_setHart_self]
    exact hrec
  refine congrArg _ (run_alone hs ?_ rfl rfl)
  simp only [regIn_ok hbb, bind, Except.bind, Shape.home, hb, ha]
  refine (forwarded_performs (own := true) hs (v := [BitVec.ofNat 64 phase]) (t := s.openChunk true) ?_).trans ?_
  · rw [cur_openChunk, phaseAt_openChunk hs, if_neg hphase]
  · rw [← cur_openChunk s true]


end Sys2Proof.Machine

open Sys2Proof Sys2Proof.Machine

/-- Settles O15: each atomic runs the operation of its own number on the checked operand, in one action at its home. -/
theorem atomics : Obligations.Atomics := ⟨integerAtomics, floatAtomics⟩

/-- Settles O16: the drain of scope .fab passes, and FENCE.code marks the commit of its chunk. -/
theorem fencesOfMemoryAndCode : Obligations.FencesOfMemoryAndCode := ⟨fences, codeFence⟩

/-- Settles O17: the read of MON at the home, and the outcomes of WAIT that need no park. -/
theorem monitorAndWait : Obligations.MonitorAndWait := fun _ _ _ hs => ⟨mon_forms hs, fun hp _ => wait_forms hs hp⟩

/-- Settles O18: each of the three in the chunk that it opens, whose bindings and phase are those before it. -/
theorem barriers : Obligations.Barriers := fun _ _ hs hbb =>
  ⟨fun _ _ _ _ h ho => bset_ends hs hbb h ho, fun _ hreg => ⟨arrive_ends hs hbb hreg, fun _ hrec hphase => bwait_ends hs hbb hreg hrec hphase⟩⟩
end

section
/-! Proofs of the statements on queues (spec/09 R207-R215, spec/15 R308-R316, spec/05 R105). -/

namespace Sys2Proof.Machine

/-! The element in registers, and the checks at the home. -/

theorem dwords_step {n : Nat} (hn : 0 < n) (e : List Byte) : dwords n e = leWord (e.take 8) :: dwords (n - 1) (e.drop 8) := by
  obtain ⟨m, rfl⟩ := Nat.exists_eq_succ_of_ne_zero hn.ne'
  rfl

theorem length_dwords (n : Nat) (e : List Byte) : (dwords n e).length = n := by
  induction n generalizing e with
  | zero => rfl
  | succ n ih => rw [dwords, List.length_cons, ih]

/-- An element of whole doublewords survives its way through registers. -/
theorem ofDwords_dwords {n : Nat} {e : List Byte} (h : e.length = 8 * n) : ofDwords (dwords n e) = e := by
  induction n generalizing e with
  | zero => rw [List.eq_nil_of_length_eq_zero h]; rfl
  | succ n ih =>
    have htake : (e.take 8).length = 8 := by simp; omega
    have hword : leBytes 8 (leWord (e.take 8)).toNat = e.take 8 := by
      have hlow := leBytes_leNat (e.take 8)
      rw [htake] at hlow
      rw [leWord, leBytes_word (by decide), hlow]
    rw [dwords, ofDwords, List.flatMap_cons, hword, ← ofDwords, ih (by simp; omega), List.take_append_drop]

/-- The registers of an element of whole doublewords: its low doubleword first. -/
theorem dwords_element {e : List Byte} (h8 : e.length % 8 = 0) (h0 : 0 < e.length) :
    ofDwords (dwords ((e.length + 7) / 8) e) = e ∧ (dwords ((e.length + 7) / 8) e).headD 0 = fromBytes false 8 (e.take 8) := by
  refine ⟨ofDwords_dwords (by omega), ?_⟩
  rw [dwords_step (by omega)]
  rfl

/-- An unsound control block: the queue is poisoned (R208). -/
theorem homeCheck_unsound {v : State} {q : Nat} {va : Word} (h : (v.queueAt q).sound q = false) :
    v.homeCheck v.actor va q =
      .error (.trapIn (v.poison v.actor.mark q) Cause.queueCorrupt va (BitVec.ofNat 64 (v.queueAt q).ctr)) := by
  unfold State.queueAt at h ⊢
  simp only [State.homeCheck, h, Bool.not_false, if_true]

/-- A sound one of another context. -/
theorem homeCheck_foreign {v : State} {q : Nat} {va : Word} (hsound : (v.queueAt q).sound q = true)
    (h : (v.queueAt q).foreign v.me.ctx = true) : v.homeCheck v.actor va q = .error (.trap Cause.permission va 0) := by
  show (if !(v.queueAt q).sound q then _ else if (v.queueAt q).foreign v.me.ctx then _ else _) = _
  simp [hsound, h]

theorem homeCheck_owned {v : State} {q : Nat} {va : Word} (hsound : (v.queueAt q).sound q = true)
    (h : (v.queueAt q).foreign v.me.ctx = false) : v.homeCheck v.actor va q = .ok () := by
  show (if !(v.queueAt q).sound q then _ else if (v.queueAt q).foreign v.me.ctx then _ else _) = _
  simp [hsound, h]

/-- A sound one whose KIND refuses the operation to harts. -/
theorem kindCheck_refuses {v : State} {q : Nat} {va : Word} {use : QUse} (h : refusedByKind (v.queueAt q).kind use = true) :
    v.kindCheck v.actor va q use = .error (.trap Cause.permission va 0) := if_pos h

section
variable {u v : State} {q : Nat} {use : QUse} {a : Actor} {va : Word}

theorem homeCheck_ok (ha : v.actor = a) (h : v.queueOk q use = true) : v.homeCheck a va q = .ok () := by
  subst ha
  simp only [State.queueOk, Bool.and_eq_true, Bool.not_eq_true'] at h
  obtain ⟨⟨hsound, hforeign⟩, -⟩ := h
  exact homeCheck_owned hsound hforeign

theorem kindCheck_ok (ha : v.actor = a) (h : v.queueOk q use = true) : v.kindCheck a va q use = .ok () := by
  subst ha
  simp only [State.queueOk, Bool.and_eq_true, Bool.not_eq_true'] at h
  obtain ⟨-, hkind⟩ := h
  exact if_neg (by rw [← State.queueAt, hkind]; decide)

end

theorem handoff_openChunk {s : State} (hs : s.solo = true) (own : Bool) : (s.openChunk own).me.handoff = s.me.handoff := by
  rw [openChunk_solo hs, me_setHart_self]

/-! Enqueuing (R211, R213). -/

/-- An element that is taken, or that waits: ENQ and QGATH. -/
theorem enqueue_ends {s u v t : State} {qva : Word} {q : Nat} {reg : Option Word} {elemVa : Nat → Word} {e : List Byte}
    (hs : s.solo = true) (hq : s.reachesQueue qva q u) (hv : v.actor = u.actor) (hok : v.queueOk q .enq = true)
    (he : u.enqElem (u.queueAt q).esize reg (elemVa (u.queueAt q).esize) = .ok (e, v))
    (ht : (v.qRelease q).enqAt u.actor q e = .ok (some t)) : enqueue s qva reg elemVa = (t.next 4).ends s.pc := by
  obtain ⟨haddr, hnone⟩ := hq
  have hhand := (handoff_openChunk hs true).trans hnone
  refine run_alone hs (forwarded_performs (own := true) hs (v := []) (t := t) ?_) rfl rfl
  unfold State.queueAt at he
  simp only [hhand, haddr, bind, Except.bind, pure, Except.pure, he, homeCheck_ok hv hok, kindCheck_ok hv hok, ht]

theorem enqueue_joins {s u v : State} {qva : Word} {q : Nat} {reg : Option Word} {elemVa : Nat → Word} {e : List Byte}
    (hs : s.solo = true) (hq : s.reachesQueue qva q u) (hv : v.actor = u.actor) (hok : v.queueOk q .enq = true)
    (he : u.enqElem (u.queueAt q).esize reg (elemVa (u.queueAt q).esize) = .ok (e, v))
    (ht : (v.qRelease q).enqAt u.actor q e = .ok none) : enqueue s qva reg elemVa = (v.qRelease q).joinEnq u.actor q .enq e := by
  obtain ⟨haddr, hnone⟩ := hq
  have hhand := (handoff_openChunk hs true).trans hnone
  refine run_handles hs (e := .become ((v.qRelease q).joinEnq u.actor q .enq e)) (forwarded_fails (own := true) hs ?_)
  unfold State.queueAt at he
  simp only [hhand, haddr, bind, Except.bind, throw, throwThe, MonadExceptOf.throw, he, homeCheck_ok hv hok, kindCheck_ok hv hok, ht]

theorem exec_enq (rs1 rs2 : Reg) (s : State) : exec (.enq rs1 rs2) s = .next (enqueue s (s.x rs1) (some (s.x rs2)) fun _ => s.x rs2) := rfl

theorem exec_qgath (rd rs1 rs2 : Reg) (s : State) :
    exec (.qgath rd rs1 rs2) s = .next (enqueue s (s.x rd) none fun es => s.x rs1 + s.x rs2 * BitVec.ofNat 64 es) := rfl

theorem enqueues : Clause.Enqueues := by
  intro s u v q e rd rs1 rs2 hs hv hok
  rw [exec_enq, exec_qgath]
  refine ⟨fun hq he => ⟨fun t ht => ?_, fun ht => ?_⟩, fun hq he => ⟨fun t ht => ?_, fun ht => ?_⟩⟩
  · rw [enqueue_ends hs hq hv hok he ht]
  · rw [enqueue_joins hs hq hv hok he ht]
  · rw [enqueue_ends hs hq hv hok he ht]
  · rw [enqueue_joins hs hq hv hok he ht]

theorem triedEnqueues : Clause.TriedEnqueues := by
  intro s u v q e rd rs1 rs2 hs hq hv hok
  obtain ⟨haddr, -⟩ := hq
  refine ⟨fun he => ⟨fun t t' ht ht' => ?_, fun ht => ?_⟩, fun hpos he k t t' hk ht ht' => ?_⟩
  · refine congrArg Host.Outcome.next (run_alone hs ((forwarded_performs (own := true) hs (v := [0]) (t := t') ?_).trans rfl) rfl rfl)
    unfold State.queueAt at he
    simp only [haddr, bind, Except.bind, pure, Except.pure, he, homeCheck_ok hv hok, kindCheck_ok hv hok, ht, ht']
  · refine congrArg Host.Outcome.next (run_alone hs ((forwarded_performs (own := true) hs (v := [1]) (t := v) ?_).trans rfl) rfl rfl)
    unfold State.queueAt at he
    simp only [haddr, bind, Except.bind, pure, Except.pure, he, homeCheck_ok hv hok, kindCheck_ok hv hok, ht]
  · have h0 : Nat.min (s.x rd).toNat 64 ≠ 0 := by
      show min (s.x rd).toNat 64 ≠ 0
      omega
    refine congrArg Host.Outcome.next (run_alone hs ((forwarded_performs (own := true) hs (v := [BitVec.ofNat 64 k]) (t := t') ?_).trans rfl) rfl rfl)
    unfold State.queueAt at he ht ht'
    simp only [haddr, bind, Except.bind, pure, Except.pure, h0, if_false, he, homeCheck_ok hv hok, kindCheck_ok hv hok, ht, hk.ne', ht']

/-! Dequeuing (R212, R105). -/

/-- The destination that a dequeue locates before the home is contacted: none for an element that fits a register. -/
def State.locates (u : State) (dest? : Option Word) (n : Nat) (locs : List Nat) (v : State) : Prop :=
  (dest? = none ∧ locs = [] ∧ v = u) ∨ ∃ va, dest? = some va ∧ u.deqDest va n = .ok (locs, v)

section
variable {b u v : State} {qva : Word} {q : Nat} {dest? : Nat → Option Word} {kind : List Nat → QKind} {locs : List Nat}
  (haddr : b.qAddr qva = .ok (q, u)) (hdest : u.locates (dest? (u.queueAt q).esize) (u.queueAt q).esize locs v)
  (hv : v.actor = u.actor) (hok : v.queueOk q .deq = true)
include haddr hdest hv hok

/-- The element at the head is taken, with an acquire. -/
theorem takeElem_ok {e : List Byte} {t : State} (ht : v.deqAt u.actor q = .ok (some (e, t))) :
    b.takeElem qva dest? kind = .ok (e, locs, t.qAcquire q) := by
  unfold State.takeElem
  unfold State.queueAt at hdest
  rcases hdest with ⟨hnone, rfl, rfl⟩ | ⟨va, hsome, hloc⟩
  · simp only [haddr, bind, Except.bind, pure, Except.pure, hnone, homeCheck_ok hv hok, kindCheck_ok hv hok, ht]
  · simp only [haddr, bind, Except.bind, pure, Except.pure, hsome, hloc, homeCheck_ok hv hok, kindCheck_ok hv hok, ht]

/-- On an empty queue the hart joins the waiters and parks. -/
theorem takeElem_joins (ht : v.deqAt u.actor q = .ok none) :
    b.takeElem qva dest? kind = .error (.become (v.joinDeq u.actor q (kind locs))) := by
  unfold State.takeElem
  unfold State.queueAt at hdest
  rcases hdest with ⟨hnone, rfl, rfl⟩ | ⟨va, hsome, hloc⟩
  · simp only [haddr, bind, Except.bind, throw, throwThe, MonadExceptOf.throw, hnone, homeCheck_ok hv hok, kindCheck_ok hv hok, ht]
  · simp only [haddr, bind, Except.bind, throw, throwThe, MonadExceptOf.throw, hsome, hloc, homeCheck_ok hv hok, kindCheck_ok hv hok, ht]

end

/-- Which destination a DEQ locates for elements of n bytes. -/
def deqTo (va : Word) (n : Nat) : Option Word := if 8 < n then some va else none

theorem deqTo_eq (va : Word) : (fun n : Nat => if 8 < n then some va else none) = deqTo va := rfl

section
variable {s u v : State} {q : Nat} {rd rs1 rs2 : Reg} {locs : List Nat} (hs : s.solo = true) (hq : s.reachesQueue (s.x rs1) q u)
  (hdest : u.locates (deqTo (s.x rs2) (u.queueAt q).esize) (u.queueAt q).esize locs v) (hv : v.actor = u.actor)
  (hok : v.queueOk q .deq = true)
include hs hq hdest hv hok

theorem deq_joins (ht : v.deqAt u.actor q = .ok none) : exec (.deq rd rs1 rs2) s = .next (v.joinDeq u.actor q (.deq rd locs)) := by
  obtain ⟨haddr, hnone⟩ := hq
  have hhand := (handoff_openChunk hs true).trans hnone
  refine congrArg Host.Outcome.next (run_handles hs (e := .become (v.joinDeq u.actor q (.deq rd locs))) (forwarded_fails (own := true) hs ?_))
  simp only [hhand, bind, Except.bind, deqTo_eq, takeElem_joins haddr hdest hv hok ht]

/-- An element of whole doublewords is taken, and goes to its destination and its low doubleword to X[rd]. -/
theorem deq_ends {e : List Byte} {t w : State} {dest : List Nat} (ht : v.deqAt u.actor q = .ok (some (e, t))) (h8 : e.length % 8 = 0)
    (h0 : 0 < e.length) (hhand' : (t.qAcquire q).me.handoff = none)
    (hput : (t.qAcquire q).locates (deqTo (s.x rs2) e.length) e.length dest w) :
    exec (.deq rd rs1 rs2) s = .next ((((w.putElem (s.x rs2) dest e).setX rd (fromBytes false 8 (e.take 8))).next 4).ends s.pc) := by
  obtain ⟨haddr, hnone⟩ := hq
  have hhand := (handoff_openChunk hs true).trans hnone
  obtain ⟨hbytes, hlow⟩ := dwords_element h8 h0
  have hmany : 1 < (dwords ((e.length + 7) / 8) e).length ↔ 8 < e.length := by rw [length_dwords]; omega
  refine congrArg Host.Outcome.next (run_alone hs
    ((forwarded_performs (own := true) hs (v := dwords ((e.length + 7) / 8) e) (t := t.qAcquire q) ?_).trans ?_) rfl rfl)
  · simp only [hhand, bind, Except.bind, pure, Except.pure, deqTo_eq, takeElem_ok haddr hdest hv hok ht]
  · simp only [hhand', hbytes, hlow, hmany, bind, Except.bind, pure, Except.pure]
    by_cases hlong : 8 < e.length
    · rw [deqTo, if_pos hlong] at hput
      obtain ⟨hdead, -⟩ | ⟨va, hva, hloc⟩ := hput
      · cases hdead
      · cases hva
        simp only [hlong, if_true, hloc]
    · rw [deqTo, if_neg hlong] at hput
      obtain ⟨-, rfl, rfl⟩ | ⟨va, hva, -⟩ := hput
      · simp only [hlong, if_false]
      · cases hva

end

theorem putElem_nil (t : State) (va : Word) (e : List Byte) : t.putElem va [] e = t := rfl

theorem gangCode_openChunk (s : State) (own : Bool) : (s.openChunk own).gangCode = s.gangCode := by
  rw [State.gangCode, csr_openChunk, ← State.gangCode]

/-- Where a BQ goes with the low doubleword `d`. -/
theorem bq_target (t : State) (off : BitVec 14) (d cmp : Word) :
    branchPc t.pc off (d != cmp) = if d = cmp then t.pc + 4 else t.pc + off.signExtend 64 * 2 := by
  rw [branchPc_eq]
  by_cases h : d = cmp <;> simp [h]

section
variable {s u : State} {q : Nat} {rs1 rs2 : Reg} {off : BitVec 14} (hs : s.solo = true) (hg : s.gangCode = 0)
  (hq : s.reachesQueue (s.x rs1) q u) (hok : u.queueOk q .deq = true)
include hs hg hq hok

theorem bq_ends {e : List Byte} {t : State} (ht : u.deqAt u.actor q = .ok (some (e, t))) :
    exec (.bq rs1 rs2 off) s = .next (((t.qAcquire q).setPc
      (if fromBytes false 8 (e.take 8) = s.x rs2 then (t.qAcquire q).pc + 4 else (t.qAcquire q).pc + off.signExtend 64 * 2)).ends s.pc) := by
  obtain ⟨haddr, hnone⟩ := hq
  have hhand := (handoff_openChunk hs true).trans hnone
  refine congrArg Host.Outcome.next (run_alone hs ?_ rfl rfl)
  simp only [gangCode_openChunk, hg, ne_eq, not_true_eq_false, if_false, bind, Except.bind, Shape.home]
  refine (forwarded_performs (own := true) hs (v := [leWord (e.take 8)]) (t := t.qAcquire q) ?_).trans ?_
  · simp only [hhand, pure, Except.pure, takeElem_ok (dest? := fun _ => none) haddr (.inl ⟨rfl, rfl, rfl⟩) rfl hok ht]
  · rw [List.headD_cons, bq_target]
    rfl

theorem bq_joins (ht : u.deqAt u.actor q = .ok none) :
    exec (.bq rs1 rs2 off) s = .next (u.joinDeq u.actor q (.bq (s.x rs2) off)) := by
  obtain ⟨haddr, hnone⟩ := hq
  have hhand := (handoff_openChunk hs true).trans hnone
  refine congrArg Host.Outcome.next (run_handles hs (e := .become (u.joinDeq u.actor q (.bq (s.x rs2) off))) ?_)
  simp only [gangCode_openChunk, hg, ne_eq, not_true_eq_false, if_false, bind, Except.bind, Shape.home]
  refine forwarded_fails (own := true) hs ?_
  simp only [hhand, takeElem_joins (dest? := fun _ => none) haddr (.inl ⟨rfl, rfl, rfl⟩) rfl hok ht]

end

theorem dequeues : Clause.Dequeues := by
  intro s u q rd rs1 rs2 off hs hq
  refine ⟨fun hsize hok => ⟨fun e t ht h8 hhand => ?_, fun ht => ?_⟩,
    fun hsize locs v hdest hv hok => ⟨fun e t w dest ht hlen h8 hhand hput => ?_, fun ht => ?_⟩,
    fun hg hok => ⟨fun e t ht => ?_, fun ht => ?_⟩⟩
  · have hto : u.locates (deqTo (s.x rs2) (u.queueAt q).esize) (u.queueAt q).esize [] u :=
      .inl ⟨if_neg (by omega), rfl, rfl⟩
    rw [deq_ends hs hq hto rfl hok ht (by omega) (by omega) hhand (.inl ⟨if_neg (by omega), rfl, rfl⟩), putElem_nil,
      List.take_of_length_le (by omega)]
  · exact deq_joins hs hq (.inl ⟨if_neg (by omega), rfl, rfl⟩) rfl hok ht
  · exact deq_ends hs hq (.inr ⟨_, if_pos hsize, hdest⟩) hv hok ht h8 (by omega) hhand (.inr ⟨_, if_pos hlen, hput⟩)
  · exact deq_joins hs hq (.inr ⟨_, if_pos hsize, hdest⟩) hv hok ht
  · exact bq_ends hs hg hq hok ht
  · exact bq_joins hs hg hq hok ht

theorem triedDequeues : Clause.TriedDequeues := by
  intro s u v q locs rd rs1 rs2 hs hq hdest hv hok
  obtain ⟨haddr, -⟩ := hq
  unfold State.queueAt at hdest
  refine ⟨fun ht => ?_, fun e t w dest ht h8 hput => ?_⟩
  · refine congrArg Host.Outcome.next (run_alone hs ((forwarded_performs (own := true) hs (v := [2]) (t := v) ?_).trans rfl) rfl rfl)
    simp only [haddr, bind, Except.bind, pure, Except.pure, hdest, homeCheck_ok hv hok, kindCheck_ok hv hok, ht]
  · refine congrArg Host.Outcome.next (run_alone hs ((forwarded_performs (own := true) hs
      (v := 0 :: dwords ((e.length + 7) / 8) e) (t := t.qAcquire q) ?_).trans ?_) rfl rfl)
    · simp only [haddr, bind, Except.bind, pure, Except.pure, hdest, homeCheck_ok hv hok, kindCheck_ok hv hok, ht]
    · show Except.bind ((t.qAcquire q).deqDest (s.x rs2) (ofDwords (dwords ((e.length + 7) / 8) e)).length) _ = _
      rw [ofDwords_dwords (show e.length = 8 * ((e.length + 7) / 8) by omega), hput]
      rfl

/-! What a queue tells and refuses (R208-R210, R313, R314). -/

theorem not_foreign {c : Qcb} {ctx : Nat} (h : c.owner = 0 ∨ c.owner = ctx % 2 ^ 16) : c.foreign ctx = false := by
  rcases h with h | h <;> simp [Qcb.foreign, h]

/-- The snapshot of a sound queue (R214). -/
def State.qstatWord (u : State) (q : Nat) : Word :=
  BitVec.ofNat 64 ((u.queueAt q).occ + (u.queueAt q).log2cap * 2 ^ 32 + (if (u.waitersOf q).enq.isEmpty then 0 else 2 ^ 41) +
    (if (u.waitersOf q).deq.isEmpty then 0 else 2 ^ 42))

/-- QSTAT of a sound queue of the context. -/
theorem qstat_ends {s u : State} {q : Nat} {rd rs1 : Reg} (hs : s.solo = true) (haddr : (s.openChunk true).qAddr (s.x rs1) = .ok (q, u))
    (hsound : (u.queueAt q).sound q = true) (hforeign : (u.queueAt q).foreign u.me.ctx = false) :
    exec (.qstat rd rs1) s = .next (((u.setX rd (u.qstatWord q)).next 4).ends s.pc) := by
  refine congrArg Host.Outcome.next (run_alone hs ((forwarded_performs (own := true) hs (v := [u.qstatWord q]) (t := u) ?_).trans rfl) rfl rfl)
  unfold State.qstatWord
  unfold State.queueAt at hsound hforeign ⊢
  simp only [haddr, bind, Except.bind, pure, Except.pure, hsound, hforeign, Bool.and_false, Bool.false_eq_true, if_false, if_true]
  rw [Nat.add_zero]

section
variable {s u : State} {q : Nat} {rd rs1 : Reg} (hs : s.solo = true) (haddr : (s.openChunk true).qAddr (s.x rs1) = .ok (q, u))
  (hforeign : (u.queueAt q).foreign u.me.ctx = false) (hkind : refusedByKind (u.queueAt q).kind .init = false)
include hs haddr hforeign hkind

theorem qinit_invalid (hinv : u.qInvalid (s.x rs1) q (u.queueAt q) = true) :
    exec (.qinit rd rs1) s = .next (((u.setX rd 4).next 4).ends s.pc) := by
  refine congrArg Host.Outcome.next (run_alone hs ((forwarded_performs (own := true) hs (v := [4]) (t := u) ?_).trans rfl) rfl rfl)
  unfold State.queueAt at hforeign hkind hinv
  simp only [haddr, bind, Except.bind, pure, Except.pure, State.kindCheck, hforeign, hkind, hinv, Bool.false_eq_true, if_false, if_true]

theorem qinit_busy (hinv : u.qInvalid (s.x rs1) q (u.queueAt q) = false) (hwait : (u.queueAt q).waiters ≠ 0) :
    exec (.qinit rd rs1) s = .next (((u.setX rd 3).next 4).ends s.pc) := by
  refine congrArg Host.Outcome.next (run_alone hs ((forwarded_performs (own := true) hs (v := [3]) (t := u) ?_).trans rfl) rfl rfl)
  unfold State.queueAt at hforeign hkind hinv hwait
  simp only [haddr, bind, Except.bind, pure, Except.pure, State.kindCheck, hforeign, hkind, hinv, hwait, Bool.false_eq_true, if_false,
    ne_eq, not_false_eq_true, if_true]

theorem qinit_fresh (hinv : u.qInvalid (s.x rs1) q (u.queueAt q) = false) (hwait : (u.queueAt q).waiters = 0) :
    exec (.qinit rd rs1) s = .next (((((u.release u.cur .device).setQcb u.actor.mark q
      ((u.queueAt q).fresh (u.release u.cur .device).me.ctx ((homeCode? q).getD 0))).setX rd 0).next 4).ends s.pc) := by
  refine congrArg Host.Outcome.next (run_alone hs ((forwarded_performs (own := true) hs (v := [0])
    (t := (u.release u.cur .device).setQcb u.actor.mark q
      ((u.queueAt q).fresh (u.release u.cur .device).me.ctx ((homeCode? q).getD 0))) ?_).trans rfl) rfl rfl)
  unfold State.queueAt at hforeign hkind hinv hwait ⊢
  simp only [haddr, bind, Except.bind, pure, Except.pure, State.kindCheck, hforeign, hkind, hinv, hwait, Bool.false_eq_true, if_false,
    ne_eq, not_true_eq_false]

end

theorem queueState : Clause.QueueState := by
  intro s u q rd rs1 hs hq
  obtain ⟨haddr, -⟩ := hq
  refine ⟨fun hsound ho => ?_, fun ho hkind =>
    ⟨qinit_invalid hs haddr (not_foreign ho) hkind, qinit_busy hs haddr (not_foreign ho) hkind, qinit_fresh hs haddr (not_foreign ho) hkind⟩⟩
  rw [qstat_ends hs haddr hsound (not_foreign ho), State.qstatWord]

theorem handle_queueCorrupt (s t : State) (va w : Word) :
    s.handle (.trapIn t Cause.queueCorrupt va w) = t.takeTrap Cause.queueCorrupt va w := by
  show t.raise Cause.queueCorrupt va w = _
  exact if_neg (by decide)

section
variable {s u : State} {q : Nat} {rd rs1 rs2 : Reg} {e : Exc} (hs : s.solo = true) (hq : s.reachesQueue (s.x rs1) q u)
  (hsize : (u.queueAt q).esize = 8)
include hs hq hsize

/-- On a queue that the home check or the KIND check refuses, ENQ fails as they do. -/
theorem enq_refused (he : u.homeCheck u.actor (s.x rs1) q = .error e ∨
    u.homeCheck u.actor (s.x rs1) q = .ok () ∧ u.kindCheck u.actor (s.x rs1) q .enq = .error e) :
    exec (.enq rs1 rs2) s = .next (s.handle e) := by
  obtain ⟨haddr, hnone⟩ := hq
  have hhand := (handoff_openChunk hs true).trans hnone
  have helem : u.enqElem (u.queueAt q).esize (some (s.x rs2)) (s.x rs2) = .ok (leBytes 8 (s.x rs2).toNat, u) := if_pos hsize.le
  unfold State.queueAt at helem
  refine congrArg Host.Outcome.next (run_handles hs (forwarded_fails (own := true) hs ?_))
  rcases he with hhome | ⟨hhome, hkind⟩
  · simp only [hhand, haddr, bind, Except.bind, helem, hhome]
  · simp only [hhand, haddr, bind, Except.bind, helem, hhome, hkind]

/-- On a queue that the home check refuses, DEQ fails as it does. -/
theorem deq_refused (he : u.homeCheck u.actor (s.x rs1) q = .error e) : exec (.deq rd rs1 rs2) s = .next (s.handle e) := by
  obtain ⟨haddr, hnone⟩ := hq
  have hhand := (handoff_openChunk hs true).trans hnone
  have hshort : (if 8 < (u.queueAt q).esize then some (s.x rs2) else none) = none := if_neg (by omega)
  unfold State.queueAt at hshort
  refine congrArg Host.Outcome.next (run_handles hs (forwarded_fails (own := true) hs ?_))
  simp only [hhand, State.takeElem, haddr, bind, Except.bind, hshort, he]

end

theorem qstat_refused {s u : State} {q : Nat} {rd rs1 : Reg} (hs : s.solo = true) (haddr : (s.openChunk true).qAddr (s.x rs1) = .ok (q, u))
    (hsound : (u.queueAt q).sound q = true) (hforeign : (u.queueAt q).foreign u.me.ctx = true) :
    exec (.qstat rd rs1) s = .next (s.handle (.trap Cause.permission (s.x rs1) 0)) := by
  refine congrArg Host.Outcome.next (run_handles hs (forwarded_fails (own := true) hs ?_))
  unfold State.queueAt at hsound hforeign
  simp only [haddr, bind, Except.bind, throw, throwThe, MonadExceptOf.throw, hsound, hforeign, Bool.and_self, if_true]

/-- The trap of a refusal. -/
theorem handle_permission {s : State} (hs : s.loose = true) (va : Word) :
    Traps Cause.permission va 0 s (s.handle (.trap Cause.permission va 0)) := by
  have h : s.handle (.trap Cause.permission va 0) = s.takeTrap Cause.permission va 0 := by
    show s.raise Cause.permission va 0 = _
    exact if_neg (by decide)
  exact h ▸ takeTrap_traps s Cause.permission va 0 hs

theorem queueRefusals : Clause.QueueRefusals := by
  intro s u q rd rs1 rs2 hs hq hsize c bad
  refine ⟨fun hsound => ?_, fun hsound hrefused hloose => ?_, fun hsound hforeign hloose => ?_⟩
  · have hhome := homeCheck_unsound (va := s.x rs1) hsound
    rw [enq_refused hs hq hsize (.inl hhome), deq_refused hs hq hsize hhome, handle_queueCorrupt]
    exact ⟨rfl, rfl⟩
  · refine ⟨_, enq_refused hs hq hsize ?_, handle_permission hloose _⟩
    cases hforeign : c.foreign u.me.ctx with
    | true => exact .inl (homeCheck_foreign hsound hforeign)
    | false => exact .inr ⟨homeCheck_owned hsound hforeign, kindCheck_refuses (hrefused.resolve_left (by rw [hforeign]; decide))⟩
  · obtain ⟨haddr, -⟩ := id hq
    exact ⟨⟨_, deq_refused hs hq hsize (homeCheck_foreign hsound hforeign), handle_permission hloose _⟩,
      _, qstat_refused hs haddr hsound hforeign, handle_permission hloose _⟩

/-! Results handed to a parked hart (R211, R212, R316). -/

section
variable {s : State} {h : Handoff} {rd rs1 rs2 : Reg} {off : BitVec 14} (hs : s.solo = true) (hh : s.me.handoff = some h)
include hs hh

theorem enqueue_handed (qva : Word) (reg : Option Word) (elemVa : Nat → Word) :
    enqueue s qva reg elemVa = ((s.openChunk true).next 4).ends s.pc := by
  refine run_alone hs ((forwarded_performs (own := true) hs (v := []) (t := s.openChunk true) ?_).trans rfl) rfl rfl
  rw [handoff_openChunk hs, hh]

theorem deq_handed (h8 : h.elem.length % 8 = 0) (h0 : 0 < h.elem.length) (hkept : ((s.openChunk true).qAcquire h.qcb).me.handoff = some h) :
    exec (.deq rd rs1 rs2) s = .next (((((s.openChunk true).qAcquire h.qcb).putElem (s.x rs2) h.dest h.elem).setX rd
      (fromBytes false 8 (h.elem.take 8))).next 4 |>.ends s.pc) := by
  obtain ⟨hbytes, hlow⟩ := dwords_element h8 h0
  refine congrArg Host.Outcome.next (run_alone hs ((forwarded_performs (own := true) hs
    (v := dwords ((h.elem.length + 7) / 8) h.elem) (t := (s.openChunk true).qAcquire h.qcb) ?_).trans ?_) rfl rfl)
  · rw [handoff_openChunk hs, hh]
  · simp only [hkept, hbytes, hlow, bind, Except.bind, pure, Except.pure]

theorem bq_handed (hg : s.gangCode = 0) : exec (.bq rs1 rs2 off) s = .next ((((s.openChunk true).qAcquire h.qcb).setPc
      (if fromBytes false 8 (h.elem.take 8) = s.x rs2 then ((s.openChunk true).qAcquire h.qcb).pc + 4
        else ((s.openChunk true).qAcquire h.qcb).pc + off.signExtend 64 * 2)).ends s.pc) := by
  refine congrArg Host.Outcome.next (run_alone hs ?_ rfl rfl)
  simp only [gangCode_openChunk, hg, ne_eq, not_true_eq_false, if_false, bind, Except.bind, Shape.home]
  refine (forwarded_performs (own := true) hs (v := [leWord (h.elem.take 8)]) (t := (s.openChunk true).qAcquire h.qcb) ?_).trans ?_
  · rw [handoff_openChunk hs, hh]
  · rw [List.headD_cons, bq_target]
    rfl

end

theorem handedResults : Clause.HandedResults := by
  intro s h rd rs1 rs2 off hs hh b a
  rw [exec_enq, exec_qgath, enqueue_handed hs hh, enqueue_handed hs hh]
  exact ⟨rfl, rfl, deq_handed hs hh, bq_handed hs hh⟩

end Sys2Proof.Machine

open Sys2Proof Sys2Proof.Machine

/-- Settles O19: an enqueue that is taken ends its chunk, one that is not registers the hart and parks it. -/
theorem enqueueForms : Obligations.EnqueueForms := ⟨enqueues, triedEnqueues⟩

/-- Settles O20: the element found at the head, and what each dequeuing instruction delivers of it. -/
theorem dequeueForms : Obligations.DequeueForms := ⟨dequeues, triedDequeues⟩

/-- Settles O21: the outcomes of QSTAT and QINIT, the refusals of the home and KIND checks, and handed results. -/
theorem queueStateAndRefusals : Obligations.QueueStateAndRefusals := ⟨queueState, queueRefusals, handedResults⟩

end

section
/-! Proofs of the statements on streams, watermarks, the tag table and the L2 controls (spec/09 R216-R231). -/

namespace Sys2Proof.Machine

/-! What an opened chunk leaves of the core, the clusters and the chunk itself. -/

theorem myCore_openChunk (s : State) (own : Bool) : (s.openChunk own).myCore = s.myCore := by
  rw [State.myCore, (HartOnly.openChunk s own).core, cur_openChunk]
  rfl

theorem ctx_openChunk (s : State) (own : Bool) : (s.openChunk own).me.ctx = s.me.ctx := (SameHart.openChunk s own).ctx

theorem stream_openChunk (s : State) (own : Bool) (n : Nat) : (s.openChunk own).stream n = s.stream n := by
  rw [State.stream, myCore_openChunk, State.stream]

theorem cluster_openChunk (s : State) (own : Bool) (k : Nat) : (s.openChunk own).cluster k = s.cluster k :=
  (HartOnly.openChunk s own).keeps (·.cluster k) fun _ _ _ _ _ => rfl

theorem chunk_openChunk (s : State) (own : Bool) : (s.openChunk own).me.chunk = some (s.chunkNow own) := by
  rw [(HartOnly.openChunk s own).me]
  rfl

theorem popsOf_openChunk (s : State) (own : Bool) (n : Nat) : (s.openChunk own).popsOf n = s.popsOf n := by
  rw [State.popsOf, chunk_openChunk, State.popsOf, State.chunkNow]
  cases s.me.chunk <;> rfl

theorem pushesOf_openChunk (s : State) (own : Bool) (n : Nat) : (s.openChunk own).pushesOf n = s.pushesOf n := by
  rw [State.pushesOf, chunk_openChunk, State.pushesOf, State.chunkNow]
  cases s.me.chunk <;> rfl

theorem tagView_openChunk (s : State) (own : Bool) : (s.openChunk own).tagView = s.tagView := by
  rw [State.tagView, chunk_openChunk, myCore_openChunk, ctx_openChunk, State.tagView, State.chunkNow]
  cases s.me.chunk <;> rfl

/-- An instruction of the plain shape that changes its chunk, which keeps room, and then its registers alone. -/
theorem run_onChunk {s u : State} {body : State → Res} {f : Chunk → Chunk} (hs : s.calm = true)
    (hb : body (s.openChunk false) = .ok u) (hc : u.me.chunk = (s.openChunk false).me.chunk.map f) (hg : u.me.group = (s.openChunk false).me.group)
    (hroom : (f (s.chunkNow false)).room = true) : s.run .plain body = u.stays s.pc := by
  rw [chunk_openChunk] at hc
  exact run_open s .plain body u _ hs hb hc hroom (by rw [hg, group_openChunk, calm_group hs]) rfl rfl rfl

theorem next_onChunk (s : State) (f : Chunk → Chunk) :
    ((s.onChunk f).next 4).me.chunk = s.me.chunk.map f ∧ ((s.onChunk f).next 4).me.group = s.me.group := by
  simp [State.onChunk, State.next]

theorem next_setX_onChunk (s : State) (f : Chunk → Chunk) (rd : Reg) (v : Word) :
    (((s.onChunk f).setX rd v).next 4).me.chunk = s.me.chunk.map f ∧ (((s.onChunk f).setX rd v).next 4).me.group = s.me.group := by
  simp [State.onChunk, State.next]

theorem Chunk.room_popped {c : Chunk} (h : c.room = true) {n : Nat} (hn : mapGet 0 c.popped n < 64) :
    Chunk.room { c with popped := mapPut c.popped n (mapGet 0 c.popped n + 1) } = true := by
  simp only [Chunk.room, Chunk.over, Bool.and_eq_true, Bool.not_eq_true', Bool.or_eq_false_iff, List.any_eq_false, decide_eq_true_eq] at h ⊢
  obtain ⟨⟨⟨hcount, ⟨⟨hlen, hpop⟩, hpush⟩⟩, hclose⟩, hwf⟩ := h
  refine ⟨⟨⟨hcount, ⟨⟨hlen, fun e he => ?_⟩, hpush⟩⟩, hclose⟩, hwf⟩
  rcases mem_mapPut he with rfl | he
  · simp only []
    omega
  · exact hpop e he

theorem Chunk.room_pushed {c : Chunk} (h : c.room = true) {n : Nat} {l : List (BitVec 144)} {g : BitVec 128} (hl : l.length ≤ 64) :
    Chunk.room { c with pushes := mapPut c.pushes n l, sig := g } = true := by
  simp only [Chunk.room, Chunk.over, Bool.and_eq_true, Bool.not_eq_true', Bool.or_eq_false_iff, List.any_eq_false, decide_eq_true_eq] at h ⊢
  obtain ⟨⟨⟨hcount, ⟨⟨hlen, hpop⟩, hpush⟩⟩, hclose⟩, hwf⟩ := h
  refine ⟨⟨⟨hcount, ⟨⟨hlen, hpop⟩, fun e he => ?_⟩⟩, hclose⟩, hwf⟩
  rcases mem_mapPut he with rfl | he
  · simp only []
    omega
  · exact hpush e he

/-! Streams (R217-R219). -/

theorem sbind_ends {s u v w : State} {rd rs1 : Reg} {d : List Byte} {a : Acc} {b : Binding} {ps : List (Nat × Nat × Nat × Bool)} {i : Nat}
    (hs : s.solo = true) (hrd : rd.toNat < 8) (hload : (s.openChunk false).load 64 (s.x rs1) 64 = .ok (d, a, u))
    (hdesc : descriptor? d u.cur = some b)
    (hactive : ∀ c, (u.stream rd.toNat).active = some c →
      c.hart = u.cur ∧ (u.stream rd.toNat).waiting = false ∧ c.esize = b.esize ∧ c.outbound = b.outbound)
    (hpieces : u.pieces (u.who u.cur) (if b.outbound then .store else .load) 0 (b.hull.2 / 4096 + 4) (BitVec.ofInt 64 b.hull.1) b.hull.2 [] =
      .ok (ps, v))
    (hrange : v.registerRange (!b.outbound) (BitVec.ofInt 64 b.hull.1).toNat ((BitVec.ofInt 64 b.hull.1).toNat + b.hull.2) = .ok (i, w)) :
    exec (.sbind rd rs1) s = .next ((((w.onChunk fun q => { q with engines := [.bind rd.toNat i (w.stream rd.toNat)] }).setStream rd.toNat
      (if (w.stream rd.toNat).active.isNone then { w.stream rd.toNat with active := some { b with rlt := i, pieces := ps } }
        else { w.stream rd.toNat with rest := (w.stream rd.toNat).rest ++ [{ b with rlt := i, pieces := ps }] })).next 4).ends s.pc) := by
  refine congrArg Host.Outcome.next (run_alone hs ?_ rfl rfl)
  simp only [regIn_ok hrd, bind, Except.bind, pure, Except.pure, x_openChunk, Shape.alone]
  simp only [hload, hdesc]
  cases hact : (u.stream rd.toNat).active with
  | none => simp only [hpieces, hrange]
  | some c =>
    obtain ⟨hhart, hwait, hsize, hout⟩ := hactive c hact
    simp only [hhart, hwait, hsize, hout, hpieces, hrange, ne_eq, not_true_eq_false, or_self, Bool.false_eq_true, if_false]

theorem streamBinding : Clause.StreamBinding := fun _ _ _ _ _ _ _ _ _ _ _ hs hrd hload hdesc hactive hpieces hrange =>
  sbind_ends hs hrd hload hdesc hactive hpieces hrange

section
variable {s : State} {rd : Reg} (hs : s.solo = true) (hrd : rd.toNat < 8)
include hs hrd

/-- SSTOP of a port that the hart does not bind. -/
theorem sstop_unbound (h : ∀ c, ((s.openChunk false).stream rd.toNat).active = some c → c.hart ≠ s.cur) :
    exec (.sstop rd) s = .next (((s.openChunk false).next 4).ends s.pc) := by
  refine congrArg Host.Outcome.next (run_alone hs ?_ rfl rfl)
  simp only [regIn_ok hrd, bind, Except.bind, pure, Except.pure, Shape.alone]
  cases hact : ((s.openChunk false).stream rd.toNat).active with
  | none => rfl
  | some c =>
    have hother := h c hact
    rw [← cur_openChunk s false] at hother
    simp only [hother, ne_eq, not_false_eq_true, if_true]

/-- Outbound elements that are not yet written. -/
theorem sstop_stalls {c : Binding} (hact : ((s.openChunk false).stream rd.toNat).active = some c) (hhart : c.hart = s.cur)
    (hout : c.outbound = true) (hbuf : ((s.openChunk false).stream rd.toNat).buf ≠ []) :
    exec (.sstop rd) s = .next (s.setStatus .stalled) := by
  refine congrArg Host.Outcome.next (run_handles hs (e := .stall) ?_)
  simp only [regIn_ok hrd, bind, Except.bind, throw, throwThe, MonadExceptOf.throw, Shape.alone, hact, hhart, cur_openChunk, ne_eq,
    not_true_eq_false, if_false, hout, List.isEmpty_iff, hbuf, not_false_eq_true, and_self, if_true]

theorem sstop_drops {c : Binding} (hact : ((s.openChunk false).stream rd.toNat).active = some c) (hhart : c.hart = s.cur)
    (hdone : c.outbound = false ∨ ((s.openChunk false).stream rd.toNat).buf = []) :
    exec (.sstop rd) s = .next (((((s.openChunk false).onMyCore fun k => { k with
      rlt := k.rlt.filter fun e => decide (e.1 ∉ c.rlt :: ((s.openChunk false).stream rd.toNat).rest.map Binding.rlt) }).setStream rd.toNat
        { active := none, rest := [], buf := [] }).next 4).ends s.pc) := by
  have hready : ¬ (c.outbound = true ∧ ¬ ((s.openChunk false).stream rd.toNat).buf.isEmpty = true) := by
    rcases hdone with h | h <;> simp [h]
  have hlist : ((s.openChunk false).stream rd.toNat).list.map Binding.rlt = c.rlt :: ((s.openChunk false).stream rd.toNat).rest.map Binding.rlt := by
    rw [Stream.list, hact]
    rfl
  refine congrArg Host.Outcome.next (run_alone hs ?_ rfl rfl)
  simp only [regIn_ok hrd, bind, Except.bind, pure, Except.pure, Shape.alone, hact]
  simp only [hhart, cur_openChunk, ne_eq, not_true_eq_false, if_false, hready, hlist]

end

theorem streamStop : Clause.StreamStop := by
  intro s rd hs hrd b st
  refine ⟨fun hnone => sstop_unbound hs hrd fun c hc => ?_, fun c hact => ⟨fun hother => sstop_unbound hs hrd fun d hd => ?_,
    sstop_stalls hs hrd hact, sstop_drops hs hrd hact⟩⟩
  · cases hnone.symm.trans hc
  · cases hact.symm.trans hd
    exact hother

theorem toNat_port {n : Nat} (hn : n < 8) : (BitVec.ofNat 5 n).toNat = n := by
  rw [BitVec.toNat_ofNat]
  omega

section
variable {s : State} {b : Binding} {n : Nat} (hs : s.calm = true) (hn : n < 8) (hact : (s.stream n).active = some b)
  (hhart : b.hart = s.cur) (hsize : b.esize ≤ 8)
include hs hn hact hhart hsize

/-- SMV of an element that has arrived. -/
theorem smv_stays {rd : Reg} {e : BitVec 144} (hin : b.outbound = false) (hleft : (s.stream n).taken + s.popsOf n < (s.stream n).total)
    (hpops : s.popsOf n < 64) (hbuf : (s.stream n).buf[s.popsOf n]? = some e)
    (hdata : (s.openChunk false).checkData 0 ((s.stream n).element ((s.stream n).taken + s.popsOf n)).1
      ((s.stream n).element ((s.stream n).taken + s.popsOf n)).2 = .ok ()) :
    exec (.smv rd (BitVec.ofNat 5 n)) s =
      .next (((((s.openChunk false).popped n).setX rd (BitVec.ofNat 64 e.toNat)).next 4).stays s.pc) := by
  have hlimit : mapGet 0 (s.chunkNow false).popped n < 64 := by
    rw [← popsOf_openChunk s false, State.popsOf, chunk_openChunk] at hpops
    exact hpops
  have hreg : regIn 8 (BitVec.ofNat 5 n) (bitsOf (.smv rd (BitVec.ofNat 5 n))) = .ok () := regIn_ok (by rw [toNat_port hn]; exact hn)
  have hnot : ¬ (b.hart ≠ (s.openChunk false).cur ∨ b.outbound = true ∨ 8 < b.esize ∨
      (s.stream n).total ≤ (s.stream n).taken + s.popsOf n) := by
    rw [cur_openChunk, hin]
    simp [hhart]
    omega
  obtain ⟨hchunk, hgroup⟩ := next_setX_onChunk (s.openChunk false)
    (fun c => { c with popped := mapPut c.popped n (mapGet 0 c.popped n + 1) }) rd (BitVec.ofNat 64 e.toNat)
  refine congrArg Host.Outcome.next (run_onChunk hs ?_ hchunk hgroup (Chunk.room_popped (chunkNow_room s false hs) hlimit))
  simp only [hreg, bind, Except.bind, toNat_port hn, stream_openChunk, popsOf_openChunk, hact, hnot, if_false, not_le.mpr hpops]
  simp only [State.popStream, popsOf_openChunk, stream_openChunk, not_le.mpr hpops, if_false, group_openChunk, calm_group hs, Option.isSome_none,
    Bool.and_false, Bool.false_eq_true, hbuf, hdata, Except.map]
  rfl

theorem swr_stays {rs2 : Reg} (hout : b.outbound = true) (hpushes : (s.pushesOf n).length < 64)
    (hroom : (s.stream n).buf.length + (s.pushesOf n).length < 64)
    (hleft : (s.stream n).taken + (s.pushesOf n).length < (s.stream n).total) :
    exec (.swr (BitVec.ofNat 5 n) rs2) s = .next
      ((((s.openChunk false).pushed n (s.pushesOf n ++ [BitVec.ofNat 144 ((s.x rs2).toNat % 2 ^ (8 * b.esize))])
        (storeItems ((s.stream n).element ((s.stream n).taken + (s.pushesOf n).length)).1
          (leBytes b.esize ((s.x rs2).toNat % 2 ^ (8 * b.esize))))).next 4).stays s.pc) := by
  have hreg : regIn 8 (BitVec.ofNat 5 n) (bitsOf (.swr (BitVec.ofNat 5 n) rs2)) = .ok () := regIn_ok (by rw [toNat_port hn]; exact hn)
  have hnot : ¬ (b.hart ≠ (s.openChunk false).cur ∨ (!b.outbound) = true ∨ 8 < b.esize) := by
    rw [cur_openChunk, hout]
    simp [hhart, hsize]
  have hfree : ¬ (64 ≤ (s.stream n).buf.length + (s.pushesOf n).length ∨
      (s.stream n).total ≤ (s.stream n).taken + (s.pushesOf n).length) := by omega
  obtain ⟨hchunk, hgroup⟩ := next_onChunk (s.openChunk false) (fun c => { c with
    pushes := mapPut c.pushes n (s.pushesOf n ++ [BitVec.ofNat 144 ((s.x rs2).toNat % 2 ^ (8 * b.esize))]),
    sig := (storeItems ((s.stream n).element ((s.stream n).taken + (s.pushesOf n).length)).1
      (leBytes b.esize ((s.x rs2).toNat % 2 ^ (8 * b.esize)))).foldl sigAdd c.sig })
  refine congrArg Host.Outcome.next (run_onChunk hs ?_ hchunk hgroup
    (Chunk.room_pushed (chunkNow_room s false hs) (by rw [List.length_append]; exact hpushes)))
  simp only [hreg, bind, Except.bind, pure, Except.pure, toNat_port hn, stream_openChunk, pushesOf_openChunk, x_openChunk, hact, hnot, hfree,
    if_false, not_le.mpr hpushes]
  rfl

end

theorem streamElements : Clause.StreamElements := by
  intro s b n hs hn hact hhart hsize o
  refine ⟨fun rd e hin hleft hpops hbuf hdata => smv_stays hs hn hact hhart hsize hin hleft hpops hbuf ?_,
    fun rs2 hout hpushes hroom hleft => ?_⟩
  · rwa [stream_openChunk, popsOf_openChunk] at hdata
  · exact (swr_stays hs hn hact hhart hsize hout hpushes hroom hleft).trans (by rw [stream_openChunk])

/-! Watermarks (R224). -/

theorem toNat_fromBytes {bs : List Byte} (h : bs.length ≤ 8) : (fromBytes false 8 bs).toNat = leNat bs := by
  have hlt := leNat_lt bs
  have hpow : 2 ^ (8 * bs.length) ≤ 2 ^ 64 := Nat.pow_le_pow_right (by decide) (by omega)
  exact (BitVec.toNat_ofNat _ _).trans (Nat.mod_eq_of_lt (by omega))

section
variable {s : State} {rd : Reg} (hrd : rd.toNat < 16)
include hrd

theorem wmbind_unbinds (hs : s.solo = true) : exec (.wmbind rd 0) s = .next
    (((((s.openChunk false).onMyCore fun k => { k with wm := mapErase k.wm rd.toNat }).dropNotices rd.toNat).next 4).ends s.pc) := by
  refine congrArg Host.Outcome.next (run_alone hs ?_ rfl rfl)
  simp only [regIn_ok hrd, bind, Except.bind, pure, Except.pure, Shape.alone, if_true]
  rfl

/-- WMBIND of a sound cell that few cores have bound. -/
theorem wmbind_binds {rs1 : Reg} {a : Acc} {u : State} (hs : s.solo = true) (h0 : rs1 ≠ 0)
    (hcheck : (s.openChunk false).check (s.who s.cur) .load 32 0 (s.x rs1) 32 = .ok (a, u)) {o : List Byte × State} (ho : u.oldBytes a.locs = o)
    {lo hi m : Word} (hlo : fromBytes false 8 (o.1.take 8) = lo) (hhi : fromBytes false 8 ((o.1.drop 8).take 8) = hi)
    (hm : fromBytes false 8 ((o.1.drop 16).take 8) = m) (hlm : lo.toNat ≤ m.toNat) (hmh : m.toNat ≤ hi.toNat)
    (hzero : leNat (o.1.drop 24) = 0)
    (hfew : (o.2.cores.filter fun e => decide (e.1 ≠ coreOf s.cur) && e.2.wm.any fun r => decide (r.2.cell = a.locs.headD 0)).length < 64) :
    exec (.wmbind rd rs1) s = .next
      ((((o.2.onMyCore fun k => { k with wm := mapPut k.wm rd.toNat (
        { cell := a.locs.headD 0, va := s.x rs1, lo := lo, hi := hi, mark := m, ctx := s.me.ctx } : WmReg) }).dropNotices rd.toNat).next
          4).ends s.pc) := by
  have hkept := SameHart.of_quiet ((quiet_check hcheck).trans (quiet_oldBytes u a.locs))
  have hsame : SameHart s o.2 := ho ▸ (SameHart.openChunk s false).trans hkept
  have hhome : u.atHome u.cur (u.hartMark u.cur) a.locs = o := ho
  have hshort (bs : List Byte) : (bs.take 8).length ≤ 8 := by simp
  have hsound : ¬ ¬ (leNat (o.1.take 8) ≤ leNat ((o.1.drop 16).take 8) ∧ leNat ((o.1.drop 16).take 8) ≤ leNat ((o.1.drop 8).take 8) ∧
      leNat (o.1.drop 24) = 0) := by
    rw [← hlo, ← hm, toNat_fromBytes (hshort _), toNat_fromBytes (hshort _)] at hlm
    rw [← hhi, ← hm, toNat_fromBytes (hshort _), toNat_fromBytes (hshort _)] at hmh
    exact not_not.mpr ⟨hlm, hmh, hzero⟩
  refine congrArg Host.Outcome.next (run_alone hs ?_ rfl rfl)
  rw [← (SameHart.openChunk s false).who] at hcheck
  simp only [regIn_ok hrd, bind, Except.bind, pure, Except.pure, Shape.alone, x_openChunk, h0, if_false, hcheck, hhome]
  simp only [hsound, if_false, cur_openChunk, not_le.mpr hfew, hsame.ctx, State.dropNotices, onMyCore_eq, setCore_cur, hsame.cur]
  rw [← hlo, ← hhi, ← hm]
  rfl

theorem wmget_writes {x : Reg} {r : WmReg} (hs : s.calm = true) (hr : mapFind? s.myCore.wm rd.toNat = some r) :
    ∃ t, exec (.wmget x rd) s = .next t ∧ WritesX x r.mark 4 s t := by
  refine ⟨_, rfl, run_setX_writesX hs ?_⟩
  simp only [regIn_ok hrd, bind, Except.bind, pure, Except.pure, myCore_openChunk, hr]

end

theorem watermarkRegisters : Clause.WatermarkRegisters := fun _ _ hrd =>
  ⟨wmbind_unbinds hrd, fun hs _ _ _ h0 hcheck => wmbind_binds hrd hs h0 hcheck rfl rfl rfl rfl, fun hs _ _ => wmget_writes hrd hs⟩

theorem wmpub_ends {s u : State} {rs1 rs2 : Reg} {a : Acc} (hs : s.solo = true)
    (hboth : (s.openChunk true).checkBoth 32 (s.x rs1) 32 = .ok (a, u)) (hrmw : u.checkRmw (s.x rs1) 32 = .ok ()) :
    let o := ((u.release u.cur .device).oldBytes a.locs).2
    exec (.wmpub rs1 rs2) s = .next ((((o.advanceMark (o.hartMark o.cur) (a.locs.headD 0) (s.x rs2)).2).next 4).ends s.pc) := by
  intro o
  refine congrArg Host.Outcome.next (run_alone hs ((forwarded_performs (own := true) hs
    (v := [(o.advanceMark (o.hartMark o.cur) (a.locs.headD 0) (s.x rs2)).1])
    (t := (o.advanceMark (o.hartMark o.cur) (a.locs.headD 0) (s.x rs2)).2) ?_).trans rfl) rfl rfl)
  simp only [hboth, hrmw, bind, Except.bind, pure, Except.pure]
  rfl

theorem toNat_wmin (a b : Word) : (wmin a b).toNat = min a.toNat b.toNat := by
  unfold wmin
  rw [BitVec.ult_eq_decide]
  by_cases h : a.toNat < b.toNat
  · simp [h]
    omega
  · simp [h]
    omega

theorem toNat_wmax (a b : Word) : (wmax a b).toNat = max a.toNat b.toNat := by
  unfold wmax
  rw [BitVec.ult_eq_decide]
  by_cases h : a.toNat < b.toNat
  · simp [h]
    omega
  · simp [h]
    omega

section
variable {s : State} {rd rs1 rs2 : Reg} {r : WmReg} (hs : s.solo = true) (hrs : rs1.toNat < 16)
  (hr : mapFind? s.myCore.wm rs1.toNat = some r)
include hs hrs hr

theorem wmwait_ends (hcovers : min (s.x rs2).toNat r.hi.toNat ≤ r.mark.toNat) : exec (.wmwait rd rs1 rs2) s = .next
    (((((s.openChunk true).setX rd r.mark).acquire s.cur .device).next 4).ends s.pc) := by
  have hmark : r.mark.ult (wmin (s.x rs2) r.hi) = false := by
    rw [BitVec.ult_eq_decide, toNat_wmin]
    exact decide_eq_false (by omega)
  refine congrArg Host.Outcome.next (run_alone hs ?_ rfl rfl)
  simp only [regIn_ok hrs, bind, Except.bind, Shape.home, myCore_openChunk, hr]
  refine (forwarded_performs (own := true) hs (v := [r.mark]) (t := s.openChunk true) ?_).trans ?_
  · rw [hmark]
    rfl
  · rw [← cur_openChunk s true]
    rfl

theorem wmwait_parks (hcovers : ¬ min (s.x rs2).toNat r.hi.toNat ≤ r.mark.toNat) :
    exec (.wmwait rd rs1 rs2) s = .next (s.parkOn (.wmwait rs1.toNat (s.x rs2))) := by
  have hmark : r.mark.ult (wmin (s.x rs2) r.hi) = true := by
    rw [BitVec.ult_eq_decide, toNat_wmin]
    exact decide_eq_true (by omega)
  refine congrArg Host.Outcome.next (run_handles hs (e := .park (.wmwait rs1.toNat (s.x rs2))) ?_)
  simp only [regIn_ok hrs, bind, Except.bind, Shape.home, myCore_openChunk, hr]
  refine forwarded_fails (own := true) hs ?_
  rw [hmark]
  rfl

end

theorem advanceMark_mark (u : State) (mark cell : Nat) (v : Word) :
    (u.advanceMark mark cell v).1 = wmax (u.cellAt mark cell).2.2 (wmin v (u.cellAt mark cell).2.1) := by
  unfold State.advanceMark
  generalize u.cellAt mark cell = c
  rfl

theorem watermarkAdvances : Clause.WatermarkAdvances := by
  intro s rs1 rs2 hs
  refine ⟨fun a u => wmpub_ends hs, fun rd r hrs hr => ⟨wmwait_ends hs hrs hr, wmwait_parks hs hrs hr⟩, fun u mark cell v => ?_⟩
  rw [advanceMark_mark, toNat_wmax, toNat_wmin]

/-! The tag table (R228). -/

theorem tagKey_openChunk (s : State) (own : Bool) (va : Word) : (s.openChunk own).tagKey va = s.tagKey va := by
  rw [State.tagKey, ctx_openChunk, State.tagKey]

section
variable {s : State} {rd rs1 rs2 : Reg} (hs : s.calm = true)
include hs

/-- A pending change of the tag table, with its result. -/
theorem tagging_stays {op : TagOp} {v : Word} {body : State → Res}
    (hb : body (s.openChunk false) = .ok ((((s.openChunk false).tagging op).setX rd v).next 4)) :
    s.run .plain body = ((((s.openChunk false).tagging op).setX rd v).next 4).stays s.pc := by
  obtain ⟨hchunk, hgroup⟩ := next_setX_onChunk (s.openChunk false) (fun c => { c with tags := c.tags ++ [op] }) rd v
  exact run_onChunk hs hb hchunk hgroup (chunkNow_room s false hs)

theorem tset_full (haligned : (s.x rs2).toNat % 2048 = 0) (hinside : (s.x rs2).toNat < (s.myCore.segOf s.me.ctx).size)
    (hnone : mapFind? s.tagView (s.tagKey (s.x rs1)) = none)
    (hfull : 256 ≤ (s.tagView.filter fun e => decide (e.1 / 2 ^ 53 = s.me.ctx)).length) :
    ∃ t, exec (.tset rd rs1 rs2) s = .next t ∧ WritesX rd 1 4 s t := by
  refine ⟨_, rfl, run_setX_writesX hs ?_⟩
  have hok : ¬ ((s.x rs2).toNat % 2048 ≠ 0 ∨ (s.myCore.segOf s.me.ctx).size ≤ (s.x rs2).toNat) := by omega
  simp only [x_openChunk, myCore_openChunk, ctx_openChunk, hok, if_false, bind, Except.bind, pure, Except.pure, tagView_openChunk,
    tagKey_openChunk, hnone, hfull, Option.isNone_none, decide_true, and_self, if_true]

theorem tset_stays (haligned : (s.x rs2).toNat % 2048 = 0) (hinside : (s.x rs2).toNat < (s.myCore.segOf s.me.ctx).size)
    (hroom : mapFind? s.tagView (s.tagKey (s.x rs1)) ≠ none ∨
      ¬ 256 ≤ (s.tagView.filter fun e => decide (e.1 / 2 ^ 53 = s.me.ctx)).length) :
    exec (.tset rd rs1 rs2) s = .next
      (((((s.openChunk false).tagging (.set ((s.x rs1).toNat / 2048) (s.x rs2).toNat)).setX rd 0).next 4).stays s.pc) := by
  refine congrArg Host.Outcome.next (tagging_stays hs ?_)
  have hok : ¬ ((s.x rs2).toNat % 2048 ≠ 0 ∨ (s.myCore.segOf s.me.ctx).size ≤ (s.x rs2).toNat) := by omega
  have hnot : ¬ ((mapFind? s.tagView (s.tagKey (s.x rs1))).isNone = true ∧
      decide (256 ≤ (s.tagView.filter fun e => decide (e.1 / 2 ^ 53 = s.me.ctx)).length) = true) := by
    rintro ⟨hnone, hfull⟩
    rcases hroom with h | h
    · exact h (Option.isNone_iff_eq_none.mp hnone)
    · exact h (of_decide_eq_true hfull)
  simp only [x_openChunk, myCore_openChunk, ctx_openChunk, hok, if_false, bind, Except.bind, pure, Except.pure, tagView_openChunk,
    tagKey_openChunk, hnot]
  rfl

theorem tinv_absent (hnone : mapFind? s.tagView (s.tagKey (s.x rs1)) = none) :
    ∃ t, exec (.tinv rd rs1) s = .next t ∧ WritesX rd (BitVec.allOnes 64) 4 s t := by
  refine ⟨_, rfl, run_setX_writesX hs ?_⟩
  simp only [x_openChunk, tagView_openChunk, tagKey_openChunk, hnone]

theorem tinv_stays {slot : Nat} (hsome : mapFind? s.tagView (s.tagKey (s.x rs1)) = some slot) :
    exec (.tinv rd rs1) s = .next
      (((((s.openChunk false).tagging (.inv ((s.x rs1).toNat / 2048))).setX rd (BitVec.ofNat 64 slot)).next 4).stays s.pc) := by
  refine congrArg Host.Outcome.next (tagging_stays hs ?_)
  simp only [x_openChunk, tagView_openChunk, tagKey_openChunk, hsome]
  rfl

end

theorem tlook_writes {s : State} {rd rs1 : Reg} {v : Word} (hs : s.calm = true)
    (hnone : mapFind? s.tagView (s.tagKey (s.x rs1)) = none → v = BitVec.allOnes 64)
    (hsome : ∀ slot, mapFind? s.tagView (s.tagKey (s.x rs1)) = some slot →
      v = BitVec.ofNat 64 (lspBaseVa + slot + (s.x rs1).toNat % 2048)) :
    ∃ t, exec (.tlook rd rs1) s = .next t ∧ WritesX rd v 4 s t := by
  refine ⟨_, rfl, run_setX_writesX hs ?_⟩
  simp only [x_openChunk, tagView_openChunk, tagKey_openChunk]
  cases hentry : mapFind? s.tagView (s.tagKey (s.x rs1)) with
  | none => rw [hnone hentry]
  | some slot => rw [hsome slot hentry]

/-! The L2 controls (R229-R231). -/

/-- The status of an L2PIN of ARR n: the lowest that applies. -/
def pinStatus (q : Cluster) (size va n ways len : Nat) : Nat :=
  if (mapFind? q.arr n).isSome then 1
  else if ways < 1 ∨ 12 < ways ∨ 12 < q.reserved.length + ways then 2
  else if len = 0 ∨ size < va % size + len then 3
  else 0

section
variable {q : Cluster} {size va n ways len : Nat}

theorem pinStatus_bound (h : mapFind? q.arr n ≠ none) : pinStatus q size va n ways len = 1 := if_pos (Option.ne_none_iff_isSome.mp h)

theorem pinStatus_ways (hb : mapFind? q.arr n = none) (h : ways < 1 ∨ 12 < ways ∨ 12 < q.reserved.length + ways) :
    pinStatus q size va n ways len = 2 := by
  rw [pinStatus, hb, if_neg (by simp), if_pos h]

theorem pinStatus_range (hb : mapFind? q.arr n = none) (hw : ¬ (ways < 1 ∨ 12 < ways ∨ 12 < q.reserved.length + ways))
    (h : len = 0 ∨ size < va % size + len) : pinStatus q size va n ways len = 3 := by
  rw [pinStatus, hb, if_neg (by simp), if_neg hw, if_pos h]

theorem pinStatus_free (hb : mapFind? q.arr n = none) (hw : ¬ (ways < 1 ∨ 12 < ways ∨ 12 < q.reserved.length + ways))
    (h : ¬ (len = 0 ∨ size < va % size + len)) : pinStatus q size va n ways len = 0 := by
  rw [pinStatus, hb, if_neg (by simp), if_neg hw, if_neg h]

end

/-- What an L2PIN of status 0 binds. -/
def State.pinned (u : State) (a : Acc) (n ways len : Nat) : State :=
  u.onCluster (clusterOf u.cur) fun q => { q with arr := mapPut q.arr n (
    { ctx := u.me.ctx, lo := a.locs.headD 0 / 64 * 64, hi := a.locs.headD 0 + len,
      ways := ((List.range 16).filter fun x => decide (x ∉ u.myCluster.reserved)).take ways, hits := 0, misses := 0 } : Arr) }

theorem field_toNat (w : Word) (hi lo : Nat) : field w.toNat hi lo = bits w hi lo := rfl

section
variable {s u : State} {rd rs1 rs2 : Reg} {a : Acc} (hs : s.solo = true)
  (hcheck : (s.openChunk false).check14 (s.who s.cur) .load 1 0 (s.x rs1) 1 = .ok (a, u))
  (h63 : bits (s.x rs2) 63 62 = 0) (h59 : bits (s.x rs2) 59 52 = 0) (h47 : bits (s.x rs2) 47 40 = 0)
include hs hcheck h63 h59 h47

theorem l2pin_ends {k : Nat} {t : State}
    (hk : pinStatus u.myCluster a.size (s.x rs1).toNat (bits (s.x rs2) 61 60) (bits (s.x rs2) 51 48) (bits (s.x rs2) 39 0) = k)
    (ht : (if k ≠ 0 then u else u.pinned a (bits (s.x rs2) 61 60) (bits (s.x rs2) 51 48) (bits (s.x rs2) 39 0)) = t) :
    exec (.l2pin rd rs1 rs2) s = .next (((t.setX rd (BitVec.ofNat 64 k)).next 4).ends s.pc) := by
  have hok : ¬ (bits (s.x rs2) 63 62 ≠ 0 ∨ bits (s.x rs2) 59 52 ≠ 0 ∨ bits (s.x rs2) 47 40 ≠ 0) := by
    rintro (h | h | h)
    · exact h h63
    · exact h h59
    · exact h h47
  rw [← (SameHart.openChunk s false).who] at hcheck
  subst hk ht
  refine congrArg Host.Outcome.next (run_alone hs ?_ rfl rfl)
  simp only [x_openChunk, Shape.alone, field_toNat, hok, if_false, bind, Except.bind, pure, Except.pure, hcheck]
  rfl

end

section
variable {s : State} {rd rs1 : Reg} (hs : s.solo = true) (hrs : rs1.toNat < 4)
include hs hrs

theorem l2unpin_unbinds {r : Arr} (hr : mapFind? (s.cluster (clusterOf s.cur)).arr rs1.toNat = some r) (hctx : r.ctx = s.me.ctx) :
    exec (.l2unpin rd rs1) s = .next (((((s.openChunk false).onCluster (clusterOf s.cur) fun q => { q with
      arr := mapErase q.arr rs1.toNat }).setX rd r.counters).next 4).ends s.pc) := by
  refine congrArg Host.Outcome.next (run_alone hs ?_ rfl rfl)
  simp only [regIn_ok hrs, bind, Except.bind, pure, Except.pure, Shape.alone, State.myCluster, cluster_openChunk, cur_openChunk, ctx_openChunk,
    hr, hctx, if_true]

theorem l2unpin_none (hr : ∀ r, mapFind? (s.cluster (clusterOf s.cur)).arr rs1.toNat = some r → r.ctx ≠ s.me.ctx) :
    exec (.l2unpin rd rs1) s = .next ((((s.openChunk false).setX rd (BitVec.allOnes 64)).next 4).ends s.pc) := by
  refine congrArg Host.Outcome.next (run_alone hs ?_ rfl rfl)
  simp only [regIn_ok hrs, bind, Except.bind, pure, Except.pure, Shape.alone, State.myCluster, cluster_openChunk, cur_openChunk, ctx_openChunk]
  cases hfind : mapFind? (s.cluster (clusterOf s.cur)).arr rs1.toNat with
  | none => rfl
  | some r => simp only [hr r hfind, if_false]

end

theorem retentionRegisters : Clause.RetentionRegisters := by
  intro s rd rs1 rs2 hs q
  refine ⟨?_, fun hrs => ⟨fun r => l2unpin_unbinds hs hrs, l2unpin_none hs hrs⟩⟩
  intro a u hcheck h63 h59 h47 n ways len c status noRoom noRange
  have hstatus {k : Nat} (hk : pinStatus c a.size (s.x rs1).toNat n ways len = k) (h0 : k ≠ 0) : status k :=
    l2pin_ends hs hcheck h63 h59 h47 hk (if_pos h0)
  refine ⟨fun hb => hstatus (pinStatus_bound hb) (by decide), fun hb hr => hstatus (pinStatus_ways hb hr) (by decide),
    fun hb hr hl => hstatus (pinStatus_range hb hr hl) (by decide), fun hb hr hl => ?_⟩
  exact l2pin_ends hs hcheck h63 h59 h47 (pinStatus_free hb hr hl) rfl

theorem cacheControlTraps : Clause.CacheControlTraps := by
  intro s rd rs1 rs2 hs
  refine ⟨fun hbits => ⟨_, rfl, run_error_traps hs ?_⟩, fun harr => ⟨_, rfl, run_error_traps hs ?_⟩, fun hrd => ?_⟩
  · simp only [x_openChunk, Shape.alone, field_toNat, hbits, if_true]
    rfl
  · simp only [regIn, not_lt.mpr harr, if_false]
    rfl
  · simp only [List.forall_mem_cons, List.not_mem_nil, false_implies, implies_true, and_true]
    refine ⟨⟨_, rfl, run_error_traps hs ?_⟩, ⟨_, rfl, run_error_traps hs ?_⟩⟩
    · simp only [hrd, ne_eq, not_false_eq_true, if_true]
      rfl
    · simp only [hrd, ne_eq, not_false_eq_true, if_true]
      rfl

/-- An instruction of the plain shape that is memory traffic alone changes no register. -/
theorem plain_quiet {s v : State} {body : State → Res} (hs : s.calm = true) (hq : Quiet (s.openChunk false) v)
    (hb : body (s.openChunk false) = .ok (v.next 4)) :
    Retired (s.pc + 4) s (s.run .plain body) ∧ SameRegs {} s (s.run .plain body) ∧ SameOthers s (s.run .plain body) ∧
      ∀ loc, (s.run .plain body).seeByte s.cur loc = v.seeByte s.cur loc := by
  have ho := HartOnly.openChunk s false
  have hm : Moves v.me s v := ho.moves.trans hq.moves
  have hkept : HartKept (s.me.inChunk (s.chunkNow false)) v.me := ho.me ▸ hq.me
  obtain ⟨e, he⟩ := hkept.chunk_some (c := s.chunkNow false) rfl
  have ha : v.me.a = s.me.a := hkept.a
  have hroom : Chunk.room { s.chunkNow false with ext := e } = true := chunkNow_room s false hs
  obtain ⟨k, hmoves, -, f, hsee, hbehind⟩ := plain_after (y := v.me.setPc (v.pc + 4)) hs hm
    (hb.trans (by rw [State.next, onMe_eq, hm.cur]; rfl)) he hroom (hkept.group.trans (calm_group hs)) rfl
  obtain ⟨hretired, hx, hf, hcsr, ⟨q, hta⟩, hctx, hasid, hothers⟩ := hmoves.reads he (chunkNow_count s false) (hkept.running (calm_running hs))
  refine ⟨?_, ⟨hmoves.cur, fun r _ => ?_, fun r _ => ?_, fun n _ => ?_, ?_, ?_, ?_, fun _ => ?_, fun _ => ?_, ?_, ?_⟩, hothers, fun loc => ?_⟩
  · have hpc : v.pc = s.pc := by rw [State.pc, ha]; rfl
    rw [← hpc]
    exact hretired
  · rw [hx, Hart.x_setPc, Hart.x, ha]; rfl
  · rw [hf, Hart.f_setPc, Hart.f, ha]; rfl
  · rw [hcsr, Hart.csr_setPc, Hart.csr, ha]; rfl
  · rw [hta, Hart.setPc_a_rt, ha]
  · rw [hta, Hart.setPc_a_rsets, ha]
  · rw [hta, Hart.setPc_a_mode, ha]
  · rw [hta, Hart.setPc_a_s0, ha]
  · rw [hta, Hart.setPc_a_s1, ha]
  · exact hctx.trans hkept.ctx
  · exact hasid.trans hkept.asid
  · have hmine : (v.hart s.cur).chunk = some { s.chunkNow false with ext := e } := by
      rw [← hm.cur]
      exact he
    rw [hsee loc, hbehind loc rfl, seeByte_eq, hmine]

theorem plain_quiet_regs {s v : State} {body : State → Res} (hs : s.calm = true) (hq : Quiet (s.openChunk false) v)
    (hb : body (s.openChunk false) = .ok (v.next 4)) :
    Retired (s.pc + 4) s (s.run .plain body) ∧ SameRegs {} s (s.run .plain body) ∧ SameOthers s (s.run .plain body) := by
  obtain ⟨hretired, hregs, hothers, -⟩ := plain_quiet hs hq hb
  exact ⟨hretired, hregs, hothers⟩

theorem copy?_setCopy (s : State) (k line j l : Nat) (c : L2Line) :
    (s.setCopy k line c).copy? j l = if j = k ∧ l = line then some c else s.copy? j l := by
  unfold State.setCopy State.onCluster State.copy? State.cluster
  by_cases hj : j = k
  · subst hj
    rw [mapFind?_put_self, Option.getD_some]
    by_cases hl : l = line
    · subst hl
      rw [mapFind?_put_self, if_pos ⟨rfl, rfl⟩]
    · rw [mapFind?_put_ne _ _ hl, if_neg fun h => hl h.2]
  · rw [mapFind?_put_ne _ _ hj, if_neg fun h => hj h.1]

/-- A byte that a hart reads does not depend on how old a copy is. -/
theorem seeByte_aged (s : State) (k line h loc : Nat) {c : L2Line} (hc : s.copy? k line = some c) (n : Nat) :
    (s.setCopy k line { c with age := n }).seeByte h loc = s.seeByte h loc := by
  have hcopy (mark : Nat) : (s.setCopy k line { c with age := n }).clusterByte (clusterOf h) mark loc = s.clusterByte (clusterOf h) mark loc := by
    unfold State.clusterByte
    rw [copy?_setCopy]
    by_cases hsame : clusterOf h = k ∧ lineOf loc = line
    · rw [if_pos hsame, hsame.1, hsame.2, hc]
      rfl
    · rw [if_neg hsame]
      rfl
  unfold State.seeByte
  rw [show (s.setCopy k line { c with age := n }).hartMark h = s.hartMark h from rfl, hcopy]
  rfl

/-- The lines of a demotion, aged. -/
def State.demoted (s : State) (lines : List (Nat × Bool)) : State :=
  lines.foldl (fun t e => match t.copy? (clusterOf s.cur) e.1 with
    | some c => t.setCopy (clusterOf s.cur) e.1 { c with age := 3 }
    | none => t) s

theorem quiet_demoted (s : State) (lines : List (Nat × Bool)) : Quiet s (s.demoted lines) := by
  refine Quiet.foldl _ (fun t e => ?_) lines s
  split
  · exact quiet_setCopy _ _ _ _
  · exact Quiet.refl t

theorem seeByte_demoted (s : State) (lines : List (Nat × Bool)) (h loc : Nat) : (s.demoted lines).seeByte h loc = s.seeByte h loc := by
  unfold State.demoted
  generalize clusterOf s.cur = k
  induction lines generalizing s with
  | nil => rfl
  | cons e lines ih =>
    rw [List.foldl_cons, ih]
    cases hc : s.copy? k e.1 with
    | none => rfl
    | some c => exact seeByte_aged s k e.1 h loc hc 3

theorem seeByte_openChunk (s : State) (own : Bool) (loc : Nat) : (s.openChunk own).seeByte s.cur loc = s.seeByte s.cur loc :=
  ((HartOnly.openChunk s own).sameRest (fun l b => chunkNow_seen s own l b) rfl rfl).byte loc

theorem cacheHints : Clause.CacheHints := by
  intro s rd rs1 rs2 hs
  refine ⟨⟨_, rfl, plain_quiet_regs hs ?_ rfl⟩, ⟨_, rfl, ?_⟩, _, rfl, run_setX_writesX hs ?_⟩
  · exact Quiet.foldl _ (fun t e => quiet_touch t _ _ _ _) _ _
  · have hsees (loc : Nat) : ((s.openChunk false).demoted ((s.openChunk false).hintRange rs1 rs2)).seeByte s.cur loc = s.seeByte s.cur loc :=
      (seeByte_demoted _ _ _ _).trans (seeByte_openChunk s false loc)
    simp only [← hsees]
    exact plain_quiet hs (quiet_demoted _ _) rfl
  · simp only [x_openChunk, State.myCluster, cluster_openChunk, cur_openChunk, ctx_openChunk]
    rfl

end Sys2Proof.Machine

open Sys2Proof Sys2Proof.Machine

/-- Settles O28: the binding, the four ends of SSTOP, and an element popped or pushed in a chunk that keeps room. -/
theorem streams : Obligations.Streams := ⟨streamBinding, streamStop, streamElements⟩

/-- Settles O29: the registers' instructions, the advance at the home, and the mark as a maximum. -/
theorem watermarks : Obligations.Watermarks := ⟨watermarkRegisters, watermarkAdvances⟩

/-- Settles O30: the view of an opened chunk is that before it, and a change joins the chunk. -/
theorem tagTable : Obligations.TagTable := by
  intro s rd rs1 rs2 hs
  refine ⟨tlook_writes hs (fun h => ?_) (fun slot h => ?_),
    fun haligned hinside => ⟨tset_full hs haligned hinside, tset_stays hs haligned hinside⟩,
    tinv_absent hs, fun _ => tinv_stays hs⟩
  · rw [h]
  · rw [h]
    rfl

/-- Settles O31: the status of L2PIN case by case, the traps before any effect, and hints that are memory traffic alone. -/
theorem cacheControls : Obligations.CacheControls := ⟨retentionRegisters, cacheControlTraps, cacheHints⟩

end

section
/-! Proofs of the statement on the ends of chunks (spec/14 R290-R294, spec/21 R367, spec/23 R392): arbitration, commit, squash and double fault. -/

namespace Sys2Proof.Machine

/-! Arbitration (R290, R294, R419). -/

theorem meets_iff (a b : List Nat) : meets a b = true ↔ ∃ l ∈ a, l ∈ b := by
  simp [meets]

/-- What the arbiter squashes a chunk for. -/
theorem conflicts_iff (s : State) (h : Nat) (c : Chunk) : s.conflicts h c = true ↔
    c.own = false ∧ c.prio = false ∧ (c.doomed = true ∨ ∃ l ∈ c.reads ++ c.writes, l ∈ c.ext) := by
  simp only [State.conflicts, Bool.and_eq_true, Bool.or_eq_true, Bool.not_eq_true', meets_iff, and_assoc]

/-- Outside test mode a signature is sent as it was formed (R359). -/
theorem Hart.signature_plain (x : Hart) (sig : BitVec 128) : x.signature false sig = (sig, x) := by
  simp [Hart.signature]

/-- A chunk that the arbiter judges at once: it leaves something to see, and no chunk holds its lines. -/
theorem endChunk_judged {s : State} {h : Nat} {c : Chunk} (hc : (s.hart h).chunk = some c) (hseen : c.blank = false)
    (hgroup : (s.hart h).group = none) (htest : s.dev.testMode = false) (hfree : s.heldByGrant h c = false) :
    s.endChunk h = if s.conflicts h c then (s.squash h, false) else (s.commit h, true) := by
  unfold State.endChunk
  simp only [hc, hseen, hfree, htest, Hart.signature_plain, hgroup, hart_listed hc, Bool.false_eq_true, if_false]

theorem arbitration : Clause.Arbitration := by
  intro s h c hc hseen hgroup htest hfree changed
  rw [endChunk_judged hc hseen hgroup htest hfree, hart_listed hc]
  exact ⟨fun hch => if_pos ((conflicts_iff s h c).mpr hch), fun hch => if_neg (mt (conflicts_iff s h c).mp hch)⟩

/-! Updates that go through once a chunk is over (R294). -/

/-- `t` is `s` after traffic between copies: no core is touched, and no hart gains a link. -/
structure LetThrough (s t : State) : Prop where
  quiet : Quiet s t
  core : ∀ k, t.core k = s.core k
  links : ∀ h, (t.hart h).links ⊆ (s.hart h).links

theorem LetThrough.refl (s : State) : LetThrough s s := ⟨Quiet.refl s, fun _ => rfl, fun _ => List.Subset.refl _⟩

theorem LetThrough.trans {s t u : State} (h : LetThrough s t) (g : LetThrough t u) : LetThrough s u :=
  ⟨h.quiet.trans g.quiet, fun k => (g.core k).trans (h.core k), fun k => List.Subset.trans (g.links k) (h.links k)⟩

theorem LetThrough.foldl {α : Type} {f : State → α → State} (hf : ∀ s a, LetThrough s (f s a)) (l : List α) (s : State) :
    LetThrough s (l.foldl f s) := by
  induction l generalizing s with
  | nil => exact LetThrough.refl s
  | cons a l ih => exact (hf s a).trans (ih _)

theorem letThrough_onCluster (s : State) (k : Nat) (f : Cluster → Cluster) : LetThrough s (s.onCluster k f) :=
  ⟨quiet_onCluster s k f, fun _ => rfl, fun _ => List.Subset.refl _⟩

/-- Harts changed one by one, none of which gains a link. -/
theorem LetThrough.onHarts (s : State) {g : Nat × Hart → Nat × Hart}
    (hg : ∀ e, (g e).1 = e.1 ∧ HartKept e.2 (g e).2 ∧ (g e).2.links ⊆ e.2.links) : LetThrough s { s with harts := s.harts.map g } := by
  obtain ⟨hkey, hrest⟩ := forall_and.mp hg
  obtain ⟨hkept, hlinks⟩ := forall_and.mp hrest
  refine ⟨Quiet.onHarts s g fun e => ⟨hkey e, hkept e⟩, fun _ => rfl, fun h => ?_⟩
  rcases mapFind?_map g (fun x y => y.links ⊆ x.links) (fun e => ⟨hkey e, hlinks e⟩) s.harts h with ⟨hs, ht⟩ | ⟨x, y, hs, ht, hxy⟩
  · simp only [State.hart, hs, ht]; exact List.Subset.refl _
  · simp only [State.hart, hs, ht]; exact hxy

/-- A hart whose links are filtered, and whose chunk may learn of foreign lines. -/
theorem HartKept.noted (x : Hart) (p : Nat → Bool) (lines : List Nat) :
    HartKept x { x with links := x.links.filter p, chunk := x.chunk.map fun c => { c with ext := lines ++ c.ext } } := by
  refine ⟨rfl, rfl, rfl, rfl, rfl, rfl, rfl, rfl, ?_, rfl, id⟩
  simp only [Option.map_map]
  rfl

theorem letThrough_noteChange (s : State) (k : Nat) (lines : List Nat) (h : Option Nat) : LetThrough s (s.noteChange k lines h) := by
  refine LetThrough.onHarts s fun e => ?_
  dsimp only
  split
  · split
    · exact ⟨rfl, HartKept.links _ _, List.filter_subset_self _⟩
    · exact ⟨rfl, HartKept.noted e.2 _ lines, List.filter_subset_self _⟩
  · exact ⟨rfl, HartKept.refl _, List.Subset.refl _⟩

theorem letThrough_refreshCopy (s : State) (line k : Nat) (h : Option Nat) (stay : Bool) : LetThrough s (s.refreshCopy line k h stay) := by
  unfold State.refreshCopy
  split
  · exact letThrough_onCluster s k _
  · refine LetThrough.trans ?_ (letThrough_noteChange _ k [line] h)
    split
    · exact LetThrough.refl s
    · split
      · exact letThrough_onCluster s k _
      · exact letThrough_onCluster s k _

theorem letThrough_releaseHeld (s : State) (k : Nat) : LetThrough s (s.releaseHeld k) := by
  unfold State.releaseHeld
  split
  · exact LetThrough.refl s
  · exact (letThrough_onCluster s k _).trans (LetThrough.foldl (fun t l => letThrough_refreshCopy t l k none false) _ _)

theorem letThrough_askGrant (s : State) (h : Nat) : LetThrough s (s.askGrant h) := letThrough_onCluster s _ _

theorem letThrough_passGrant (s : State) (h : Nat) (prio : Bool) : LetThrough s (s.passGrant h prio) := by
  unfold State.passGrant State.dropGrant
  split
  · refine LetThrough.trans ?_ (letThrough_releaseHeld _ _)
    split
    · exact letThrough_onCluster s _ _
    · split
      · exact letThrough_onCluster s _ _
      · exact LetThrough.refl s
  · exact letThrough_releaseHeld s _

/-! What the end of a chunk changes of its core. -/

/-- `t` has the harts of `s`, and its cores but for core k. -/
structure CoreOnly (k : Nat) (s t : State) : Prop where
  hart : ∀ h, t.hart h = s.hart h
  core : ∀ j, j ≠ k → t.core j = s.core j

theorem CoreOnly.refl (k : Nat) (s : State) : CoreOnly k s s := ⟨fun _ => rfl, fun _ _ => rfl⟩

theorem CoreOnly.trans {k : Nat} {s t u : State} (h : CoreOnly k s t) (g : CoreOnly k t u) : CoreOnly k s u :=
  ⟨fun j => (g.hart j).trans (h.hart j), fun j hj => (g.core j hj).trans (h.core j hj)⟩

theorem coreOnly_onCore (s : State) (k : Nat) (f : Core → Core) : CoreOnly k s (s.onCore k f) :=
  ⟨fun _ => rfl, fun _ hj => core_setCore_ne s _ hj⟩

/-! Commit (R290, R367). -/

theorem coreOnly_bankDrop (s : State) (h : Nat) (buf : FMap Byte) : CoreOnly (coreOf h) s (s.bankDrop h buf).2 := by
  unfold State.bankDrop State.countConflicts
  split
  · exact CoreOnly.refl _ s
  · dsimp only
    split
    · exact CoreOnly.refl _ s
    · exact coreOnly_onCore s _ _

theorem coreOnly_commitStreams (s : State) (h : Nat) (c : Chunk) : CoreOnly (coreOf h) s (s.commitStreams h c) := by
  unfold State.commitStreams
  split
  · exact CoreOnly.refl _ s
  · exact coreOnly_onCore s _ _

/-- The state in which a commit writes its hart's CSRs, and what follows: the chunk's stores are memory traffic, its streams, census and
tags are its core's, and so are the release and the grant traffic. -/
theorem commit_stages {s : State} {h : Nat} {c : Chunk} (hc : (s.hart h).chunk = some c) :
    ∃ u : State, (∀ k, HartKept (s.hart k) (u.hart k)) ∧ Quiet (u.onHart h (Hart.afterCommit c)) (s.commit h) := by
  unfold State.commit
  rw [hc]
  dsimp only
  generalize (if s.follower h then c.buf.filter (fun e => isLsp e.1) else c.buf) = buf
  have hdrop := coreOnly_bankDrop s h buf
  generalize s.bankDrop h buf = dropped at hdrop ⊢
  obtain ⟨bytes, u⟩ := dropped
  dsimp only
  have hstores := quiet_commitBytes u h (u.hartMark h) bytes c.keep
  generalize u.commitBytes h (u.hartMark h) bytes c.keep = v at hstores ⊢
  have hcore := (coreOnly_commitStreams v h c).trans (coreOnly_onCore (v.commitStreams h c) (coreOf h) fun k =>
    { k with census := c.census.foldl censusAdd k.census, tags := applyTags ((v.commitStreams h c).hart h).ctx c.tags k.tags,
             icache := if c.code then [] else k.icache })
  generalize (v.commitStreams h c).onCore (coreOf h) _ = w at hcore ⊢
  generalize htraced : (if s.follower h = true then w else _) = x
  refine ⟨x, fun k => ?_, Quiet.trans ?_ (letThrough_passGrant _ h c.prio).quiet⟩
  · have hkept := hstores.harts k
    rw [← hcore.hart k, hdrop.hart k] at hkept
    rw [← htraced]
    split <;> exact hkept
  · split
    · exact quiet_release _ _ _
    · exact Quiet.refl _

/-- The registers after a commit depend on those before it alone. -/
theorem Hart.afterCommit_a (c : Chunk) {x y : Hart} (h : y.a = x.a) : (y.afterCommit c).a = (x.committed c).a := by
  simp only [Hart.committed, Hart.afterCommit, Hart.setCsr, Hart.csr, h]

theorem Hart.csr_congr {x y : Hart} (h : y.a = x.a) (n : Nat) : y.csr n = x.csr n := by
  rw [Hart.csr, h, Hart.csr]

/-- A commit closes its chunk, leaves its hart's registers as `Hart.committed` tells, and those of the others as they are. -/
theorem commit_regs {s : State} {h : Nat} {c : Chunk} (hc : (s.hart h).chunk = some c) :
    ((s.commit h).hart h).chunk = none ∧ ((s.commit h).hart h).a = ((s.hart h).committed c).a ∧
      ∀ k, k ≠ h → ((s.commit h).hart k).a = (s.hart k).a := by
  obtain ⟨u, hbefore, hafter⟩ := commit_stages hc
  have hmine := hafter.harts h
  rw [onHart_eq, hart_setHart_self] at hmine
  refine ⟨?_, hmine.a.trans (Hart.afterCommit_a c (hbefore h).a), fun k hk => ?_⟩
  · exact Option.map_eq_none_iff.mp hmine.chunk
  · have hother := hafter.harts k
    rw [onHart_eq, hart_setHart_ne u _ hk] at hother
    exact ((hbefore k).trans hother).a

/-- The three CSRs that a commit writes. -/
theorem Hart.committed_csrs (c : Chunk) (x : Hart) (hw : mapWf 0 x.a.csr = true) :
    (x.committed c).csr Csr.instret = x.csr Csr.instret + BitVec.ofNat 64 c.count ∧
      (x.committed c).csr Csr.siglo = c.sig.setWidth 64 ∧ (x.committed c).csr Csr.sighi = (c.sig >>> 64).setWidth 64 := by
  have w1 := fun v => x.wf_setCsr Csr.instret v hw
  have w2 := fun v => (x.setCsr Csr.instret v).wf_setCsr Csr.siglo (c.sig.setWidth 64) (w1 v)
  simp only [Hart.committed_csr]
  refine ⟨?_, ?_, Hart.csr_setCsr_self _ _ _ (w2 _)⟩
  · rw [Hart.csr_setCsr_ne _ _ (w2 _) (by decide), Hart.csr_setCsr_ne _ _ (w1 _) (by decide), Hart.csr_setCsr_self _ _ _ hw]
  · rw [Hart.csr_setCsr_ne _ _ (w2 _) (by decide), Hart.csr_setCsr_self _ _ _ (w1 _)]

theorem commitLeaves : Clause.CommitLeaves := by
  intro s h c hc hw t
  obtain ⟨hclosed, hregs, hothers⟩ := commit_regs hc
  obtain ⟨hinstret, hsiglo, hsighi⟩ := (s.hart h).committed_csrs c hw
  have hcsr (n : Nat) : (t.hart h).csr n = ((s.hart h).committed c).csr n := Hart.csr_congr hregs n
  refine ⟨hclosed, (hcsr _).trans hinstret, (hcsr _).trans hsiglo, (hcsr _).trans hsighi,
    fun n hn => (hcsr n).trans (Hart.committed_csr_ne c _ hw hn), ?_, ?_, ?_, ?_, hothers⟩
  · exact (congrArg HartArch.x hregs :)
  · exact (congrArg HartArch.f hregs :)
  · exact (congrArg HartArch.pc hregs :)
  · exact (congrArg HartArch.rt hregs :)

/-! Squash (R293). -/

/-- The hart back at the start of its chunk. -/
def Hart.rewound (c : Chunk) (x : Hart) : Hart :=
  { x with a := c.snap.arch, afterSync := c.snap.sync, chunk := none, links := [], status := .running, sent := none, resumeTrap := none }

/-- The owner's checkpoint of the vector file is back in it. -/
def State.restoreVf (s : State) (h : Nat) (c : Chunk) : State :=
  match c.snap.vf with
  | some vf => if (s.core (coreOf h)).owner = some h then s.onCore (coreOf h) fun k => { k with vf := vf } else s
  | none => s

/-- The engine registrations of the chunk are withdrawn. -/
def State.withdrawEngines (s : State) (h : Nat) (c : Chunk) : State :=
  if c.engines.isEmpty then s else s.onCore (coreOf h) fun k => c.engines.foldl Core.withdraw k

/-- The reads that the hart has asked of banks are forgotten. -/
def State.dropBankReads (s : State) (h : Nat) : State :=
  if (s.core (coreOf h)).banks.isEmpty then s else s.onCore (coreOf h) (·.dropReads h)

/-- The return to a chunk's start, as its core's part, its hart's, and the updates let through. -/
theorem rewind_eq {s : State} {h : Nat} {c : Chunk} (hc : (s.hart h).chunk = some c) :
    s.rewind h = ((((s.restoreVf h c).withdrawEngines h c).dropBankReads h).onHart h (Hart.rewound c)).releaseHeld (clusterOf h) := by
  unfold State.rewind
  rw [hc]
  rfl

theorem vf_onCore {s : State} (k : Nat) {f : Core → Core} (hf : ∀ q, (f q).vf = q.vf) : ((s.onCore k f).core k).vf = (s.core k).vf := by
  rw [onCore_eq, core_setCore_self, hf]

theorem Core.withdraw_vf (k : Core) (e : Engine) : (k.withdraw e).vf = k.vf := by
  cases e <;> rfl

theorem Core.withdrawAll_vf (l : List Engine) (k : Core) : (l.foldl Core.withdraw k).vf = k.vf := by
  induction l generalizing k with
  | nil => rfl
  | cons e l ih => exact (ih _).trans (k.withdraw_vf e)

theorem coreOnly_restoreVf (s : State) (h : Nat) (c : Chunk) : CoreOnly (coreOf h) s (s.restoreVf h c) := by
  unfold State.restoreVf
  split
  · split
    · exact coreOnly_onCore s _ _
    · exact CoreOnly.refl _ s
  · exact CoreOnly.refl _ s

/-- The owner's file is the checkpoint. -/
theorem restoreVf_owned {s : State} {h : Nat} {c : Chunk} {f : VecFile} (hf : c.snap.vf = some f)
    (hown : (s.core (coreOf h)).owner = some h) : ((s.restoreVf h c).core (coreOf h)).vf = f := by
  simp only [State.restoreVf, hf, hown, if_true, onCore_eq, core_setCore_self]

theorem withdrawEngines_leaves (s : State) (h : Nat) (c : Chunk) :
    CoreOnly (coreOf h) s (s.withdrawEngines h c) ∧ ((s.withdrawEngines h c).core (coreOf h)).vf = (s.core (coreOf h)).vf := by
  unfold State.withdrawEngines
  split
  · exact ⟨CoreOnly.refl _ s, rfl⟩
  · exact ⟨coreOnly_onCore s _ _, vf_onCore _ (Core.withdrawAll_vf c.engines)⟩

theorem dropBankReads_leaves (s : State) (h : Nat) :
    CoreOnly (coreOf h) s (s.dropBankReads h) ∧ ((s.dropBankReads h).core (coreOf h)).vf = (s.core (coreOf h)).vf := by
  unfold State.dropBankReads
  split
  · exact ⟨CoreOnly.refl _ s, rfl⟩
  · exact ⟨coreOnly_onCore s _ _, vf_onCore _ fun _ => rfl⟩

/-- The hart with one more squash in a row. -/
def Hart.countSquash (x : Hart) : Hart := { x with squashRun := x.squashRun + 1 }

theorem HartKept.countSquash (x : Hart) : HartKept x x.countSquash := ⟨rfl, rfl, rfl, rfl, rfl, rfl, rfl, rfl, rfl, rfl, id⟩

theorem letThrough_countSquash (s : State) (h : Nat) : LetThrough s (s.onHart h Hart.countSquash) := by
  refine ⟨Quiet.onHart s h _ (HartKept.countSquash (s.hart h)), fun _ => rfl, fun k => ?_⟩
  rw [onHart_eq]
  by_cases hk : k = h
  · rw [hk, hart_setHart_self]
    exact List.Subset.refl _
  · rw [hart_setHart_ne s _ hk]
    exact List.Subset.refl _

/-- After the return to the chunk's start, the squash is counted and the grant may be asked for (R294). -/
theorem letThrough_squash {s : State} {h : Nat} {c : Chunk} (hc : (s.hart h).chunk = some c) : LetThrough (s.rewind h) (s.squash h) := by
  have hcounted := letThrough_countSquash (s.rewind h) h
  unfold State.squash
  rw [hc, if_neg (by simp)]
  dsimp only
  split
  · exact hcounted.trans (letThrough_askGrant _ h)
  · exact hcounted

/-- A squash rewinds its hart in a state that differs from the present one in the hart's core, where the file is the one restored. -/
theorem squash_stages {s : State} {h : Nat} {c : Chunk} (hc : (s.hart h).chunk = some c) :
    ∃ u, CoreOnly (coreOf h) s u ∧ (u.core (coreOf h)).vf = ((s.restoreVf h c).core (coreOf h)).vf ∧
      LetThrough (u.onHart h (Hart.rewound c)) (s.squash h) := by
  obtain ⟨hengines, hfile⟩ := withdrawEngines_leaves (s.restoreVf h c) h c
  obtain ⟨hbanks, hfile'⟩ := dropBankReads_leaves ((s.restoreVf h c).withdrawEngines h c) h
  refine ⟨_, ((coreOnly_restoreVf s h c).trans hengines).trans hbanks, hfile'.trans hfile, LetThrough.trans ?_ (letThrough_squash hc)⟩
  rw [rewind_eq hc]
  exact letThrough_releaseHeld _ _

theorem squashRestores : Clause.SquashRestores := by
  intro s h c hc t
  obtain ⟨u, hcore, hfile, hsquashed⟩ := squash_stages hc
  have hmine := hsquashed.quiet.harts h
  have hlinks := hsquashed.links h
  rw [onHart_eq, hart_setHart_self] at hmine hlinks
  refine ⟨hmine.a, Option.map_eq_none_iff.mp hmine.chunk, List.subset_nil.mp hlinks, hmine.running rfl, fun f hf hown => ?_,
    fun k hk => ?_, fun k hk => (hsquashed.core k).trans (hcore.core k hk)⟩
  · rw [hsquashed.core, ← restoreVf_owned hf hown, ← hfile]
    rfl
  · have hother := hsquashed.quiet.harts k
    rw [onHart_eq, hart_setHart_ne u _ hk] at hother
    rw [hother.a, hcore.hart]

/-! Double fault (R392). -/

/-- The hart that a double fault stops. -/
def Hart.doubleFaulted (x : Hart) (cause : Nat) (tval tval2 : Word) : Hart :=
  (((x.setCsr Csr.tcause (BitVec.ofNat 64 cause)).setCsr Csr.tval tval).setCsr Csr.tval2 tval2).setStatus .halted

/-- The CSRs that a double fault writes, and those it leaves. -/
theorem Hart.doubleFaulted_csrs (x : Hart) (cause : Nat) (tval tval2 : Word) (hw : mapWf 0 x.a.csr = true) :
    let y := x.doubleFaulted cause tval tval2
    y.csr Csr.tcause = BitVec.ofNat 64 cause ∧ y.csr Csr.tval = tval ∧ y.csr Csr.tval2 = tval2 ∧
      ∀ n, n ∉ [Csr.tcause, Csr.tval, Csr.tval2] → y.csr n = x.csr n := by
  have w1 := x.wf_setCsr Csr.tcause (BitVec.ofNat 64 cause) hw
  have w2 := Hart.wf_setCsr _ Csr.tval tval w1
  simp only [Hart.doubleFaulted, Hart.csr_setStatus]
  refine ⟨?_, ?_, Hart.csr_setCsr_self _ _ _ w2, fun n hn => ?_⟩
  · rw [Hart.csr_setCsr_ne _ _ w2 (by decide), Hart.csr_setCsr_ne _ _ w1 (by decide), Hart.csr_setCsr_self _ _ _ hw]
  · rw [Hart.csr_setCsr_ne _ _ w2 (by decide), Hart.csr_setCsr_self _ _ _ w1]
  · simp only [List.mem_cons, List.not_mem_nil, or_false, not_or] at hn
    obtain ⟨hcause, hval, hval2⟩ := hn
    rw [Hart.csr_setCsr_ne _ _ w2 hval2, Hart.csr_setCsr_ne _ _ w1 hval, Hart.csr_setCsr_ne _ _ hw hcause]

/-- A double fault stops its hart and queues one report to the hart's context. -/
theorem doubleFault_leaves (s : State) (cause : Nat) (tval tval2 : Word) :
    (s.doubleFault cause tval tval2).me = s.me.doubleFaulted cause tval tval2 ∧
      ∃ e, (s.doubleFault cause tval tval2).outbox = s.outbox ++ [(s.me.ctx, e)] := by
  have hme := me_setHart_self s (s.me.doubleFaulted cause tval tval2)
  refine ⟨hme, ?_⟩
  have hctx : (s.setHart s.cur (s.me.doubleFaulted cause tval tval2)).me.ctx = s.me.ctx := by rw [hme]; rfl
  rw [← hctx]
  exact ⟨_, rfl⟩

/-- With no chunk open, a trap at the first instruction of a handler is a double fault. -/
theorem takeTrap_atVec {s : State} (hvec : s.me.atVec = true) (hc : s.me.chunk = none) (cause : Nat) (tval tval2 : Word) :
    s.takeTrap cause tval tval2 = (s.dropReqs s.pc).doubleFault cause tval tval2 := by
  obtain ⟨k, hdrop⟩ := HartOnly.dropReqs s s.pc
  unfold State.takeTrap State.trapAfterChunk
  rw [hc]
  exact if_pos (by rw [hdrop.me]; exact hvec)

theorem doubleFault : Clause.DoubleFault := by
  intro s cause tval tval2 hvec hc hw t
  obtain ⟨k, hdrop⟩ := HartOnly.dropReqs s s.pc
  obtain ⟨hme, e, hout⟩ := doubleFault_leaves (s.dropReqs s.pc) cause tval tval2
  rw [← takeTrap_atVec hvec hc] at hme hout
  rw [hdrop.me] at hme hout
  obtain ⟨hcause, hval, hval2, hkept⟩ := (s.me.asking k).doubleFaulted_csrs cause tval tval2 hw
  rw [← hme] at hcause hval hval2 hkept
  refine ⟨congrArg Hart.status hme, hcause, hval, hval2, hkept _ (by decide), hkept _ (by decide), ?_, ?_, e, ?_⟩
  · exact congrArg (·.a.pc) hme
  · exact congrArg (·.a.mode) hme
  · rw [hout, hdrop.keeps State.outbox fun _ _ _ _ _ => rfl]
    rfl

end Sys2Proof.Machine

open Sys2Proof Sys2Proof.Machine

/-- Settles O50: the arbiter's verdict, and what a commit, a squash and a double fault leave of harts and cores. -/
theorem chunkEnds : Obligations.ChunkEnds := ⟨arbitration, commitLeaves, squashRestores, doubleFault⟩

end

section
/-! Proofs of the statement on the events of the replicas and of the Dispatch Unit (spec/19 R346-R357, spec/21 R364-R371, spec/23 R394-R397): each
event, where the state enables it, does what its rule says. -/

namespace Sys2Proof.Machine

/-! Updates of one group or context, and of a list of harts. -/

theorem onGroup_listed {s : State} {n : Nat} {G : Group} (h : mapFind? s.groups n = some G) (f : Group → Group) :
    s.onGroup n f = { s with groups := mapPut s.groups n (f G) } := by
  simp only [State.onGroup, h]

theorem onCtx_listed {s : State} {n : Nat} {c : Ctx} (h : s.ctx? n = some c) (f : Ctx → Ctx) :
    s.onCtx n f = { s with ctxs := mapPut s.ctxs n (f c) } := by
  rw [State.ctx?] at h
  simp only [State.onCtx, h]

theorem onCtx_ctxs (s : State) (n : Nat) (f : Ctx → Ctx) : s.onCtx n f = { s with ctxs := (s.onCtx n f).ctxs } := by
  unfold State.onCtx
  split <;> rfl

theorem foldl_onCtx_ctxs {α : Type} (n : State → α → Nat) (f : State → α → Ctx → Ctx) (l : List α) (s : State) :
    ∃ cs, l.foldl (fun s a => s.onCtx (n s a) (f s a)) s = { s with ctxs := cs } := by
  induction l generalizing s with
  | nil => exact ⟨s.ctxs, rfl⟩
  | cons a l ih =>
    obtain ⟨cs, h⟩ := ih (s.onCtx (n s a) (f s a))
    refine ⟨cs, h.trans ?_⟩
    rw [onCtx_ctxs]

theorem foldl_onHart_groups {α : Type} (h : α → Nat) (f : α → Hart → Hart) (l : List α) (s : State) :
    (l.foldl (fun s a => s.onHart (h a) (f a)) s).groups = s.groups := by
  induction l generalizing s with
  | nil => rfl
  | cons a l ih => exact ih _

/-- Each value that a running maximum has met is at most the maximum. -/
theorem le_foldl_max {α : Type} (f : α → Nat) (l : List α) (m : Nat) :
    m ≤ l.foldl (fun n x => Nat.max n (f x)) m ∧ ∀ x ∈ l, f x ≤ l.foldl (fun n x => Nat.max n (f x)) m := by
  induction l generalizing m with
  | nil => exact ⟨le_rfl, fun _ h => absurd h List.not_mem_nil⟩
  | cons a l ih =>
    obtain ⟨hstart, hrest⟩ := ih (Nat.max m (f a))
    refine ⟨(Nat.le_max_left _ _).trans hstart, fun x hx => ?_⟩
    rcases List.mem_cons.mp hx with rfl | hx
    · exact (Nat.le_max_right _ _).trans hstart
    · exact hrest x hx

/-! Replicas (R364-R371). -/

/-- R364: a value that the replica has not taken stands in its log. -/
theorem forwardValueArrival_wakes {s : State} {h : Nat} {g : Group} (hg : s.groupOf h = some g)
    (hst : (s.hart h).status = .parked .forward) (hmore : (s.as h).fwdPos < (g.received h).length) :
    exec (.forwardValueArrival h) s = .next (s.onHart h (·.setStatus .running)) := by
  show execForwardValueArrival h s = _
  simp only [execForwardValueArrival, hg]
  exact if_pos ⟨hst, .inl hmore⟩

/-- R368: a signature that may arrive is noted; once every live replica's is, the group compares them. -/
theorem signatureArrival_noted {s : State} {n r : Nat} {G : Group} {sg : BitVec 128} (hG : mapFind? s.groups n = some G)
    (hsent : (s.hart (mapGet 0 G.harts r)).sent = some sg) (hlive : r ∈ G.live) (hnew : mapFind? G.sigs r = none)
    (hopen : s.channelOpen G r G.lead = true) :
    let sigs := mapPut G.sigs r sg
    let u : State := { s with groups := mapPut s.groups n { G with sigs := sigs, timer := some (G.timer.getD 0) } }
    exec (.signatureArrival n r) s = .next (if G.live.all (fun k => (mapFind? sigs k).isSome) = true then u.compare n else u) := by
  intro sigs u
  show execSignatureArrival n r s = _
  simp only [execSignatureArrival, hG, hsent]
  rw [if_neg (by simp [hlive, hnew, hopen]), onGroup_listed hG]

/-- R368: with no vote taken, two equal signatures commit. -/
theorem compare_agree {s : State} {n a b : Nat} {G : Group} (hG : mapFind? s.groups n = some G) (hlive : G.live = [a, b])
    (hvote : G.vote = none) (heq : mapGet 0 G.sigs a = mapGet 0 G.sigs b) : s.compare n = s.commitGroup n := by
  simp only [State.compare, hG, hlive, heq, hvote, if_true]

/-- R371: the one late replica of two is stopped; the other's chunk is squashed, and it traps. -/
theorem replicaTimeout_late {s : State} {n a b : Nat} {G : Group} (hG : mapFind? s.groups n = some G) (hlive : G.live = [a, b])
    (htimer : 100000 ≤ G.timer.getD 0) (ha : mapFind? G.sigs a ≠ none) (hb : mapFind? G.sigs b = none) :
    exec (.replicaTimeout n) s = .next ((((s.stopReplica n b Cause.replTimeout).squash (mapGet 0 G.harts a)).trapAtNext
      (mapGet 0 G.harts a) Cause.replTimeout (BitVec.ofNat 64 b) 0)) := by
  have hab : a ≠ b := fun h => ha (h ▸ hb)
  have hlate : G.live.filter (fun r => (mapFind? G.sigs r).isNone) = [b] := by simp [hlive, ha, hb]
  have hrest : G.liveHarts.filter (fun e => decide (e.1 ∉ [b])) = [(a, mapGet 0 G.harts a)] := by simp [Group.liveHarts, hlive, hab]
  show execReplicaTimeout n s = _
  simp only [execReplicaTimeout, hG, hlate, hrest]
  exact if_neg (Nat.not_lt.mpr htimer)

/-- R366: the number of the last chunk that a hart has opened. -/
def Hart.opened (x : Hart) : Nat := if x.chunkCount = 0 then x.ordinal else x.ordinal + 1

theorem Hart.ordinal_le_opened (x : Hart) : x.ordinal ≤ x.opened := by
  unfold Hart.opened
  split <;> omega

/-- R366: the boundary of an event, the highest chunk that a live replica has opened. -/
def State.boundary (s : State) (G : Group) : Nat := (G.liveHarts.map fun e => s.hart e.2).foldl (fun n x => Nat.max n x.opened) 0

theorem ordinal_le_boundary (s : State) {G : Group} {r : Nat} (hr : r ∈ G.live) :
    (s.hart (mapGet 0 G.harts r)).ordinal ≤ s.boundary G := by
  refine (Hart.ordinal_le_opened _).trans ((le_foldl_max _ _ 0).2 _ (List.mem_map.mpr ⟨(r, mapGet 0 G.harts r), ?_, rfl⟩))
  exact List.mem_map.mpr ⟨r, hr, rfl⟩

/-- R366: the event that some replica waits for is named for the boundary. -/
theorem replicaEventDelivery_boundary {s : State} {n : Nat} {G : Group} (hG : mapFind? s.groups n = some G) (hfree : G.eventAt = none)
    (hwaits : ∃ r ∈ G.live, (s.hart (mapGet 0 G.harts r)).eventWaits = true) :
    ∃ t, exec (.replicaEventDelivery n) s = .next t ∧ (mapFind? t.groups n).bind Group.eventAt = some (s.boundary G) := by
  have hgo : ¬ (G.eventAt.isSome = true ∨ (G.liveHarts.map fun e => s.hart e.2).all (fun x => !x.eventWaits) = true) := by
    simpa [hfree, Group.liveHarts] using hwaits
  show ∃ t, execReplicaEventDelivery n s = .next t ∧ _
  simp only [execReplicaEventDelivery, hG]
  rw [if_neg hgo]
  refine ⟨_, rfl, ?_⟩
  rw [onGroup_listed (by rw [foldl_onHart_groups]; exact hG)]
  simp only [mapFind?_put_self]
  rfl

/-- Each event of a replica group (R364-R371). -/
theorem replicaEvents : Clause.ReplicaEvents := by
  refine fun s => ⟨fun h g => forwardValueArrival_wakes, ?_, ?_, fun n G a b => compare_agree, fun n G a b => replicaTimeout_late, ?_⟩
  · intro n r G sg hG hsent hlive hnew hopen sigs u hall
    rw [signatureArrival_noted hG hsent hlive hnew hopen]
    exact congrArg _ (if_pos (List.all_eq_true.mpr fun k hk => Option.isSome_iff_ne_none.mpr (hall k hk)))
  · intro n r G sg hG hsent hlive hnew hopen sigs hmiss
    obtain ⟨k, hk, hnone⟩ := hmiss
    rw [signatureArrival_noted hG hsent hlive hnew hopen]
    exact congrArg _ (if_neg fun h => Option.isSome_iff_ne_none.mp (List.all_eq_true.mp h k hk) hnone)
  · intro n G hG hfree hwaits
    obtain ⟨t, hexec, hat⟩ := replicaEventDelivery_boundary hG hfree hwaits
    exact ⟨t, _, hexec, hat, fun r hr => ordinal_le_boundary s hr⟩

/-! Launches (R346-R352). -/

/-- R351: a tick of a die changes deficits and the count of its ticks alone. -/
theorem deficitTick_charges {s : State} {die : Nat} (hdie : die < 4) (htick : mapGet 0 s.dev.ticks die < s.time / 1000) :
    ∃ cs, exec (.deficitTick die) s =
      .next { s with ctxs := cs, dev := { s.dev with ticks := mapPut s.dev.ticks die (mapGet 0 s.dev.ticks die + 1) } } := by
  obtain ⟨cs, hspent⟩ := foldl_onCtx_ctxs (fun s (e : Nat × Instance) => s.instCtx e.2)
    (fun _ e c => c.setDeficit die e.2.level (c.deficit die e.2.level - ((e.2.live.filter fun h => decide (dieOf h = die)).length : Nat)))
    (s.instances.filter fun e => e.2.swappedAt.isNone) s
  refine ⟨cs, ?_⟩
  show execDeficitTick die s = _
  simp only [execDeficitTick]
  rw [if_neg (by omega), hspent]

/-- A record is taken once no earlier one of its queue is held (R347), a placement that fits is made (R352), and a tick is charged once (R351). -/
theorem launchEvents : Clause.LaunchEvents := by
  refine fun s => ⟨?_, ?_, fun die hdie htick => ?_⟩
  · intro n k c q e t hc hq hserves halive hheld a b hpois hsound hdeq r l u
    have hfree : s.launches.any (fun e => decide (e.2.ctx = n) && decide (e.2.queue = k) && decide (e.2.next < e.2.count)) = false := by
      simpa [List.any_eq_false] using hheld
    have htaken : exec (.launchRecordTake n k) s =
        .next ((u.recordFault c k e).elim (u.bindLaunch s.tagCtr) (u.refuseLaunch s.tagCtr)) := by
      show execLaunchRecordTake n k s = _
      simp only [execLaunchRecordTake, hc, hq, hfree, show s.deqAt (s.launchActor n k s.tagCtr) q = _ from hdeq]
      refine (if_neg (by simp [hserves, halive, a, b, hpois])).trans ((if_neg (by simp [a, b, hsound])).trans ?_)
      show Host.Outcome.next (match u.recordFault c k e with | some reason => _ | none => _) = _
      cases u.recordFault c k e <;> rfl
    exact ⟨fun reason hfault => by rw [htaken, hfault]; rfl, fun hfault => by rw [htaken, hfault]; rfl⟩
  · intro n l c since harts hl hc hready die u hserves halive hleft hvalid htake hlevel v
    have hfits : (u.dev.serves && c.alive && decide (l.next < l.count) && u.validPlace l c harts &&
        u.mayTake die (fun e => !e.resumed && decide (e.key = n)) harts.flatten) = true := by
      simp [hserves, halive, hleft, hvalid, htake]
    show execInstancePlace n harts s = _
    simp only [execInstancePlace, hl, hc, hready]
    exact (if_pos hfits).trans (if_pos hlevel)
  · obtain ⟨cs, hexec⟩ := deficitTick_charges hdie htick
    refine ⟨_, hexec, ?_, rfl, rfl, rfl⟩
    simp only [mapGet, mapFind?_put_self]
    rfl

/-! Pre-emption, notice and timers (R354, R394-R397). -/

/-- R396: what the request for pre-emption does to a hart, by the notice that its context asked for. -/
theorem preemptionRequest_asks {s : State} {n core : Nat} (hgrounds : s.preemptGrounds n core = true)
    (hfresh : ∃ h ∈ s.boundHarts n (s.swapCores n core), (s.hart h).preempt = false ∧ (s.hart h).noticeUntil = none) :
    exec (.preemptionRequest n core) s = .next ((s.boundHarts n (s.swapCores n core)).foldl (fun u h => u.onHart h fun x =>
      if x.preempt = true ∨ x.noticeUntil ≠ none then x
      else if (s.ctx? n).map Ctx.notice = some true ∧ (x.csr Csr.tstat).getLsbD 1 = true then
        { x with irqPreempt := true, noticeUntil := some (u.time + 50000) }
      else { x with preempt := true }) s) := by
  obtain ⟨h, hh, hpre, hnote⟩ := hfresh
  have hgo : ¬ ((s.boundHarts n (s.swapCores n core)).all (fun h => (s.hart h).preempt || (s.hart h).noticeUntil.isSome) = true ∨
      s.preemptGrounds n core = false) := by
    simp only [hgrounds, Bool.true_eq_false, or_false, List.all_eq_true, not_forall]
    exact ⟨h, hh, by simp [hpre, hnote]⟩
  show execPreemptionRequest n core s = _
  simp only [execPreemptionRequest]
  rw [if_neg hgo]
  have hasked (x : Hart) : ((x.preempt || x.noticeUntil.isSome) = true) = (x.preempt = true ∨ x.noticeUntil ≠ none) := by
    simp [Option.isSome_iff_ne_none]
  cases hc : s.ctx? n <;> simp only [hasked, Option.map, bit, Bool.and_eq_true, Option.some.injEq, Bool.false_and, reduceCtorEq, false_and]

/-- A listed hart after a timer tick of context n. -/
def tickHart (n : Nat) (e : Nat × Hart) : Nat × Hart :=
  if e.2.ctx = n ∧ e.2.status ≠ .free then (e.1, { e.2 with irqTimer := true }) else e

theorem tickHart_pending (n : Nat) (e : Nat × Hart) :
    (tickHart n e).1 = e.1 ∧ (e.2.ctx = n → e.2.status ≠ .free → (tickHart n e).2.irqTimer = true) := by
  unfold tickHart
  by_cases hbound : e.2.ctx = n ∧ e.2.status ≠ .free
  · rw [if_pos hbound]
    exact ⟨rfl, fun _ _ => rfl⟩
  · rw [if_neg hbound]
    exact ⟨rfl, fun hctx hst => absurd ⟨hctx, hst⟩ hbound⟩

/-- R394: every bound hart of the context gets its timer interrupt. -/
theorem hart_ticked {s t : State} {n h : Nat} (ht : t.harts = s.harts.map (tickHart n)) (hlisted : (mapFind? s.harts h).isSome = true)
    (hctx : (s.hart h).ctx = n) (hst : (s.hart h).status ≠ .free) : (t.hart h).irqTimer = true := by
  rcases mapFind?_map (tickHart n) (fun x y => x.ctx = n → x.status ≠ .free → y.irqTimer = true) (tickHart_pending n) s.harts h with
    ⟨hnone, -⟩ | ⟨x, y, hx, hy, hxy⟩
  · rw [hnone] at hlisted
    cases hlisted
  · rw [State.hart, hx] at hctx hst
    rw [State.hart, ht, hy]
    exact hxy hctx hst

/-- R394: the timer of a context ticks at its time, and is set for the next. -/
theorem timerTick_ticks {s : State} {n : Nat} {c : Ctx} (hc : s.ctx? n = some c) (htick : c.tick ≠ 0) (hdue : c.nextTick ≤ s.time) :
    ∃ t, exec (.timerTick n) s = .next t ∧ (t.ctx? n).map Ctx.nextTick = some (c.nextTick + c.tick * 1000) ∧
      t.harts = s.harts.map (tickHart n) := by
  have hgo : ¬ (c.tick = 0 ∨ s.time < c.nextTick) := by omega
  show ∃ t, execTimerTick n s = .next t ∧ _
  simp only [execTimerTick, hc]
  rw [if_neg hgo, onCtx_listed hc]
  refine ⟨_, rfl, ?_, rfl⟩
  simp only [State.ctx?, mapFind?_put_self, Option.map_some]

/-- What R394-R396 wait for is there: grounds and a hart not yet asked, the end of a notice, of a deferral, of a tick or of a WAIT. -/
theorem interruptEvents : Clause.InterruptEvents := by
  refine fun s => ⟨fun n core hgrounds hfresh => preemptionRequest_asks hgrounds hfresh, fun n core hlate => ?_,
    fun h hdef htime => if_pos ⟨hdef, htime⟩, fun n c hc htick hdue => ?_, fun h a until_ hst hdue => ?_⟩
  · obtain ⟨h, hh, t, hnote, htime⟩ := hlate
    refine if_neg ?_
    simp only [List.isEmpty_iff, List.filter_eq_nil_iff, not_forall]
    exact ⟨h, hh, by simp [hnote, htime]⟩
  · obtain ⟨t, hexec, hnext, hharts⟩ := timerTick_ticks hc htick hdue
    exact ⟨t, hexec, hnext, fun h hlisted hctx hst => hart_ticked hharts hlisted hctx hst⟩
  · show execWaitTimeout h s = _
    simp only [execWaitTimeout, hst]
    exact if_neg (Nat.not_lt.mpr hdue)

/-! The entry of an interrupt (R19, R394, R395). -/

/-- R394: an interrupt that was taken is pending no longer. -/
theorem Hart.ackIrq_clears (x : Hart) (cause : Nat) : (cause = Cause.timer → (x.ackIrq cause).irqTimer = false) ∧
    (cause = Cause.preempt → (x.ackIrq cause).irqPreempt = false) ∧ (cause = Cause.supervisorCall → (x.ackIrq cause).irqCall = none) :=
  ⟨by rintro rfl; rfl, by rintro rfl; rfl, by rintro rfl; rfl⟩

/-- Only what is pending changes. -/
theorem Hart.ackIrq_rest (x : Hart) (cause : Nat) :
    (x.ackIrq cause).a = x.a ∧ (x.ackIrq cause).atVec = x.atVec := by
  unfold Hart.ackIrq
  split
  · exact ⟨rfl, rfl⟩
  · split <;> exact ⟨rfl, rfl⟩

/-- The entry of a hart outside lockstep that is not at the first instruction of its handler changes that hart alone. -/
theorem trapEntry_alone {s : State} (hvec : s.me.atVec = false) (hlock : s.me.a.lock = false) (parked : Bool) (cause : Nat)
    (tval tval2 tepc : Word) :
    s.trapEntry parked cause tval tval2 tepc = s.setHart s.cur (s.me.enterTrap s.owns parked cause tval tval2 tepc) := by
  unfold State.trapEntry State.lockTrap
  rw [if_neg (by simp [hvec]), if_neg (by simp [hlock])]
  rfl

/-- A hart with no open chunk has none to end. -/
theorem endChunk_none {s : State} {h : Nat} (hc : (s.hart h).chunk = none) : s.endChunk h = (s, true) := by
  unfold State.endChunk
  rw [hc]

/-- A running hart is in no park. -/
theorem leavePark_running {s : State} {h : Nat} (hst : (s.hart h).status = .running) : s.leavePark h = s := by
  unfold State.leavePark
  rw [hst]

/-- R19, R395: an unreplicated hart that takes its interrupt by itself, between two chunks and outside a park, enters its handler, and nothing
else changes. -/
theorem interruptTake_enters {s : State} {cause : Nat} {v : Word} (hirq : s.me.irq s.time = some (cause, v)) (halone : s.irqHarts s.cur = [s.cur])
    (hpoint : s.atPoint s.cur = true) (hie : (s.me.csr Csr.tstat).getLsbD 1 = true) (hreplay : s.me.trapAt = none)
    (hchunk : s.me.chunk = none) (hst : s.me.status = .running) (hvec : s.me.atVec = false) (hgroup : s.me.group = none)
    (hlock : s.me.a.lock = false) :
    exec (.interruptTake s.cur) s = .next (s.setHart s.cur ((s.me.ackIrq cause).enterTrap s.owns false cause v 0 s.pc)) := by
  obtain ⟨ha, hackVec⟩ := s.me.ackIrq_rest cause
  rw [State.me] at hirq hgroup
  have hready : [s.cur].all (fun h => s.atPoint h && bit ((s.hart h).csr Csr.tstat) 1 && (s.hart h).trapAt.isNone) = true := by
    simp only [List.all_cons, List.all_nil, Bool.and_true, Bool.and_eq_true]
    exact ⟨⟨hpoint, hie⟩, Option.isNone_iff_eq_none.mpr hreplay⟩
  have hend : s.endAll [s.cur] = (s, true) := by
    simp only [State.endAll, endChunk_none hchunk]
  have hentry : ((s.onHart s.cur (·.ackIrq cause)).as s.cur).trapEntry false cause v 0 ((s.onHart s.cur (·.ackIrq cause)).as s.cur).pc =
      s.setHart s.cur ((s.me.ackIrq cause).enterTrap s.owns false cause v 0 s.pc) := by
    have hme : ((s.onHart s.cur (·.ackIrq cause)).as s.cur).me = s.me.ackIrq cause := me_setHart_self s _
    rw [trapEntry_alone (by rw [hme, hackVec]; exact hvec) (by rw [hme, ha]; exact hlock), pc_eq, hme, ha]
    exact setHart_setHart s s.cur _ _
  show execInterruptTake s.cur s = _
  simp only [execInterruptTake, hirq, halone]
  rw [if_neg (by rw [hready]; decide), hend]
  simp only [List.foldl_cons, List.foldl_nil, leavePark_running hst, List.filter_cons, List.filter_nil, List.filterMap_cons, List.filterMap_nil,
    hgroup, show (s.hart s.cur).status = .running from hst, Bool.false_eq_true, if_false, List.not_mem_nil, decide_false, hentry, List.map_id']
  rfl

/-- The entry leaves what is pending. -/
theorem Hart.enterTrap_irqs (x : Hart) (owns parked : Bool) (cause : Nat) (tval tval2 tepc : Word) :
    (x.enterTrap owns parked cause tval tval2 tepc).irqTimer = x.irqTimer ∧
      (x.enterTrap owns parked cause tval tval2 tepc).irqPreempt = x.irqPreempt ∧
      (x.enterTrap owns parked cause tval tval2 tepc).irqCall = x.irqCall := by
  simp only [Hart.enterTrap, Hart.setCsr_irqTimer, Hart.setCsr_irqPreempt, Hart.setCsr_irqCall, and_self]

/-- The status that the entry leaves: IE clear, and its old value in its place (R19). -/
theorem trapStatus_bits (privileged owns : Bool) :
    let st : Word := (if privileged then 1#64 else 0) ||| 4#64 ||| (if owns then 16#64 else 0)
    st.getLsbD 1 = false ∧ st.getLsbD 2 = true := by
  cases privileged <;> cases owns <;> decide

/-- R19, R394: the entry writes its own CSRs after what the acknowledged interrupt leaves. -/
theorem interruptEntry : Clause.InterruptEntry := by
  rintro s h cause v hirq halone hpoint hie hreplay hchunk hst hvec hgroup hlock hw rfl
  obtain ⟨ha, -⟩ := s.me.ackIrq_rest cause
  have hcsr (n : Nat) : (s.me.ackIrq cause).csr n = s.me.csr n := Hart.csr_congr ha n
  obtain ⟨hepc, hcause, hval, hval2, hstat, hpc⟩ := (s.me.ackIrq cause).enterTrap_csrs s.owns cause v 0 s.me.a.pc (by rw [ha]; exact hw)
  obtain ⟨hoff, hkept⟩ := trapStatus_bits (decide ((s.me.ackIrq cause).a.mode = .s)) s.owns
  simp only [decide_eq_true_eq] at hoff hkept
  rw [hcsr, if_pos (show (s.me.csr Csr.tstat).getLsbD 1 = true from hie)] at hstat
  rw [hcsr] at hpc
  refine ⟨_, interruptTake_enters hirq halone hpoint hie hreplay hchunk hst hvec hgroup hlock, ?_⟩
  obtain ⟨hmode, -⟩ := (s.me.ackIrq cause).enterTrap_rest s.owns cause v 0 s.me.a.pc
  obtain ⟨htimer, hpreempt, hcall⟩ := (s.me.ackIrq cause).enterTrap_irqs s.owns false cause v 0 s.me.a.pc
  simp only [csr_eq, pc_eq, me_setHart_self, hstat, htimer, hpreempt, hcall]
  exact ⟨hepc, hcause, hval, hval2, hmode, hpc, hoff, hkept, s.me.ackIrq_clears cause⟩

/-! Swaps and self-test visits (R357, R396, R397). -/

/-- R397: a swap of a live context saves the cores that swap together; besides, only groups and instances change. -/
theorem swapOut_saves {s : State} {n core : Nat} {c : Ctx} {cores hs : List Nat} (hc : s.ctx? n = some c) (halive : c.alive = true)
    (hcores : s.swapCores n core = cores) (hharts : s.boundHarts n cores = hs) (hbound : hs ≠ [])
    (hasked : ∃ h ∈ hs, (s.hart h).preempt = true) (hhalted : ∀ h ∈ hs, s.haltedFor h = true)
    (hquiet : ∀ k ∈ cores, (s.core k).swapQuiet hs = true) :
    ∃ gs is, exec (.swapOut n core) s = .next
      { cores.foldl (fun u k => u.saveCore s.nextSwap n true k) s with groups := gs, instances := is } := by
  obtain ⟨h, hh, hpre⟩ := hasked
  have hany : hs.any (fun h => (s.hart h).preempt || (s.hart h).noticeUntil.isSome) = true :=
    List.any_eq_true.mpr ⟨h, hh, by simp [hpre]⟩
  have hgo : ¬ (hs.isEmpty || !(hs.any (fun h => (s.hart h).preempt || (s.hart h).noticeUntil.isSome) || s.preemptGrounds n core) ||
      !hs.all s.haltedFor || !cores.all (fun k => (s.core k).swapQuiet hs)) = true := by
    simp [hany, List.all_eq_true.mpr hhalted, List.all_eq_true.mpr hquiet, hbound]
  have hexec : exec (.swapOut n core) s = execSwapOut n core s := rfl
  simp only [hexec, execSwapOut, hcores, hharts, hc, halive]
  rw [if_neg hgo]
  exact ⟨_, _, rfl⟩

/-- R354, R397: a swapped-out context that may return is loaded from the images of its swap. -/
theorem swapIn_loads {s u : State} {n core : Nat} {e : Nat × Image} (hu : s.refill (core / 256) = u)
    (hfind : (u.imagesOn n core).find? (fun e => u.mayReturn (core / 256) (u.swapImages (keySwap e.1))) = some e) :
    ∃ is, exec (.swapIn n core) s = .next { (u.swapImages (keySwap e.1)).foldl State.loadCore u with instances := is } := by
  have hexec : exec (.swapIn n core) s = execSwapIn n core s := rfl
  rw [hexec]
  unfold execSwapIn
  rw [hu]
  simp only [hfind]
  exact ⟨_, rfl⟩

/-- The count of visits and the time of the next do not move the clock. -/
theorem time_setVisits (s : State) (visits next : Nat) :
    ({ s with dev := { s.dev with visits := visits, nextVisit := next } } : State).time = s.time := (rfl)

/-- R357: the visit of the cluster whose turn has come begins, and the next is an interval later. -/
theorem selftestVisit_begins {s : State} {k : Nat} (hvisit : (s.cluster k).visitAt = none) (hturn : k = visitCluster s.dev.visits)
    (hdue : s.dev.nextVisit ≤ s.time) (hbooted : s.dev.booted = true) (hfree : (s.clusters.all fun e => e.2.visitAt.isNone) = true)
    (hfenced : (s.cluster k).fenced = false) :
    let u : State := { s with dev := { s.dev with visits := s.dev.visits + 1, nextVisit := s.time + s.dev.selftestMs * 1000000 } }
    exec (.selftestVisit k) s = .next (u.onCluster k fun q => { q with visitAt := some s.time }) := by
  intro u
  show execSelftestVisit k s = _
  unfold execSelftestVisit
  rw [if_neg (by simp [hvisit]), if_pos ⟨hturn, hdue, hbooted, hfree⟩, if_neg (by simp [hfenced])]
  exact congrArg (fun now => Host.Outcome.next (u.onCluster k fun q => { q with visitAt := some now })) (time_setVisits s _ _)

theorem cluster_onCluster_self (s : State) (k : Nat) (f : Cluster → Cluster) : (s.onCluster k f).cluster k = f (s.cluster k) := by
  simp [State.cluster, State.onCluster, mapFind?_put_self]

/-- The saved and loaded cores are those of the swap (R397), and the visit and its result those of the cluster (R357). -/
theorem swapEvents : Clause.SwapEvents := by
  refine fun s => ⟨?_, ?_, ?_, ?_⟩
  · intro n core c hc halive cores hs hbound hasked hhalted hquiet
    obtain ⟨gs, is, hexec⟩ := swapOut_saves hc halive rfl rfl hbound hasked hhalted hquiet
    exact ⟨_, hexec, rfl, rfl, rfl⟩
  · intro n core e u hfind
    obtain ⟨is, hexec⟩ := swapIn_loads (u := u) rfl hfind
    clear_value u
    exact ⟨_, hexec, rfl, rfl, rfl⟩
  · intro k hvisit hturn hdue hbooted hfree hfenced
    refine ⟨_, selftestVisit_begins hvisit hturn hdue hbooted hfree hfenced, ?_, rfl, rfl, rfl, rfl⟩
    rw [cluster_onCluster_self]
  · intro k t0 unit hvisit hdecanted hunit
    show execSelftestResult k true unit s = _
    simp only [execSelftestResult, hvisit]
    rw [if_neg (by simp [hdecanted, hunit]), if_pos trivial]

end Sys2Proof.Machine

open Sys2Proof Sys2Proof.Machine

/-- Settles O53: the events of the replicas, of launches, of pre-emption, the entry of an interrupt, and the swaps. -/
theorem dispatchEvents : Obligations.DispatchEvents := ⟨replicaEvents, launchEvents, interruptEvents, interruptEntry, swapEvents⟩

end

section
/-! Proofs of the clauses on the host's events that are no reset (spec/22 R379-R390, spec/25 R402-R417): each event, where the state enables it, does
what its rule says. -/

namespace Sys2Proof.Machine

/-! Page requests (R379-R382, R390): an enqueue leaves the list of page requests alone. -/

theorem Quiet.pageReqs {s t : State} (h : Quiet s t) : t.pageReqs = s.pageReqs := by have := congrArg State.pageReqs h.rest; exact this

theorem setQcb_pageReqs (s : State) (mark q : Nat) (c : Qcb) : (s.setQcb mark q c).pageReqs = s.pageReqs := (quiet_homeWrite _ _ _).pageReqs

theorem setWaiters_pageReqs (s : State) (mark q : Nat) (w : Waiters) : (s.setWaiters mark q w).pageReqs = s.pageReqs := setQcb_pageReqs _ _ _ _

theorem handTo_pageReqs (s : State) (q : Nat) (w : QWaiter) (e : List Byte) : (s.handTo q w e).pageReqs = s.pageReqs := by
  unfold State.handTo
  split <;> rfl

theorem intoSlot_pageReqs {s u : State} {a : Actor} {q : Nat} {e : List Byte} (h : s.intoSlot a q e = .ok u) : u.pageReqs = s.pageReqs := by
  unfold State.intoSlot at h
  cases hlocs : s.slot a q (s.qcb a.mark q) .store (s.qcb a.mark q).tail with
  | error x =>
    simp only [hlocs, bind, Except.bind] at h
    cases h
  | ok locs =>
    simp only [hlocs, bind, Except.bind, pure, Except.pure] at h
    obtain rfl := Except.ok.inj h
    exact (setQcb_pageReqs _ _ _ _).trans (quiet_homeWrite _ _ _).pageReqs

theorem enqAt_pageReqs {s u : State} {a : Actor} {q : Nat} {e : List Byte} (h : s.enqAt a q e = .ok (some u)) : u.pageReqs = s.pageReqs := by
  unfold State.enqAt at h
  cases hdeq : (s.waitersOf q).deq with
  | cons d ds =>
    simp only [hdeq] at h
    obtain rfl := Option.some.inj (Except.ok.inj h)
    exact ((setQcb_pageReqs _ _ _ _).trans (setWaiters_pageReqs _ _ _ _)).trans (handTo_pageReqs _ _ _ _)
  | nil =>
    simp only [hdeq] at h
    split at h
    · cases hslot : s.intoSlot a q e with
      | error x => rw [hslot] at h; cases h
      | ok v =>
        rw [hslot] at h
        obtain rfl := Option.some.inj (Except.ok.inj h)
        exact intoSlot_pageReqs hslot
    · cases h

/-- R379, R380, R384, R390: the request, the reply and the answer that the event names are found, and no access waits for the invalidation. -/
theorem pagingEvents : Clause.PagingEvents := by
  refine fun s => ⟨fun f t i r u ht hi hr hsound henq => ?_, fun f t e u i r ht hsound hdeq hi hr hhart => ?_, fun r ok hfind hopen => ?_,
    fun lo len hfree => if_neg (Bool.eq_false_iff.mp hfree)⟩
  · show execPageRequestEnqueue f s = _
    simp only [execPageRequestEnqueue, ht, hi, hr, hsound, henq, enqAt_pageReqs henq]
    rfl
  · intro r'
    have hhart' : ¬ 2 ^ 20 ≤ r.hart := Nat.not_le.mpr hhart
    show execPageReplyReceive f s = _
    simp only [execPageReplyReceive, ht, hsound, hdeq, hi, hr, hhart', false_and, if_false]
    rfl
  · show execHostPageRequestAnswer r.idx ok s = _
    simp only [execHostPageRequestAnswer, hfind]
    exact if_neg (not_not.mpr hopen)

/-! Queue ports and windows (R403-R406). -/

theorem portOpen_iff {s : State} {f handle : Nat} : s.portOpen f handle = true ↔ s.dev.portsOpen = true ∧ f < 64 ∧ handle < 1024 := by
  simp [State.portOpen, and_assoc]

section
variable {s : State} {f handle : Nat} {t : PortTarget} (hopen : s.portOpen f handle = true)
include hopen

/-- R403: a write that the port accepts is enqueued, or is held at the port where the queue is full. -/
theorem queuePortEnqueue_accepted {data : Line} (ht : s.portTarget f handle (64 * handle) = .ok t) (hfree : s.portHolds f = false)
    (hlive : t.ctx = 0 ∨ s.ctxExited t.ctx = false) :
    let a := s.ctxActor t.ctx
    let c := s.qcb a.mark t.qcb
    c.sound t.qcb = true → c.kind ≠ 3 → (c.kind = 4 → f = 0) → c.esize ≤ 64 →
    let e := (leBytes 64 data.toNat).take c.esize
    (∀ u, s.enqAt a t.qcb e = .ok (some u) → exec (.queuePortEnqueue f handle data) s = .next u) ∧
    (s.enqAt a t.qcb e = .ok none → exec (.queuePortEnqueue f handle data) s = .next (s.setWaiters a.mark t.qcb
      { s.waitersOf t.qcb with enq := (s.waitersOf t.qcb).enq ++ [{ hart := 0, kind := .port f, elem := e }] })) := by
  intro a c hsound hkind hpf hsize e
  have hlive' : ¬ (t.ctx ≠ 0 ∧ s.ctxExited t.ctx = true) := by
    rintro ⟨hctx, hexited⟩
    exact hlive.elim hctx fun h => absurd (h.symm.trans hexited) (by decide)
  have hkind' : ¬ (c.kind = 3 ∨ (c.kind = 4 ∧ f ≠ 0)) := by
    rintro (h | ⟨h, hf⟩)
    · exact hkind h
    · exact hf (hpf h)
  refine ⟨fun u hu => ?_, fun hu => ?_⟩
  all_goals
    simp only [a, c, e] at hsound hu
    show execQueuePortEnqueue f handle data s = _
    simp only [execQueuePortEnqueue, hopen, hfree, ht, hsound, hu, Bool.not_true, Bool.or_self, Bool.false_eq_true, if_false]
    exact (if_neg hlive').trans ((if_neg hkind').trans (if_neg (Nat.not_lt.mpr hsize)))

/-- R403: a read of the upper window gives the element at the head, or says that the queue is empty. -/
theorem queuePortDequeueRead_accepted (ht : s.portTarget f handle (0x10000 + 128 * handle) = .ok t) :
    let a := s.ctxActor t.ctx
    let c := s.qcb a.mark t.qcb
    c.sound t.qcb = true → c.kind ≠ 1 → c.kind ≠ 4 → c.esize ≤ 64 →
    (∀ e u, s.deqAt a t.qcb = .ok (some (e, u)) → exec (.queuePortDequeueRead f handle) s = .next
      (u.linkCompletes f (List.replicate 64 0 ++ (e ++ List.replicate 64 0).take 64))) ∧
    (s.deqAt a t.qcb = .ok none → exec (.queuePortDequeueRead f handle) s = .next
      (s.linkCompletes f (leBytes 8 2 ++ List.replicate 120 0))) := by
  intro a c hsound hkind1 hkind4 hsize
  refine ⟨fun e u hu => ?_, fun hu => ?_⟩
  all_goals
    simp only [a, c] at hsound hu
    show execQueuePortDequeueRead f handle s = _
    simp only [execQueuePortDequeueRead, hopen, ht, hsound, hu, Bool.not_true, Bool.false_eq_true, if_false]
    exact (if_neg (not_or.mpr ⟨hkind1, hkind4⟩)).trans (if_neg (Nat.not_lt.mpr hsize))

end

/-- R406: whole lines inside the window and near its mark, with none waiting before them, are performed at once. -/
theorem windowWrite_performs {s : State} {n offset : Nat} {w : Window} {data : List Byte} (hw : mapFind? s.windows n = some w)
    (hports : s.dev.portsOpen = true) (hserved : s.portServed w.function = true) (hstart : offset % 64 = 0) (hlines : data.length % 64 = 0)
    (hsome : data ≠ []) (hlo : w.offset ≤ offset) (hhi : offset + data.length ≤ w.offset + (w.hi.toNat - w.lo.toNat))
    (hnear : w.va offset + data.length ≤ s.windowMark w + 0x100000) (hfirst : w.waiting = []) :
    exec (.windowWrite n offset data false) s = .next ((s.windowPerform n offset data).windowDrain n 1) := by
  have hinside : ¬ (offset % 64 ≠ 0 ∨ data.length % 64 ≠ 0 ∨ data.isEmpty = true ∨ offset < w.offset ∨
      w.offset + (w.hi.toNat - w.lo.toNat) < offset + data.length) := by
    simp only [not_or, not_not, List.isEmpty_iff]
    exact ⟨hstart, hlines, hsome, Nat.not_lt.mpr hlo, Nat.not_lt.mpr hhi⟩
  show execWindowWrite n offset data false s = _
  simp only [execWindowWrite, hw, hports, hserved, hfirst, Bool.not_true, Bool.false_eq_true, if_false]
  refine (if_neg hinside).trans (if_neg ?_)
  simp [Nat.not_lt.mpr hnear]

/-- R403, R404: the port is open and the access fits it. -/
theorem portEvents : Clause.PortEvents := by
  refine fun s f handle hopen => ⟨fun t ht => ⟨fun data => queuePortEnqueue_accepted hopen ht, ?_⟩,
    fun t => queuePortDequeueRead_accepted hopen, fun offset => ?_,
    fun n w offset data hw => windowWrite_performs hw (portOpen_iff.mp hopen).1⟩
  · show execQueuePortQstatRead f handle s = _
    simp only [execQueuePortQstatRead, hopen, ht]
    rfl
  · obtain ⟨hports, hf, -⟩ := portOpen_iff.mp hopen
    have hopen0 : s.portOpen f 0 = true := portOpen_iff.mpr ⟨hports, hf, by decide⟩
    exact if_neg (by simp [hopen0])

/-! Functions, halts, calls and heat (R265, R394, R404, R411, R417). -/

theorem func_onFunc_self (s : State) (f : Nat) (g : Func → Func) : (s.onFunc f g).func f = g (s.func f) := by
  simp [State.func, State.onFunc, mapFind?_put_self]

/-- A pass that asks the harts with p to halt reaches each of them that is listed. -/
theorem haltReq_asked {s t : State} {p : Hart → Prop} [DecidablePred p] {h : Nat}
    (ht : t.harts = s.harts.map fun e => if p e.2 then (e.1, { e.2 with haltReq := true }) else e)
    (hlisted : (mapFind? s.harts h).isSome = true) (hp : p (s.hart h)) : (t.hart h).haltReq = true := by
  rcases mapFind?_map (fun e => if p e.2 then (e.1, { e.2 with haltReq := true }) else e) (fun x y => p x → y.haltReq = true)
    (fun e => by by_cases he : p e.2 <;> simp [he]) s.harts h with ⟨hnone, -⟩ | ⟨x, y, hx, hy, hxy⟩
  · rw [hnone] at hlisted
    cases hlisted
  · rw [State.hart, hx] at hp
    rw [State.hart, ht, hy]
    exact hxy hp

/-- R404, R411: an interface in use by a context goes to ERROR, and the context's harts are asked to halt. -/
theorem tdiError_halts {s : State} {f : Nat} (hpf : 0 < f) (hf : f < 64) (htdi : (s.func f).tdi ≠ .error) (hctx : s.funcCtx f ≠ 0) :
    ∃ t, exec (.tdiError f) s = .next t ∧ (t.func f).tdi = .error ∧ t.mem = s.mem ∧
      (∀ h, (s.hart h).ctx = s.funcCtx f → (mapFind? s.harts h).isSome = true → (s.hart h).status ∉ [.free, .halted, .stopped] →
        (t.hart h).haltReq = true) ∧ ∃ e, t.outbox = s.outbox ++ [(s.funcCtx f, e)] := by
  have hgo : ¬ ((s.func f).tdi = .error ∨ f = 0 ∨ 64 ≤ f ∨ s.funcCtx f = 0) := by
    simp only [not_or]
    exact ⟨htdi, hpf.ne', Nat.not_le.mpr hf, hctx⟩
  refine ⟨_, if_neg hgo, ?_, rfl, fun h hbound hlisted hruns => ?_, _, rfl⟩
  · exact congrArg Func.tdi (func_onFunc_self s f fun x => { x with tdi := .error })
  · simp only [List.mem_cons, List.not_mem_nil, or_false, not_or] at hruns
    exact haltReq_asked (p := fun x => x.ctx = s.funcCtx f ∧ x.status ≠ .free ∧ x.status ≠ .halted ∧ x.status ≠ .stopped) rfl hlisted
      ⟨hbound, hruns⟩

/-- R411, R417: at 115 °C every hart is asked to halt. -/
theorem thermalEvent_halts {s : State} {c : Nat} (hot : 115 ≤ c) :
    ∃ t, exec (.thermalEvent c) s = .next t ∧ t.dev.tooHot = true ∧ t.mem = s.mem ∧
      ∀ h, (mapFind? s.harts h).isSome = true → (s.hart h).status ∉ [.free, .halted, .stopped] → (t.hart h).haltReq = true := by
  refine ⟨_, if_pos hot, rfl, rfl, fun h hlisted hruns => ?_⟩
  simp only [List.mem_cons, List.not_mem_nil, or_false, not_or] at hruns
  exact haltReq_asked (p := fun x => x.status ≠ .free ∧ x.status ≠ .halted ∧ x.status ≠ .stopped) rfl hlisted hruns

/-- R404: LOCK, START and STOP. -/
theorem tdispRequest_moves {s : State} {f : Nat} (dest : TdiState) (hpf : 0 < f) (hf : f < 64) (hports : s.dev.portsOpen = true) :
    exec (.tdispRequest f dest) s = .next
      (if ((s.func f).tdi, dest) ∈ [(.configUnlocked, .configLocked), (.configLocked, .run)] ∨ dest = .configUnlocked
       then s.onFunc f fun x => { x with tdi := dest } else s) := by
  have hgo : ¬ (f = 0 ∨ 64 ≤ f ∨ s.dev.portsOpen = false) := by simp [hports, hpf.ne', hf]
  refine (if_neg hgo).trans ?_
  cases (s.func f).tdi <;> cases dest <;> rfl

/-- R404, R411, R416, R417: the interface, the hart or the clock that the event names is in the state it asks for. -/
theorem deviceEvents : Clause.DeviceEvents := by
  refine fun s => ⟨fun f => tdiError_halts, fun f dest => tdispRequest_moves dest, fun h v hst hports => ?_, fun h v n hn hports => ?_,
    fun c hcool => if_neg (Nat.not_le.mpr hcool), fun c => thermalEvent_halts⟩
  · exact if_neg (by simp [hst, hports])
  · show execHostSupervisorCall h v s = _
    simp only [execHostSupervisorCall, hn]
    exact if_pos hports

/-! SPDM (R407-R409). -/

/-- A request of one of the 64 functions is served. -/
theorem spdmOf_function {f : Nat} (hf : f < 64) (what : String) (go : State) : spdmOf f what go = .next go := if_pos hf

/-- The start of a certificate chain is sent, and the chain is kept for the rest (R409). -/
theorem spdmGetCertificate_begins {s : State} {f slot len : Nat} {c : List Byte} (hf : f < 64) (hc : s.slotChain f slot = .ok c)
    (hlen : len < c.length) :
    let u : State := { s with spdm := { s.spdm with reading := mapPut s.spdm.reading (f * 8 + slot) c } }
    exec (.spdmGetCertificate f slot 0 len) s = .next (u.spdmSend f
      (0x02 :: BitVec.ofNat 8 slot :: leBytes 2 len ++ leBytes 2 (c.length - len) ++ c.take len)) := by
  have hsome : ¬ c.length ≤ 0 := by omega
  have hpart : (c.take len).length = len := by simp; omega
  have hleft : ¬ c.length - len = 0 := by omega
  refine (spdmOf_function hf _ _).trans (congrArg Host.Outcome.next ?_)
  simp only [if_true, hc, hsome, if_false, List.drop_zero, Nat.sub_zero, hpart, hleft]

/-- R407-R409: the responder of a function. -/
theorem spdmEvents : Clause.SpdmEvents := by
  refine fun s f hf => ⟨spdmOf_function hf _ _, spdmOf_function hf _ _, spdmOf_function hf _ _, spdmOf_function hf _ _,
    fun code => spdmOf_function hf _ _, fun slot c hc => ⟨fun len hlen => ?_, ?_⟩, ?_, ?_, ?_, ?_⟩
  · intro u _
    exact spdmGetCertificate_begins hf hc hlen
  · intro nonce msg waits
    constructor
    · refine (spdmOf_function hf _ _).trans (congrArg Host.Outcome.next ?_)
      simp only [hc]
      rfl
    · refine (spdmOf_function hf _ _).trans (congrArg Host.Outcome.next ?_)
      simp only [hc]
      rfl
  · intro index b hsees hb
    have hsees' : (decide (f = 0) || decide (index ≤ 4) || decide (index = 0x10 + f)) = true := by
      simpa [or_assoc] using hsees
    refine (spdmOf_function hf _ _).trans (congrArg Host.Outcome.next ?_)
    simp only [hsees', if_true, hb]
  · intro hsession hanswered
    have hexchanged : ((mapFind? s.spdm.session f).isSome && s.spdm.open_.all fun r => decide (r.function ≠ f) || decide (r.kind ≠ 4)) = true := by
      simp only [Bool.and_eq_true, Option.isSome_iff_ne_none, List.all_eq_true, Bool.or_eq_true, decide_eq_true_eq]
      exact ⟨hsession, fun r hr => (em (r.function = f)).elim (fun h => .inr (hanswered r hr h)) .inl⟩
    exact (spdmOf_function hf _ _).trans (congrArg Host.Outcome.next (if_pos hexchanged))
  · intro slot chain hslot hslots hfree
    refine (spdmOf_function hf _ _).trans (congrArg Host.Outcome.next ((if_neg ?_).trans (if_neg ?_)))
    · omega
    · simp [hfree]
  · intro slot r hheld hanswered hread hfunction hdone
    have hgo : ¬ ((s.spdm.open_.any fun q => decide (q.slot = slot)) || s.spdm.reading.any fun e => decide (e.1 % 8 = slot)) = true := by
      simpa using ⟨hanswered, fun a b h => hread (a, b) h⟩
    show execCertificateRewriteApply slot s = _
    simp only [execCertificateRewriteApply, hheld]
    refine (if_neg hgo).trans ?_
    simp only [hfunction, hdone]

end Sys2Proof.Machine
end

section
/-! Proofs on a reset and the boot after it (spec/17 R339, spec/19 R357, spec/25 R416, R417). -/

namespace Sys2Proof.Machine

/-! A write at a home where no hart and no cluster is listed. -/

/-- No hart is listed, and no cluster that could hold a copy. -/
def State.bare (s : State) : Prop := s.harts = [] ∧ s.clusters = []

/-- Only memory, its keys and its errors differ. -/
def MemoryOnly (s t : State) : Prop := ∃ m k b e, t = { s with mem := m, memKey := k, bad := b, badHard := e }

theorem MemoryOnly.refl (s : State) : MemoryOnly s s := ⟨_, _, _, _, rfl⟩

theorem MemoryOnly.trans {s t u : State} (h : MemoryOnly s t) (g : MemoryOnly t u) : MemoryOnly s u := by
  obtain ⟨_, _, _, _, rfl⟩ := h
  obtain ⟨_, _, _, _, rfl⟩ := g
  exact ⟨_, _, _, _, rfl⟩

theorem MemoryOnly.bare {s t : State} (h : MemoryOnly s t) (hs : s.bare) : t.bare := by
  obtain ⟨_, _, _, _, rfl⟩ := h
  exact hs

theorem MemoryOnly.foldl {α : Type} {f : State → α → State} (hf : ∀ s a, s.bare → MemoryOnly s (f s a)) (l : List α) {s : State} (hs : s.bare) :
    MemoryOnly s (l.foldl f s) := by
  induction l generalizing s with
  | nil => exact MemoryOnly.refl s
  | cons a l ih => exact (hf s a hs).trans (ih ((hf s a hs).bare hs))

theorem keepOld_bare {s : State} (line : Nat) (hs : s.bare) : s.keepOld line = s := by
  simp [State.keepOld, hs.2]

theorem refreshAll_bare {s : State} (line : Nat) (hs : s.bare) : s.refreshAll line = s := by
  simp [State.refreshAll, hs.2]

theorem fireMonitors_bare {s : State} (line : Nat) (hs : s.bare) : s.fireMonitors line = s := by
  obtain ⟨hharts, -⟩ := hs
  rw [State.fireMonitors, hharts, List.map_nil, ← hharts]

theorem homePut_memoryOnly (s : State) (mark loc : Nat) (b : Byte) : MemoryOnly s (s.homePut mark loc b) := by
  unfold State.homePut State.keyByte
  split <;> exact ⟨_, _, _, _, rfl⟩

theorem heal_memoryOnly (s : State) (locs : List Nat) : MemoryOnly s (s.heal locs) := by
  unfold State.heal
  split <;> exact ⟨_, _, _, _, rfl⟩

theorem homeWrite_memoryOnly {s : State} (hs : s.bare) (mark : Nat) (bytes : List (Nat × Byte)) : MemoryOnly s (s.homeWrite mark bytes) := by
  have hkept := MemoryOnly.foldl (f := State.keepOld) (fun s l hs => by rw [keepOld_bare l hs]; exact MemoryOnly.refl s)
    (linesOf (bytes.map Prod.fst)) hs
  have hput := hkept.trans (MemoryOnly.foldl (fun s (e : Nat × Byte) _ => homePut_memoryOnly s mark e.1 e.2) bytes (hkept.bare hs))
  have hheal := hput.trans (heal_memoryOnly _ (bytes.map Prod.fst))
  exact hheal.trans (MemoryOnly.foldl (fun s l hs => by
    rw [fireMonitors_bare l hs, refreshAll_bare l hs]
    exact MemoryOnly.refl s) _ (hheal.bare hs))

/-! The rejoin of a device (R323, R339). -/

/-- Only generations, and what a rotation of the fabric key changes, differ. -/
def GensOnly (s t : State) : Prop := ∃ gs k o, t = { s with gens := gs, fabricKey := k, outbox := o }

theorem GensOnly.trans {s t u : State} (h : GensOnly s t) (g : GensOnly t u) : GensOnly s u := by
  obtain ⟨_, _, _, rfl⟩ := h
  obtain ⟨_, _, _, rfl⟩ := g
  exact ⟨_, _, _, rfl⟩

theorem advanceGen_gensOnly (s : State) (port : Nat) : GensOnly s (s.advanceGen port) := by
  unfold State.advanceGen
  split <;> exact ⟨_, _, _, rfl⟩

theorem advanceGen_ne (s : State) {port p : Nat} (h : p ≠ port) : mapFind? (s.advanceGen port).gens p = mapFind? s.gens p := by
  unfold State.advanceGen
  split <;> exact mapFind?_put_ne _ _ h

/-- The ports of a list advance, and no other. -/
theorem foldl_advanceGen (l : List Nat) (s : State) :
    GensOnly s (l.foldl State.advanceGen s) ∧ ∀ p, p ∉ l → mapFind? (l.foldl State.advanceGen s).gens p = mapFind? s.gens p := by
  induction l generalizing s with
  | nil => exact ⟨⟨_, _, _, rfl⟩, fun _ _ => rfl⟩
  | cons port l ih =>
    obtain ⟨hrest, hgens⟩ := ih (s.advanceGen port)
    refine ⟨(advanceGen_gensOnly s port).trans hrest, fun p hp => ?_⟩
    simp only [List.mem_cons, not_or] at hp
    obtain ⟨hport, hp⟩ := hp
    exact (hgens p hp).trans (advanceGen_ne s hport)

/-- What a rejoin may change. -/
theorem rejoined_frame (s : State) (d : Nat) :
    ∃ ps gs rs k o, s.rejoined d = { s with packets := ps, gens := gs, rejoins := rs, fabricKey := k, outbox := o } := by
  unfold State.rejoined
  dsimp only
  split
  · exact ⟨_, _, _, _, _, rfl⟩
  · obtain ⟨⟨gs, k, o, h⟩, -⟩ := foldl_advanceGen ((s.gens.map Prod.fst).filter (facesDevice d))
      { s with packets := s.packets.map fun p => { p with grace := p.grace.filter fun g => !facesDevice d g } }
    rw [h]
    exact ⟨_, _, _, _, _, rfl⟩

/-- A sorted map lists no key that it does not find. -/
theorem key_not_listed {α : Type} {m : FMap α} {k : Nat} (hs : mapSorted m = true) (h : mapFind? m k = none) : k ∉ m.map Prod.fst := by
  induction m with
  | nil => exact List.not_mem_nil
  | cons e m ih =>
    obtain ⟨j, v⟩ := e
    obtain ⟨habove, hs⟩ := (mapSorted_cons j v m).mp hs
    simp only [mapFind?] at h
    split at h
    · cases h
    · next hne =>
      simp only [List.map_cons, List.mem_cons, not_or]
      refine ⟨hne, ?_⟩
      split at h
      · next hlt =>
        intro hk
        obtain ⟨e, he, rfl⟩ := List.mem_map.mp hk
        exact absurd (habove e he) (Nat.lt_asymm hlt)
      · exact ih hs h

theorem mapGet_put (d : Nat) (m : FMap Nat) (k v l : Nat) : mapGet d (mapPut m k v) l = if l = k then v else mapGet d m l := by
  by_cases h : l = k
  · simp [mapGet, h, mapFind?_put_self]
  · simp [mapGet, h, mapFind?_put_ne]

/-- R339: a port that has never advanced by itself is one generation on, whichever end of it faces the device. -/
theorem rejoined_gen {s : State} {d p : Nat} (hs : mapSorted s.gens = true) (hnone : mapFind? s.gens p = none)
    (hfaces : facesDevice d p = true) (hfew : mapGet 0 s.rejoins d < 126) : (s.rejoined d).gen p = s.gen p + 1 := by
  have hp : p ∉ (s.gens.map Prod.fst).filter (facesDevice d) := fun h => key_not_listed hs hnone (List.mem_filter.mp h).1
  obtain ⟨-, hgens⟩ := foldl_advanceGen ((s.gens.map Prod.fst).filter (facesDevice d))
      { s with packets := s.packets.map fun p => { p with grace := p.grace.filter fun g => !facesDevice d g } }
  have hnone' := (hgens p hp).trans hnone
  have hcount : ¬ mapGet 0 s.rejoins d + 1 = 127 := by omega
  unfold State.rejoined
  dsimp only
  rw [if_neg hcount]
  simp only [State.gen, hnone, hnone', Option.getD_none, mapGet_put]
  simp only [facesDevice, Bool.or_eq_true, decide_eq_true_eq] at hfaces
  by_cases hhub : p / 64 = d
  · subst hhub
    by_cases hself : Config.cable p = p / 64
    · simp [hself]; omega
    · simp [hself]; omega
  · have hcable : Config.cable p = d := hfaces.resolve_left hhub
    have hself : d ≠ p / 64 := Ne.symm hhub
    simp [hcable, hhub, hself]; omega

/-! Reset and boot (R416, R417). -/

/-- What a reset leaves before the device rejoins: the start of each thing but those that R339 and R416 keep. -/
def State.cleared (s : State) : State :=
  { State.reset with
    cur := s.cur, agenda := s.agenda, freeCtr := s.freeCtr, tagCtr := s.tagCtr, fabricKey := s.fabricKey, gens := s.gens,
    rejoins := s.rejoins, linkFails := s.linkFails,
    keys := s.keys.map fun e => (e.1, { KeySlot.init with serial := e.2.serial }),
    spdm := { State.reset.spdm with chains := s.spdm.chains },
    dev := { State.reset.dev with
      id := s.dev.id, measurements := [1, 2, 3].map fun n => (n, sha384 (Config.image n)), recovery := s.dev.recovery } }

/-- A good boot lists the links, opens the ports and names the PF's management mailbox. -/
def State.portsUp (u : State) (links : List Nat) : State :=
  { u with
    dev := { u.dev with links := links, portsOpen := true, booted := true },
    handles := [(handleKey 0 8, { qcb := pfMailboxQcb, ctx := 0 })] }

/-- The control block of the PF's management mailbox. -/
def mailboxQcb : Qcb := freshQcb 0 64 8 (pfMailboxQcb + 64) 0 pfMailboxQcb

/-- It writes the mailbox's control block last. -/
def State.boot (u : State) (links : List Nat) : State := (u.portsUp links).setQcb 0 pfMailboxQcb mailboxQcb

theorem boot_memoryOnly {u : State} (hu : u.bare) (links : List Nat) : MemoryOnly (u.portsUp links) (u.boot links) :=
  homeWrite_memoryOnly (s := u.portsUp links) hu _ _

/-- A reset clears the device and lets it rejoin; it boots where the flash image passes its check. -/
theorem exec_deviceReset (s : State) (links : List Nat) :
    exec (.deviceReset true links) s = .next ((s.cleared.rejoined s.dev.id).boot links) ∧
    exec (.deviceReset false links) s =
      .next { s.cleared.rejoined s.dev.id with dev := { (s.cleared.rejoined s.dev.id).dev with bootFailed := true } } := ⟨rfl, rfl⟩

/-- R416, R417: a good boot leaves no hart, core, cluster or context, opens the ports, and leaves the generations of the rejoin. -/
theorem deviceReset_boots (s : State) (links : List Nat) : ∃ t, exec (.deviceReset true links) s = .next t ∧
    t.harts = [] ∧ t.cores = [] ∧ t.clusters = [] ∧ t.ctxs = [] ∧ t.dev.id = s.dev.id ∧ t.dev.portsOpen = true ∧ t.dev.booted = true ∧
    t.dev.links = links ∧ t.gen = (s.cleared.rejoined s.dev.id).gen := by
  obtain ⟨_, _, _, _, _, hr⟩ := rejoined_frame s.cleared s.dev.id
  have hbare : (s.cleared.rejoined s.dev.id).bare := by rw [hr]; exact ⟨rfl, rfl⟩
  obtain ⟨_, _, _, _, hboot⟩ := boot_memoryOnly hbare links
  obtain ⟨hexec, -⟩ := exec_deviceReset s links
  refine ⟨_, hexec, ?_⟩
  rw [hboot, hr]
  exact ⟨rfl, rfl, rfl, rfl, rfl, rfl, rfl, rfl, rfl⟩

/-- R339: with the generations listed in order, every port of the reset device that has not advanced by itself is a generation on. -/
theorem deviceReset_advances {s t : State} {links : List Nat} {p : Nat} (ht : exec (.deviceReset true links) s = .next t)
    (hs : mapSorted s.gens = true) (hnone : mapFind? s.gens p = none) (hfaces : facesDevice s.dev.id p = true)
    (hfew : mapGet 0 s.rejoins s.dev.id < 126) : t.gen p = s.gen p + 1 := by
  obtain ⟨t', hexec, -, -, -, -, -, -, -, -, hgen⟩ := deviceReset_boots s links
  obtain rfl := Host.Outcome.next.inj (ht.symm.trans hexec)
  rw [hgen]
  exact rejoined_gen (s := s.cleared) hs hnone hfaces hfew

/-- R416: after a failed check of the flash image the ports stay closed. -/
theorem deviceReset_fails (s : State) (links : List Nat) : ∃ t, exec (.deviceReset false links) s = .next t ∧ t.harts = [] ∧ t.mem = [] ∧
    t.dev.bootFailed = true ∧ t.dev.portsOpen = false := by
  obtain ⟨_, _, _, _, _, hr⟩ := rejoined_frame s.cleared s.dev.id
  obtain ⟨-, hexec⟩ := exec_deviceReset s links
  refine ⟨_, hexec, ?_⟩
  rw [hr]
  exact ⟨rfl, rfl, rfl, rfl⟩

/-- R416: recovery data is taken only after a failed boot. -/
theorem recoveryWrite_taken (s : State) (data : List Byte) (done : Word) :
    (s.dev.bootFailed = true → exec (.recoveryWrite data done) s = .next
      (({ s with dev := { s.dev with recovery := s.dev.recovery ++ data } } : State).answerDone none done 1)) ∧
    (s.dev.bootFailed = false → exec (.recoveryWrite data done) s = .next (s.answerDone none done 3)) :=
  ⟨fun h => if_pos h, fun h => if_neg (Bool.eq_false_iff.mp h)⟩

end Sys2Proof.Machine
end

section
/-! The statement on the host's events fails for generations outside the order of their map: its reset clause does not ask that they be sorted, and a
port that is listed twice advances twice. -/

namespace Sys2Proof.Machine

/-- Device 0, whose generations list port 4 before port 3, which stands twice behind it and so is not found. -/
def portTwice : State := { State.reset with gens := [(4, 1), (3, 1), (3, 1)] }

/-- The state meets the premises of the clause for port 3. -/
theorem portTwice_premises : mapFind? portTwice.gens 3 = none ∧ facesDevice portTwice.dev.id 3 = true ∧
    mapGet 0 portTwice.rejoins portTwice.dev.id < 126 := by
  refine ⟨?_, ?_, ?_⟩ <;> decide

/-- The reset advances port 4 and then, once for each entry, port 3. -/
theorem portTwice_rejoined : (portTwice.cleared.rejoined portTwice.dev.id).gen 3 = 3 := by
  simp [State.rejoined, State.cleared, portTwice, State.reset, facesDevice, State.advanceGen, State.gen, mapFind?, mapPut, mapGet]

/-- Port 3 is at generation 1, as no rejoin of either of its ends is counted. -/
theorem portTwice_gen : portTwice.gen 3 = 1 := by
  simp [State.gen, portTwice, State.reset, mapGet, mapFind?]

end Sys2Proof.Machine

open Sys2Proof Sys2Proof.Machine

/-- Refutes O54: no premise of its reset clause puts the generations in the order of their map. Where they list port 4 before two entries for
port 3, port 3 reads as not listed, at generation 1, but the reset advances it once for each entry, to 3 and not to 2. The other clauses hold
(`pagingEvents`, `portEvents`, `deviceEvents`, `spdmEvents`), and so does this one for sorted generations (`deviceReset_boots`,
`deviceReset_advances`, `deviceReset_fails`, `recoveryWrite_taken`). -/
theorem not_hostEvents : ¬ Obligations.HostEvents := by
  rintro ⟨-, -, -, hreset, -⟩
  obtain ⟨hboot, -, -⟩ := hreset portTwice
  obtain ⟨t, hexec, -, -, -, -, -, -, -, -, hnext⟩ := hboot []
  obtain ⟨t', hexec', -, -, -, -, -, -, -, -, hgen⟩ := deviceReset_boots portTwice []
  obtain rfl := Host.Outcome.next.inj (hexec.symm.trans hexec')
  obtain ⟨hnone, hfaces, hfew⟩ := portTwice_premises
  have hnext := hnext 3 hnone hfaces hfew
  rw [hgen, portTwice_rejoined, portTwice_gen] at hnext
  exact absurd hnext (by decide)

end

section
/-! Proofs of the clauses on management (spec/17 R321-R337, spec/23 R386, R388, spec/25 R405-R415): each event, once its element is taken, does what
its rule says and answers. -/

namespace Sys2Proof.Machine

/-! The service of an element (R410, R416). -/

section
variable {s : State} (hbooted : s.dev.booted = true)
include hbooted

/-- Once the device has come up, an element is taken and acted on. -/
theorem managed_booted (what : String) (op : Nat) (issuer : Issuer) (done : Word) (go : State → State) :
    managed s what op issuer done go = .next (go (s.takeRequest op issuer done)) := if_pos hbooted

/-- The state that an element leaves is that of its action. -/
theorem managed_answers {what : String} {op : Nat} {issuer : Issuer} {done : Word} {go : State → State} {t : State}
    (h : go (s.takeRequest op issuer done) = t) : managed s what op issuer done go = .next t :=
  (managed_booted hbooted _ _ _ _ _).trans (congrArg Host.Outcome.next h)

/-- The host's own element is acted on. -/
theorem hostOnly_host (what : String) (op : Nat) (done : Word) (go : State → State) :
    hostOnly s what op none done go = .next (go (s.takeRequest op none done)) := managed_booted hbooted _ _ _ _ _

/-- What only the host may ask for is answered with 3 to a supervisor (R410). -/
theorem hostOnly_supervisor (what : String) (op n : Nat) (done : Word) (go : State → State) :
    hostOnly s what op (some n) done go = .next ((s.takeRequest op (some n) done).answerDone (some n) done 3) :=
  managed_booted hbooted _ _ _ _ _

/-- A parameter within its limits is set. -/
theorem setParam_sets (what : String) {ok : Bool} (done : Word) (f : State → State) (hok : ok = true) :
    s.setParam what ok none done f = .next ((f (s.takeRequest 0x20 none done)).hostDone done 1) :=
  (hostOnly_host hbooted _ _ _ _).trans (congrArg Host.Outcome.next (if_pos hok))

/-- A parameter outside its limits stays as it was. -/
theorem setParam_outside (what : String) {ok : Bool} (done : Word) (f : State → State) (hok : ok = false) :
    s.setParam what ok none done f = .next ((s.takeRequest 0x20 none done).hostDone done 2) :=
  (hostOnly_host hbooted _ _ _ _).trans (congrArg Host.Outcome.next (if_neg (Bool.eq_false_iff.mp hok)))

end

/-! Invalidations (R388). -/

/-- An invalidation of a context that its requester owns goes ahead. -/
theorem context_served {s : State} {issuer : Issuer} {n : Nat} (hown : ownContext issuer n = true) (hctx : s.ctx? n ≠ none) :
    ¬ (!ownContext issuer n || (s.ctx? n).isNone) = true := by simp [hown, hctx]

/-- An invalidation of another context is refused. -/
theorem context_refused {s : State} {issuer : Issuer} {n : Nat} (hown : ownContext issuer n = false) :
    (!ownContext issuer n || (s.ctx? n).isNone) = true := by simp [hown]

/-- An invalidation of a function that its requester owns goes ahead. -/
theorem function_served {s : State} {issuer : Issuer} {f : Nat} (hown : s.ownFunction issuer f = true) (hf : f < 64) :
    ¬ (!s.ownFunction issuer f || decide (64 ≤ f)) = true := by simp [hown, hf]

/-- An invalidation of another function is refused. -/
theorem function_refused {s : State} {issuer : Issuer} {f : Nat} (hown : s.ownFunction issuer f = false) :
    (!s.ownFunction issuer f || decide (64 ≤ f)) = true := by simp [hown]

/-- R388: an invalidation is answered once no access under way uses what it dropped. -/
theorem invalidationDone_answers {s : State} {i lo hi : Nat} {ctxs : List Nat} {guest : Bool} {chunks : List (Nat × Nat)} {done : Word}
    {issuer : Issuer} (hfind : mapFind? s.mgmt i = some (.invalidate ctxs guest lo hi chunks done issuer))
    (hidle : s.translationBusy ctxs guest lo hi chunks = false) :
    exec (.invalidationDone i) s = .next (({ s with mgmt := mapErase s.mgmt i } : State).answerDone issuer done 1) := by
  show execInvalidationDone i s = _
  simp only [execInvalidationDone, hfind]
  exact if_neg (Bool.eq_false_iff.mp hidle)

/-- R388, R410: the events of an invalidation, on what its requester owns and on what it does not. -/
theorem invalidationEvents : Clause.InvalidationEvents := by
  intro s issuer n asid f start length done hbooted t r
  refine ⟨fun hown => ⟨fun hctx => ?_, fun hctx => ?_, fun hctx => ?_⟩, fun hown => ⟨?_, ?_, ?_⟩,
    fun hf => ⟨fun hown => ?_, fun hown => ?_⟩, fun hown => ?_, fun hown => ?_, fun i ctxs guest lo hi chunks => invalidationDone_answers⟩
  · show execInvalidateVaRange issuer n asid start length done s = _
    exact managed_answers hbooted (if_neg (context_served hown hctx))
  · show execInvalidateAsid issuer n asid done s = _
    exact managed_answers hbooted (if_neg (context_served hown hctx))
  · show execInvalidateContext issuer n done s = _
    exact managed_answers hbooted (if_neg (context_served hown hctx))
  · show execInvalidateVaRange issuer n asid start length done s = _
    exact managed_answers hbooted (if_pos (context_refused hown))
  · show execInvalidateAsid issuer n asid done s = _
    exact managed_answers hbooted (if_pos (context_refused hown))
  · show execInvalidateContext issuer n done s = _
    exact managed_answers hbooted (if_pos (context_refused hown))
  · show execInvalidateGpaRange issuer f start length done s = _
    exact managed_answers hbooted (if_neg (function_served hown hf))
  · show execInvalidateFunction issuer f done s = _
    exact managed_answers hbooted (if_neg (function_served hown hf))
  · show execInvalidateGpaRange issuer f start length done s = _
    exact managed_answers hbooted (if_pos (function_refused hown))
  · show execInvalidateFunction issuer f done s = _
    exact managed_answers hbooted (if_pos (function_refused hown))

/-! Contexts and keys (R334-R336, R346). -/

theorem Quiet.dev {s t : State} (h : Quiet s t) : t.dev = s.dev := by have := congrArg State.dev h.rest; exact this
theorem Quiet.ctxs {s t : State} (h : Quiet s t) : t.ctxs = s.ctxs := by have := congrArg State.ctxs h.rest; exact this
theorem Quiet.keys {s t : State} (h : Quiet s t) : t.keys = s.keys := by have := congrArg State.keys h.rest; exact this

/-- The device, the contexts and the key slots stand as they stood. -/
structure SameRoster (s t : State) : Prop where
  dev : t.dev = s.dev
  ctxs : t.ctxs = s.ctxs
  keys : t.keys = s.keys

theorem SameRoster.refl (s : State) : SameRoster s s := ⟨rfl, rfl, rfl⟩

theorem SameRoster.trans {s t u : State} (h : SameRoster s t) (g : SameRoster t u) : SameRoster s u :=
  ⟨g.dev.trans h.dev, g.ctxs.trans h.ctxs, g.keys.trans h.keys⟩

theorem SameRoster.foldl {α : Type} {f : State → α → State} (hf : ∀ s a, SameRoster s (f s a)) (l : List α) (s : State) :
    SameRoster s (l.foldl f s) := by
  induction l generalizing s with
  | nil => exact .refl s
  | cons a l ih => exact (hf s a).trans (ih _)

theorem Quiet.sameRoster {s t : State} (h : Quiet s t) : SameRoster s t := ⟨h.dev, h.ctxs, h.keys⟩

theorem sameRoster_initQueue (s : State) (mark owner kind esize : Nat) (q : QueueSpec) : SameRoster s (s.initQueue mark owner kind esize q) := by
  have hwrite : SameRoster s (s.setQcb mark q.qcb (freshQcb kind esize q.log2cap q.base.toNat owner q.qcb)) := (quiet_homeWrite _ _ _).sameRoster
  unfold State.initQueue
  generalize s.setQcb mark q.qcb (freshQcb kind esize q.log2cap q.base.toNat owner q.qcb) = u at hwrite ⊢
  exact ⟨hwrite.dev, hwrite.ctxs, hwrite.keys⟩

/-- The queues of a context, and those of its function where the specification names them. -/
def State.queuesUp (s : State) (spec : CreateSpec) : State :=
  let mark := s.keyMark spec.keyid
  let u := spec.queues.foldl (fun s q => s.initQueue mark spec.ctx 1 64 q) (s.initQueue mark spec.ctx 0 64 spec.mailbox)
  let v := match spec.requests with | some q => u.initQueue 0 0 3 64 q | none => u
  match spec.replies with | some q => v.initQueue 0 0 4 16 q | none => v

theorem sameRoster_queuesUp (s : State) (spec : CreateSpec) : SameRoster s (s.queuesUp spec) := by
  have hown (mark : Nat) : SameRoster s
      (spec.queues.foldl (fun s q => s.initQueue mark spec.ctx 1 64 q) (s.initQueue mark spec.ctx 0 64 spec.mailbox)) :=
    (sameRoster_initQueue _ _ _ _ _ _).trans (.foldl (fun s q => sameRoster_initQueue s mark _ _ _ q) _ _)
  cases hreq : spec.requests <;> cases hrep : spec.replies <;> simp only [State.queuesUp, hreq, hrep]
  · exact hown _
  · exact (hown _).trans (sameRoster_initQueue _ _ _ _ _ _)
  · exact (hown _).trans (sameRoster_initQueue _ _ _ _ _ _)
  · exact ((hown _).trans (sameRoster_initQueue _ _ _ _ _ _)).trans (sameRoster_initQueue _ _ _ _ _ _)

/-- The scratchpad segments of a context on its cores, where no tag of an earlier context with its number stays. -/
def State.segmentsUp (s : State) (spec : CreateSpec) : State :=
  spec.cores.foldl (fun s k => s.onCore k fun q => { q with
    seg := mapPut q.seg spec.ctx { base := spec.lspBase, size := spec.lspSize, grantBase := spec.lspBase, grantSize := spec.lspSize },
    tags := q.tags.filter fun e => decide (e.1 / 2 ^ 53 ≠ spec.ctx) }) s

theorem sameRoster_segmentsUp (s : State) (spec : CreateSpec) : SameRoster s (s.segmentsUp spec) := by
  refine SameRoster.foldl (fun u k => ?_) _ _
  exact ⟨rfl, rfl, rfl⟩

/-- The context that a specification sets up (R335). -/
def createdCtx (spec : CreateSpec) (time : Nat) : Ctx :=
  { cores := spec.cores, asids := spec.asids, keyid := spec.keyid, queues := spec.queues.map QueueSpec.qcb,
    mailbox := spec.mailbox.qcb, consent := spec.consent, tvec := spec.tvec, function := spec.function,
    notice := spec.notice, share := spec.share, tick := spec.tick, nextTick := time + spec.tick * 1000, deficits := [],
    lspBase := spec.lspBase, lspSize := spec.lspSize, exited := false, dying := none, measured := sha384 spec.images }

/-- Its key slot holds a new key, and the context is listed. -/
def State.enter (s : State) (spec : CreateSpec) : State := { s with
  keys := mapPut s.keys spec.keyid { state := .live, serial := (s.key spec.keyid).serial + 1, acks := 0, killedAt := 0, reported := false }
  ctxs := mapPut s.ctxs spec.ctx (createdCtx spec s.time) }

theorem ctx?_enter (s : State) (spec : CreateSpec) : (s.enter spec).ctx? spec.ctx = some (createdCtx spec s.time) := mapFind?_put_self _ _ _

theorem key_enter (s : State) (spec : CreateSpec) : (s.enter spec).key spec.keyid =
    { state := .live, serial := (s.key spec.keyid).serial + 1, acks := 0, killedAt := 0, reported := false } := by
  simp [State.key, State.enter, mapFind?_put_self]

section
variable {s : State} {spec : CreateSpec}

/-- R335: a context is set up with its cores, its key and its queues; nothing after its entry touches the contexts or the keys. -/
theorem create_enters (hbooted : s.dev.booted = true) (hgood : createBad spec = false)
    (hgrant : (s.takeRequest 0x10 none spec.done).createRefused spec = false) (hfree : s.assignable spec = true) :
    ∃ u, exec (.create none spec) s = .next (u.hostDone spec.done 1) ∧ SameRoster ((s.takeRequest 0x10 none spec.done).enter spec) u := by
  refine ⟨_, (if_neg (by simp [hfree])).trans ((hostOnly_host hbooted _ _ _ _).trans (congrArg Host.Outcome.next
    ((if_neg (Bool.eq_false_iff.mp hgood)).trans (if_neg (Bool.eq_false_iff.mp hgrant))))), ?_⟩
  have hup := (sameRoster_segmentsUp ((s.takeRequest 0x10 none spec.done).enter spec) spec).trans (sameRoster_queuesUp _ spec)
  split
  · exact hup
  · exact ⟨hup.dev, hup.ctxs, hup.keys⟩

/-- R335: a bad specification is answered with 2, one that the RKC refuses with 3. -/
theorem create_refused (hbooted : s.dev.booted = true) :
    let t := s.takeRequest 0x10 none spec.done
    (createBad spec = true → exec (.create none spec) s = .next (t.hostDone spec.done 2)) ∧
    (createBad spec = false → s.createRefused spec = true → t.createRefused spec = true →
      exec (.create none spec) s = .next (t.hostDone spec.done 3)) := by
  refine ⟨fun hbad => (if_neg (by simp [hbad])).trans ?_, fun hgood hbefore hrefused => (if_neg (by simp [hbefore])).trans ?_⟩
  · exact (hostOnly_host hbooted _ _ _ _).trans (congrArg Host.Outcome.next (if_pos hbad))
  · exact (hostOnly_host hbooted _ _ _ _).trans
      (congrArg Host.Outcome.next ((if_neg (Bool.eq_false_iff.mp hgood)).trans (if_pos hrefused)))

/-- R335: only the host sets a context up. -/
theorem create_supervisor (hbooted : s.dev.booted = true) (n : Nat) :
    exec (.create (some n) spec) s = .next ((s.takeRequest 0x10 (some n) spec.done).answerDone (some n) spec.done 3) := by
  show execCreate (some n) spec s = _
  unfold execCreate
  rw [if_neg (by simp)]
  exact hostOnly_supervisor hbooted _ _ _ _ _

end

/-- R335, R396: the context has exited and its routes drain. -/
theorem destroy_drains {s : State} {n : Nat} {c : Ctx} {done : Word} (hbooted : s.dev.booted = true) :
    let t := s.takeRequest 0x11 none done
    t.ctx? n = some c → c.dying = none →
    let u := t.onCtx n fun c => { c with exited := true, dying := some done }
    let ports := nub ((u.access.filter fun e => decide (e.tctx = n)).flatMap AccessEntry.via)
    let w := ports.foldl State.advancePort u
    exec (.destroy none n done) s = .next { w with
      launches := w.launches.filter fun e => decide (e.2.ctx ≠ n) || w.instances.any fun i => decide (i.2.launch = e.1),
      mgmt := mapPut w.mgmt w.tagCtr (.drain done (some n) (ports.flatMap u.passed)), tagCtr := w.tagCtr + 1 } := by
  intro t hc hlive u ports w
  show execDestroy none n done s = _
  refine (hostOnly_host hbooted _ _ _ _).trans (congrArg Host.Outcome.next ?_)
  simp only [t] at hc
  simp only [hc, hlive]
  rfl

/-- R335: there is no context to destroy. -/
theorem destroy_unknown {s : State} {n : Nat} {done : Word} (hbooted : s.dev.booted = true)
    (hc : (s.takeRequest 0x11 none done).ctx? n = none) :
    exec (.destroy none n done) s = .next ((s.takeRequest 0x11 none done).hostDone done 3) := by
  show execDestroy none n done s = _
  refine (hostOnly_host hbooted _ _ _ _).trans (congrArg Host.Outcome.next ?_)
  simp only [hc]

/-- R334: the key of a destroyed context whose routes have drained is retired. -/
theorem killkey_retires {s : State} {slot : Nat} (hlive : (s.key slot).state = .live)
    (howner : ∃ e ∈ s.ctxs, e.2.keyid = slot ∧ e.2.dying ≠ none ∧ ∀ m ∈ s.mgmt, ∀ d l, m.2 ≠ .drain d (some e.1) l) :
    exec (.killkey slot) s = .next { s with keys := mapPut s.keys slot { s.key slot with
      state := .retiring, acks := 16 * (s.clusters.filter fun e => e.2.fenced).length, killedAt := s.time, reported := false } } := by
  obtain ⟨e, he, hkey, hdying, hdrained⟩ := howner
  have hidle : (s.mgmt.any fun m => match m.2 with | .drain _ (some c) _ => decide (c = e.1) | _ => false) = false := by
    refine List.any_eq_false.mpr fun m hm => ?_
    have hm := hdrained m hm
    split
    · next d n l hdrain =>
      rw [decide_eq_true_eq]
      rintro rfl
      exact hm d l hdrain
    · exact Bool.false_ne_true
  refine if_neg (not_or.mpr ⟨not_not.mpr hlive, fun hnone => ?_⟩)
  refine List.find?_eq_none.mp (Option.isNone_iff_eq_none.mp hnone) e he ?_
  rw [Bool.and_eq_true, Bool.and_eq_true, decide_eq_true_eq, Bool.not_eq_true']
  exact ⟨⟨hkey, Option.isSome_iff_ne_none.mpr hdying⟩, hidle⟩

section
variable {s : State} {slot : Nat} (hretiring : (s.key slot).state = .retiring)
include hretiring

/-- R334: an engine drops what the slot's key covers and acknowledges. -/
theorem keyKillReceive_counts (hfew : (s.key slot).acks + 1 < 858) :
    exec (.keyKillReceive slot) s = .next { s.dropKey slot with
      keys := mapPut (s.dropKey slot).keys slot { s.key slot with acks := (s.key slot).acks + 1 } } :=
  (if_neg (not_not.mpr hretiring)).trans (if_pos hfew)

/-- R334, R335: the last engine empties the slot, and what the context held is released. -/
theorem keyKillReceive_releases (hlast : 858 ≤ (s.key slot).acks + 1) :
    let u := s.dropKey slot
    let v : State := { u with keys := mapPut u.keys slot { s.key slot with state := .empty, acks := 0, killedAt := 0 } }
    ∀ e, (v.ctxs.find? fun e => decide (e.2.keyid = slot) && e.2.dying.isSome) = some e →
      exec (.keyKillReceive slot) s = .next (v.releaseCtx e.1) := by
  intro u v e he
  refine (if_neg (not_not.mpr hretiring)).trans ((if_neg (Nat.not_lt.mpr hlast)).trans (congrArg Host.Outcome.next ?_))
  simp only [v, u] at he
  simp only [he]
  rfl

/-- R334, R411: a retirement of more than 10 ms is reported once. -/
theorem keyRetireStuck_reports (hnew : (s.key slot).reported = false) (hslow : (s.key slot).killedAt + 10000000 < s.time) :
    let u : State := { s with keys := mapPut s.keys slot { s.key slot with reported := true } }
    exec (.keyRetireStuck slot) s = .next (u.report 0 4 slot 0 0 (u.time - (s.key slot).killedAt) 0) := by
  refine if_neg ?_
  simp [hretiring, hnew, hslow]

end

/-- R334-R336, R346: CREATE, DESTROY and the kill of a key. -/
theorem contextEvents : Clause.ContextEvents := by
  refine fun s => ⟨fun spec hbooted => ?_, fun n c done hbooted => ?_, fun slot => killkey_retires, fun slot hretiring => ?_,
    fun slot => keyRetireStuck_reports⟩
  · intro t
    obtain ⟨hbad, hrefused⟩ := create_refused (spec := spec) hbooted
    refine ⟨hbad, hrefused, fun hgood hgrant hfree => ?_, create_supervisor hbooted⟩
    obtain ⟨u, hexec, hdev, hctxs, hkeys⟩ := create_enters hbooted hgood hgrant hfree
    have hctx : u.ctx? spec.ctx = some (createdCtx spec t.time) := (congrArg (mapFind? · spec.ctx) hctxs).trans (ctx?_enter t spec)
    have hkey : u.key spec.keyid = (t.enter spec).key spec.keyid := congrArg (fun m => (mapFind? m spec.keyid).getD KeySlot.init) hkeys
    refine ⟨u, hexec, hdev, _, hctx, rfl, rfl, rfl, rfl, rfl, rfl, rfl, rfl, rfl, rfl, ?_⟩
    rw [hkey, key_enter]
    exact ⟨rfl, rfl⟩
  · refine ⟨destroy_drains hbooted, destroy_unknown hbooted, fun m => ?_⟩
    show execDestroy (some m) n done s = _
    exact hostOnly_supervisor hbooted _ _ _ _ _
  · exact ⟨keyKillReceive_counts hretiring, keyKillReceive_releases hretiring⟩

/-! Grants (R321-R324, R326, R336). -/

section
variable {s : State} (hbooted : s.dev.booted = true) (m : MintSpec)
include hbooted

/-- R321, R322: the entry of a permitted window here is installed before its token is returned; one that lies elsewhere needs none. -/
theorem mint_returns (hgood : mintBad m = false) (hpermit : mintPermitted m = true) :
    let t := s.takeRequest 0x12 m.issuer m.done
    t.mintGranted m = true →
    (t.mintElsewhere m = true → exec (.mint m) s = .next (t.returnToken m 0x12 (t.mintToken m))) ∧
    (t.mintElsewhere m = false →
      (∀ u, t.installEntry (mintEntry m) = some u → exec (.mint m) s = .next (u.returnToken m 0x12 (u.mintToken m))) ∧
      (t.installEntry (mintEntry m) = none → exec (.mint m) s = .next (t.answerDone m.issuer m.done 3))) := by
  intro t hgrant
  refine ⟨fun haway => ?_, fun hhere => ⟨fun u hu => ?_, fun hnone => ?_⟩⟩
  all_goals
    show execMint m s = _
    refine managed_answers hbooted ((if_neg (Bool.eq_false_iff.mp hgood)).trans ((if_neg (by simp [hpermit, t, hgrant])).trans ?_))
  · exact if_pos haway
  · refine (if_neg (Bool.eq_false_iff.mp hhere)).trans ?_
    simp only [t] at hu
    simp only [hu]
  · refine (if_neg (Bool.eq_false_iff.mp hhere)).trans ?_
    simp only [t] at hnone
    simp only [hnone]
    rfl

/-- R321: a fresh token for a grant of the holder that still stands. -/
theorem remint_returns (hgood : mintBad m = false) (hholder : m.issuer = some m.ctx) :
    let r := s.takeRequest 0x13 m.issuer m.done
    m.src = r.dev.id → mintPermitted m = true → r.mintGranted m = true → r.grantStands m = true →
    (r.mintElsewhere m = true → exec (.remint m) s = .next (r.returnToken m 0x13 (r.mintToken m))) ∧
    ∀ u, r.mintElsewhere m = false → r.installEntry (mintEntry m) = some u → exec (.remint m) s = .next (u.returnToken m 0x13 (u.mintToken m)) := by
  intro r hsrc hpermit hgrant hstands
  refine ⟨fun haway => ?_, fun u hhere hu => ?_⟩
  all_goals
    show execRemint m s = _
    refine managed_answers hbooted ((if_neg (Bool.eq_false_iff.mp hgood)).trans ((if_neg ?_).trans ?_))
    · rw [hpermit, hgrant, hstands]
      simp [hholder, hsrc, r]
  · exact if_pos haway
  · refine (if_neg (Bool.eq_false_iff.mp hhere)).trans ?_
    simp only [r] at hu
    simp only [hu]

/-- R322: a malformed specification is answered with 2. -/
theorem mint_malformed (hbad : mintBad m = true) :
    exec (.mint m) s = .next ((s.takeRequest 0x12 m.issuer m.done).answerDone m.issuer m.done 2) ∧
    exec (.remint m) s = .next ((s.takeRequest 0x13 m.issuer m.done).answerDone m.issuer m.done 2) := by
  constructor
  · show execMint m s = _
    exact managed_answers hbooted (if_pos hbad)
  · show execRemint m s = _
    exact managed_answers hbooted (if_pos hbad)

/-- R321, R322: what host policy or the RKC does not grant is refused. -/
theorem mint_refused (hgood : mintBad m = false) :
    let t := s.takeRequest 0x12 m.issuer m.done
    mintPermitted m = false ∨ t.mintGranted m = false → exec (.mint m) s = .next (t.answerDone m.issuer m.done 3) := by
  intro t hrefused
  show execMint m s = _
  refine managed_answers hbooted ((if_neg (Bool.eq_false_iff.mp hgood)).trans (if_pos ?_))
  simpa using hrefused

/-- R321: another than the holder, or a grant that is gone, gets no fresh token. -/
theorem remint_refused (hgood : mintBad m = false) :
    let r := s.takeRequest 0x13 m.issuer m.done
    m.issuer ≠ some m.ctx ∨ r.grantStands m = false → exec (.remint m) s = .next (r.answerDone m.issuer m.done 3) := by
  intro r hrefused
  show execRemint m s = _
  refine managed_answers hbooted ((if_neg (Bool.eq_false_iff.mp hgood)).trans (if_pos ?_))
  exact hrefused.imp_right fun hgone => .inr (by simp [hgone, r])

/-- R324: the entry is dropped, and what the ingress has admitted for its pair drains. -/
theorem dropgrant_drains {device n entry i : Nat} {done : Word} :
    let t := s.takeRequest 0x14 none done
    ((t.access.zipIdx.filter fun e => decide (e.1.device = device) && decide (e.1.ctx = n)).map Prod.snd)[entry]? = some i →
    exec (.dropgrant none device n entry done) s = .next (({ t with access := t.access.eraseIdx i } : State).startDrain done
      ((t.packets.filter fun p => p.answer.isNone && decide (p.src = device) && decide (p.sctx = n) &&
        (match p.at_ with | .home _ => true | _ => false)).map Packet.tag)) := by
  intro t hi
  show execDropgrant none device n entry done s = _
  refine (hostOnly_host hbooted _ _ _ _).trans (congrArg Host.Outcome.next ?_)
  simp only [t] at hi
  simp only [hi]
  rfl

end

/-- R324: a revocation is answered once every packet that it awaits is. -/
theorem revocationDrainAnswer_answers {s : State} {i : Nat} {done : Word} {tags : List Nat}
    (hfind : mapFind? s.mgmt i = some (.drain done none tags)) (hdone : ∀ p ∈ s.packets, p.tag ∈ tags → p.answer ≠ none) :
    exec (.revocationDrainAnswer i) s = .next (({ s with mgmt := mapErase s.mgmt i } : State).hostDone done 1) := by
  show execRevocationDrainAnswer i s = _
  simp only [execRevocationDrainAnswer, hfind]
  exact if_neg (by simpa using hdone)

/-- R321-R324, R326, R336: MINT, REMINT and the revocations. -/
theorem grantEvents : Clause.GrantEvents := by
  refine fun s hbooted => ⟨fun m => ?_, fun device n entry done => ?_, fun port done => ?_, fun i done tags => revocationDrainAnswer_answers⟩
  · intro t r
    exact ⟨mint_malformed hbooted m, fun hgood => ⟨mint_returns hbooted m hgood, mint_refused hbooted m hgood, remint_returns hbooted m hgood,
      remint_refused hbooted m hgood⟩⟩
  · refine ⟨fun i => dropgrant_drains hbooted, fun c => ?_⟩
    show execDropgrant (some c) device n entry done s = _
    exact hostOnly_supervisor hbooted _ _ _ _ _
  · refine ⟨?_, fun c => ?_⟩
    · show execAdvance none port done s = _
      exact hostOnly_host hbooted _ _ _ _
    · show execAdvance (some c) port done s = _
      exact hostOnly_supervisor hbooted _ _ _ _ _

/-! Parameters (R350, R357, R359, R371, R386, R410). -/

/-- Each parameter within its limits and outside them, and those that a supervisor asks for. -/
theorem parameterEvents : Clause.ParameterEvents := by
  intro s done hbooted t refused
  refine ⟨fun v => ⟨fun hv => ?_, fun hv => ?_⟩, fun v => ⟨fun hv => ?_, fun hv => ?_⟩, fun on => ?_, fun v => ⟨fun hv => ?_, fun hv => ?_⟩,
    fun n asid root c hc hasid hroot => ?_, fun f root hf hroot => ?_, fun f handle e hf hhandle hqcb hfree => ?_, fun c n asid root v on i hi => ?_⟩
  · show execSetAgeLimit none v done s = _
    exact setParam_sets hbooted _ _ _ (by simpa using hv)
  · show execSetAgeLimit none v done s = _
    exact setParam_outside hbooted _ _ _ (by simpa using hv)
  · show execSetSelftestInterval none v done s = _
    exact setParam_sets hbooted _ _ _ (by simpa using hv)
  · show execSetSelftestInterval none v done s = _
    exact setParam_outside hbooted _ _ _ (by simpa using hv)
  · show execSetTestMode none on done s = _
    exact setParam_sets hbooted _ _ _ rfl
  · show execSetPowerCap none v done s = _
    exact setParam_sets hbooted _ _ _ (by simpa using hv)
  · show execSetPowerCap none v done s = _
    exact setParam_outside hbooted _ _ _ (by simpa using hv)
  · show execSetAsidRoot none n asid root done s = _
    refine setParam_sets hbooted _ _ _ ?_
    obtain ⟨e, he, hasid⟩ := hasid
    rw [hc, Bool.and_eq_true, List.any_eq_true]
    exact ⟨⟨e, he, decide_eq_true hasid⟩, decide_eq_true hroot⟩
  · show execSetStage2Root none f root done s = _
    exact setParam_sets hbooted _ _ _ (by simp [hf, hroot])
  · show execQueuePortHandleBinding none f handle (some e) done s = _
    refine (hostOnly_host hbooted _ _ _ _).trans (congrArg Host.Outcome.next ((if_neg ?_).trans (if_neg ?_)))
    · simp [hf, hhandle, hqcb]
    · simp [hfree]
  · fin_cases hi
    all_goals exact if_pos hbooted

/-! Migrations, windows, certificates and counters (R279, R337, R405, R409, R410, R415). -/

section
variable {s : State} {done : Word} (hbooted : s.dev.booted = true)
include hbooted

/-- R337: the migration of a page that can move begins. -/
theorem migrate_begins {o n : Nat} (hne : o ≠ n) (ho : isHbm (o * 4096) = true) (hn : isHbm (n * 4096) = true)
    (hidle : ∀ m ∈ s.mgmt, ∀ a b d, m.2 ≠ .migrate a b d) :
    let t := s.takeRequest 0x17 none done
    t.reloc.length < 16 → mapFind? t.reloc o = none → mapFind? t.reloc n = none → t.largeOver o = false →
    exec (.migrate none o n done) s = .next { t with mgmt := mapPut t.mgmt t.tagCtr (.migrate o n done), tagCtr := t.tagCtr + 1 } := by
  intro t hroom hold hnew hsmall
  have hfree : (s.mgmt.any fun e => match e.2 with
      | .migrate a b _ => decide (a = o) || decide (b = n) || decide (a = n) || decide (b = o) | _ => false) = false := by
    refine List.any_eq_false.mpr fun m hm => ?_
    split
    · next a b d hmigrate => exact absurd hmigrate (hidle m hm a b d)
    · exact Bool.false_ne_true
  show execMigrate none o n done s = _
  refine (hostOnly_host hbooted _ _ _ _).trans (congrArg Host.Outcome.next ((if_neg ?_).trans (if_neg ?_)))
  · simp [hne, ho, hn]
  · rintro (hbusy | hfull | hmoved | hmoved | hlarge)
    · exact absurd (hbusy.symm.trans hfree) (by decide)
    · exact absurd hroom (Nat.not_lt.mpr hfull)
    · exact Bool.false_ne_true ((congrArg Option.isSome hold).symm.trans hmoved)
    · exact Bool.false_ne_true ((congrArg Option.isSome hnew).symm.trans hmoved)
    · exact absurd (hlarge.symm.trans hsmall) (by decide)

/-- R405: a window is bound to a sound cell. -/
theorem windowBinding_binds {k f offset n asid : Nat} {cell : Word} {acc : Acc} {u : State} (hk : k < 64) (hf : f < 64) (hoffset : offset % 64 = 0) :
    let t := s.takeRequest 0x20 none done
    t.ctx? n ≠ none →
    let a := t.ctxActor n
    t.check14 { a.who with asid := asid } .load 32 0 cell 32 = .ok (acc, u) →
    let loc := acc.locs.headD 0
    let v := u.cellAt a.mark loc
    v.1.toNat ≤ v.2.1.toNat → v.1.toNat ≤ v.2.2.toNat → v.2.2.toNat ≤ v.2.1.toNat → leNat ((span (loc + 24) 8).map (u.homeByte a.mark)) = 0 →
    v.1.toNat % 64 = 0 → v.2.1.toNat % 64 = 0 → offset + (v.2.1.toNat - v.1.toNat) ≤ 2 ^ 36 → (∀ e ∈ u.windows, e.1 ≠ k → e.2.cell ≠ loc) →
    let w : Window :=
      { function := f, offset := offset, ctx := n, asid := asid, cell := loc, lo := v.1, hi := v.2.1, lines := [], waiting := [], drops := 0 }
    exec (.windowBinding none k f offset n asid cell done) s = .next (({ u with windows := mapPut u.windows k w } : State).hostDone done 1) := by
  intro t hctx a hcheck loc v hlohi hlomark hmarkhi hrest hlo hhi hfits hfree w
  show execWindowBinding none k f offset n asid cell done s = _
  refine (hostOnly_host hbooted _ _ _ _).trans (congrArg Host.Outcome.next ((if_neg ?_).trans ?_))
  · simpa [hk, hf, hoffset, Option.isNone_iff_eq_none] using hctx
  · simp only [a, t] at hcheck
    simp only [hcheck]
    refine (if_neg ?_).trans (if_neg ?_)
    · simp only [BitVec.ult, decide_eq_true_eq, not_or, Nat.not_lt, not_not]
      exact ⟨hlohi, hlomark, hmarkhi, hrest, hlo, hhi, hfits⟩
    · rw [List.any_eq_true]
      rintro ⟨e, he, hshared⟩
      rw [Bool.and_eq_true, decide_eq_true_eq, decide_eq_true_eq] at hshared
      obtain ⟨hother, hcell⟩ := hshared
      exact hfree e he hother hcell

/-- R409: a certificate rewrite is held. -/
theorem mgmtCertificateRewrite_holds {slot : Nat} {chain : List Byte} (hslot : slot < 8) (hslot0 : slot ≠ 0) :
    let t := s.takeRequest 0x20 none done
    mapFind? t.spdm.heldRewrite slot = none →
    exec (.mgmtCertificateRewrite none slot chain done) s = .next (t.holdRewrite slot { chain := chain, function := none, done := some done }) := by
  intro t hfree
  show execMgmtCertificateRewrite none slot chain done s = _
  refine (hostOnly_host hbooted _ _ _ _).trans (congrArg Host.Outcome.next ((if_neg (Nat.not_le.mpr hslot)).trans (if_neg ?_)))
  rintro (hzero | hheld)
  · exact hslot0 hzero
  · exact Bool.false_ne_true ((congrArg Option.isSome hfree).symm.trans hheld)

/-- R410, R415: a counter is returned to the host and to a supervisor whose own it is. -/
theorem readCounter_returns {issuer : Issuer} {counter index v : Nat} {echo : Word} {own : Bool} :
    let t := s.takeRequest 0x21 issuer done
    t.counter (issuer.getD 0) counter index = some (v, own) →
    (issuer = none ∨ own = true → exec (.readCounter issuer counter index echo done) s = .next
      ((t.returnData issuer 0x21 echo (leBytes 8 (min v (2 ^ 64 - 1)))).answerDone issuer done 1)) ∧
    (issuer ≠ none → own = false → exec (.readCounter issuer counter index echo done) s = .next (t.answerDone issuer done 3)) := by
  intro t hcounter
  simp only [t] at hcounter
  refine ⟨fun hmay => ?_, fun hsup hown => ?_⟩
  all_goals
    show execReadCounter issuer counter index echo done s = _
    refine managed_answers hbooted ?_
    simp only [hcounter]
  · refine if_neg ?_
    rcases hmay with rfl | rfl <;> simp
  · exact if_pos (by simp [Option.isSome_iff_ne_none.mpr hsup, hown])

/-- R410: an operation that Table: Management operations does not list is answered with 2. -/
theorem mgmtUnknownOp_answers {issuer : Issuer} {op : BitVec 8}
    (hop : op.toNat = 0 ∨ 6 ≤ op.toNat ∧ op.toNat < 0x10 ∨ 0x18 ≤ op.toNat ∧ op.toNat < 0x20 ∨ 0x22 ≤ op.toNat ∧ op.toNat < 0x30 ∨
      0x34 ≤ op.toNat) :
    exec (.mgmtUnknownOp issuer op done) s = .next ((s.takeRequest op.toNat issuer done).answerDone issuer done 2) := by
  refine (if_neg ?_).trans (managed_booted hbooted _ _ _ _ _)
  simp only [Bool.or_eq_true, Bool.and_eq_true, decide_eq_true_eq]
  omega

end

/-- R337: at the cutover the page is copied, and what pointed at it is moved. -/
theorem migrateCutover_moves {s : State} {i o n : Nat} {ptes : List Nat} {done : Word} (hfind : mapFind? s.mgmt i = some (.migrate o n done))
    (hptes : ∀ a ∈ ptes, a % 8 = 0 ∧ bits (s.pteAt a) 47 12 = o) (hsmall : s.largeOver o = false) :
    let u := ((nub (ptes ++ s.ptesOf o)).foldl (fun v a => v.repoint n (movedLoc o n a)) ((s.copyPage o n).moveRefs o n)).dropTlb
      fun e => decide (e.pa = o)
    exec (.migrateCutover i ptes) s = .next (({ u with
      reloc := mapPut (u.reloc.map fun e => if e.2 = o then (e.1, n) else e) o n, mgmt := mapErase u.mgmt i } : State).hostDone done 1) := by
  have hsound : (ptes.any fun a => decide (a % 8 ≠ 0) || decide (bits (s.pteAt a) 47 12 ≠ o)) = false := by
    simpa using hptes
  show execMigrateCutover i ptes s = _
  simp only [execMigrateCutover, hfind]
  refine (if_neg ?_).trans ?_
  · rw [hsound, hsmall]
    decide
  · rfl

/-- R279, R337, R409, R410, R415: migrations, a window, a certificate, a counter and an unknown operation. -/
theorem serviceEvents : Clause.ServiceEvents := by
  intro s done hbooted
  refine ⟨fun o n => migrate_begins hbooted, fun i o n ptes => migrateCutover_moves, ?_, fun issuer counter index echo v own => readCounter_returns hbooted,
    fun issuer op => mgmtUnknownOp_answers hbooted⟩
  exact ⟨fun k f offset n asid cell acc u => windowBinding_binds hbooted, fun slot chain => mgmtCertificateRewrite_holds hbooted⟩

/-! Debug (R336, R414). -/

section
variable {s : State} {what : String} {op : Nat} {token : Line} {h : Nat} {done : Word} {ok : DebugView → Bool} {f : DebugView → State → Option State}
  (hbooted : s.dev.booted = true)
include hbooted

/-- The hart that the element names, where its token admits it. -/
theorem debugOp_acts {v : DebugView} {t : State} (hview : (s.takeRequest op (debugIssuer token) done).debugView h = some v)
    (hadmit : (s.takeRequest op (debugIssuer token) done).debugAdmits token h v = true) (hok : ok v = true)
    (hf : f v (s.takeRequest op (debugIssuer token) done) = some t) :
    s.debugOp what op token h done ok f = .next (t.answerDone (debugIssuer token) done 1) := by
  refine managed_answers hbooted ?_
  simp only [hview, hadmit, hok, hf]
  rfl

/-- A debugger that the token does not admit, or a hart in another state, is answered with 3. -/
theorem debugOp_refused (hrefused : ∀ v, (s.takeRequest op (debugIssuer token) done).debugView h = some v →
      (s.takeRequest op (debugIssuer token) done).debugAdmits token h v = false ∨ ok v = false) :
    s.debugOp what op token h done ok f = .next ((s.takeRequest op (debugIssuer token) done).answerDone (debugIssuer token) done 3) := by
  refine managed_answers hbooted ?_
  cases hview : (s.takeRequest op (debugIssuer token) done).debugView h with
  | none => rfl
  | some v => exact if_pos (by simpa using hrefused v hview)

end

/-- The token admits its holder to the hart, which is on its core. -/
def State.haltAdmitted (s : State) (token : Line) (h : Nat) : Bool :=
  match s.debugView h with | some v => s.debugAdmits token h v && !v.saved | none => false

section
variable {s : State} {token : Line} {h : Nat} {done : Word}

/-- R414: without admission no hart is halted. -/
theorem debugHalt_refused (hbooted : s.dev.booted = true) (hrefused : ∀ v, s.debugView h = some v → s.debugAdmits token h v = false) :
    exec (.debugHalt token h done) s = .next ((s.takeRequest 0x30 (debugIssuer token) done).answerDone (debugIssuer token) done 3) := by
  have hnot : s.haltAdmitted token h = false := by
    unfold State.haltAdmitted
    cases hview : s.debugView h with
    | none => rfl
    | some v => simp [hrefused v hview]
  refine Eq.trans (if_pos ((Bool.not_eq_true' (s.haltAdmitted token h)).mpr hnot)) ?_
  exact debugOp_refused hbooted fun _ _ => .inr rfl

section
variable (hadmitted : s.haltAdmitted token h = true)
include hadmitted

/-- R414: a hart that has halted already stays so. -/
theorem debugHalt_halted (hbooted : s.dev.booted = true) (hhalted : (s.hart h).status = .halted) {v : DebugView} :
    let t := s.takeRequest 0x30 (debugIssuer token) done
    t.debugView h = some v → t.debugAdmits token h v = true →
    exec (.debugHalt token h done) s = .next (t.answerDone (debugIssuer token) done 1) := by
  intro t hview hadmit
  refine Eq.trans (if_neg (c := (!s.haltAdmitted token h) = true) (by simp [hadmitted])) ((if_pos hhalted).trans ?_)
  exact debugOp_acts hbooted hview hadmit rfl rfl

/-- R414: a running hart halts at its next point, after which the element is answered. -/
theorem debugHalt_halts (hrunning : (s.hart h).status = .running) {u : State}
    (hpoint : (s.onHart h fun x => { x with haltReq := true }).haltPoint h = some u) (hhalts : (u.hart h).status = .halted)
    (hbooted : u.dev.booted = true) :
    exec (.debugHalt token h done) s =
      .next ((u.takeRequest 0x30 (debugIssuer token) done).answerDone (debugIssuer token) done 1) := by
  have hgoing : ¬ (s.hart h).status = .halted := by simp [hrunning]
  refine Eq.trans (if_neg (c := (!s.haltAdmitted token h) = true) (by simp [hadmitted])) ((if_neg hgoing).trans ?_)
  simp only [hpoint]
  exact (if_pos hhalts).trans (managed_booted hbooted _ _ _ _ _)

end
end

/-- R414: each debug element acts on the hart that its token admits it to, in the status that it asks for. -/
theorem debugEvents : Clause.DebugEvents := by
  intro s token h done hbooted who t
  refine ⟨fun v hview hadmit hhere => ?_, debugHalt_refused hbooted, fun v hview => ⟨fun hadmit hhalted => ?_, fun hrefused => ?_⟩,
    fun v item index echo hview => ⟨fun w hadmit hhalted hread => ?_, fun hgoing => ?_⟩,
    fun v item index x hview => ⟨fun w hadmit hhalted hwrite => ?_, fun hgoing => ?_⟩⟩
  · have hadmitted : s.haltAdmitted token h = true := by simp [State.haltAdmitted, hview, hadmit, hhere]
    exact ⟨fun w hhalted => debugHalt_halted hadmitted hbooted hhalted, fun u hrunning => debugHalt_halts hadmitted hrunning⟩
  · show execDebugResume token h done s = _
    exact debugOp_acts hbooted hview hadmit (decide_eq_true hhalted) rfl
  · show execDebugResume token h done s = _
    refine debugOp_refused hbooted fun w hw => ?_
    obtain rfl := Option.some.inj (hview.symm.trans hw)
    exact hrefused.imp_right decide_eq_false
  · show execDebugReadState token h item index echo done s = _
    exact debugOp_acts hbooted hview hadmit (decide_eq_true hhalted) (congrArg _ hread)
  · show execDebugReadState token h item index echo done s = _
    refine debugOp_refused hbooted fun w hw => .inr ?_
    obtain rfl := Option.some.inj (hview.symm.trans hw)
    exact decide_eq_false hgoing
  · show execDebugWriteState token h item index x done s = _
    exact debugOp_acts hbooted hview hadmit (decide_eq_true hhalted) (congrArg _ hwrite)
  · show execDebugWriteState token h item index x done s = _
    refine debugOp_refused hbooted fun w hw => .inr ?_
    obtain rfl := Option.some.inj (hview.symm.trans hw)
    exact decide_eq_false hgoing

end Sys2Proof.Machine

open Sys2Proof Sys2Proof.Machine

/-- Settles O55: each event, once its element is taken, acts on the state it leaves and answers. -/
theorem managementEvents : Obligations.ManagementEvents :=
  ⟨invalidationEvents, contextEvents, grantEvents, parameterEvents, serviceEvents, debugEvents⟩

end
section
/-! Proofs of the statement on system instructions (spec/10 R265, spec/02 R39). -/

open Sys2Proof Sys2Proof.Machine

/-- Settles O10: each traps before any effect, with the operand or the bits that it read. -/
theorem systemTraps : Obligations.SystemTraps := by
  intro s rs1 hs
  refine ⟨⟨_, rfl, run_error_traps hs ?_⟩, ⟨_, rfl, run_error_traps hs ?_⟩, fun bits => ⟨_, rfl, run_error_traps hs rfl⟩⟩
  all_goals rw [x_openChunk]

end
section
/-! Proofs of the statements on route registers (spec/10 R232-R239). -/

namespace Sys2Proof.Machine

/-! Fields of a token (R232). -/

/-- Replacing a field replaces its bits. -/
theorem testBit_setField (v x : Nat) {hi lo : Nat} (h : lo ≤ hi + 1) (i : Nat) :
    (setField v hi lo x).testBit i = if lo ≤ i ∧ i ≤ hi then x.testBit (i - lo) else v.testBit i := by
  obtain ⟨w, hw⟩ := Nat.exists_eq_add_of_le h
  have hsub : hi + 1 - lo = w := by omega
  have hparts : setField v hi lo x = 2 ^ lo * (2 ^ w * (v / 2 ^ (lo + w)) + x % 2 ^ w) + v % 2 ^ lo := by
    have hlow := Nat.div_add_mod v (2 ^ lo)
    have hhigh := Nat.div_add_mod (v / 2 ^ lo) (2 ^ w)
    rw [Nat.div_div_eq_div_mul, ← Nat.pow_add] at hhigh
    rw [setField, field, hsub]
    generalize x % 2 ^ w = y
    generalize v / 2 ^ lo % 2 ^ w = f at *
    generalize v % 2 ^ lo = r at *
    rw [← hhigh] at hlow
    generalize 2 ^ w * (v / 2 ^ (lo + w)) = q at *
    rw [← hlow, Nat.mul_add, Nat.mul_add, Nat.mul_comm (2 ^ lo) f, Nat.mul_comm (2 ^ lo) y]
    omega
  rw [hparts, Nat.testBit_two_pow_mul_add _ (Nat.mod_lt _ (Nat.two_pow_pos lo)), Nat.testBit_two_pow_mul_add _ (Nat.mod_lt _ (Nat.two_pow_pos w)),
    Nat.testBit_mod_two_pow, Nat.testBit_mod_two_pow, Nat.testBit_div_two_pow]
  by_cases hlo : i < lo
  · rw [if_pos hlo, if_neg (by omega), decide_eq_true hlo, Bool.true_and]
  · rw [if_neg hlo]
    by_cases hin : i - lo < w
    · rw [if_pos hin, if_pos (by omega), decide_eq_true hin, Bool.true_and]
    · rw [if_neg hin, if_neg (by omega), show i - lo - w + (lo + w) = i by omega]

theorem testBit_setTok (t : Line) (v : Nat) {hi lo : Nat} (h : lo ≤ hi + 1) (i : Nat) :
    (setTok t hi lo v).toNat.testBit i = (decide (i < 512) && if lo ≤ i ∧ i ≤ hi then v.testBit (i - lo) else t.toNat.testBit i) := by
  rw [setTok, BitVec.testBit_toNat, BitVec.getLsbD_ofNat, testBit_setField _ _ h]

theorem testBit_tok (t : Line) (hi lo i : Nat) : (tok t hi lo).testBit i = (decide (i < hi + 1 - lo) && t.toNat.testBit (i + lo)) := by
  rw [tok, Nat.testBit_mod_two_pow, Nat.testBit_div_two_pow]

theorem tok_lt (t : Line) (hi lo : Nat) : tok t hi lo < 2 ^ (hi + 1 - lo) := Nat.mod_lt _ (Nat.two_pow_pos _)

/-- A field reads as it was replaced. -/
theorem tok_setTok_self (t : Line) (v : Nat) {hi lo : Nat} (h : lo ≤ hi + 1) (hhi : hi < 512) :
    tok (setTok t hi lo v) hi lo = v % 2 ^ (hi + 1 - lo) := by
  refine Nat.eq_of_testBit_eq fun i => ?_
  rw [testBit_tok, testBit_setTok _ _ h, Nat.testBit_mod_two_pow]
  by_cases hi' : i < hi + 1 - lo
  · rw [decide_eq_true hi', decide_eq_true (by omega : i + lo < 512), if_pos (by omega), Nat.add_sub_cancel]
    rfl
  · rw [decide_eq_false hi', Bool.false_and, Bool.false_and]

/-- A field beside the one replaced is kept. -/
theorem tok_setTok_ne (t : Line) (v : Nat) {hi lo hi' lo' : Nat} (h : lo ≤ hi + 1) (hne : hi' < lo ∨ hi < lo') (hhi : hi' < 512) :
    tok (setTok t hi lo v) hi' lo' = tok t hi' lo' := by
  refine Nat.eq_of_testBit_eq fun i => ?_
  rw [testBit_tok, testBit_tok, testBit_setTok _ _ h]
  by_cases hi : i < hi' + 1 - lo'
  · rw [decide_eq_true hi, decide_eq_true (by omega : i + lo' < 512), if_neg (by omega)]
    rfl
  · rw [decide_eq_false hi, Bool.false_and, Bool.false_and]

/-- The bits below the field that is replaced are kept. -/
theorem setWidth_setTok (t : Line) (v : Nat) {hi lo k : Nat} (h : lo ≤ hi + 1) (hk : k ≤ lo) (h512 : k ≤ 512) :
    (setTok t hi lo v).setWidth k = t.setWidth k := by
  refine BitVec.eq_of_toNat_eq (Nat.eq_of_testBit_eq fun i => ?_)
  rw [BitVec.toNat_setWidth, BitVec.toNat_setWidth, Nat.testBit_mod_two_pow, Nat.testBit_mod_two_pow, testBit_setTok _ _ h]
  by_cases hi : i < k
  · rw [decide_eq_true hi, decide_eq_true (by omega : i < 512), if_neg (by omega)]
    rfl
  · rw [decide_eq_false hi, Bool.false_and, Bool.false_and]

/-! Narrowing (R237). -/

/-- The token with its window narrowed, its rights as they were. -/
def narrowWindow (t : Line) (off len : Nat) : Line :=
  if tokNlen t ≤ off ∨ 2 ^ 40 ≤ tokNoff t + off then setTok t 419 380 0
  else setTok (setTok t 419 380 (Nat.min len (tokNlen t - off))) 379 340 (tokNoff t + off)

theorem narrow_eq (t : Line) (off len rights : Nat) :
    narrow t off len rights = setTok (narrowWindow t off len) 427 420 (tokNrights (narrowWindow t off len) &&& rights) := rfl

/-- Narrowing the window keeps the fields that do not hold it. -/
theorem tok_narrowWindow (t : Line) (off len : Nat) {hi lo : Nat} (h : hi < 340 ∨ 419 < lo) (hhi : hi < 512) :
    tok (narrowWindow t off len) hi lo = tok t hi lo := by
  unfold narrowWindow
  split
  · exact tok_setTok_ne t _ (by omega) (by omega) hhi
  · rw [tok_setTok_ne _ _ (by omega) (by omega) hhi, tok_setTok_ne _ _ (by omega) (by omega) hhi]

theorem setWidth_narrowWindow (t : Line) (off len : Nat) : (narrowWindow t off len).setWidth 340 = t.setWidth 340 := by
  unfold narrowWindow
  split
  · exact setWidth_setTok t _ (by omega) (by omega) (by omega)
  · rw [setWidth_setTok _ _ (by omega) (by omega) (by omega), setWidth_setTok _ _ (by omega) (by omega) (by omega)]

/-- The narrowed window is empty, or lies within the window before it. -/
theorem narrowWindow_within (t : Line) (off len : Nat) :
    tokNlen (narrowWindow t off len) = 0 ∨
      (tokNoff (narrowWindow t off len) = tokNoff t + off ∧
        tokNoff t + off + tokNlen (narrowWindow t off len) ≤ tokNoff t + tokNlen t) := by
  have hlen : tokNlen t < 2 ^ 40 := tok_lt t 419 380
  unfold narrowWindow
  split
  · exact .inl (tok_setTok_self t 0 (by omega) (by omega))
  · next h =>
    obtain ⟨hoff, hfits⟩ := not_or.mp h
    have hmin : Nat.min len (tokNlen t - off) ≤ tokNlen t - off := Nat.min_le_right _ _
    refine .inr ⟨(tok_setTok_self _ _ (by omega) (by omega)).trans (Nat.mod_eq_of_lt (Nat.not_le.mp hfits)), ?_⟩
    have hn : tokNlen (setTok (setTok t 419 380 (Nat.min len (tokNlen t - off))) 379 340 (tokNoff t + off)) =
        Nat.min len (tokNlen t - off) := by
      rw [tokNlen, tok_setTok_ne _ _ (by omega) (by omega) (by omega), tok_setTok_self _ _ (by omega) (by omega)]
      exact Nat.mod_eq_of_lt (by omega)
    rw [hn]
    omega

/-- The rights are set behind the window's fields, which stay. -/
theorem tok_narrow (t : Line) (off len rights : Nat) {hi lo : Nat} (h : hi < 420 ∨ 427 < lo) (hhi : hi < 512) :
    tok (narrow t off len rights) hi lo = tok (narrowWindow t off len) hi lo := by
  rw [narrow_eq, tok_setTok_ne _ _ (by omega) h hhi]

theorem tokNrights_narrow (t : Line) (off len rights : Nat) : tokNrights (narrow t off len rights) = tokNrights t &&& rights := by
  have hn : tokNrights (narrowWindow t off len) = tokNrights t := tok_narrowWindow t off len (by omega) (by omega)
  have hlt : tokNrights t < 2 ^ 8 := tok_lt t 427 420
  rw [narrow_eq, hn, tokNrights, tok_setTok_self _ _ (by omega) (by omega)]
  exact Nat.mod_eq_of_lt (Nat.lt_of_le_of_lt Nat.and_le_left hlt)

/-- A right of the narrowed token is a right of the token. -/
theorem tokEff_narrow (t : Line) (off len rights : Nat) : tokEff (narrow t off len rights) = tokEff t &&& rights := by
  have hr : tokRights (narrow t off len rights) = tokRights t :=
    (tok_narrow t off len rights (by omega) (by omega)).trans (tok_narrowWindow t off len (by omega) (by omega))
  rw [tokEff, hr, tokNrights_narrow, tokEff, Nat.and_assoc]

theorem narrow_window (t : Line) (off len rights : Nat) :
    tokLen (narrow t off len rights) = 0 ∨
      (tokNoff t ≤ tokNoff (narrow t off len rights) ∧ tokHi (narrow t off len rights) ≤ tokHi t) := by
  have hnoff : tokNoff (narrow t off len rights) = tokNoff (narrowWindow t off len) := tok_narrow t off len rights (by omega) (by omega)
  have hnlen : tokNlen (narrow t off len rights) = tokNlen (narrowWindow t off len) := tok_narrow t off len rights (by omega) (by omega)
  have hwlen : tokWlen (narrow t off len rights) = tokWlen t :=
    (tok_narrow t off len rights (by omega) (by omega)).trans (tok_narrowWindow t off len (by omega) (by omega))
  have hhi (n : Line) : tokHi n = min (tokWlen n) (tokNoff n + tokNlen n) := rfl
  rw [tokLen, hhi, hhi, hnoff, hnlen, hwlen]
  rcases narrowWindow_within t off len with hempty | ⟨hstart, hend⟩
  · exact .inl (by omega)
  · exact .inr (by omega)

end Sys2Proof.Machine

open Sys2Proof Sys2Proof.Machine

/-- Settles O22: the window by `narrowWindow_within`, the rights by `tokEff_narrow`; every field written lies above the sealed ones. -/
theorem narrowingNeverWidens : Obligations.NarrowingNeverWidens := by
  intro t off len rights n
  refine ⟨narrow_window t off len rights, ?_, ?_⟩
  · rw [show tokEff n = _ from tokEff_narrow t off len rights, Nat.and_right_comm, Nat.and_self]
  · exact (setWidth_setTok _ _ (by omega) (by omega) (by omega)).trans (setWidth_narrowWindow t off len)

end
section
/-! Proofs of the statement on the instructions of route registers (spec/10 R237, R239). -/

namespace Sys2Proof.Machine

theorem rtField_ok {r : Reg} {w : Word} (h : r.toNat < 16) : rtField r w = .ok r.toNat := if_pos h

theorem pairField_ok {n : Reg} {w : Word} (heven : n.toNat % 2 = 0) (h0 : n ≠ 0) : pairField n w = .ok () := by
  refine if_neg ?_
  rintro (hodd | hzero)
  · omega
  · exact h0 hzero

theorem rt_openChunk (s : State) (own : Bool) (n : Nat) : (s.openChunk own).me.rt n = s.me.rt n := by
  rw [Hart.rt, a_openChunk, Hart.rt]

/-- A body that completes with its chunk open and with room (R289). -/
theorem run_stays {s u : State} {body : State → Res} {c : Chunk} (hs : s.calm = true) (hb : body (s.openChunk false) = .ok u)
    (hc : u.me.chunk = some c) (hroom : c.room = true) (hg : u.me.group = none) : s.run .plain body = u.stays s.pc :=
  run_open s .plain body u c hs hb hc hroom hg rfl rfl rfl

theorem setHart_onMe {v : State} {h : Nat} (hv : v.cur = h) (y : Hart) (f : Hart → Hart) :
    (v.setHart h y).onMe f = v.setHart h (f y) := by
  subst hv
  simp only [onMe_eq, me_setHart_self, setHart_cur, setHart_setHart]

/-- The next instruction's state keeps the chunk and the group of the hart that was set. -/
theorem setHart_next_keeps {v : State} {h : Nat} (hv : v.cur = h) (y : Hart) :
    ((v.setHart h y).next 4).me.chunk = y.chunk ∧ ((v.setHart h y).next 4).me.group = y.group := by
  subst hv
  simp only [State.next, onMe_eq, me_setHart_self, setHart_cur, setHart_setHart, Hart.setPc_chunk, Hart.setPc_group, and_self]

/-- A body that changes nothing but its hart, whose chunk it leaves alone. -/
theorem run_onMe_stays {s : State} {body : State → Res} {f : Hart → Hart} (hs : s.calm = true)
    (hb : body (s.openChunk false) = .ok (((s.openChunk false).onMe f).next 4)) (hchunk : ∀ x, (f x).chunk = x.chunk)
    (hgroup : ∀ x, (f x).group = x.group) : s.run .plain body = (((s.openChunk false).onMe f).next 4).stays s.pc := by
  refine run_stays hs hb (c := s.chunkNow false) ?_ (chunkNow_room s false hs) ?_
  · simp [State.next, hchunk, chunk_openChunk]
  · simp [State.next, hgroup, group_openChunk, calm_group hs]

/-! Loading and storing (R237). -/

section
variable {s u : State} {a : Acc} {rt rs1 : Reg} (hs : s.calm = true) (hrt : rt.toNat < 16)
include hs hrt

theorem rtld_stays (h : s.reaches .load 64 (s.x rs1) 64 a u) :
    exec (.rtld rt rs1) s = .next (((((u.readAcc a .scalar).2.onMe
      (·.setRt rt.toNat (BitVec.ofNat 512 (leNat (u.readAcc a .scalar).1)))).next 4).stays s.pc)) := by
  obtain ⟨e, -, -, hkept, hchunk, -, hcur, htimed, hbanks⟩ := reaches_moves h
  obtain ⟨hcheck, hshared, -, -⟩ := h
  have htouch : (u.touchedFor a .scalar).cur = u.cur := (quiet_touchAll u _ _ _).cur
  have hread := readAcc_spec u a .scalar 0 (fun _ => 0) (fun _ => .done) htimed hbanks
  refine congrArg Host.Outcome.next (run_stays hs (c := Chunk.withReads (linesOf (a.locs.filter isHbm)) { s.chunkNow false with ext := e }) ?_ ?_ ?_ ?_)
  · rw [← (SameHart.openChunk s false).who] at hcheck
    simp only [rtField_ok hrt, bind, Except.bind, pure, Except.pure, x_openChunk, hcheck, State.hostAlone, State.hostAfter, hshared,
      Bool.false_and, Bool.false_eq_true, if_false]
  · rw [hread, setHart_onMe htouch]
    exact (setHart_next_keeps htouch _).1.trans (congrArg (Option.map _) hchunk)
  · exact chunkNow_room s false hs
  · rw [hread, setHart_onMe htouch]
    exact (setHart_next_keeps htouch _).2.trans (hkept.group.trans (calm_group hs))

theorem rtst_stays (h : s.reaches .store 64 (s.x rs1) 64 a u) (hroom : s.bufRoom 64 = true) :
    exec (.rtst rt rs1) s = .next
      (((u.writeAcc a (s.x rs1) (leBytes 64 (u.me.rt rt.toNat).toNat) .scalar).next 4).stays s.pc) := by
  obtain ⟨e, -, -, hkept, hchunk, -, hcur, htimed, -⟩ := reaches_moves h
  obtain ⟨hcheck, hshared, -, -⟩ := h
  have hwrite := writeAcc_spec u a (s.x rs1) (leBytes 64 (u.me.rt rt.toNat).toNat) .scalar htimed
  have htouch : (u.touchedFor a .scalar).cur = u.cur := (quiet_touchAll u _ _ _).cur
  have hnow := chunkNow_room s false hs
  simp only [Chunk.room, Bool.and_eq_true, decide_eq_true_eq, Bool.not_eq_true'] at hnow
  obtain ⟨⟨⟨hcount, -⟩, hclose⟩, hwf⟩ := hnow
  refine congrArg Host.Outcome.next (run_stays hs
    (c := Chunk.withStore a.locs (s.x rs1) (leBytes 64 (u.me.rt rt.toNat).toNat) { s.chunkNow false with ext := e }) ?_ ?_ ?_ ?_)
  · rw [← (SameHart.openChunk s false).who] at hcheck
    simp only [rtField_ok hrt, bind, Except.bind, pure, Except.pure, x_openChunk, hcheck, State.hostAlone, State.hostAfter, hshared,
      Bool.false_and, Bool.false_eq_true, if_false]
  · rw [hwrite]
    exact (setHart_next_keeps htouch _).1.trans (congrArg (Option.map _) hchunk)
  · simp only [Chunk.room, Bool.and_eq_true, decide_eq_true_eq, Bool.not_eq_true']
    exact ⟨⟨⟨hcount, withStore_over hs hroom (leBytes_length _ _)⟩, hclose⟩, mapWf_erased _ hwf⟩
  · rw [hwrite]
    exact (setHart_next_keeps htouch _).2.trans (hkept.group.trans (calm_group hs))

end

/-! Narrowing (R237, R391). -/

theorem setRt_chunk (x : Hart) (d : Nat) (v : Line) : (x.setRt d v).chunk = x.chunk := rfl
theorem setRt_group (x : Hart) (d : Nat) (v : Line) : (x.setRt d v).group = x.group := rfl

section
variable {s : State} {d r n : Reg} (hd : d.toNat < 16) (hr : r.toNat < 16) (heven : n.toNat % 2 = 0) (hn : n ≠ 0)
  (hv : (s.x (n + 1)).toNat < 2 ^ 48)
include hd hr heven hn hv

theorem rtnar_stays (hs : s.calm = true) (ht : s.me.rt r.toNat ≠ 0) : exec (.rtnar d r n) s = .next
    ((((s.openChunk false).onMe (·.setRt d.toNat (narrow (s.me.rt r.toNat) (s.x n).toNat ((s.x (n + 1)).toNat % 2 ^ 40)
      ((s.x (n + 1)).toNat / 2 ^ 40)))).next 4).stays s.pc) := by
  have hwide : ¬ (s.x (n + 1)).toNat / 2 ^ 48 ≠ 0 := not_not.mpr (Nat.div_eq_of_lt hv)
  have hrights : field (s.x (n + 1)).toNat 47 40 = (s.x (n + 1)).toNat / 2 ^ 40 := by
    simp only [field, Nat.reduceAdd, Nat.reduceSub]
    omega
  have hlen : field (s.x (n + 1)).toNat 39 0 = (s.x (n + 1)).toNat % 2 ^ 40 := by
    simp only [field, Nat.reduceAdd, Nat.reduceSub]
    omega
  refine congrArg Host.Outcome.next (run_onMe_stays (f := (·.setRt d.toNat (narrow (s.me.rt r.toNat) (s.x n).toNat
    ((s.x (n + 1)).toNat % 2 ^ 40) ((s.x (n + 1)).toNat / 2 ^ 40)))) hs ?_ (fun x => setRt_chunk x _ _) (fun x => setRt_group x _ _))
  simp only [rtField_ok hd, rtField_ok hr, pairField_ok heven hn, bind, Except.bind, pure, Except.pure, x_openChunk, rt_openChunk,
    if_neg hwide, if_neg ht, hrights, hlen]

theorem rtnar_traps (hs : s.loose = true) (ht : s.me.rt r.toNat = 0) :
    ∃ t, exec (.rtnar d r n) s = .next t ∧ Traps Cause.routeTag 0 (r.setWidth 64) s t := by
  have hwide : ¬ (s.x (n + 1)).toNat / 2 ^ 48 ≠ 0 := not_not.mpr (Nat.div_eq_of_lt hv)
  refine ⟨_, rfl, run_error_traps hs ?_⟩
  simp only [rtField_ok hd, rtField_ok hr, pairField_ok heven hn, bind, Except.bind, x_openChunk, rt_openChunk, if_neg hwide, if_pos ht,
    BitVec.ofNat_toNat]
  rfl

end

/-! Sets and fields (R239). -/

theorem distinct_of_nodup {l : List Nat} (h : l.Nodup) : distinct l = true := by
  induction l with
  | nil => rfl
  | cons a l ih =>
    obtain ⟨ha, hl⟩ := List.nodup_cons.mp h
    simp [distinct, ha, ih hl]

/-- The members that RTSET's operand names: entry i has its valid bit at 5i + 4. -/
def setMembers (v : Word) : List Nat :=
  ((List.range 4).filter fun i => v.getLsbD (5 * i + 4)).map fun i => v.toNat / 2 ^ (5 * i) % 16

theorem setMembers_eq (v : Word) :
    (((List.range 4).filter fun i => decide (field v.toNat (5 * i + 4) (5 * i + 4) = 1)).map fun i => field v.toNat (5 * i + 3) (5 * i)) =
      setMembers v := by
  have hbit (i : Nat) : decide (field v.toNat (5 * i + 4) (5 * i + 4) = 1) = v.getLsbD (5 * i + 4) := by
    rw [← BitVec.testBit_toNat, Nat.testBit_eq_decide_div_mod_eq, field, Nat.add_sub_cancel_left, Nat.pow_one]
  have hentry (i : Nat) : field v.toNat (5 * i + 3) (5 * i) = v.toNat / 2 ^ (5 * i) % 16 := by
    rw [field, show 5 * i + 3 + 1 - 5 * i = 4 by omega, show 2 ^ 4 = 16 from rfl]
  simp only [hbit, hentry, setMembers]

/-- The hart with a set of live members in a set register. -/
def setGroup (n : Nat) (ms : List Nat) (x : Hart) : Hart :=
  { x with a := { x.a with rsets := mapPut x.a.rsets n { members := ms, failed := [] } } }

theorem rtset_stays {s : State} {rd rs1 : Reg} (hs : s.calm = true) (hrd : rd.toNat < 4) (hv : (s.x rs1).toNat < 2 ^ 20)
    (hsome : setMembers (s.x rs1) ≠ []) (hdistinct : (setMembers (s.x rs1)).Nodup)
    (hshape : ∀ m ∈ setMembers (s.x rs1), tokShape s.me.ctx (s.me.rt m) = true ∧ tokStripe (s.me.rt m) ≠ 0)
    (hsame : ∀ m ∈ setMembers (s.x rs1), ∀ n ∈ setMembers (s.x rs1), setShape (s.me.rt m) = setShape (s.me.rt n)) :
    exec (.rtset rd rs1) s = .next ((((s.openChunk false).onMe (setGroup rd.toNat (setMembers (s.x rs1)))).next 4).stays s.pc) := by
  have hwide : decide ((s.x rs1).toNat / 2 ^ 20 = 0) = true := decide_eq_true (Nat.div_eq_of_lt hv)
  refine congrArg Host.Outcome.next (run_onMe_stays (f := setGroup rd.toNat (setMembers (s.x rs1))) hs ?_ (fun _ => rfl) (fun _ => rfl))
  simp only [regIn_ok hrd, bind, Except.bind, pure, Except.pure, x_openChunk, setMembers_eq]
  have hrt : (s.openChunk false).me.rt = s.me.rt := funext (rt_openChunk s false)
  rw [hrt, ctx_openChunk]
  generalize setMembers (s.x rs1) = ms at *
  obtain ⟨m, l, rfl⟩ := List.exists_cons_of_ne_nil hsome
  have hshapes : ((m :: l).map s.me.rt).all (tokShape s.me.ctx) = true := by simpa using ⟨(hshape m (by simp)).1, fun k hk => (hshape k (by simp [hk])).1⟩
  have hstripes : ((m :: l).map s.me.rt).all (fun t => decide (tokStripe t ≠ 0)) = true := by
    simpa using ⟨(hshape m (by simp)).2, fun k hk => (hshape k (by simp [hk])).2⟩
  have hequal : ((l.map s.me.rt).all fun u => decide (setShape u = setShape (s.me.rt m))) = true := by
    simpa using fun k hk => hsame k (by simp [hk]) m (by simp)
  simp only [hwide, distinct_of_nodup hdistinct, hshapes, hstripes]
  simp only [List.map_cons, hequal]
  rfl

theorem tok_bit (t : Line) : tok t 330 330 * 2 ^ 24 = if tokC t then 2 ^ 24 else 0 := by
  have hlt : tok t 330 330 < 2 := tok_lt t 330 330
  unfold tokC
  rcases (by omega : tok t 330 330 = 0 ∨ tok t 330 330 = 1) with h | h <;> simp [h]

/-- The field of a token that RTINFO's selector names. -/
def routeInfo (t : Line) : Nat → Nat
  | 0 => tokHops t + tokClass t * 16 + tokEff t * 2 ^ 8 + tokStripe t * 2 ^ 16 + tok t 330 330 * 2 ^ 24
  | 1 => tokNode t
  | 2 => effStart t
  | 3 => effLen t
  | 4 => tokCtx t + tokKeyid t * 2 ^ 16
  | _ => if t = 0 then 1 else 0

theorem rtinfo_writes {s : State} {rd r : Reg} {k : Nat} (hs : s.calm = true) (hr : r.toNat < 16) (hk : k < 6) :
    ∃ u, exec (.rtinfo rd r (BitVec.ofNat 5 k)) s = .next u ∧ WritesX rd (BitVec.ofNat 64 (routeInfo (s.me.rt r.toNat) k)) 4 s u := by
  have hsel : (BitVec.ofNat 5 k).toNat = k := by rw [BitVec.toNat_ofNat]; omega
  refine ⟨_, rfl, run_setX_writesX hs ?_⟩
  simp only [rtField_ok hr, regIn_ok (hsel.symm ▸ hk), hsel, bind, Except.bind, pure, Except.pure, rt_openChunk]
  rcases k with _ | _ | _ | _ | _ | k <;> rfl

end Sys2Proof.Machine

open Sys2Proof Sys2Proof.Machine

theorem routeLoadStore : Clause.RouteLoadStore := fun _ _ _ _ _ hs hrt => ⟨rtld_stays hs hrt, rtst_stays hs hrt⟩

theorem routeNarrowing : Clause.RouteNarrowing := fun _ _ _ _ hd hr heven hn hv =>
  ⟨rtnar_stays hd hr heven hn hv, rtnar_traps hd hr heven hn hv⟩

theorem routeSetsAndFields : Clause.RouteSetsAndFields := by
  intro s hs
  refine ⟨fun rd rs1 hrd hv hsome hd hshape hsame => rtset_stays hs hrd hv hsome hd hshape hsame, fun rd r hr => ?_⟩
  have hinfo (k : Nat) (hk : k < 6) := rtinfo_writes (rd := rd) hs hr hk
  simp only [List.forall_mem_cons, List.not_mem_nil, false_implies, implies_true, and_true]
  refine ⟨?_, hinfo 1 (by decide), hinfo 2 (by decide), hinfo 3 (by decide), hinfo 4 (by decide), hinfo 5 (by decide)⟩
  rw [← tok_bit]
  exact hinfo 0 (by decide)

/-- Settles O23: what each instruction writes of its hart, in a chunk that keeps room. -/
theorem routeRegisters : Obligations.RouteRegisters := ⟨routeLoadStore, routeNarrowing, routeSetsAndFields⟩

end
section
/-! Proofs of the statements on the remote instructions (spec/10 R234-R243). -/

namespace Sys2Proof.Machine

/-! What a chunk that opens leaves of the operations that a hart awaits. -/

theorem unacked_openChunk {s : State} (hs : s.solo = true) (own : Bool) (mask : Nat) :
    (s.openChunk own).unacked (s.openChunk own).cur mask = s.unacked s.cur mask := by
  rw [openChunk_solo hs]
  simp only [State.unacked, State.ownPacket, State.replicas, State.groupOf, setHart_cur, hart_setHart_self, setHart_packets, setHart_jobs,
    setHart_dev, setHart_groups]
  rfl

theorem deferred_openChunk {s : State} (hs : s.solo = true) (own : Bool) : (s.openChunk own).me.deferred = s.me.deferred := by
  rw [openChunk_solo hs, me_setHart_self]

/-! A waiting operation (R241). -/

section
variable {b t u : State} {start : State → Except Exc (Nat × State)}
  {finish : Packet → RemoteAnswer → State → Except Exc (List Word × State)} {tag : Nat} {p : Packet} {a : RemoteAnswer} {v : List Word}

theorem awaitReply_idle (hi : b.idle) (hstart : start b = .ok (tag, t)) :
    b.awaitReply start finish = .error (.become (t.parkOn (.reply tag))) := by
  unfold State.awaitReply
  rw [show (b.packets.find? fun p => b.ownPacket b.cur p && p.op.waits) = none from hi, hstart]
  rfl

theorem awaitReply_replied (hr : b.replied p a) (hfinish : finish p a (b.takeReply p) = .ok (v, u)) :
    b.awaitReply start finish = .ok (v, u) := by
  obtain ⟨hfind, hback, hanswer⟩ := hr
  unfold State.awaitReply
  simp only [hfind, hback, hanswer, Option.getD_some, ne_eq, not_true_eq_false, if_false]
  rw [show finish p a { b with packets := b.packets.filter fun q => decide (q.tag ≠ p.tag) } = .ok (v, u) from hfinish]

end

section
variable {s t u : State} {body : State → Res} {start : State → Except Exc (Nat × State)} {deliver : List Word → State → Res}
  {finish : Packet → RemoteAnswer → State → Except Exc (List Word × State)} {tag : Nat} {p : Packet} {a : RemoteAnswer} {v : List Word}
  (hs : s.solo = true)
  (hbody : body (s.openChunk true) = forwarded (s.openChunk true) 0 (fun b => b.awaitReply start finish) deliver)
include hs hbody

/-- With no operation awaited, the packet leaves and the hart parks for its reply. -/
theorem run_home_parks (hi : (s.openChunk true).idle) (hstart : start (s.openChunk true) = .ok (tag, t)) :
    s.run .home body = t.parkOn (.reply tag) :=
  (run_handles (sh := .home) hs (hbody.trans (forwarded_fails hs (awaitReply_idle hi hstart)))).trans rfl

/-- A reply that has come back is delivered. -/
theorem run_home_replied {w : State} (hr : (s.openChunk true).replied p a)
    (hfinish : finish p a ((s.openChunk true).takeReply p) = .ok (v, u)) (hdeliver : deliver v u = .ok w) :
    s.run .home body = w.ends s.pc :=
  run_alone hs (hbody.trans ((forwarded_performs hs (awaitReply_replied hr hfinish)).trans hdeliver)) rfl rfl

/-- A reply that has come back and whose delivery traps. -/
theorem run_home_fails {e : Exc} (hr : (s.openChunk true).replied p a)
    (hfinish : finish p a ((s.openChunk true).takeReply p) = .ok (v, u)) (hdeliver : deliver v u = .error e) :
    s.run .home body = s.handle e :=
  run_handles hs (hbody.trans ((forwarded_performs hs (awaitReply_replied hr hfinish)).trans hdeliver))

end

/-! Remote loads and stores (R240). -/

section
variable {s : State} {w : Word} {n : Nat} {rd r rs2 : Reg} (hs : s.solo = true) (hr : r.toNat < 16)
include hs hr

theorem rld_parks (hi : (s.openChunk true).idle)
    (hcheck : (s.openChunk true).checkRoute r.toNat [0, 1] .load (s.x rs2).toNat n n (s.openChunk true).phaseBad = .ok ()) :
    rld s w n rd r rs2 = ((s.openChunk true).send r.toNat (.load n rd) (s.x rs2).toNat n []).2.parkOn
      (.reply ((s.openChunk true).send r.toNat (.load n rd) (s.x rs2).toNat n []).1) := by
  refine run_home_parks hs (bind_of_ok (rtField_ok hr) rfl) hi ?_
  simp only [hcheck, bind, Except.bind]
  rfl

theorem rld_ends {k : Packet} {bytes : List Byte} (hk : (s.openChunk true).replied k (.bytes bytes)) :
    rld s w n rd r rs2 = (((((s.openChunk true).takeReply k).setX rd (if n = 4 then
      ((fromBytes false 8 (bytes.take 8)).setWidth 32).signExtend 64 else fromBytes false 8 (bytes.take 8))).next 4).ends s.pc) := by
  refine run_home_replied hs (bind_of_ok (rtField_ok hr) rfl) hk rfl rfl

theorem rst_ends
    (hcheck : (s.openChunk true).checkRoute r.toNat [0, 1] .store (s.x rs2).toNat n n (s.openChunk true).phaseBad = .ok ()) :
    rst s w n rd r rs2 =
      ((((s.openChunk true).send r.toNat .store (s.x rs2).toNat n (leBytes n (s.x rd).toNat)).2.next 4).ends s.pc) := by
  refine run_alone hs (bind_of_ok (rtField_ok hr) ((forwarded_performs (own := true) (v := []) hs ?_).trans rfl)) rfl rfl
  exact bind_of_ok hcheck rfl

end

/-! Remote enqueues (R240, R287). -/

section
variable {s : State} {rd r rs2 : Reg} (hs : s.solo = true) (hr : r.toNat < 16)
include hs hr

section
variable (hi : (s.openChunk true).idle)
  (hcheck : (s.openChunk true).checkRoute r.toNat [2] .enqueue 0 0 1 (s.openChunk true).phaseBad = .ok ())
include hi hcheck

theorem renq_parks (hn : tokWlen (s.me.rt r.toNat) = 8) :
    exec (.renq rd r rs2) s = .next (((s.openChunk true).send r.toNat (.enq rd) 0 8 (leBytes 8 (s.x rs2).toNat)).2.parkOn
      (.reply ((s.openChunk true).send r.toNat (.enq rd) 0 8 (leBytes 8 (s.x rs2).toNat)).1)) := by
  refine congrArg Host.Outcome.next (run_home_parks hs (bind_of_ok (rtField_ok hr) rfl) hi ?_)
  simp only [hcheck, bind, Except.bind, rt_openChunk, hn, if_true]
  rfl

theorem renqm_parks {e : List Byte} {a : Acc} {u : State} (hpos : 0 < (s.x rd).toNat)
    (hload : (s.openChunk true).load 8 (s.x rs2) (Nat.min (s.x rd).toNat 64 * tokWlen (s.me.rt r.toNat)) = .ok (e, a, u)) :
    exec (.renqm rd r rs2) s = .next
      ((u.send r.toNat (.enqm rd (Nat.min (s.x rd).toNat 64)) 0 (tokWlen (s.me.rt r.toNat)) e).2.parkOn
        (.reply (u.send r.toNat (.enqm rd (Nat.min (s.x rd).toNat 64)) 0 (tokWlen (s.me.rt r.toNat)) e).1)) := by
  have hcount : Nat.min (s.x rd).toNat 64 ≠ 0 := (Nat.lt_min.mpr ⟨hpos, by decide⟩).ne'
  refine congrArg Host.Outcome.next (run_home_parks hs (bind_of_ok (rtField_ok hr) rfl) hi ?_)
  simp only [hcheck, bind, Except.bind, rt_openChunk, hload, if_neg hcount, Except.map]
  rfl

end

variable {p : Packet} {v : Word} (hp : (s.openChunk true).replied p (.performed v))
include hp

theorem renq_ends : exec (.renq rd r rs2) s = .next (((((s.openChunk true).takeReply p).setX rd v).next 4).ends s.pc) := by
  refine congrArg Host.Outcome.next (run_home_replied hs (bind_of_ok (rtField_ok hr) rfl) hp rfl rfl)

theorem renqm_ends : exec (.renqm rd r rs2) s = .next (((((s.openChunk true).takeReply p).setX rd v).next 4).ends s.pc) := by
  refine congrArg Host.Outcome.next (run_home_replied hs (bind_of_ok (rtField_ok hr) rfl) hp rfl rfl)

end

/-! Remote atomics (R240, R198). -/

theorem exec_ramo : ∀ p ∈ ramoForms, ∀ (size : BitVec 1) (rd r n : Reg) (s : State),
    exec (p.1 size rd r n) s = .next (ramo s (bitsOf (p.1 size rd r n)) p.2 size rd r n) := by
  simp only [ramoForms, List.forall_mem_cons, List.not_mem_nil, false_implies, implies_true, and_true]
  exact ⟨fun _ _ _ _ _ => rfl, fun _ _ _ _ _ => rfl, fun _ _ _ _ _ => rfl, fun _ _ _ _ _ => rfl, fun _ _ _ _ _ => rfl, fun _ _ _ _ _ => rfl,
    fun _ _ _ _ _ => rfl, fun _ _ _ _ _ => rfl, fun _ _ _ _ _ => rfl, fun _ _ _ _ _ => rfl, fun _ _ _ _ _ => rfl, fun _ _ _ _ _ => rfl,
    fun _ _ _ _ _ => rfl⟩

theorem amoExt_amoOperand (size : BitVec 1) (v : Word) : amoExt size (amoOperand size v) = amoExt size v := by
  unfold amoExt amoOperand
  split
  · rw [BitVec.setWidth_setWidth_of_le _ (by decide), BitVec.setWidth_eq]
  · rfl

section
variable {s : State} {w : Word} {op : Nat} {size : BitVec 1} {rd r n : Reg} (hs : s.solo = true) (hr : r.toNat < 16)
  (heven : n.toNat % 2 = 0) (hn : n ≠ 0)
include hs hr heven hn

theorem ramo_parks (hi : (s.openChunk true).idle) (hcheck : (s.openChunk true).checkRoute r.toNat [0, 1] .atomic (s.x n).toNat
      (amoBytes size) (amoBytes size) (s.openChunk true).phaseBad = .ok ()) :
    let q := (s.openChunk true).send r.toNat (.amo op (amoBytes size) rd (amoOperand size (s.x rd))) (s.x n).toNat (amoBytes size)
      (leBytes (amoBytes size) (amoOperand size (s.x (n + 1))).toNat)
    ramo s w op size rd r n = q.2.parkOn (.reply q.1) := by
  refine run_home_parks hs (bind_of_ok (rtField_ok hr) (bind_of_ok (pairField_ok heven hn) rfl)) hi ?_
  simp only [and_low_eq]
  simp only [amoWidth_eq, hcheck, bind, Except.bind]
  rfl

section
variable {k : Packet} {old : Word} (hk : (s.openChunk true).replied k (.performed old))
include hk

theorem ramo_ends
    (hflags : (amoNew op (amoBytes size) (amoOperand size old) (amoOperand size (s.x (n + 1))) (amoOperand size (s.x rd))).2.setWidth 64 &&&
      s.csr Csr.ftrapen = 0) :
    ramo s w op size rd r n = ((((((s.openChunk true).takeReply k).setX rd (amoExt size old)).orFlags
      (amoNew op (amoBytes size) (amoOperand size old) (amoOperand size (s.x (n + 1))) (amoOperand size (s.x rd))).2).next 4).ends s.pc) := by
  refine run_home_replied hs (bind_of_ok (rtField_ok hr) (bind_of_ok (pairField_ok heven hn) rfl)) hk rfl ?_
  simp only [and_low_eq, amoExt_eq, List.headD_cons, amoExt_amoOperand]
  simp only [amoWidth_eq]
  rw [← csr_openChunk s true] at hflags
  exact if_neg (not_not.mpr hflags)

theorem ramo_raises
    (hflags : (amoNew op (amoBytes size) (amoOperand size old) (amoOperand size (s.x (n + 1))) (amoOperand size (s.x rd))).2.setWidth 64 &&&
      s.csr Csr.ftrapen ≠ 0) :
    ramo s w op size rd r n = (((s.openChunk true).takeReply k).orFlags
      (amoNew op (amoBytes size) (amoOperand size old) (amoOperand size (s.x (n + 1))) (amoOperand size (s.x rd))).2).raise
        Cause.fpTrap (s.x n) 0 := by
  refine (run_home_fails hs (bind_of_ok (rtField_ok hr) (bind_of_ok (pairField_ok heven hn) rfl)) hk rfl (e := .trapIn (((s.openChunk true).takeReply k).orFlags
    (amoNew op (amoBytes size) (amoOperand size old) (amoOperand size (s.x (n + 1))) (amoOperand size (s.x rd))).2)
      Cause.fpTrap (s.x n) 0) ?_).trans rfl
  simp only [and_low_eq, List.headD_cons, BitVec.ofNat_toNat, BitVec.setWidth_eq]
  simp only [amoWidth_eq]
  rw [← csr_openChunk s true] at hflags
  exact if_pos hflags

end
end

/-! Waiting for acknowledgements, and delegation (R238, R242, R243). -/

section
variable {s : State} {rs1 : Reg} (hs : s.solo = true) (hv : (s.x rs1).toNat < 2 ^ 16)

/-- The route registers that RFENCE names. -/
def fenceMask (v : Word) : Nat := if v = 0 then 0xFFFF else v.toNat

theorem fenceMask_eq (v : Word) : (if v.toNat = 0 then 0xFFFF else v.toNat) = fenceMask v := by
  simp only [fenceMask, ← BitVec.toNat_inj]
  rfl

include hs hv

theorem rfence_fails {e : Exc} (hd : (s.openChunk false).drainRemote (fenceMask (s.x rs1)) = .error e) :
    exec (.rfence rs1) s = .next (s.handle e) := by
  refine congrArg Host.Outcome.next (run_handles hs ?_)
  simp only [Nat.div_eq_of_lt hv, ne_eq, not_true_eq_false, if_false, fenceMask_eq, bind, Except.bind, pure, Except.pure]
  rw [show Shape.last.own = false from rfl, hd]

theorem rfence_ends (hd : (s.openChunk false).drainRemote (fenceMask (s.x rs1)) = .ok ()) :
    exec (.rfence rs1) s = .next (((s.openChunk false).next 4).ends s.pc) := by
  refine congrArg Host.Outcome.next (run_alone hs ?_ rfl rfl)
  simp only [Nat.div_eq_of_lt hv, ne_eq, not_true_eq_false, if_false, fenceMask_eq, bind, Except.bind, pure, Except.pure]
  rw [show Shape.last.own = false from rfl, hd]

end

section
variable {b : State} {mask : Nat}

theorem drainRemote_parks (hu : b.unacked b.cur mask = true) : b.drainRemote mask = .error (.park (.acks mask)) := if_pos hu

theorem drainRemote_uncovered (hu : b.unacked b.cur mask = false) (hd : ∀ e, b.me.deferred = some e → mask / 2 ^ e.rt % 2 = 0) :
    b.drainRemote mask = .ok () := by
  unfold State.drainRemote
  rw [if_neg (by simp [hu])]
  cases he : b.me.deferred with
  | none => rfl
  | some e => exact if_neg (by simp [hd e he])

theorem drainRemote_raises {e : RouteErr} (hu : b.unacked b.cur mask = false) (he : b.me.deferred = some e) (hcovers : mask / 2 ^ e.rt % 2 = 1) :
    b.drainRemote mask = .error (.trapIn (b.onMe fun x => { x with deferred := none }) e.cause e.off (BitVec.ofNat 64 e.rt)) := by
  unfold State.drainRemote
  rw [if_neg (by simp [hu]), he]
  exact if_pos hcovers

end

section
variable {s : State} {d r rs2 : Reg} (hs : s.solo = true) (hd : d.toNat < 16) (hr : r.toNat < 16)
include hs hd hr

theorem rtdlg_parks (hi : (s.openChunk true).idle) (hzero : (s.x rs2).toNat / 2 ^ 14 % 4 = 0) (hv : (s.x rs2).toNat < 2 ^ 17)
    (hshape : tokShape s.me.ctx (s.me.rt r.toNat) = true) (hright : (tokEff (s.me.rt r.toNat)).testBit 5 = true) :
    let q := (s.openChunk true).send r.toNat (.delegate d ((s.x rs2).toNat % 2 ^ 14) (decide ((s.x rs2).toNat / 2 ^ 16 = 1))) 0 0 []
    exec (.rtdlg d r rs2) s = .next (({ q.2 with packets := q.2.packets.map fun p =>
      if p.tag = q.1 then { p with at_ := .target } else p } : State).parkOn (.reply q.1)) := by
  refine congrArg Host.Outcome.next (run_home_parks hs (bind_of_ok (rtField_ok hd) (bind_of_ok (rtField_ok hr) rfl)) hi ?_)
  · have hreserved : ¬ (field (s.x rs2).toNat 15 14 ≠ 0 ∨ (s.x rs2).toNat / 2 ^ 17 ≠ 0) := by
      rintro (h | h)
      · exact h hzero
      · exact h (Nat.div_eq_of_lt hv)
    have htype : field (s.x rs2).toNat 13 0 = (s.x rs2).toNat % 2 ^ 14 := by
      simp only [field, Nat.reduceAdd, Nat.reduceSub]
      omega
    have hagain : field (s.x rs2).toNat 16 16 = (s.x rs2).toNat / 2 ^ 16 := by
      simp only [field, Nat.reduceAdd, Nat.reduceSub]
      omega
    have hdelegate : ¬ tokEff (s.me.rt r.toNat) / 32 % 2 = 0 := by
      rw [Nat.testBit_eq_decide_div_mod_eq, decide_eq_true_eq] at hright
      omega
    simp only [x_openChunk, rt_openChunk, ctx_openChunk, hshape, if_neg hreserved, if_neg hdelegate, Bool.not_true, Bool.false_eq_true, if_false, htype,
      hagain, bind, Except.bind]
    rfl

theorem rtdlg_ends {k : Packet} {bytes : List Byte} (hk : (s.openChunk true).replied k (.bytes bytes)) (hlen : bytes.length = 64) :
    exec (.rtdlg d r rs2) s = .next
      (((((s.openChunk true).takeReply k).onMe (·.setRt d.toNat (BitVec.ofNat 512 (leNat bytes)))).next 4).ends s.pc) := by
  refine congrArg Host.Outcome.next (run_home_replied hs (bind_of_ok (rtField_ok hd) (bind_of_ok (rtField_ok hr) rfl)) hk rfl ?_)
  rw [ofDwords_dwords (n := 8) hlen]

end

/-! The local checks (R234). -/

section
variable {b : State} {r o n : Nat} {phase : Bool}

theorem checkRoute_shape (h : tokShape b.me.ctx (b.me.rt r) = false) :
    b.checkRoute r [0, 1] .store o n n phase = .error (.trap Cause.routeTag 0 (BitVec.ofNat 64 r)) := by
  simp only [State.checkRoute, h]
  rfl

variable (hshape : tokShape b.me.ctx (b.me.rt r) = true) (hclass : tokClass (b.me.rt r) = 0 ∨ tokClass (b.me.rt r) = 1)
include hshape hclass

theorem checkRoute_right (h : (tokEff (b.me.rt r)).testBit 1 = false) :
    b.checkRoute r [0, 1] .store o n n phase = .error (.trap Cause.permission 0 (BitVec.ofNat 64 r)) := by
  have hin : ¬ tokClass (b.me.rt r) ∉ [0, 1] := by simpa [or_iff_not_imp_left] using hclass
  have hright : tokEff (b.me.rt r) / 2 ^ Right.store.bit % 2 = 0 := by
    rw [Nat.testBit_eq_decide_div_mod_eq, decide_eq_false_iff_not] at h
    have := Nat.mod_two_eq_zero_or_one (tokEff (b.me.rt r) / 2 ^ 1)
    exact this.resolve_right h
  simp only [State.checkRoute, hshape, if_neg hin, if_pos hright]
  rfl

theorem checkRoute_window (h : (tokEff (b.me.rt r)).testBit 1 = true) (hwindow : ¬ tokNoff (b.me.rt r) + o + n ≤ tokHi (b.me.rt r)) :
    b.checkRoute r [0, 1] .store o n n phase = .error (.trap Cause.routeWindow (BitVec.ofNat 64 o) (BitVec.ofNat 64 r)) := by
  have hin : ¬ tokClass (b.me.rt r) ∉ [0, 1] := by simpa [or_iff_not_imp_left] using hclass
  have hright : ¬ tokEff (b.me.rt r) / 2 ^ Right.store.bit % 2 = 0 := by
    rw [Nat.testBit_eq_decide_div_mod_eq, decide_eq_true_eq] at h
    exact fun h0 => absurd (h.symm.trans h0) (by decide)
  have hsealed : tokClass (b.me.rt r) ≠ 2 := by omega
  simp only [State.checkRoute, hshape, if_neg hin, if_neg hright, if_pos hsealed, if_pos hwindow]
  rfl

end

theorem rst_traps {s : State} {w : Word} {n : Nat} {rd r rs2 : Reg} {cause : Nat} {tval : Word} (hs : s.loose = true) (hr : r.toNat < 16)
    (hcheck : (s.openChunk true).checkRoute r.toNat [0, 1] .store (s.x rs2).toNat n n (s.openChunk true).phaseBad =
      .error (.trap cause tval (BitVec.ofNat 64 r.toNat))) :
    Traps cause tval (r.setWidth 64) s (rst s w n rd r rs2) := by
  rw [BitVec.ofNat_toNat] at hcheck
  refine run_error_traps hs (bind_of_ok (rtField_ok hr) ?_)
  refine forwarded_error ((group_openChunk s true).trans (calm_group (loose_calm hs))) ?_
  rw [show Shape.home.own = true from rfl, hcheck]
  rfl

end Sys2Proof.Machine

open Sys2Proof Sys2Proof.Machine

theorem remoteLoads : Clause.RemoteLoads := by
  simp only [Clause.RemoteLoads, List.forall_mem_cons, List.not_mem_nil, false_implies, implies_true, and_true]
  exact ⟨fun _ _ _ _ hs hr => ⟨fun hi hc => congrArg Host.Outcome.next (rld_parks hs hr hi hc),
      fun _ _ hk => congrArg Host.Outcome.next (rld_ends hs hr hk)⟩,
    fun _ _ _ _ hs hr => ⟨fun hi hc => congrArg Host.Outcome.next (rld_parks hs hr hi hc),
      fun _ _ hk => congrArg Host.Outcome.next (rld_ends hs hr hk)⟩⟩

theorem remoteStores : Clause.RemoteStores := by
  simp only [Clause.RemoteStores, List.forall_mem_cons, List.not_mem_nil, false_implies, implies_true, and_true]
  exact ⟨fun _ _ _ _ hs hr hc => congrArg Host.Outcome.next (rst_ends hs hr hc),
    fun _ _ _ _ hs hr hc => congrArg Host.Outcome.next (rst_ends hs hr hc)⟩

/-- Settles O24: a load's two turns, before and after its reply, and the posted store. -/
theorem remoteLoadsAndStores : Obligations.RemoteLoadsAndStores := ⟨remoteLoads, remoteStores⟩

theorem remoteEnqueues : Clause.RemoteEnqueues := fun _ _ _ _ hs hr =>
  ⟨fun hi hc => ⟨renq_parks hs hr hi hc, fun _ _ _ hpos hload => renqm_parks hs hr hi hc hpos hload⟩,
    fun _ _ hp => ⟨renq_ends hs hr hp, renqm_ends hs hr hp⟩⟩

theorem remoteAtomics : Clause.RemoteAtomics := by
  intro p hp s size rd r n hs hr heven hn
  rw [exec_ramo p hp]
  exact ⟨fun hi hc => congrArg Host.Outcome.next (ramo_parks hs hr heven hn hi hc), fun _ _ hk =>
    ⟨fun hf => congrArg Host.Outcome.next (ramo_ends hs hr heven hn hk hf), fun hf => congrArg Host.Outcome.next (ramo_raises hs hr heven hn hk hf)⟩⟩

/-- Settles O25: an operation's two turns, before and after its reply. -/
theorem remoteEnqueuesAndAtomics : Obligations.RemoteEnqueuesAndAtomics := ⟨remoteEnqueues, remoteAtomics⟩

theorem remoteFence : Clause.RemoteFence := by
  intro s rs1 hs hv
  have hacks (mask : Nat) := unacked_openChunk hs false mask
  have hdeferred := deferred_openChunk hs false
  exact ⟨fun hu => rfence_fails hs hv (drainRemote_parks ((hacks _).trans hu)), fun hu =>
    ⟨fun hd => rfence_ends hs hv (drainRemote_uncovered ((hacks _).trans hu) (hdeferred ▸ hd)),
      fun e he hc => rfence_fails hs hv (drainRemote_raises ((hacks _).trans hu) (hdeferred.trans he) hc)⟩⟩

theorem routeDelegation : Clause.RouteDelegation := fun _ _ _ _ hs hd hr =>
  ⟨fun hi hz hv ht he => rtdlg_parks hs hd hr hi hz hv ht he, fun _ _ hk hlen => rtdlg_ends hs hd hr hk hlen⟩

/-- Settles O26: the fence by what it finds unacknowledged or deferred, and a delegation's two turns. -/
theorem remoteFenceAndDelegation : Obligations.RemoteFenceAndDelegation := ⟨remoteFence, routeDelegation⟩

/-- The traps of a remote store of n bytes by its local checks (R234). -/
theorem rst_check_traps {s : State} {w : Word} (n : Nat) {rd r rs2 : Reg} (hs : s.loose = true) (hr : r.toNat < 16) :
    (tokShape s.me.ctx (s.me.rt r.toNat) = false → Traps Cause.routeTag 0 (r.setWidth 64) s (rst s w n rd r rs2)) ∧
    (tokShape s.me.ctx (s.me.rt r.toNat) = true → tokClass (s.me.rt r.toNat) = 0 ∨ tokClass (s.me.rt r.toNat) = 1 →
      ((tokEff (s.me.rt r.toNat)).testBit 1 = false → Traps Cause.permission 0 (r.setWidth 64) s (rst s w n rd r rs2)) ∧
      ((tokEff (s.me.rt r.toNat)).testBit 1 = true → ¬ tokNoff (s.me.rt r.toNat) + (s.x rs2).toNat + n ≤ tokHi (s.me.rt r.toNat) →
        Traps Cause.routeWindow (s.x rs2) (r.setWidth 64) s (rst s w n rd r rs2))) := by
  rw [← ctx_openChunk s true, ← rt_openChunk s true]
  refine ⟨fun h => rst_traps hs hr (checkRoute_shape h), fun ht hc =>
    ⟨fun he => rst_traps hs hr (checkRoute_right ht hc he), fun he hw => rst_traps hs hr ?_⟩⟩
  rw [checkRoute_window ht hc he hw, BitVec.ofNat_toNat, BitVec.setWidth_eq]

/-- Settles O27: the first check that fails is the trap that is taken, before any packet is made. -/
theorem routeChecksTrap : Obligations.RouteChecksTrap := by
  simp only [Obligations.RouteChecksTrap, List.forall_mem_cons, List.not_mem_nil, false_implies, implies_true, and_true]
  have traps {n : Nat} {s : State} {w : Word} {rd r rs2 : Reg} (hs : s.loose = true) (hr : r.toNat < 16) :=
    rst_check_traps (w := w) (rd := rd) (rs2 := rs2) n hs hr
  exact ⟨fun _ _ _ _ hs hr => ⟨fun h => ⟨_, rfl, (traps hs hr).1 h⟩, fun ht hc =>
      ⟨fun he => ⟨_, rfl, ((traps hs hr).2 ht hc).1 he⟩, fun he hw => ⟨_, rfl, ((traps hs hr).2 ht hc).2 he hw⟩⟩⟩,
    fun _ _ _ _ hs hr => ⟨fun h => ⟨_, rfl, (traps hs hr).1 h⟩, fun ht hc =>
      ⟨fun he => ⟨_, rfl, ((traps hs hr).2 ht hc).1 he⟩, fun he hw => ⟨_, rfl, ((traps hs hr).2 ht hc).2 he hw⟩⟩⟩⟩

end
section
/-! Proofs of the statements on timed instructions (spec/10 R252-R259). -/

namespace Sys2Proof.Machine

/-! An instruction that changes nothing but registers of its hart. -/

/-- Of what an instruction may read of a hart, `q` differs from `p` only in the registers of `w`. -/
structure Hart.Writes (w : Foot) (p q : Hart) : Prop where
  pc : q.a.pc = p.a.pc
  x : ∀ r, r ∉ w.xs → q.x r = p.x r
  f : ∀ r, r ∉ w.fs → q.f r = p.f r
  csr : ∀ n, n ∉ w.csrs → q.csr n = p.csr n
  rt : q.a.rt = p.a.rt
  rsets : q.a.rsets = p.a.rsets
  mode : q.a.mode = p.a.mode
  s0 : w.rng = false → q.a.s0 = p.a.s0
  s1 : w.rng = false → q.a.s1 = p.a.s1
  ctx : q.ctx = p.ctx
  asid : q.asid = p.asid
  status : q.status = p.status
  group : q.group = p.group
  chunk : q.chunk = p.chunk
  lspOld : q.lspOld = p.lspOld

theorem Hart.Writes.refl (w : Foot) (x : Hart) : Hart.Writes w x x :=
  ⟨rfl, fun _ _ => rfl, fun _ _ => rfl, fun _ _ => rfl, rfl, rfl, rfl, fun _ => rfl, fun _ => rfl, rfl, rfl, rfl, rfl, rfl, rfl⟩

/-- A CSR more. -/
theorem Hart.Writes.setCsr {w : Foot} {p q : Hart} {n : Nat} (h : Hart.Writes w p q) (hwf : mapWf 0 q.a.csr = true) (hn : n ∈ w.csrs) (v : Word) :
    Hart.Writes w p (q.setCsr n v) :=
  { h with csr := fun m hm => (q.csr_setCsr_ne v hwf (ne_of_mem_of_not_mem hn hm).symm).trans (h.csr m hm) }

/-- An integer register more. -/
theorem Hart.Writes.setX {w : Foot} {p q : Hart} {rd : Reg} (h : Hart.Writes w p q) (hx : mapWf 0 q.a.x = true) (hcsr : mapWf 0 q.a.csr = true)
    (hxs : rd ≠ 0 → rd ∈ w.xs) (hldst : rd ≠ 0 → Csr.ldst ∈ w.csrs) (v : Word) : Hart.Writes w p (q.setX rd v) := by
  by_cases h0 : rd = 0
  · rw [h0, Hart.setX_zero]
    exact h
  · refine ⟨?_, fun r hr => ?_, fun r hr => ?_, fun n hn => ?_, ?_, ?_, ?_, fun hw => ?_, fun hw => ?_, ?_, ?_, ?_, ?_, ?_, ?_⟩
    · rw [Hart.setX_a_pc, h.pc]
    · rw [Hart.x_setX_ne _ _ hx (ne_of_mem_of_not_mem (hxs h0) hr).symm, h.x r hr]
    · rw [Hart.f_setX, h.f r hr]
    · rw [Hart.csr_setX_ne _ _ _ hcsr (ne_of_mem_of_not_mem (hldst h0) hn).symm, h.csr n hn]
    · simpa using h.rt
    · simpa using h.rsets
    · simpa using h.mode
    · simpa using h.s0 hw
    · simpa using h.s1 hw
    · simpa using h.ctx
    · simpa using h.asid
    · simpa using h.status
    · simpa using h.group
    · simpa using h.chunk
    · simpa using h.lspOld

/-- What such an instruction leaves. -/
theorem run_writes {s : State} {w : Foot} {body : State → Res} {f : Hart → Hart} (hs : s.calm = true)
    (hb : body (s.openChunk false) = .ok (((s.openChunk false).onMe f).next 4))
    (hf : Hart.Writes w (s.me.inChunk (s.chunkNow false)) (f (s.me.inChunk (s.chunkNow false)))) :
    Retired (s.pc + 4) s (s.run .plain body) ∧ SameRegs w s (s.run .plain body) ∧ SameRest s (s.run .plain body) ∧
      (∀ r, (s.run .plain body).x r = (f (s.me.inChunk (s.chunkNow false))).x r) ∧
      (∀ n, (s.run .plain body).csr n = (f (s.me.inChunk (s.chunkNow false))).csr n) ∧
      ∃ q, (s.run .plain body).me.a = { ((f (s.me.inChunk (s.chunkNow false))).setPc (s.pc + 4)).a with seq := q } := by
  have ho := HartOnly.openChunk s false
  have hnext : ((s.openChunk false).onMe f).next 4 =
      (s.openChunk false).setHart s.cur ((fun x => (f x).setPc ((f x).a.pc + 4)) (s.openChunk false).me) := by
    rw [State.next, ← cur_openChunk s false]
    simp only [onMe_eq, setHart_cur, me_setHart_self, setHart_setHart]
    rfl
  obtain ⟨k, h⟩ := run_hart s .plain body (fun x => (f x).setPc ((f x).a.pc + 4)) hs (hb.trans (congrArg Except.ok hnext))
    hf.chunk (hf.group.trans (calm_group hs)) rfl rfl rfl
  rw [show Shape.plain.own = false from rfl, show (f (s.me.inChunk (s.chunkNow false))).a.pc = s.pc from hf.pc] at h
  obtain ⟨hret, hx, hfr, hcsr, ⟨q, ha⟩, hctx, hasid, -⟩ := h.moves.reads (c := s.chunkNow false)
    (by rw [Hart.setPc_chunk, hf.chunk]; rfl) (chunkNow_count s false) (by rw [Hart.setPc_status, hf.status]; exact calm_running hs)
  refine ⟨hret, ⟨h.cur, fun r hr => ?_, fun r hr => ?_, fun n hn => ?_, ?_, ?_, ?_, fun hw => ?_, fun hw => ?_, ?_, ?_⟩,
    h.sameRest (fun loc b => ?_) ?_ ?_, fun r => ?_, fun n => ?_, q, ha⟩
  · rw [hx, Hart.x_setPc, hf.x r hr]; rfl
  · rw [hfr, Hart.f_setPc, hf.f r hr]; rfl
  · rw [hcsr, Hart.csr_setPc, hf.csr n hn]; rfl
  · rw [ha]; exact hf.rt
  · rw [ha]; exact hf.rsets
  · rw [ha]; exact hf.mode
  · rw [ha]; exact hf.s0 hw
  · rw [ha]; exact hf.s1 hw
  · rw [hctx]; exact hf.ctx
  · rw [hasid]; exact hf.asid
  · simp only [Hart.asking_chunk, Hart.retire_chunk, Hart.setPc_chunk, hf.chunk, Hart.inChunk_chunk, Option.map_some]
    exact (seen_same loc b rfl rfl).trans (chunkNow_seen s false loc b)
  · simpa using hf.ctx
  · simpa using hf.lspOld
  · rw [hx, Hart.x_setPc]
  · rw [hcsr, Hart.csr_setPc]

/-! DOMSET (R255). -/

theorem domset_body {s : State} {rd rs1 rs2 : Reg} (hrd : rd.toNat < 4) (hrs2 : rs2.toNat < 8)
    (hbad : (s.openChunk false).domBad rd.toNat (s.x rs1) rs2.toNat = false) :
    ∃ body, exec (.domset rd rs1 rs2) s = .next (s.run .plain body) ∧ body (s.openChunk false) = .ok (((s.openChunk false).onMe
      (·.setCsr (Csr.dom + rd.toNat) (s.x rs1 ||| 0x8000000000000000 ||| BitVec.ofNat 64 (rs2.toNat * 2 ^ 48)))).next 4) := by
  refine ⟨_, rfl, ?_⟩
  simp only [regIn_ok hrd, regIn_ok hrs2, bind, Except.bind, x_openChunk, hbad, Bool.false_eq_true, if_false]
  rfl

theorem domset_writes {s : State} {rd rs1 rs2 : Reg} (hs : s.calm = true) (hrd : rd.toNat < 4) (hrs2 : rs2.toNat < 8)
    (hbad : (s.openChunk false).domBad rd.toNat (s.x rs1) rs2.toNat = false) :
    ∃ t, exec (.domset rd rs1 rs2) s = .next t ∧ Retired (s.pc + 4) s t ∧
      t.csr (Csr.dom + rd.toNat) = s.x rs1 ||| 0x8000000000000000 ||| BitVec.ofNat 64 (rs2.toNat * 2 ^ 48) ∧
      SameRegs { csrs := [Csr.dom + rd.toNat] } s t ∧ SameRest s t := by
  have hwf : mapWf 0 (s.me.inChunk (s.chunkNow false)).a.csr = true := calm_wf_csr hs
  obtain ⟨body, he, hb⟩ := domset_body hrd hrs2 hbad
  obtain ⟨hret, hregs, hrest, -, hcsr, -⟩ := run_writes (w := { csrs := [Csr.dom + rd.toNat] }) hs hb
    ((Hart.Writes.refl _ _).setCsr hwf (List.mem_singleton.mpr rfl) _)
  exact ⟨_, he, hret, (hcsr _).trans (Hart.csr_setCsr_self _ _ _ hwf), hregs, hrest⟩

/-! DSYNC (R257). -/

theorem cur_syncRelease (s : State) (obj : Nat) : (s.syncRelease obj).cur = s.cur := by
  unfold State.syncRelease
  dsimp only
  split <;> rfl

theorem cur_arriveAt (s : State) (h obj : Nat) : (s.arriveAt h obj).2.cur = s.cur := by
  have hwrite (t : State) (bytes : List (Nat × Byte)) : ((t.homeWrite (s.hartMark h) bytes)).cur = t.cur := (quiet_homeWrite t _ bytes).cur
  have hread : (s.atHome h (s.hartMark h) (span obj 16)).2.cur = s.cur := (quiet_atHome s h _ _).cur
  simp only [State.arriveAt]
  split
  · rw [cur_syncRelease, hwrite, hread]
  · rw [hwrite, hread]

/-- The hart has arrived, and records where (R205, R257). -/
def State.syncArrives (u : State) (bb obj : Nat) : Nat × State :=
  let v := u.onMe fun x => { x with dsync := some x.a.pc, arrivals := mapPut x.arrivals bb (u.phaseAt u.cur obj) }
  v.arriveAt v.cur obj
theorem syncArrives_eq {u : State} {h : Nat} (hu : u.cur = h) (bb obj : Nat) : u.syncArrives bb obj =
    (u.onMe fun x => { x with dsync := some x.a.pc, arrivals := mapPut x.arrivals bb (u.phaseAt h obj) }).arriveAt h obj := by
  subst hu
  rfl

theorem dsync_openChunk {s : State} (hs : s.solo = true) (own : Bool) : (s.openChunk own).me.dsync = s.me.dsync := by
  rw [openChunk_solo hs, me_setHart_self]

theorem arrivals_openChunk {s : State} (hs : s.solo = true) (own : Bool) : (s.openChunk own).me.arrivals = s.me.arrivals := by
  rw [openChunk_solo hs, me_setHart_self]

/-- What follows the wait: the record is dropped, the acquire, and the phase change. -/
def State.syncLeaves (v : State) (bb level : Nat) : Res :=
  ((v.onMe fun x => { x with arrivals := mapErase x.arrivals bb }).acquire v.cur .device).syncDone level

section
variable {s : State} {rd : Reg} {reg : BbReg} (hs : s.solo = true) (hrd : rd.toNat < 4)
  (hvalid : (s.csr (Csr.dom + rd.toNat)).getLsbD 63 = true) (hreg : s.bbReg (bits (s.csr (Csr.dom + rd.toNat)) 50 48) = some reg)
include hs hrd hvalid hreg

/-- DSYNC by what its arrival or its wait gives. -/
theorem dsync_leaves {p : Nat} {u t : State}
    (hp : (if (s.openChunk true).me.dsync = some (s.openChunk true).pc then
        (mapGet 0 (s.openChunk true).me.arrivals (bits (s.csr (Csr.dom + rd.toNat)) 50 48), s.openChunk true)
      else ((s.openChunk true).release (s.openChunk true).cur .device).syncArrives (bits (s.csr (Csr.dom + rd.toNat)) 50 48) reg.obj) = (p, u))
    (hgo : ¬ (u.phaseAt u.cur reg.obj = p ∨ (u.me.a.lock && !decide ((s.openChunk true).me.dsync = some (s.openChunk true).pc)) = true))
    (ht : u.syncLeaves (bits (s.csr (Csr.dom + rd.toNat)) 50 48) rd.toNat = .ok t) : exec (.dsync rd) s = .next (t.ends s.pc) := by
  have hb := (bbReg_openChunk hs true _).trans hreg
  refine congrArg Host.Outcome.next (run_alone hs ?_ rfl rfl)
  simp only [regIn_ok hrd, bit, csr_openChunk, hvalid, Bool.not_true, Bool.false_eq_true, if_false, bind, Except.bind, Shape.home, hb]
  refine (forwarded_performs (own := true) hs (v := [BitVec.ofNat 64 p]) (t := u) ?_).trans ht
  unfold State.syncArrives at hp
  rw [hp]
  exact if_neg hgo

theorem dsync_parks {p : Nat} {u : State}
    (hp : (if (s.openChunk true).me.dsync = some (s.openChunk true).pc then
        (mapGet 0 (s.openChunk true).me.arrivals (bits (s.csr (Csr.dom + rd.toNat)) 50 48), s.openChunk true)
      else ((s.openChunk true).release (s.openChunk true).cur .device).syncArrives (bits (s.csr (Csr.dom + rd.toNat)) 50 48) reg.obj) = (p, u))
    (hstay : u.phaseAt u.cur reg.obj = p ∨ (u.me.a.lock && !decide ((s.openChunk true).me.dsync = some (s.openChunk true).pc)) = true) :
    exec (.dsync rd) s = .next (u.parkOn (.bwait (bits (s.csr (Csr.dom + rd.toNat)) 50 48))) := by
  have hb := (bbReg_openChunk hs true _).trans hreg
  refine congrArg Host.Outcome.next (run_handles (e := .become (u.parkOn (.bwait (bits (s.csr (Csr.dom + rd.toNat)) 50 48)))) hs ?_)
  simp only [regIn_ok hrd, bit, csr_openChunk, hvalid, Bool.not_true, Bool.false_eq_true, if_false, bind, Except.bind, Shape.home, hb]
  refine forwarded_fails (own := true) hs ?_
  unfold State.syncArrives at hp
  rw [hp]
  exact if_pos hstay

end


end Sys2Proof.Machine

open Sys2Proof Sys2Proof.Machine

theorem domainSync : Clause.DomainSync := by
  intro s rd reg hs hrd hvalid bb hfind hmem b u now r go
  have hreg : s.bbReg bb = some reg := by
    rw [State.bbReg, hfind]
    exact if_pos (decide_eq_true hmem)
  have hdsync : b.me.dsync = s.me.dsync := dsync_openChunk hs true
  have harrivals : b.me.arrivals = s.me.arrivals := arrivals_openChunk hs true
  have hpc : b.pc = s.pc := pc_openChunk s true
  have hcur : b.cur = s.cur := cur_openChunk s true
  have hucur : u.cur = s.cur := (quiet_release b s.cur .device).cur.trans hcur
  have hrcur : r.2.cur = s.cur := (cur_arriveAt _ _ _).trans hucur
  have hr : (b.release b.cur .device).syncArrives bb reg.obj = r := by
    rw [hcur]
    exact syncArrives_eq hucur bb reg.obj
  refine ⟨fun hfirst => ?_, fun hagain hchanged t ht => ?_⟩
  · have hnot : ¬ b.me.dsync = some b.pc := by rwa [hdsync, hpc]
    refine ⟨fun hchanged hfree t ht => dsync_leaves (p := r.1) (u := r.2) hs hrd hvalid hreg ((if_neg hnot).trans hr) ?_ ?_, fun hstay =>
      dsync_parks (p := r.1) (u := r.2) hs hrd hvalid hreg ((if_neg hnot).trans hr) ?_⟩
    · rw [hrcur, hfree]
      simpa using hchanged
    · rw [State.syncLeaves, hrcur]
      exact ht
    · rw [hrcur, decide_eq_false hnot]
      simpa using hstay
  · have hyes : b.me.dsync = some b.pc := by rwa [hdsync, hpc]
    refine dsync_leaves hs hrd hvalid hreg (if_pos hyes) ?_ ?_
    · rw [decide_eq_true hyes, harrivals, hcur, phaseAt_openChunk hs, Bool.not_true, Bool.and_false]
      exact fun h => h.elim hchanged Bool.false_ne_true
    · rw [State.syncLeaves, hcur]
      exact ht

/-- Settles O32: DOMSET by the CSR that it writes, and DSYNC by what its arrival or its wait gives. -/
theorem domains : Obligations.Domains := ⟨fun _ _ _ _ hs hrd hrs2 hbad => domset_writes hs hrd hrs2 hbad, domainSync⟩

end
section
/-! Proofs of the statements on phases and timed communication (spec/10 R252-R259). -/

namespace Sys2Proof.Machine

/-! The fields of PHASE whose change is held (R256). -/

theorem testBit_bits (v : Word) (hi lo i : Nat) : (bits v hi lo).testBit i = (decide (i < hi + 1 - lo) && v.getLsbD (i + lo)) := by
  rw [bits, Nat.testBit_mod_two_pow, Nat.testBit_div_two_pow, BitVec.testBit_toNat]

/-- A field of the mask: it is read from bits that the mask keeps. -/
theorem bits_congr {v w : Word} {hi lo : Nat} (h : ∀ i, lo ≤ i → i ≤ hi → v.getLsbD i = w.getLsbD i) : bits v hi lo = bits w hi lo := by
  refine Nat.eq_of_testBit_eq fun i => ?_
  rw [testBit_bits, testBit_bits]
  by_cases hi' : i < hi + 1 - lo
  · rw [h (i + lo) (Nat.le_add_left _ _) (by omega)]
  · rw [decide_eq_false hi', Bool.false_and, Bool.false_and]

theorem getLsbD_phaseMask : ∀ i < 64, phaseMask.getLsbD i = decide (i = 1 ∨ i = 4 ∨ i = 5 ∨ (8 ≤ i ∧ i ≤ 39)) := by decide

/-- Values that agree in the bits of the mask have the same fields. -/
theorem phaseFields_congr {v w : Word} (h : ∀ i < 64, phaseMask.getLsbD i = true → v.getLsbD i = w.getLsbD i) :
    phaseFields v = phaseFields w := by
  have hin (i : Nat) (hi : i = 1 ∨ i = 4 ∨ i = 5 ∨ (8 ≤ i ∧ i ≤ 39)) : v.getLsbD i = w.getLsbD i := by
    have hlt : i < 64 := by omega
    exact h i hlt ((getLsbD_phaseMask i hlt).trans (decide_eq_true hi))
  unfold phaseFields
  rw [hin 1 (by simp), bits_congr (v := v) (w := w) (hi := 5) fun i _ _ => hin i (by omega),
    bits_congr (v := v) (w := w) (hi := 39) fun i _ _ => hin i (by omega)]

theorem phaseFields_and_mask (v : Word) : phaseFields (v &&& phaseMask) = phaseFields v :=
  phaseFields_congr fun i _ hi => by rw [BitVec.getLsbD_and, hi, Bool.and_true]

/-- Equal fields have equal bits. -/
theorem getLsbD_of_bits {v w : Word} {hi lo i : Nat} (h : bits v hi lo = bits w hi lo) (hlo : lo ≤ i) (hhi : i ≤ hi) : v.getLsbD i = w.getLsbD i := by
  have hbit := congrArg (Nat.testBit · (i - lo)) h
  simp only [testBit_bits, Nat.sub_add_cancel hlo] at hbit
  simpa [show i - lo < hi + 1 - lo by omega] using hbit

/-- The fields tell the masked bits. -/
theorem phaseFields_eq_iff (v w : Word) : phaseFields v = phaseFields w ↔ v &&& phaseMask = w &&& phaseMask := by
  refine ⟨fun h => BitVec.eq_of_getLsbD_eq fun i hi => ?_, fun h => by rw [← phaseFields_and_mask v, h, phaseFields_and_mask]⟩
  simp only [phaseFields, Prod.mk.injEq] at h
  obtain ⟨htimed, hlevel, hperiod⟩ := h
  rw [BitVec.getLsbD_and, BitVec.getLsbD_and, getLsbD_phaseMask i hi]
  by_cases hin : i = 1 ∨ i = 4 ∨ i = 5 ∨ (8 ≤ i ∧ i ≤ 39)
  · congr 1
    rcases hin with rfl | rfl | rfl | ⟨hlo, hhi⟩
    · exact htimed
    · exact getLsbD_of_bits hlevel (by decide) (by decide)
    · exact getLsbD_of_bits hlevel (by decide) (by decide)
    · exact getLsbD_of_bits hperiod hlo hhi
  · rw [decide_eq_false hin, Bool.and_false, Bool.and_false]

/-! PHASE (R256). -/

/-- The value that PHASE leaves: the fields that were, CHK as it is written, and PEND where a change is held. -/
def phaseNew (old v : Word) : Word :=
  (old &&& (phaseMask ||| 1)) ||| (v &&& 0x40) ||| (if v &&& phaseMask = old &&& phaseMask then 0#64 else 0x80#64)
/-- The change that PHASE holds. -/
def phaseHeld (old v : Word) : Option Word := if v &&& phaseMask = old &&& phaseMask then none else some (v &&& phaseMask)

theorem getLsbD_phaseNew (old v : Word) (i : Nat) : (phaseNew old v).getLsbD i =
    ((old.getLsbD i && (phaseMask ||| 1).getLsbD i) || (v.getLsbD i && (0x40#64).getLsbD i) ||
      (decide (v &&& phaseMask ≠ old &&& phaseMask) && (0x80#64).getLsbD i)) := by
  unfold phaseNew
  by_cases h : v &&& phaseMask = old &&& phaseMask
  · rw [if_pos h, decide_eq_false (not_not.mpr h), BitVec.getLsbD_or, BitVec.getLsbD_zero]
    simp only [BitVec.getLsbD_or, BitVec.getLsbD_and, Bool.false_and]
    rfl
  · rw [if_neg h, decide_eq_true h, Bool.true_and, BitVec.getLsbD_or]
    simp only [BitVec.getLsbD_or, BitVec.getLsbD_and]
    rfl

theorem phaseNew_chk (old v : Word) : (phaseNew old v).getLsbD 6 = v.getLsbD 6 := by
  rw [getLsbD_phaseNew, show (phaseMask ||| 1).getLsbD 6 = false from rfl, show (0x40#64).getLsbD 6 = true from rfl,
    show (0x80#64).getLsbD 6 = false from rfl]
  simp

theorem phaseNew_comm (old v : Word) : (phaseNew old v).getLsbD 0 = old.getLsbD 0 := by
  rw [getLsbD_phaseNew, show (phaseMask ||| 1).getLsbD 0 = true from rfl, show (0x40#64).getLsbD 0 = false from rfl,
    show (0x80#64).getLsbD 0 = false from rfl]
  simp

theorem phaseNew_pend (old v : Word) : (phaseNew old v).getLsbD 7 = true ↔ phaseFields v ≠ phaseFields old := by
  rw [getLsbD_phaseNew, show (phaseMask ||| 1).getLsbD 7 = false from rfl, show (0x40#64).getLsbD 7 = false from rfl,
    show (0x80#64).getLsbD 7 = true from rfl, ne_eq (phaseFields v), phaseFields_eq_iff]
  simp

theorem phaseNew_fields (old v : Word) : phaseFields (phaseNew old v) = phaseFields old := by
  have hmask : ∀ i < 64, phaseMask.getLsbD i = true →
      (phaseMask ||| 1).getLsbD i = true ∧ (0x40#64).getLsbD i = false ∧ (0x80#64).getLsbD i = false := by decide
  refine phaseFields_congr fun i hi hin => ?_
  obtain ⟨hkept, hchk, hpend⟩ := hmask i hi hin
  rw [getLsbD_phaseNew, hkept, hchk, hpend]
  simp

theorem phaseHeld_fields (old v : Word) :
    (phaseHeld old v).map phaseFields = if phaseFields v = phaseFields old then none else some (phaseFields v) := by
  rw [phaseHeld]
  by_cases h : v &&& phaseMask = old &&& phaseMask
  · rw [if_pos h, if_pos ((phaseFields_eq_iff v old).mpr h)]
    rfl
  · rw [if_neg h, if_neg fun e => h ((phaseFields_eq_iff v old).mp e), Option.map_some, phaseFields_and_mask]

/-- The hart that PHASE leaves. -/
def Hart.phased (rd : Reg) (old v : Word) (x : Hart) : Hart :=
  (Hart.setCsr { x with a := { x.a with heldPhase := phaseHeld old v } } Csr.phase (phaseNew old v)).setX rd old

theorem phase_body {s : State} {rd rs1 : Reg} (hres : ¬ s.x rs1 &&& 0xFFFFFF000000008D#64 ≠ 0)
    (hun : ¬ ((s.x rs1).getLsbD 1 = true ∧
      ((s.csr (Csr.dom + bits (s.x rs1) 5 4)).getLsbD 63 = false ∨ bits (s.x rs1) 39 8 = 0 ∨ s.csr Csr.slotcnt = 0))) :
    ∃ body, exec (.phase rd rs1) s = .next (s.run .plain body) ∧ body (s.openChunk false) = .ok
      (((s.openChunk false).onMe (Hart.phased rd (s.csr Csr.phase) (s.x rs1))).next 4) := by
  refine ⟨_, rfl, ?_⟩
  simp only [bit, csr_openChunk, x_openChunk, if_neg hun]
  rw [show ~~~(phaseMask ||| 0x40) = 0xFFFFFF000000008D#64 from rfl, if_neg hres]
  simp only [decide_eq_true_eq, ne_eq, ite_not, onMe_eq, setCsr_eq, setX_eq, me_setHart_self, setHart_cur, setHart_setHart]
  rfl

theorem ldstOf_ne {rd : Reg} (h : rd ≠ 0) : ldstOf rd = [Csr.ldst] := if_neg h

theorem phase_writes {s : State} {rd rs1 : Reg} (hs : s.calm = true) (hres : ¬ s.x rs1 &&& 0xFFFFFF000000008D#64 ≠ 0)
    (hun : ¬ ((s.x rs1).getLsbD 1 = true ∧
      ((s.csr (Csr.dom + bits (s.x rs1) 5 4)).getLsbD 63 = false ∨ bits (s.x rs1) 39 8 = 0 ∨ s.csr Csr.slotcnt = 0))) :
    ∃ t, exec (.phase rd rs1) s = .next t ∧ Retired (s.pc + 4) s t ∧ (rd ≠ 0 → t.x rd = s.csr Csr.phase) ∧ t.x 0 = 0 ∧
      t.csr Csr.phase = phaseNew (s.csr Csr.phase) (s.x rs1) ∧ t.me.a.heldPhase = phaseHeld (s.csr Csr.phase) (s.x rs1) ∧
      SameRegs { xs := if rd = 0 then [] else [rd], csrs := Csr.phase :: ldstOf rd } s t ∧ SameRest s t := by
  obtain ⟨body, he, hb⟩ := phase_body (rd := rd) hres hun
  have hx : mapWf 0 (s.me.inChunk (s.chunkNow false)).a.x = true := calm_wf_x hs
  have hcsr : mapWf 0 (s.me.inChunk (s.chunkNow false)).a.csr = true := calm_wf_csr hs
  have hheld : Hart.Writes { xs := if rd = 0 then [] else [rd], csrs := Csr.phase :: ldstOf rd } (s.me.inChunk (s.chunkNow false))
      { s.me.inChunk (s.chunkNow false) with
        a := { (s.me.inChunk (s.chunkNow false)).a with heldPhase := phaseHeld (s.csr Csr.phase) (s.x rs1) } } :=
    { Hart.Writes.refl _ _ with }
  have hset := hheld.setCsr hcsr (List.mem_cons_self ..) (phaseNew (s.csr Csr.phase) (s.x rs1))
  have hwf := Hart.wf_setCsr _ Csr.phase (phaseNew (s.csr Csr.phase) (s.x rs1)) hcsr
  obtain ⟨hret, hregs, hrest, hxs, hcsrs, q, ha⟩ := run_writes hs hb
    (hset.setX (rd := rd) hx hwf (fun h0 => if_neg h0 ▸ List.mem_singleton_self rd)
      (fun h0 => List.mem_cons_of_mem _ ((ldstOf_ne h0).symm ▸ List.mem_singleton_self _)) (s.csr Csr.phase))
  refine ⟨_, he, hret, fun h0 => ?_, ?_, ?_, ?_, hregs, hrest⟩
  · rw [hxs]
    exact Hart.x_setX_self _ _ hx h0
  · rw [hxs, Hart.x_zero]
  · rw [hcsrs]
    refine (Hart.csr_setX_ne _ _ _ ?_ (by decide)).trans (Hart.csr_setCsr_self _ _ _ ?_)
    · exact hwf
    · exact hcsr
  · rw [ha]
    simp [Hart.phased]

theorem phase_traps {s : State} {rd rs1 : Reg} (hs : s.loose = true)
    (h : s.x rs1 &&& 0xFFFFFF000000008D#64 ≠ 0 ∨ ((s.x rs1).getLsbD 1 = true ∧
      ((s.csr (Csr.dom + bits (s.x rs1) 5 4)).getLsbD 63 = false ∨ bits (s.x rs1) 39 8 = 0 ∨ s.csr Csr.slotcnt = 0))) :
    ∃ t, exec (.phase rd rs1) s = .next t ∧ Traps Cause.illegal (bitsOf (.phase rd rs1)) 0 s t := by
  refine ⟨_, rfl, run_error_traps hs ?_⟩
  simp only [bit, csr_openChunk, x_openChunk]
  rw [show ~~~(phaseMask ||| 0x40) = 0xFFFFFF000000008D#64 from rfl]
  by_cases hres : s.x rs1 &&& 0xFFFFFF000000008D#64 ≠ 0
  · rw [if_pos hres]
    rfl
  · rw [if_neg hres, if_pos (h.resolve_left hres)]
    rfl

/-! The phase change (R257). -/

/-- The value of PHASE after a DSYNC. -/
def phaseFlip (p : Word) (mine : Option Word) : Word :=
  (match mine with | some c => (p &&& ~~~(phaseMask ||| 0x80)) ||| c | none => p) ^^^ 1

theorem getLsbD_phaseFlip_none (p : Word) (i : Nat) : (phaseFlip p none).getLsbD i = (p.getLsbD i ^^ (1#64).getLsbD i) := by
  rw [phaseFlip, BitVec.getLsbD_xor]
  rfl

theorem getLsbD_phaseFlip_some (p c : Word) (i : Nat) : (phaseFlip p (some c)).getLsbD i =
    (((p.getLsbD i && (~~~(phaseMask ||| 0x80)).getLsbD i) || c.getLsbD i) ^^ (1#64).getLsbD i) := by
  rw [phaseFlip, BitVec.getLsbD_xor, BitVec.getLsbD_or, BitVec.getLsbD_and]
  rfl

/-- A held change keeps to the fields of the mask. -/
theorem getLsbD_held {c : Word} (hc : c &&& ~~~phaseMask = 0) {i : Nat} (hi : i < 64) (hout : phaseMask.getLsbD i = false) :
    c.getLsbD i = false := by
  have h : (c &&& ~~~phaseMask).getLsbD i = false := by
    rw [hc]
    exact BitVec.getLsbD_zero
  rwa [BitVec.getLsbD_and, BitVec.getLsbD_not, hout, decide_eq_true hi, Bool.true_and, Bool.not_false, Bool.and_true] at h

section
variable {p c : Word} (hc : c &&& ~~~phaseMask = 0)

theorem phaseFlip_fields (p c : Word) : phaseFields (phaseFlip p (some c)) = phaseFields c := by
  have hmask : ∀ i < 64, phaseMask.getLsbD i = true → (~~~(phaseMask ||| 0x80)).getLsbD i = false ∧ (1#64).getLsbD i = false := by decide
  refine phaseFields_congr fun i hi hin => ?_
  obtain ⟨hdrop, hone⟩ := hmask i hi hin
  rw [getLsbD_phaseFlip_some, hdrop, hone]
  simp

theorem phaseFlip_fields_none (p : Word) : phaseFields (phaseFlip p none) = phaseFields p := by
  have hmask : ∀ i < 64, phaseMask.getLsbD i = true → (1#64).getLsbD i = false := by decide
  refine phaseFields_congr fun i hi hin => ?_
  rw [getLsbD_phaseFlip_none, hmask i hi hin, Bool.xor_false]

include hc

theorem phaseFlip_comm : (phaseFlip p (some c)).getLsbD 0 = !p.getLsbD 0 := by
  rw [getLsbD_phaseFlip_some, getLsbD_held hc (by decide) rfl, show (~~~(phaseMask ||| 0x80)).getLsbD 0 = true from rfl,
    show (1#64).getLsbD 0 = true from rfl]
  simp

theorem phaseFlip_chk : (phaseFlip p (some c)).getLsbD 6 = p.getLsbD 6 := by
  rw [getLsbD_phaseFlip_some, getLsbD_held hc (by decide) rfl, show (~~~(phaseMask ||| 0x80)).getLsbD 6 = true from rfl,
    show (1#64).getLsbD 6 = false from rfl]
  simp

theorem phaseFlip_pend : (phaseFlip p (some c)).getLsbD 7 = false := by
  rw [getLsbD_phaseFlip_some, getLsbD_held hc (by decide) rfl, show (~~~(phaseMask ||| 0x80)).getLsbD 7 = false from rfl,
    show (1#64).getLsbD 7 = false from rfl]
  simp

end

/-- SUPERSTEP counts the communication phase that ends. -/
def Hart.countsStep (x : Hart) : Hart :=
  if (x.csr Csr.phase).getLsbD 0 then x.setCsr Csr.superstep (x.csr Csr.superstep + 1) else x
/-- The executing hart after the phase change, before a timed communication phase begins. -/
def Hart.flipped (mine : Option Word) (x : Hart) : Hart :=
  let z := x.countsStep.setCsr Csr.phase (phaseFlip (x.countsStep.csr Csr.phase) mine)
  { z with dsync := none, leadHeld := none, a := { z.a with heldPhase := if mine.isSome then none else z.a.heldPhase } }
/-- A timed communication phase begins. -/
def Hart.beginsTimed (x : Hart) : Hart :=
  { x with slotPtr := 0, recvBytes := x.recvBytes - x.recvAtT, afterSync := some (x.a.pc + 4), deferOver := false }
/-- The executing hart after a DSYNC. -/
def Hart.synced (mine : Option Word) (x : Hart) : Hart :=
  let p := phaseFlip (x.countsStep.csr Csr.phase) mine
  if p.getLsbD 0 = true ∧ p.getLsbD 1 = true then (x.flipped mine).beginsTimed else x.flipped mine

theorem countsStep_state (s : State) {t : State} (h : (if s.comm = true then s.setCsr Csr.superstep (s.csr Csr.superstep + 1) else s) = t) :
    t.me = s.me.countsStep ∧ ∀ y, t.setHart t.cur y = s.setHart s.cur y := by
  subst h
  by_cases hc : s.comm = true
  · rw [if_pos hc, show s.me.countsStep = s.me.setCsr Csr.superstep (s.me.csr Csr.superstep + 1) from if_pos hc]
    simp only [setCsr_eq, csr_eq, setHart_cur, me_setHart_self, setHart_setHart, implies_true, and_self]
  · rw [if_neg hc, show s.me.countsStep = s.me from if_neg hc]
    exact ⟨rfl, fun _ => rfl⟩

theorem syncDone_ok {s : State} {level : Nat} (h : heldFor level s.me.a.heldPhase = heldFor level s.me.leadHeld) :
    s.syncDone level = .ok ((s.setHart s.cur (s.me.synced (heldFor level s.me.a.heldPhase))).next 4) := by
  unfold State.syncDone
  rw [if_neg (not_not.mpr h)]
  dsimp only
  generalize ht : (if s.comm = true then s.setCsr Csr.superstep (s.csr Csr.superstep + 1) else s) = t
  obtain ⟨hme, hset⟩ := countsStep_state s ht
  have hp (mine : Option Word) : (match mine with | some c => (t.csr Csr.phase &&& ~~~(phaseMask ||| 0x80)) ||| c | none => t.csr Csr.phase) ^^^ 1 =
      phaseFlip (s.me.countsStep.csr Csr.phase) mine := by
    rw [← hme]
    rfl
  have hsync (mine : Option Word) : s.setHart s.cur (s.me.synced mine) =
      if (phaseFlip (s.me.countsStep.csr Csr.phase) mine).getLsbD 0 = true ∧ (phaseFlip (s.me.countsStep.csr Csr.phase) mine).getLsbD 1 = true
        then s.setHart s.cur (s.me.flipped mine).beginsTimed else s.setHart s.cur (s.me.flipped mine) := by
    rw [Hart.synced, apply_ite (s.setHart s.cur)]
  rw [hsync]
  cases hm : heldFor level s.me.a.heldPhase with
  | none =>
    simp only [hp none, setCsr_eq, onMe_eq, setHart_cur, me_setHart_self, setHart_setHart, hset, hme, bit]
    rfl
  | some c =>
    simp only [hp (some c), setCsr_eq, onMe_eq, setHart_cur, me_setHart_self, setHart_setHart, hset, hme, bit]
    rfl

section
variable {x : Hart} (hwf : mapWf 0 x.a.csr = true) (mine : Option Word)

theorem Hart.synced_a (x : Hart) (mine : Option Word) : (x.synced mine).a = (x.flipped mine).a := by
  rw [Hart.synced, apply_ite Hart.a]
  exact ite_self _

theorem Hart.synced_dsync (x : Hart) (mine : Option Word) : (x.synced mine).dsync = none := by
  rw [Hart.synced, apply_ite Hart.dsync]
  exact ite_self _

theorem Hart.countsStep_pc (x : Hart) : x.countsStep.a.pc = x.a.pc := by
  unfold Hart.countsStep
  split <;> rfl

theorem Hart.countsStep_heldPhase (x : Hart) : x.countsStep.a.heldPhase = x.a.heldPhase := by
  unfold Hart.countsStep
  split <;> rfl

theorem Hart.countsStep_recv (x : Hart) : x.countsStep.recvBytes = x.recvBytes ∧ x.countsStep.recvAtT = x.recvAtT := by
  unfold Hart.countsStep
  split <;> exact ⟨rfl, rfl⟩

theorem Hart.synced_pc (x : Hart) (mine : Option Word) : (x.synced mine).a.pc = x.a.pc := by
  rw [Hart.synced_a]
  exact x.countsStep_pc

theorem Hart.synced_heldPhase (x : Hart) (mine : Option Word) :
    (x.synced mine).a.heldPhase = if mine.isSome then none else x.a.heldPhase := by
  rw [Hart.synced_a, ← x.countsStep_heldPhase]
  rfl

include hwf

theorem Hart.wf_countsStep : mapWf 0 x.countsStep.a.csr = true := by
  unfold Hart.countsStep
  split
  · exact x.wf_setCsr _ _ hwf
  · exact hwf

theorem Hart.countsStep_phase : x.countsStep.csr Csr.phase = x.csr Csr.phase := by
  unfold Hart.countsStep
  split
  · exact x.csr_setCsr_ne _ hwf (by decide)
  · rfl

theorem Hart.synced_superstep :
    (x.synced mine).csr Csr.superstep = x.csr Csr.superstep + (if (x.csr Csr.phase).getLsbD 0 then 1 else 0) := by
  have hflip : (x.synced mine).csr Csr.superstep = x.countsStep.csr Csr.superstep := by
    rw [Hart.csr, Hart.synced_a]
    exact Hart.csr_setCsr_ne _ _ (Hart.wf_countsStep hwf) (by decide)
  rw [hflip, Hart.countsStep]
  by_cases h : (x.csr Csr.phase).getLsbD 0 = true
  · rw [if_pos h, if_pos h, x.csr_setCsr_self _ _ hwf]
  · rw [if_neg h, if_neg h]
    exact (BitVec.add_zero _).symm

theorem Hart.synced_phase : (x.synced mine).csr Csr.phase = phaseFlip (x.csr Csr.phase) mine := by
  rw [Hart.csr, Hart.synced_a, ← Hart.countsStep_phase hwf]
  exact Hart.csr_setCsr_self _ _ _ (Hart.wf_countsStep hwf)

/-- In a timed communication phase the slots begin again (R257, R259, R340). -/
theorem Hart.synced_timed (hcomm : (phaseFlip (x.csr Csr.phase) mine).getLsbD 0 = true)
    (htimed : (phaseFlip (x.csr Csr.phase) mine).getLsbD 1 = true) :
    (x.synced mine).slotPtr = 0 ∧ (x.synced mine).recvBytes = x.recvBytes - x.recvAtT ∧ (x.synced mine).afterSync = some (x.a.pc + 4) := by
  rw [← Hart.countsStep_phase hwf] at hcomm htimed
  rw [show x.synced mine = (x.flipped mine).beginsTimed from if_pos ⟨hcomm, htimed⟩]
  obtain ⟨hbytes, hat⟩ := x.countsStep_recv
  rw [← hbytes, ← hat, ← x.countsStep_pc]
  exact ⟨rfl, rfl, rfl⟩

end

/-- The fields of PHASE after a DSYNC, where the change that the hart holds for the level is `mine`. -/
theorem phaseFlip_spec (p : Word) {mine : Option Word} (hheld : ∀ c, mine = some c → c &&& ~~~phaseMask = 0) :
    (phaseFlip p mine).getLsbD 0 = !p.getLsbD 0 ∧ (phaseFlip p mine).getLsbD 6 = p.getLsbD 6 ∧
    (∀ c, mine = some c → phaseFields (phaseFlip p mine) = phaseFields c ∧ (phaseFlip p mine).getLsbD 7 = false) ∧
    (mine = none → phaseFields (phaseFlip p mine) = phaseFields p ∧ (phaseFlip p mine).getLsbD 7 = p.getLsbD 7) := by
  cases mine with
  | none =>
    refine ⟨?_, ?_, nofun, fun _ => ⟨phaseFlip_fields_none p, ?_⟩⟩
    · rw [getLsbD_phaseFlip_none, show (1#64).getLsbD 0 = true from rfl, Bool.xor_true]
    · rw [getLsbD_phaseFlip_none, show (1#64).getLsbD 6 = false from rfl, Bool.xor_false]
    · rw [getLsbD_phaseFlip_none, show (1#64).getLsbD 7 = false from rfl, Bool.xor_false]
  | some c =>
    have hc := hheld c rfl
    refine ⟨phaseFlip_comm hc, phaseFlip_chk hc, fun d hd => ?_, nofun⟩
    obtain rfl := Option.some.inj hd
    exact ⟨phaseFlip_fields p c, phaseFlip_pend hc⟩

theorem heldFor_some {level : Nat} {held : Option Word} {c : Word} (h : heldFor level held = some c) : held = some c := by
  cases held with
  | none => exact nomatch h
  | some d =>
    simp only [heldFor] at h
    split at h
    · exact h
    · exact nomatch h

/-! TSEND, TRECV and the slot check (R258, R259). -/

theorem timedComm_openChunk (s : State) (own : Bool) : (s.openChunk own).timedComm = s.timedComm := by
  simp only [State.timedComm, State.timed, State.comm, csr_openChunk]

theorem recvBytes_openChunk {s : State} (hs : s.solo = true) (own : Bool) : (s.openChunk own).me.recvBytes = s.me.recvBytes := by
  rw [openChunk_solo hs, me_setHart_self]

section
variable {s : State} {rd rs1 rs2 : Reg} (hs : s.solo = true)
include hs

theorem tsend_ends {a a' : Acc} {u v : State} {bytes : List Byte} (hrd : rd.toNat < 16) (h8 : bits (s.x rs2) 63 32 % 8 = 0)
    (hlow : 8 ≤ bits (s.x rs2) 63 32) (hhigh : bits (s.x rs2) 63 32 ≤ 4096) (htimed : s.timed = false)
    (hcheck : (s.openChunk true).check (s.who s.cur) .load 8 0 (s.x rs1) (bits (s.x rs2) 63 32) = .ok (a, u))
    (hroute : u.checkRoute rd.toNat [0, 1] .store (bits (s.x rs2) 31 0) (bits (s.x rs2) 63 32) 8 (s.openChunk true).tsendBad = .ok ())
    (hfree : (s.openChunk true).myCore.freeRlt ≠ none)
    (hsource : (s.openChunk true).myCore.sourceWaits s.me.ctx (s.x rs1).toNat (bits (s.x rs2) 63 32) = false)
    (hload : u.load 8 (s.x rs1) (bits (s.x rs2) 63 32) = .ok (bytes, a', v)) :
    exec (.tsend rd rs1 rs2) s = .next (((v.sendAll rd.toNat .tsend (bits (s.x rs2) 31 0) bytes).next 4).ends s.pc) := by
  refine congrArg Host.Outcome.next (run_alone hs ?_ rfl rfl)
  have hsize : ¬ (bits (s.x rs2) 63 32 % 8 ≠ 0 ∨ bits (s.x rs2) 63 32 < 8 ∨ 4096 < bits (s.x rs2) 63 32) := by omega
  have hcomm : ¬ (s.openChunk true).timedComm = true := by
    rw [timedComm_openChunk, State.timedComm, htimed, Bool.false_and]
    exact Bool.false_ne_true
  have hgo : ¬ ((s.openChunk true).myCore.freeRlt.isNone = true ∨
      (s.openChunk true).myCore.sourceWaits s.me.ctx (s.x rs1).toNat (bits (s.x rs2) 63 32) = true) := by
    rw [hsource, Option.isNone_iff_eq_none]
    exact fun h => h.elim hfree Bool.false_ne_true
  rw [← (SameHart.openChunk s true).who] at hcheck
  rw [← ctx_openChunk s true] at hgo
  simp only [if_neg hsize, rtField_ok hrd, bind, Except.bind, Shape.home]
  refine (forwarded_performs (own := true) (v := []) hs (t := v.sendAll rd.toNat .tsend (bits (s.x rs2) 31 0) bytes) ?_).trans rfl
  simp only [hcheck, hroute, if_neg hcomm, if_neg hgo, hload, pure, Except.pure]

theorem trecv_ends (h : s.timedComm = false ∨ (s.x rs1).toNat ≤ s.me.recvBytes) : exec (.trecv rd rs1) s = .next
    (((((s.openChunk false).setX rd (BitVec.ofNat 64 s.me.recvBytes)).acquire s.cur .core).next 4).ends s.pc) := by
  refine congrArg Host.Outcome.next (run_alone hs ?_ rfl rfl)
  have hgo : ¬ (s.timedComm = true ∧ s.me.recvBytes < (s.x rs1).toNat) := by
    rintro ⟨hcomm, hlt⟩
    exact h.elim (fun hno => Bool.false_ne_true (hno.symm.trans hcomm)) (Nat.not_le.mpr hlt)
  simp only [x_openChunk, timedComm_openChunk, recvBytes_openChunk hs, Shape.last, if_neg hgo, cur_openChunk, setX_eq]

theorem trecv_parks (hcomm : s.timedComm = true) (hlt : s.me.recvBytes < (s.x rs1).toNat) :
    exec (.trecv rd rs1) s = .next (s.parkOn (.trecv (s.x rs1))) := by
  refine congrArg Host.Outcome.next (run_handles (e := .park (.trecv (s.x rs1))) hs ?_)
  simp only [x_openChunk, timedComm_openChunk, recvBytes_openChunk hs, Shape.last, if_pos (And.intro hcomm hlt)]

end

/-- An entry of the slot table that is not the next slot of this level and route, or not open now. -/
def slotShut (u : State) (e : Word) (r : Nat) : Prop :=
  bits e 53 52 ≠ bits (u.csr Csr.phase) 5 4 ∨ bits e 51 48 ≠ r ∨ u.cycle - u.me.releaseT < bits e 31 0 ∨
    bits e 31 0 + bits e 47 32 ≤ u.cycle - u.me.releaseT

theorem slotShut_iff (u : State) (e : Word) (r : Nat) : slotShut u e r ↔ ¬ (bits e 53 52 = bits (u.csr Csr.phase) 5 4 ∧ bits e 51 48 = r ∧
    bits e 31 0 ≤ u.cycle - u.me.releaseT ∧ u.cycle - u.me.releaseT < bits e 31 0 + bits e 47 32) := by
  simp only [slotShut, not_and_or, Nat.not_le, Nat.not_lt, ne_eq]

theorem checkSlot_full {s : State} {r : Nat} (hcount : (s.csr Csr.slotcnt).toNat ≤ s.me.slotPtr) : s.checkSlot r =
    .error (.trap Cause.slotMissed (BitVec.ofNat 64 (s.cycle - s.me.releaseT)) (BitVec.ofNat 64 s.me.slotPtr)) := by
  simp only [State.checkSlot, if_pos hcount]
  rfl

section
variable {s u : State} {r : Nat} {bytes : List Byte} {a : Acc} (hcount : ¬ (s.csr Csr.slotcnt).toNat ≤ s.me.slotPtr)
  (hload : s.load 8 (s.csr Csr.slotbase + 8 * BitVec.ofNat 64 s.me.slotPtr) 8 = .ok (bytes, a, u))
include hcount hload

theorem checkSlot_shut (h : slotShut u (leWord bytes) r) : s.checkSlot r =
    .error (.trap Cause.slotMissed (BitVec.ofNat 64 (s.cycle - s.me.releaseT)) (BitVec.ofNat 64 s.me.slotPtr)) := by
  unfold slotShut at h
  simp only [State.checkSlot, if_neg hcount, hload, bind, Except.bind, if_pos h]
  rfl

theorem checkSlot_open (h : ¬ slotShut u (leWord bytes) r) :
    s.checkSlot r = .ok (u.onMe fun x => { x with slotPtr := s.me.slotPtr + 1 }) := by
  unfold slotShut at h
  simp only [State.checkSlot, if_neg hcount, hload, bind, Except.bind, if_neg h]
  rfl

end

end Sys2Proof.Machine

open Sys2Proof Sys2Proof.Machine

theorem phaseInstruction : Clause.PhaseInstruction := by
  intro s rd rs1 v old reserved untimely
  refine ⟨fun hs hres hun => ?_, phase_traps⟩
  obtain ⟨t, he, hret, hrd, hzero, hphase, hheld, hregs, hrest⟩ := phase_writes (rd := rd) hs hres hun
  rw [he]
  refine ⟨t, rfl, hret, hrd, hzero, ?_, ?_, ?_, ?_, ?_, hregs, hrest⟩
  · rw [hphase, phaseNew_chk]
  · rw [hphase, phaseNew_comm]
  · rw [hphase, phaseNew_fields]
  · rw [hphase, phaseNew_pend]
  · rw [hheld, phaseHeld_fields]

theorem phaseChange : Clause.PhaseChange := by
  intro s level hwf hheld mine p
  refine ⟨fun hlead => ⟨_, syncDone_ok hlead, ?_⟩, fun hlead => ⟨_, if_pos hlead⟩⟩
  have hcanon : ∀ c, mine = some c → c &&& ~~~phaseMask = 0 := fun c hc => hheld c (heldFor_some hc)
  obtain ⟨hcomm, hchk, hsome, hnone⟩ := phaseFlip_spec p hcanon
  have hme : ((s.setHart s.cur (s.me.synced mine)).next 4).me = (s.me.synced mine).setPc ((s.me.synced mine).a.pc + 4) := by
    rw [State.next, onMe_eq, me_setHart_self, me_setHart_self]
    rfl
  have hphase : ((s.setHart s.cur (s.me.synced mine)).next 4).csr Csr.phase = phaseFlip p mine := by
    rw [csr_eq, hme, Hart.csr_setPc]
    exact Hart.synced_phase hwf mine
  have hhold : ((s.setHart s.cur (s.me.synced mine)).next 4).me.a.heldPhase = if mine.isSome then none else s.me.a.heldPhase := by
    rw [hme]
    exact s.me.synced_heldPhase mine
  refine ⟨?_, ?_, ?_, ?_, ?_, fun c hc => ⟨?_, ?_, ?_⟩, fun hc => ⟨?_, ?_, ?_⟩, fun h0 h1 => ?_⟩
  · rw [State.pc, hme]
    exact congrArg (· + 4) (s.me.synced_pc mine)
  · rw [hme]
    exact s.me.synced_dsync mine
  · rw [csr_eq, hme, Hart.csr_setPc]
    exact Hart.synced_superstep hwf mine
  · rw [hphase, hcomm]
  · rw [hphase, hchk]
  · rw [hphase, (hsome c hc).1]
  · rw [hphase, (hsome c hc).2]
  · rw [hhold, hc]
    rfl
  · rw [hphase, (hnone hc).1]
  · rw [hphase, (hnone hc).2]
  · rw [hhold, hc]
    rfl
  · rw [hphase] at h0 h1
    rw [hme]
    exact Hart.synced_timed hwf mine h0 h1

/-- Settles O33: PHASE by the bits of the value that it leaves, and DSYNC's phase change by those of the flipped one. -/
theorem phases : Obligations.Phases := ⟨phaseInstruction, phaseChange⟩

theorem timedTransfers : Clause.TimedTransfers := fun _ _ _ _ hs =>
  ⟨fun _ _ _ _ _ hrd h8 hlow hhigh htimed hc hr hf hw hl => tsend_ends hs hrd h8 hlow hhigh htimed hc hr hf hw hl, trecv_ends hs, trecv_parks hs⟩

theorem slotCheck : Clause.SlotCheck := by
  intro s u r bytes a p c hload e open_ hcycle hrelease
  have hentry := slotShut_iff u e r
  rw [hcycle, hrelease] at hentry
  by_cases hcount : (s.csr Csr.slotcnt).toNat ≤ s.me.slotPtr
  · exact ⟨fun ho => absurd ho.1 (Nat.not_lt.mpr hcount), fun _ => checkSlot_full hcount⟩
  · refine ⟨fun ho => checkSlot_open hcount hload fun h => hentry.mp h ho.2, fun hno => checkSlot_shut hcount hload (hentry.mpr fun h => ?_)⟩
    exact hno ⟨Nat.not_le.mp hcount, h⟩

/-- Settles O34: the transfers outside their waits, and the slot check by the entry that it loads. -/
theorem timedCommunication : Obligations.TimedCommunication := ⟨timedTransfers, slotCheck⟩

end
section
/-! Proofs of the statements on CSR instructions and the stochastic state (spec/01 R13-R17, spec/10 R266, R267). -/

namespace Sys2Proof.Machine

/-! What the opening of a chunk leaves of what is read here. -/

theorem cycle_openChunk (s : State) (own : Bool) : (s.openChunk own).cycle = s.cycle :=
  (HartOnly.openChunk s own).keeps State.cycle fun _ _ _ _ _ => rfl
theorem dev_openChunk (s : State) (own : Bool) : (s.openChunk own).dev = s.dev :=
  (HartOnly.openChunk s own).keeps State.dev fun _ _ _ _ _ => rfl
theorem freeCtr_openChunk (s : State) (own : Bool) : (s.openChunk own).freeCtr = s.freeCtr :=
  (HartOnly.openChunk s own).keeps State.freeCtr fun _ _ _ _ _ => rfl
theorem time_openChunk (s : State) (own : Bool) : (s.openChunk own).time = s.time := by
  rw [State.time, cycle_openChunk, dev_openChunk, State.time]
theorem hartid_openChunk (s : State) (own : Bool) : (s.openChunk own).hartid (s.openChunk own).cur = s.hartid s.cur := by
  rw [State.hartid, dev_openChunk, cur_openChunk, State.hartid]
theorem afterSync_openChunk (s : State) (own : Bool) :
    (s.openChunk own).me.afterSync = s.me.afterSync ∧ (s.openChunk own).me.releaseT = s.me.releaseT := by
  rw [(HartOnly.openChunk s own).me]
  exact ⟨rfl, rfl⟩

theorem readCsr_openChunk (s : State) (own : Bool) (n : Nat) : (s.openChunk own).readCsr n = s.readCsr n := by
  simp only [State.readCsr, hartid_openChunk, ctx_openChunk, openChunk_vf, myCore_openChunk, dev_openChunk, cycle_openChunk, time_openChunk,
    csr_openChunk]

theorem csrRefused_openChunk (s : State) (own : Bool) (n : Nat) (write : Bool) : (s.openChunk own).csrRefused n write = s.csrRefused n write := by
  simp only [State.csrRefused, openChunk_owns, a_openChunk]

/-! Changes that leave the chunk of the executing hart alone. -/

/-- The executing hart keeps its chunk, and stays in no group if it was in none. -/
structure KeepsChunk (s t : State) : Prop where
  chunk : t.me.chunk = s.me.chunk
  group : t.me.group = s.me.group

theorem KeepsChunk.refl (s : State) : KeepsChunk s s := ⟨rfl, rfl⟩
theorem KeepsChunk.trans {s t u : State} (h : KeepsChunk s t) (g : KeepsChunk t u) : KeepsChunk s u :=
  ⟨g.chunk.trans h.chunk, g.group.trans h.group⟩
theorem KeepsChunk.setHart (s : State) {x : Hart} (hc : x.chunk = s.me.chunk) (hg : x.group = s.me.group) :
    KeepsChunk s (s.setHart s.cur x) := by
  refine ⟨?_, ?_⟩
  · rw [me_setHart_self, hc]
  · rw [me_setHart_self, hg]
theorem KeepsChunk.setX (s : State) (r : Reg) (v : Word) : KeepsChunk s (s.setX r v) :=
  .setHart s (Hart.setX_chunk _ r v) (Hart.setX_group _ r v)
theorem KeepsChunk.setCsr (s : State) (n : Nat) (v : Word) : KeepsChunk s (s.setCsr n v) := .setHart s rfl rfl
theorem KeepsChunk.next (s : State) (len : Nat) : KeepsChunk s (s.next len) := .setHart s rfl rfl
/-- Whatever leaves the harts and the one that executes. -/
theorem KeepsChunk.harts {s t : State} (hh : t.harts = s.harts) (hc : t.cur = s.cur) : KeepsChunk s t := by
  have hme : t.me = s.me := by rw [State.me, State.me, State.hart, State.hart, hh, hc]
  exact ⟨by rw [hme], by rw [hme]⟩
theorem KeepsChunk.onMyCore (s : State) (f : Core → Core) : KeepsChunk s (s.onMyCore f) := .harts rfl rfl

theorem KeepsChunk.makeRoom (s : State) (ctx core : Nat) : KeepsChunk s (s.makeRoom ctx core) := by
  unfold State.makeRoom
  generalize (s.core core).seg.filter _ = l
  induction l generalizing s with
  | nil => exact .refl s
  | cons e l ih =>
    refine KeepsChunk.trans ?_ (ih (s.spillSeg e.1 core))
    unfold State.spillSeg
    dsimp only
    split
    · exact .refl s
    · exact .harts rfl rfl

/-- Every write of a CSR. -/
theorem KeepsChunk.writeCsr (s : State) (n : Nat) (v : Word) : KeepsChunk s (s.writeCsr n v) := by
  unfold State.writeCsr
  split
  · rw [writeFrm_eq]
    split
    · exact .setCsr s _ _
    · exact .refl s
  split
  · exact .harts rfl rfl
  have hseg (size : Bool) : KeepsChunk s (s.writeSegment size v) := by
    unfold State.writeSegment
    dsimp only
    generalize (ite (size = true) _ _ : Seg) = g
    split
    · exact (KeepsChunk.onMyCore s _).trans (.makeRoom _ _ _)
    · exact .refl s
  split
  · exact hseg false
  split
  · exact hseg true
  split
  · unfold State.clearRsetstat
    split
    · exact .setCsr s _ _
    · exact .refl s
  split
  · unfold State.writeRfinj
    split
    · exact .setCsr s _ _
    · exact .refl s
  · unfold State.writePlain
    split
    · exact .harts rfl rfl
    split
    · exact .harts rfl rfl
    · exact .setCsr s _ _

/-- A body that keeps the chunk which was opened for it. -/
theorem run_keeps {s u : State} {body : State → Res} (hs : s.calm = true) (hb : body (s.openChunk false) = .ok u)
    (hu : KeepsChunk (s.openChunk false) u) : s.run .plain body = u.stays s.pc :=
  run_stays hs (c := s.chunkNow false) hb (hu.chunk.trans (chunk_openChunk s false)) (chunkNow_room s false hs)
    (hu.group.trans ((group_openChunk s false).trans (calm_group hs)))

/-! The stochastic state (R266). -/

/-- The stochastic state replaced. -/
def Hart.seeded (a b : Word) (x : Hart) : Hart := { x with a := { x.a with s0 := a, s1 := if a = 0 ∧ b = 0 then 1 else b } }

theorem rngWrite_writes {s : State} {rd : Reg} {body : State → Res} {a b v : Word} (hs : s.calm = true)
    (hb : body (s.openChunk false) = .ok ((((s.openChunk false).setRng a b).setX rd v).next 4)) :
    Retired (s.pc + 4) s (s.run .plain body) ∧ (rd ≠ 0 → (s.run .plain body).x rd = v) ∧ (s.run .plain body).me.a.s0 = a ∧
      (s.run .plain body).me.a.s1 = (if a = 0 ∧ b = 0 then 1 else b) ∧
      SameRegs { xs := if rd = 0 then [] else [rd], csrs := ldstOf rd, rng := true } s (s.run .plain body) ∧ SameRest s (s.run .plain body) := by
  have hx : mapWf 0 (s.me.inChunk (s.chunkNow false)).a.x = true := calm_wf_x hs
  have hcsr : mapWf 0 (s.me.inChunk (s.chunkNow false)).a.csr = true := calm_wf_csr hs
  have hseed : Hart.Writes { xs := if rd = 0 then [] else [rd], csrs := ldstOf rd, rng := true } (s.me.inChunk (s.chunkNow false))
      ((s.me.inChunk (s.chunkNow false)).seeded a b) := { Hart.Writes.refl _ _ with s0 := nofun, s1 := nofun }
  have hbody : body (s.openChunk false) = .ok (((s.openChunk false).onMe fun x => (x.seeded a b).setX rd v).next 4) := by
    rw [hb]
    simp only [State.setRng, onMe_eq, setX_eq, me_setHart_self, setHart_cur, setHart_setHart]
    rfl
  obtain ⟨hret, hregs, hrest, hxs, -, q, ha⟩ := run_writes hs hbody
    (hseed.setX (rd := rd) hx hcsr (fun h0 => if_neg h0 ▸ List.mem_singleton_self rd)
      (fun h0 => (ldstOf_ne h0).symm ▸ List.mem_singleton_self _) v)
  refine ⟨hret, fun h0 => ?_, ?_, ?_, hregs, hrest⟩
  · rw [hxs]
    exact Hart.x_setX_self _ _ hx h0
  · rw [ha]
    simp [Hart.seeded]
  · rw [ha]
    simp [Hart.seeded]

theorem rndvTime_writes {s : State} (hs : s.calm = true) (rd : Reg) : ∃ t, exec (.rndvTime rd) s = .next t ∧ WritesX rd (BitVec.ofNat 64 s.time) 4 s t := by
  refine ⟨_, rfl, run_setX_writesX hs ?_⟩
  refine (forwarded_ok ((group_openChunk s false).trans (calm_group hs)) rfl).trans ?_
  rw [List.headD_cons, time_openChunk]

theorem rndvEnt_stays {s : State} (hs : s.calm = true) (rd : Reg) : exec (.rndvEnt rd) s = .next
    (((({ s.openChunk false with freeCtr := s.freeCtr + 1 } : State).setX rd (Config.entropy s.freeCtr)).next 4).stays s.pc) := by
  have hfree : KeepsChunk (s.openChunk false) { s.openChunk false with freeCtr := s.freeCtr + 1 } := .harts rfl rfl
  refine congrArg Host.Outcome.next (run_keeps hs ?_ ((hfree.trans (.setX _ _ _)).trans (.next _ _)))
  refine (forwarded_ok ((group_openChunk s false).trans (calm_group hs)) rfl).trans ?_
  rw [List.headD_cons, freeCtr_openChunk]

/-! The instructions (R267). -/

/-- The register and the immediate forms are one instruction. -/
theorem exec_csrForms {op : CsrOp} {rd : Reg} {i : Instr} {n : Nat} {v : Word} {fld : Nat} (s : State)
    (h : (∃ (rs1 : Reg) (num : BitVec 12), i = csrReg op rd rs1 num ∧ n = num.toNat ∧ v = s.x rs1 ∧ fld = rs1.toNat) ∨
      ∃ (imm : BitVec 5) (num : BitVec 10), i = csrImm op rd imm num ∧ n = num.toNat ∧ v = imm.setWidth 64 ∧ fld = imm.toNat) :
    exec i s = .next (csrInstr s (bitsOf i) op rd n v (decide (fld = 0))) := by
  have hzero (r : BitVec 5) : decide (r.toNat = 0) = decide (r = 0) := by simp [← BitVec.toNat_inj]
  rcases h with ⟨rs1, num, rfl, rfl, rfl, rfl⟩ | ⟨imm, num, rfl, rfl, rfl, rfl⟩
  · rw [hzero]
    cases op <;> rfl
  · rw [hzero]
    cases op <;> rfl

/-- The clocks cannot be written. -/
theorem ne_clock_of_write {s : State} {n : Nat} (h : s.csrRefused n true = false) : ¬ (n = Csr.cycle ∨ n = Csr.time) := by
  rintro (rfl | rfl)
  · exact Bool.noConfusion ((Bool.or_true _).symm.trans h)
  · exact Bool.noConfusion ((Bool.or_true _).symm.trans h)

theorem csrValue_plain {b : State} {n : Nat} {pure0 : Bool} {deliver : Word → State → Res} (hn : ¬ (n = Csr.cycle ∨ n = Csr.time)) :
    b.csrValue n pure0 deliver = deliver (b.readCsr n) b := if_neg hn

/-- The value that a read gives. -/
def State.csrRead (s : State) (op : CsrOp) (n : Nat) : Word :=
  if n = Csr.cycle ∧ op = .rs ∧ s.me.afterSync = some s.pc then BitVec.ofNat 64 s.me.releaseT else s.readCsr n

section
variable {s : State} {w : Word} {op : CsrOp} {rd : Reg} {n : Nat} {v : Word} (hs : s.calm = true)
include hs

theorem csrValue_clock {deliver : Word → State → Res} (hn : n = Csr.cycle ∨ n = Csr.time) :
    (s.openChunk false).csrValue n (decide (op = .rs)) deliver = deliver (s.csrRead op n) (s.openChunk false) := by
  obtain ⟨hafter, hrelease⟩ := afterSync_openChunk s false
  refine (if_pos hn).trans ((forwarded_ok ((group_openChunk s false).trans (calm_group hs)) rfl).trans ?_)
  rw [List.headD_cons, hafter, hrelease, pc_openChunk, readCsr_openChunk, State.csrRead]
  exact congrArg (deliver · _) (if_congr (by rw [decide_eq_true_eq]) rfl rfl)

theorem csrInstr_reads (hop : op ≠ .rw) (hread : s.csrRefused n false = false) :
    WritesX rd (s.csrRead op n) 4 s (csrInstr s w op rd n v true) := by
  refine run_setX_writesX hs ?_
  have hnw : ¬ (op = .rw ∧ rd = 0) := fun h => hop h.1
  simp only [decide_eq_false hop, Bool.not_true, Bool.or_self, csrRefused_openChunk, hread, Bool.false_eq_true, if_false, if_neg hnw, Bool.and_true,
    bind, Except.bind]
  by_cases hn : n = Csr.cycle ∨ n = Csr.time
  · rw [csrValue_clock hs hn]
  · rw [csrValue_plain hn, readCsr_openChunk, State.csrRead, if_neg fun h => hn (.inl h.1)]

theorem csrInstr_sets {zero : Bool} (hwrite : s.csrRefused n true = false) :
    csrInstr s w .rw 0 n v zero = (((s.openChunk false).writeCsr n v).next 4).stays s.pc := by
  refine run_keeps hs ?_ ((KeepsChunk.writeCsr _ _ _).trans (.next _ _))
  simp only [decide_true, Bool.true_or, csrRefused_openChunk, hwrite, Bool.false_eq_true, if_false, and_self, if_true, bind, Except.bind]
  rfl

theorem csrInstr_writes {zero : Bool} (hwrite : s.csrRefused n true = false) (h : op = .rw ∧ rd ≠ 0 ∨ op ≠ .rw ∧ zero = false) :
    csrInstr s w op rd n v zero =
      ((((s.openChunk false).setX rd (s.readCsr n)).writeCsr n (csrNew op (s.readCsr n) v)).next 4).stays s.pc := by
  refine run_keeps hs ?_ (((KeepsChunk.setX _ _ _).trans (.writeCsr _ _ _)).trans (.next _ _))
  have hwrites : (decide (op = .rw) || !zero) = true := by
    rcases h with ⟨rfl, -⟩ | ⟨-, rfl⟩ <;> simp
  have hnw : ¬ (op = .rw ∧ rd = 0) := fun hz => h.elim (fun h => h.2 hz.2) fun h => h.1 hz.1
  simp only [hwrites, csrRefused_openChunk, hwrite, Bool.false_eq_true, if_false, if_neg hnw, if_true, bind, Except.bind]
  rw [csrValue_plain (ne_clock_of_write hwrite), readCsr_openChunk]
  cases op <;> rfl

end

/-! Refusals (R13, R10). -/

theorem exec_csrReg (s : State) (op : CsrOp) (rd rs1 : Reg) (num : BitVec 12) :
    exec (csrReg op rd rs1 num) s = .next (csrInstr s (bitsOf (csrReg op rd rs1 num)) op rd num.toNat (s.x rs1) (decide (rs1 = 0))) := by
  cases op <;> rfl

theorem csrInstr_traps {s : State} {w v : Word} {op : CsrOp} {rd : Reg} {n : Nat} {zero : Bool} (hs : s.loose = true)
    (h : s.csrRefused n (decide (op = .rw) || !zero) = true) : Traps Cause.illegal w 0 s (csrInstr s w op rd n v zero) := by
  refine run_error_traps hs ?_
  simp only [csrRefused_openChunk, h, if_true]
  rfl

theorem csrRefused_of {s : State} {n : Nat} {write : Bool} (h : csrAccess? n = none ∨ (csrAccess? n = some .rwS ∧ s.me.a.mode = .t) ∨
      (csrOfVf n = true ∧ s.owns = false) ∨ (csrAccess? n = some .ro ∧ write = true) ∨
      (csrAccess? n = some .roS ∧ s.me.a.mode = .t ∧ write = true)) : s.csrRefused n write = true := by
  unfold State.csrRefused
  rcases h with h | ⟨h, hm⟩ | ⟨hv, ho⟩ | ⟨h, hw⟩ | ⟨h, hm, hw⟩
  · rw [h]
  · rw [h, hm]
    simp
  · rw [hv, ho]
    cases csrAccess? n <;> simp
  · rw [h, hw]
    simp
  · rw [h, hm, hw]
    simp

end Sys2Proof.Machine

open Sys2Proof Sys2Proof.Machine

theorem csrInstructions : Clause.CsrInstructions := by
  intro op _ s rd i n v fld hs hi
  rw [exec_csrForms s hi]
  refine ⟨fun hop hf hread hn => ⟨_, rfl, ?_⟩, fun hop hf hread hn => ⟨_, rfl, ?_⟩, fun hw hop hrd => ?_, fun hw h => ?_⟩
  · have hv : s.csrRead op n = BitVec.ofNat 64 (if op = .rs ∧ s.me.afterSync = some s.pc then s.me.releaseT else s.cycle) := by
      rw [State.csrRead, apply_ite (BitVec.ofNat 64)]
      simp only [hn, true_and]
      rfl
    rw [← hv, decide_eq_true hf]
    exact csrInstr_reads hs hop hread
  · have hv : s.csrRead op n = s.readCsr n := if_neg fun h => hn h.1
    rw [← hv, decide_eq_true hf]
    exact csrInstr_reads hs hop hread
  · rw [hop, hrd]
    exact congrArg Host.Outcome.next (csrInstr_sets hs hw)
  · exact congrArg Host.Outcome.next (csrInstr_writes hs hw (h.imp_right fun h => ⟨h.1, decide_eq_false h.2⟩))

theorem csrRefusals : Clause.CsrRefusals := by
  intro op _ s rd rs1 num hs n h
  rw [exec_csrReg]
  refine ⟨_, rfl, csrInstr_traps hs (csrRefused_of ?_)⟩
  simpa using h

/-- Settles O35: the one body of the CSR instructions, whose writes leave the chunk alone, and the map's refusals. -/
theorem csrAccess : Obligations.CsrAccess := ⟨csrInstructions, csrRefusals⟩

/-- Settles O37: the reads write one register, and the writes the stochastic state as well. -/
theorem randomState : Obligations.RandomState := by
  intro s rd rs1 hs
  have ha := a_openChunk s false
  refine ⟨⟨_, rfl, run_setX_writesX hs (by rw [ha])⟩, ⟨_, rfl, run_setX_writesX hs (by rw [ha])⟩,
    ⟨_, rfl, rngWrite_writes hs (by rw [ha, x_openChunk])⟩, 
    ⟨_, rfl, rngWrite_writes hs (by rw [ha, x_openChunk])⟩, rndvTime_writes hs rd, rndvEnt_stays hs rd⟩

end
section
/-! Proofs of the statements on the hart instructions (spec/10 R260-R265). -/

namespace Sys2Proof.Machine

/-! What the opening of a chunk leaves of harts and instances. -/

theorem loose_solo {s : State} (hs : s.loose = true) : s.solo = true := by
  simp only [State.solo, Bool.and_eq_true, Option.isNone_iff_eq_none, Bool.not_eq_true']
  exact ⟨⟨calm_group (loose_calm hs), loose_chunk hs⟩, banksBusy_empty (loose_banks hs)⟩

theorem hart_openChunk_ne (s : State) (own : Bool) {h : Nat} (hh : h ≠ s.cur) : (s.openChunk own).hart h = s.hart h :=
  (HartOnly.openChunk s own).others h hh
theorem gang_openChunk (s : State) (own : Bool) : (s.openChunk own).me.gang = s.me.gang := by
  rw [(HartOnly.openChunk s own).me]
  rfl
theorem noticeUntil_openChunk (s : State) (own : Bool) : (s.openChunk own).me.noticeUntil = s.me.noticeUntil := by
  rw [(HartOnly.openChunk s own).me]
  rfl
theorem myInstance_openChunk (s : State) (own : Bool) : (s.openChunk own).myInstance = s.myInstance := by
  have hinstances : (s.openChunk own).instances = s.instances := (HartOnly.openChunk s own).keeps State.instances fun _ _ _ _ _ => rfl
  rw [State.myInstance, (HartOnly.openChunk s own).me, hinstances]
  rfl
theorem partner_openChunk (s : State) (own : Bool) : (s.openChunk own).partner = s.partner := by
  rw [State.partner, myInstance_openChunk, cur_openChunk, State.partner]
theorem unpairedAway_openChunk (s : State) (own : Bool) : (s.openChunk own).unpairedAway = s.unpairedAway := by
  rw [State.unpairedAway, myInstance_openChunk, cur_openChunk, State.unpairedAway]

/-! SPLIT and GANG (R261). -/

/-- A member of a gang of two or more, out of lockstep or in it. -/
theorem gang_mode {s : State} (hgang : 2 ≤ s.me.gang.length) : decide (s.me.gang.length < 2) = false := decide_eq_false (Nat.not_lt.mpr hgang)

theorem split_ends {s : State} (hs : s.solo = true) (hlock : s.me.a.lock = true) (hgang : 2 ≤ s.me.gang.length) : exec .split s = .next
    ((((s.openChunk false).next 4).onMe fun x => { x with a := { x.a with lock := false } }).ends s.pc) := by
  refine congrArg Host.Outcome.next (run_alone hs ?_ rfl rfl)
  simp only [a_openChunk, gang_openChunk, hlock, gang_mode hgang, Bool.not_true, Bool.or_self, Bool.false_eq_true, if_false]
  rfl

/-- The other members as the body of GANG sees them in its chunk. -/
theorem mates_all {s : State} (p : Hart → Bool) :
    ((s.me.gang.filter fun h => decide (h ≠ (s.openChunk false).cur)).all fun h => p ((s.openChunk false).hart h)) = true ↔
      ∀ h ∈ s.mates, p (s.hart h) = true := by
  rw [List.all_eq_true, cur_openChunk]
  refine forall₂_congr fun h hh => ?_
  rw [hart_openChunk_ne s false (by simpa using (List.mem_filter.mp hh).2)]

section
variable {s : State} (hs : s.solo = true) (hlock : s.me.a.lock = false) (hgang : 2 ≤ s.me.gang.length)
include hs hlock hgang

/-- The last member to come finds all others waiting at its address. -/
theorem gang_joins (hnone : s.me.handoff = none) (hall : ∀ h ∈ s.mates, (s.hart h).status = .parked .gang)
    (hpc : ∀ h ∈ s.mates, (s.hart h).a.pc = s.pc) : exec .gang s = .next
      (((((s.mates).foldl (fun u h => u.token h (leBytes 16 (s.openChunk false).gangSeq)) (s.openChunk false)).next 4).inStep
        (s.openChunk false).gangSeq).ends s.pc) := by
  refine congrArg Host.Outcome.next (run_alone hs ?_ rfl rfl)
  have hwait := (mates_all (s := s) fun x => decide (x.status = .parked .gang)).mpr fun h hh => decide_eq_true (hall h hh)
  have hmeet := (mates_all (s := s) fun x => decide (x.a.pc = s.pc)).mpr fun h hh => decide_eq_true (hpc h hh)
  simp only [a_openChunk, hlock, gang_openChunk, gang_mode hgang, Bool.or_self, Bool.false_eq_true, if_false, handoff_openChunk hs, hnone,
    pc_openChunk, Shape.alone]
  refine (if_pos hwait).trans ((if_pos hmeet).trans ?_)
  have hmates : s.mates = s.me.gang.filter (· ≠ (s.openChunk false).cur) := by rw [cur_openChunk, State.mates]
  rw [hmates, State.gangSeq, gang_openChunk]
  rfl

theorem gang_parks (hnone : s.me.handoff = none) (hsome : ∃ h ∈ s.mates, ¬ (s.hart h).status = .parked .gang) :
    exec .gang s = .next (s.parkOn .gang) := by
  refine congrArg Host.Outcome.next (run_handles (e := .park .gang) hs ?_)
  have hwait : ¬ _ := mt (mates_all (s := s) fun x => decide (x.status = .parked .gang)).mp fun h =>
    hsome.elim fun k hk => hk.2 (of_decide_eq_true (h k hk.1))
  simp only [a_openChunk, hlock, gang_openChunk, gang_mode hgang, Bool.or_self, Bool.false_eq_true, if_false, handoff_openChunk hs, hnone,
    pc_openChunk, Shape.alone]
  exact if_neg hwait

theorem gang_follows {k : Handoff} (hk : s.me.handoff = some k) (hlen : k.elem.length = 16) :
    exec .gang s = .next ((((s.openChunk false).next 4).inStep (leNat k.elem)).ends s.pc) := by
  refine congrArg Host.Outcome.next (run_alone hs ?_ rfl rfl)
  simp only [a_openChunk, hlock, gang_openChunk, gang_mode hgang, Bool.or_self, Bool.false_eq_true, if_false, handoff_openChunk hs, hk, hlen,
    Shape.alone]
  rfl

end

theorem split_traps {s : State} (hs : s.loose = true) (hgang : s.me.gang.length < 2) :
    ∃ t, exec .split s = .next t ∧ Traps Cause.illegal (bitsOf .split) 0 s t := by
  refine ⟨_, rfl, run_error_traps hs ?_⟩
  simp only [gang_openChunk, decide_eq_true hgang, Bool.or_true, if_true]
  rfl

theorem gang_traps {s : State} (hs : s.loose = true) (hgang : s.me.gang.length < 2) :
    ∃ t, exec .gang s = .next t ∧ Traps Cause.illegal (bitsOf .gang) 0 s t := by
  refine ⟨_, rfl, run_error_traps hs ?_⟩
  simp only [gang_openChunk, decide_eq_true hgang, Bool.or_true, if_true]
  rfl

/-! PAIR and UNPAIR (R262). -/

theorem partner_ne {s : State} {p : Nat} (h : s.partner = some p) : p ≠ s.cur := by
  obtain ⟨i, -, hi⟩ := Option.bind_eq_some_iff.mp h
  obtain ⟨r, -, hr⟩ := Option.bind_eq_some_iff.mp hi
  have hp := List.find?_some hr
  rw [Bool.and_eq_true] at hp
  exact of_decide_eq_true hp.1

section
variable {s : State} {rd rs1 : Reg}

section
variable (hs : s.solo = true)
include hs

theorem pair_takes {k : Handoff} (hk : s.me.handoff = some k) (hne : k.elem ≠ []) : exec (.pair rd rs1) s = .next
    (((((s.openChunk false).acquire s.cur .core).setX rd (fromBytes false 8 k.elem)).next 4).ends s.pc) := by
  refine congrArg Host.Outcome.next (run_alone hs ?_ rfl rfl)
  have hsome : ¬ k.elem.isEmpty = true := fun h => hne (List.isEmpty_iff.mp h)
  simp only [handoff_openChunk hs, hk, if_neg hsome, Shape.alone, cur_openChunk]
  rfl

variable (hnone : s.me.handoff = none) (hrole : s.csr Csr.pairrole ≠ 0) {p : Nat} (hp : s.partner = some p)
  (hpeer : (s.hart p).csr Csr.pairrole ≠ 0)
include hnone hrole hp hpeer

theorem pair_meets {r : Reg} {v : Word} (hwait : (s.hart p).status = .parked (.pair r v)) : exec (.pair rd rs1) s = .next
    ((((((s.openChunk false).token p (leBytes 8 (s.x rs1).toNat)).acquire s.cur .core).setX rd v).next 4).ends s.pc) := by
  refine congrArg Host.Outcome.next (run_alone hs ?_ rfl rfl)
  simp only [handoff_openChunk hs, hnone, csr_openChunk, if_neg hrole, x_openChunk, partner_openChunk, hp, Shape.alone,
    hart_openChunk_ne s false (partner_ne hp), if_neg hpeer, hwait]
  rw [cur_openChunk]
  rfl

theorem pair_parks (hwait : ∀ r v, (s.hart p).status ≠ .parked (.pair r v)) :
    exec (.pair rd rs1) s = .next (s.parkOn (.pair rd (s.x rs1))) := by
  refine congrArg Host.Outcome.next (run_handles (e := .park (.pair rd (s.x rs1))) hs ?_)
  simp only [handoff_openChunk hs, hnone, csr_openChunk, if_neg hrole, x_openChunk, partner_openChunk, hp, Shape.alone,
    hart_openChunk_ne s false (partner_ne hp), if_neg hpeer]
  rfl

end

theorem pair_traps (hs : s.loose = true) (hnone : s.me.handoff = none) (hrole : s.csr Csr.pairrole ≠ 0) (hp : s.partner = none)
    (haway : s.unpairedAway = true) : ∃ t, exec (.pair rd rs1) s = .next t ∧ Traps Cause.illegal (bitsOf (.pair rd rs1)) 0 s t := by
  refine ⟨_, rfl, run_error_traps hs ?_⟩
  simp only [handoff_openChunk (loose_solo hs), hnone, csr_openChunk, if_neg hrole, x_openChunk, partner_openChunk, hp, unpairedAway_openChunk,
    haway, if_true]
  rfl

theorem KeepsChunk.token (s : State) {h : Nat} (hh : h ≠ s.cur) (b : List Byte) : KeepsChunk s (s.token h b) := by
  have hme : (s.token h b).me = s.me := hart_setHart_ne s _ hh.symm
  exact ⟨by rw [hme], by rw [hme]⟩

theorem unpair_stays (hs : s.calm = true) (hwait : ∀ p, s.partner = some p → ∀ r v, (s.hart p).status ≠ .parked (.pair r v)) :
    exec .unpair s = .next ((((s.openChunk false).setCsr Csr.pairrole 0).next 4).stays s.pc) := by
  refine congrArg Host.Outcome.next (run_keeps hs ?_ ((KeepsChunk.setCsr _ _ _).trans (.next _ _)))
  rw [partner_openChunk]
  cases hp : s.partner with
  | none => rfl
  | some p =>
    dsimp only
    rw [hart_openChunk_ne s false (partner_ne hp)]
    split
    · next r v h => exact absurd h (hwait p hp r v)
    · rfl

theorem unpair_wakes (hs : s.calm = true) {p : Nat} {r : Reg} {v : Word} (hp : s.partner = some p) (hwait : (s.hart p).status = .parked (.pair r v)) :
    exec .unpair s = .next (((((s.openChunk false).token p []).setCsr Csr.pairrole 0).next 4).stays s.pc) := by
  have hne : p ≠ (s.openChunk false).cur := by rw [cur_openChunk]; exact partner_ne hp
  refine congrArg Host.Outcome.next (run_keeps hs ?_ (((KeepsChunk.token _ hne _).trans (.setCsr _ _ _)).trans (.next _ _)))
  simp only [partner_openChunk, hp, hart_openChunk_ne s false (partner_ne hp), hwait]

end

end Sys2Proof.Machine

open Sys2Proof Sys2Proof.Machine

theorem gangModes : Clause.GangModes := fun _ => ⟨split_ends, fun hs hlock hgang =>
  ⟨gang_joins hs hlock hgang, gang_parks hs hlock hgang, fun _ => gang_follows hs hlock hgang⟩,
  fun hs hgang => ⟨split_traps hs hgang, gang_traps hs hgang⟩⟩

theorem pairs : Clause.Pairs := fun _ _ _ hs =>
  ⟨fun _ => pair_takes hs, fun hnone hrole _ hp hpeer => ⟨fun _ _ => pair_meets hs hnone hrole hp hpeer, pair_parks hs hnone hrole hp hpeer⟩,
    pair_traps, unpair_stays, fun hc _ _ _ => unpair_wakes hc⟩

/-- Settles O38: each instruction by what its hart, its mates or its partner stand at. -/
theorem gangsAndPairs : Obligations.GangsAndPairs := ⟨gangModes, pairs⟩

end
section
/-! Proofs of the statements on the vector file's ownership, END and the stops (spec/10 R263-R265). -/

namespace Sys2Proof.Machine

/-! VACQ and VREL (R263). -/

/-- The core of a hart that has taken the free vector file. -/
def Core.takenBy (h : Nat) (k : Core) : Core :=
  { k with owner := some h, vf := VecFile.init, census := [], vacqWait := k.vacqWait.filter (· ≠ h) }

theorem vectorQuiet_ok {s : State} (hcopies : s.myCore.copies = []) (hfills : s.myCore.fills = []) (hbanks : s.myCore.bankLoads = false) :
    s.vectorQuiet = .ok () := by
  simp only [State.vectorQuiet, hcopies, hfills, hbanks, List.find?_nil, List.isEmpty_nil, Bool.not_false, Bool.and_self, if_true]

section
variable {s : State} (hs : s.solo = true)
include hs

theorem vacq_takes (ho : s.owns = false) (hfree : s.myCore.owner = none)
    (hfirst : s.myCore.vacqWait = [] ∨ s.myCore.vacqWait.head? = some s.cur) : exec .vacq s = .next
      (((((s.openChunk false).onMyCore (·.takenBy s.cur)).onMe fun x => { x with a := { x.a with doneMask := 0, doneField := 0 } }).next
        4).ends s.pc) := by
  refine congrArg Host.Outcome.next (run_alone hs ?_ rfl rfl)
  simp only [openChunk_owns, ho, Bool.false_eq_true, if_false, myCore_openChunk, cur_openChunk, Shape.alone]
  exact if_pos ⟨hfree, hfirst⟩

theorem vacq_waits (ho : s.owns = false) (htaken : s.myCore.owner ≠ none) : exec .vacq s = .next
    (((s.openChunk false).onMyCore fun k => if s.cur ∈ k.vacqWait then k else { k with vacqWait := k.vacqWait ++ [s.cur] }).parkOn .vacq) := by
  refine congrArg Host.Outcome.next (run_handles (e := .become _) hs ?_)
  simp only [openChunk_owns, ho, Bool.false_eq_true, if_false, myCore_openChunk, cur_openChunk, Shape.alone]
  exact if_neg fun h => htaken h.1

theorem vrel_ends (ho : s.owns = true) (hcopies : s.myCore.copies = []) (hfills : s.myCore.fills = []) (hbanks : s.myCore.bankLoads = false) :
    exec .vrel s = .next (((s.openChunk false).giveUpVf.next 4).ends s.pc) := by
  refine congrArg Host.Outcome.next (run_alone hs ?_ rfl rfl)
  have hquiet : (s.openChunk false).vectorQuiet = .ok () := by
    rw [← myCore_openChunk s false] at hcopies hfills hbanks
    exact vectorQuiet_ok hcopies hfills hbanks
  simp only [openChunk_owns, ho, Bool.not_true, Bool.false_eq_true, if_false, Shape.alone, hquiet, bind, Except.bind, pure, Except.pure]

end

theorem vacq_traps {s : State} (hs : s.loose = true) (ho : s.owns = true) :
    ∃ t, exec .vacq s = .next t ∧ Traps Cause.illegal (bitsOf .vacq) 0 s t :=
  ⟨_, rfl, run_error_traps hs (if_pos ((openChunk_owns s _).trans ho))⟩

theorem vrel_traps {s : State} (hs : s.loose = true) (ho : s.owns = false) :
    ∃ t, exec .vrel s = .next t ∧ Traps Cause.illegal (bitsOf .vrel) 0 s t := by
  refine ⟨_, rfl, run_error_traps hs ?_⟩
  simp only [openChunk_owns, ho, Bool.not_false, if_true]
  rfl

/-! END (R264, R348). -/

/-- END once the vector file is given up and the remote operations have been looked at. -/
def State.endBody (u : State) : Res :=
  match u.drainRemote 0xFFFF with
  | .error (.park p) => throw (.become (u.parkOn p))
  | .error e => throw e
  | .ok _ =>
    let v := u.release u.cur .device
    match v.myInstance with
    | none => throw (.become v.freeHart)
    | some (id, i) =>
      let i := { i with flags := i.flags ||| (v.csr Csr.fflags).setWidth 6 }
      forwarded v 0
        (fun s => do
          let s ← (if s.lastToEnd i then
              match mapFind? s.launches i.launch with
              | none => .ok s
              | some l => s.complete id i l
            else .ok s)
          return ([], s))
        (fun _ s => .error (.become ((s.leaveInstance id).freeHart)))

section
variable {s u : State}

theorem endHart_handles {e : Exc} (hs : s.solo = true)
    (hu : s.owns = false ∧ u = s.openChunk true ∨
      s.owns = true ∧ s.myCore.copies = [] ∧ s.myCore.fills = [] ∧ s.myCore.bankLoads = false ∧ u = (s.openChunk true).giveUpVf)
    (he : u.endBody = .error e) : exec .endHart s = .next (s.handle e) := by
  refine congrArg Host.Outcome.next (run_handles hs ?_)
  rcases hu with ⟨ho, rfl⟩ | ⟨ho, hcopies, hfills, hbanks, rfl⟩
  · simp only [openChunk_owns, ho, Bool.false_eq_true, if_false, bind, Except.bind, pure, Except.pure, Shape.home]
    exact he
  · have hquiet : (s.openChunk true).vectorQuiet = .ok () := by
      rw [← myCore_openChunk s true] at hcopies hfills hbanks
      exact vectorQuiet_ok hcopies hfills hbanks
    simp only [openChunk_owns, ho, if_true, hquiet, bind, Except.bind, pure, Except.pure, Shape.home]
    exact he

theorem endBody_parks (hu : u.unacked u.cur 0xFFFF = true) : u.endBody = .error (.become (u.parkOn (.acks 0xFFFF))) := by
  rw [State.endBody, drainRemote_parks hu]
  rfl

section
variable (hu : u.unacked u.cur 0xFFFF = false) (hd : ∀ e, u.me.deferred = some e → 0xFFFF / 2 ^ e.rt % 2 = 0)
include hu hd

theorem endBody_alone (hi : (u.release u.cur .device).myInstance = none) :
    u.endBody = .error (.become (u.release u.cur .device).freeHart) := by
  rw [State.endBody, drainRemote_uncovered hu hd]
  dsimp only
  rw [hi]
  rfl

variable {id : Nat} {i : Instance} (hi : (u.release u.cur .device).myInstance = some (id, i)) (hg : (u.release u.cur .device).me.group = none)
include hi hg

theorem endBody_leaves
    (hlast : (u.release u.cur .device).lastToEnd { i with flags := i.flags ||| ((u.release u.cur .device).csr Csr.fflags).setWidth 6 } = false) :
    u.endBody = .error (.become ((u.release u.cur .device).leaveInstance id).freeHart) := by
  rw [State.endBody, drainRemote_uncovered hu hd]
  dsimp only
  rw [hi]
  refine forwarded_ok hg (v := []) ?_
  simp only [hlast, Bool.false_eq_true, if_false]
  rfl

theorem endBody_completes {l : Launch} {w : State}
    (hlast : (u.release u.cur .device).lastToEnd { i with flags := i.flags ||| ((u.release u.cur .device).csr Csr.fflags).setWidth 6 } = true)
    (hl : mapFind? (u.release u.cur .device).launches i.launch = some l)
    (hw : (u.release u.cur .device).complete id { i with flags := i.flags ||| ((u.release u.cur .device).csr Csr.fflags).setWidth 6 } l = .ok w) :
    u.endBody = .error (.become (w.leaveInstance id).freeHart) := by
  rw [State.endBody, drainRemote_uncovered hu hd]
  dsimp only
  rw [hi]
  refine forwarded_ok hg (v := []) ?_
  simp only [hlast, if_true, hl, hw]
  rfl

end
end

/-! YIELD, HALT and TRET (R265, R411). -/

/-- A hart that has taken its notice is to halt at its pre-emption point. -/
def Hart.yields (x : Hart) : Hart := { x with preempt := x.preempt || (x.noticeUntil.isSome && !x.irqPreempt) }

theorem Hart.yields_none {x : Hart} (h : x.noticeUntil = none) : x.yields = x := by
  have hpreempt : (x.preempt || (x.noticeUntil.isSome && !x.irqPreempt)) = x.preempt := by
    rw [h, Option.isSome_none, Bool.false_and, Bool.or_false]
  rw [Hart.yields, hpreempt]

theorem yield_ends {s : State} (hs : s.solo = true) (hn : s.me.noticeUntil = none) :
    exec .yield s = .next (((s.openChunk false).next 4).ends s.pc) := by
  have hkeep : ((s.openChunk false).next 4).onMe Hart.yields = (s.openChunk false).next 4 := by
    rw [State.next, onMe_eq (s.openChunk false), setHart_onMe rfl, Hart.yields_none]
    exact (noticeUntil_openChunk s false).trans hn
  exact congrArg Host.Outcome.next (run_alone hs (congrArg Except.ok hkeep) rfl rfl)

/-- A hart that HALT stops: its own chunk of one instruction is over. -/
def Hart.haltedAt (pc : Word) (x : Hart) : Hart :=
  (Hart.setCsr { x.setPc pc with chunk := none, atVec := false, pending := none } Csr.instret (x.csr Csr.instret + 1)).setStatus .halted

theorem retireAlone_halted (r : State) : (r.next 4).retireAlone.setStatus .halted = r.setHart r.cur (r.me.haltedAt (r.pc + 4)) := by
  simp only [State.next, State.retireAlone, State.setStatus, onMe_eq, setHart_setHart, me_setHart_self, setHart_cur]
  rfl

/-- The state with the halt reported (R411). -/
def State.reportsHalt (b : State) : State := b.report b.me.ctx 0 (b.hartid b.cur).toNat 0 b.pc.toNat 0 0

theorem reportsHalt_outbox (b : State) : ∃ e, b.reportsHalt = { b with outbox := b.outbox ++ [(b.me.ctx, e)] } := ⟨_, rfl⟩

theorem halt_next {s : State} (hs : s.solo = true) (hm : s.me.a.mode = .s) :
    exec .halt s = .next (((s.openChunk false).reportsHalt.next 4).retireAlone.setStatus .halted) := by
  have hmode : ¬ s.me.a.mode = .t := by
    rw [hm]
    exact fun h => nomatch h
  refine congrArg Host.Outcome.next (run_handles (e := .become (((s.openChunk false).reportsHalt.next 4).retireAlone.setStatus .halted)) hs ?_)
  simp only [a_openChunk, if_neg hmode]
  rfl

theorem halt_stops {s : State} (hs : s.loose = true) (hm : s.me.a.mode = .s) : ∃ t, exec .halt s = .next t ∧ t.me.status = .halted ∧
    t.pc = s.pc + 4 ∧ t.me.chunk = none ∧ t.csr Csr.instret = s.csr Csr.instret + 1 ∧ SameRegs { csrs := [Csr.instret] } s t ∧
    (∀ h, h ≠ s.cur → t.hart h = s.hart h) ∧ (∀ c, t.core c = s.core c) ∧ t.mem = s.mem ∧ ∃ e, t.outbox = s.outbox ++ [(s.me.ctx, e)] := by
  have ho := HartOnly.openChunk s false
  have hwf : mapWf 0 s.me.a.csr = true := calm_wf_csr (loose_calm hs)
  have houtbox : (s.openChunk false).outbox = s.outbox := ho.keeps State.outbox fun _ _ _ _ _ => rfl
  have he := halt_next (loose_solo hs) hm
  obtain ⟨e, hreport⟩ := reportsHalt_outbox (s.openChunk false)
  rw [retireAlone_halted, hreport, houtbox, ctx_openChunk] at he
  generalize ht : State.setHart _ _ _ = t at he
  have hcur : t.cur = s.cur := by rw [← ht]; exact ho.cur
  have hme : t.me = (s.me.inChunk (s.chunkNow false)).haltedAt (s.pc + 4) := by
    rw [← pc_openChunk s false, ← ho.me, ← ht]
    exact me_setHart_self _ _
  refine ⟨t, he, ?_, ?_, ?_, ?_, ⟨hcur, fun r _ => ?_, fun r _ => ?_, fun n hn => ?_, ?_, ?_, ?_, fun _ => ?_, fun _ => ?_, ?_, ?_⟩, fun h hh => ?_,
    fun c => ?_, ?_, e, ?_⟩
  · rw [hme]; rfl
  · rw [State.pc, hme]; rfl
  · rw [hme]; rfl
  · rw [csr_eq, hme]
    exact Hart.csr_setCsr_self _ _ _ hwf
  · rw [State.x, hme]; rfl
  · rw [State.f, hme]; rfl
  · rw [csr_eq, hme]
    exact Hart.csr_setCsr_ne _ _ hwf (List.mem_singleton.not.mp hn)
  · rw [hme]; rfl
  · rw [hme]; rfl
  · rw [hme]; rfl
  · rw [hme]; rfl
  · rw [hme]; rfl
  · rw [hme]; rfl
  · rw [hme]; rfl
  · rw [← ht, hart_setHart_ne _ _ (by rwa [← ho.cur] at hh)]
    exact ho.others h hh
  · rw [← ht]
    exact ho.core c
  · rw [← ht]
    exact ho.keeps State.mem fun _ _ _ _ _ => rfl
  · rw [← ht]
    rfl

theorem halt_traps {s : State} (hs : s.loose = true) (hm : s.me.a.mode = .t) :
    ∃ t, exec .halt s = .next t ∧ Traps Cause.illegal (bitsOf .halt) 0 s t := by
  refine ⟨_, rfl, run_error_traps hs ?_⟩
  simp only [a_openChunk, hm, if_true]
  rfl

theorem tret_traps {s : State} (hs : s.loose = true) (hm : s.me.a.mode = .t) :
    ∃ t, exec .tret s = .next t ∧ Traps Cause.illegal (bitsOf .tret) 0 s t := by
  refine ⟨_, rfl, run_error_traps hs ?_⟩
  simp only [a_openChunk, hm, if_true]
  rfl

end Sys2Proof.Machine

open Sys2Proof Sys2Proof.Machine

/-- Settles O39: each instruction by the owner of the file and the waiters before it. -/
theorem vectorOwnership : Obligations.VectorOwnership := fun _ hs =>
  ⟨vacq_takes hs, vacq_waits hs, vrel_ends hs, fun hl => ⟨vacq_traps hl, vrel_traps hl⟩⟩

theorem endOfHart : Clause.EndOfHart := fun _ _ hs hu =>
  ⟨fun ha => endHart_handles hs hu (endBody_parks ha), fun ha hd hg => ⟨fun hi => endHart_handles hs hu (endBody_alone ha hd hi),
    fun _ _ hi => ⟨fun hlast => endHart_handles hs hu (endBody_leaves ha hd hi hg hlast),
      fun hlast _ _ hl hw => endHart_handles hs hu (endBody_completes ha hd hi hg hlast hl hw)⟩⟩⟩

theorem privilegedStops : Clause.PrivilegedStops := fun _ => ⟨yield_ends, halt_stops, fun hs hm => ⟨halt_traps hs hm, tret_traps hs hm⟩⟩

/-- Settles O40: END by what its hart waits for and where it stands in its launch, and the stops by mode. -/
theorem endsAndHalts : Obligations.EndsAndHalts := ⟨endOfHart, privilegedStops⟩

end
section
/-! Proofs of the clauses on copies, vector sends, stripes and vector queues (spec/09 R220-R222; spec/10 R245-R251). -/

namespace Sys2Proof.Machine

/-! A word of unit 7 as an instruction (R52, R241). -/

theorem exec_unit7 {m : Member} {c : Cvy} (hms : c.ms = [m]) (hu : m.op.unit = 7) (s : State) :
    c.exec s = (m.sendOp c s).map c.advance := by
  have hne {op : Vop} (h : op.unit ≠ 7) : m.op ≠ op := fun e => h (e ▸ hu)
  unfold Cvy.exec
  rw [hms]
  dsimp only
  rw [if_neg (hne (by decide)), if_neg (hne (by decide)), if_neg (hne (by decide)), if_neg (by omega), if_pos hu]

/-- A word of unit 7 whose effect completes with `v`, in a chunk of the shape that its operation has. -/
theorem exec_unit7_completes {op : Vop} {w : VWord} {s v : State} {sh : Shape} (hu : op.unit = 7) (hs : s.solo = true)
    (hready : s.vectorReady op w = true) (hshape : convoyShape s [memberOf op w] = sh) (hn : sh.n = 2)
    (hv : (memberOf op w).sendOp ((s.openChunk sh.own).convoy (headerOf op) [memberOf op w]) ((s.openChunk sh.own).noting [memberOf op w]) = .ok v) :
    exec (vopInstr op w) s =
      .next ((((s.openChunk sh.own).convoy (headerOf op) [memberOf op w]).advance v).wrapUp (s.openChunk sh.own)
        ((s.openChunk sh.own).convoy (headerOf op) [memberOf op w]) sh.after) :=
  exec_word_completes hs hready hshape (fun h => absurd (h ▸ hu) (by decide))
    ((exec_unit7 rfl hu _).trans (congrArg (Except.map _) hv)) hn

/-- A word of unit 7 but for the copies has its effect at a home and stands alone between two ends of chunks (R241, R419). -/
theorem convoyShape_send (s : State) {m : Member} (hu : m.op.unit = 7) (hcpv : m.op ≠ .cpv) (hcpvs : m.op ≠ .cpvs) :
    convoyShape s [m] = { before := true, after := true, own := true, n := 2 } := by
  unfold convoyShape
  dsimp only
  split
  case h_9 h => exact absurd h hcpv
  case h_10 h => exact absurd h hcpvs
  case h_13 => exact if_pos hu
  all_goals next h => rw [h] at hu; exact absurd hu (by decide)

/-- A send whose effect completes with `v`. -/
theorem exec_sendWord {op : Vop} {w : VWord} {s v : State} (hop : op ∈ [Vop.cprrArm, .cprrSend, .vrsend, .vrredAdd, .vrredMin, .vrredMax, .venq, .vrld])
    (hs : s.solo = true) (hready : s.vectorReady op w = true)
    (hv : (memberOf op w).sendOp ((s.openChunk true).convoy (headerOf op) [memberOf op w]) ((s.openChunk true).noting [memberOf op w]) = .ok v) :
    exec (vopInstr op w) s =
      .next ((((s.openChunk true).convoy (headerOf op) [memberOf op w]).advance v).wrapUp (s.openChunk true)
        ((s.openChunk true).convoy (headerOf op) [memberOf op w]) true) := by
  obtain ⟨hu, hcpv, hcpvs⟩ : op.unit = 7 ∧ op ≠ .cpv ∧ op ≠ .cpvs := by
    revert hop
    cases op <;> decide
  exact exec_unit7_completes (sh := { before := true, after := true, own := true, n := 2 }) hu hs hready
    (convoyShape_send s hu hcpv hcpvs) rfl hv

/-- A copy is the last of its chunk (R52). -/
theorem exec_copyWord {op : Vop} {w : VWord} {s v : State} (hop : op = .cpv ∨ op = .cpvs) (hs : s.solo = true) (hready : s.vectorReady op w = true)
    (hv : (memberOf op w).copy (s.wordConvoy op w) (s.wordState op w) = .ok v) :
    exec (vopInstr op w) s = .next (((s.wordConvoy op w).advance v).wrapUp (s.openChunk false) (s.wordConvoy op w) true) := by
  have hshape : convoyShape s [memberOf op w] = { before := s.chunkBusy, after := true, own := false, n := 2 } := by
    rcases hop with rfl | rfl <;> rfl
  have hu : op.unit = 7 := by rcases hop with rfl | rfl <;> decide
  refine exec_unit7_completes (sh := { before := s.chunkBusy, after := true, own := false, n := 2 }) hu hs hready hshape rfl ?_
  rcases hop with rfl | rfl <;> exact hv

/-! What the hart reads in the chunk opened for the word. -/

theorem x_noting (s : State) (own : Bool) (ms : List Member) (r : Reg) : ((s.openChunk own).noting ms).x r = s.x r := by
  obtain ⟨ha, -, -⟩ := noting_me s own ms
  show Hart.x _ r = Hart.x _ r
  rw [Hart.x, Hart.x, ha]

theorem rt_noting (s : State) (own : Bool) (ms : List Member) (r : Nat) : ((s.openChunk own).noting ms).me.rt r = s.me.rt r := by
  obtain ⟨ha, -, -⟩ := noting_me s own ms
  rw [Hart.rt, Hart.rt, ha]

theorem noting_group (s : State) (own : Bool) (ms : List Member) : ((s.openChunk own).noting ms).me.group = s.me.group := by
  obtain ⟨-, hgroup, -⟩ := noting_me s own ms
  exact hgroup

/-! Copies (R220-R222). -/

/-- The copy that CPV or CPVS registers: its ranges passed their checks in `u`, and entry i holds them in `v` (R220, R226). -/
theorem copy_registers {m : Member} {c : Cvy} {s u v : State} {a : Acc} {i : Nat} {store : Bool} {wm : Option Nat} {ea : Word} {who : Who}
    (hea : s.x m.w.vs3 = ea) (hwho : s.who s.cur = who)
    (hstore : store = decide (m.op = .cpvs))
    (hwm : wm = if m.w.imm.toNat / 4 % 2 = 1 then some (m.w.imm.toNat / 8 % 16) else none)
    (hbound : ∀ k, wm = some k → mapFind? s.myCore.wm k ≠ none)
    (hcheck : s.check14 who (if store then .store else .load) 8 0 ea (countCode m.w * 256) = .ok (a, u))
    (hfree : store = false → u.myCore.rltHit u.me.ctx false ea.toNat (ea.toNat + countCode m.w * 256) = none)
    (hrange : u.registerRange (!store) ea.toNat (ea.toNat + countCode m.w * 256) = .ok (i, v)) :
    let cp : Copy :=
      { idx := v.tagCtr, hart := v.cur, store := store, vd := m.w.vd.toNat, regs := countCode m.w, ea := ea,
        locs := (List.range (countCode m.w * 32)).map fun k => a.locs.getD (8 * k) 0, efs := a.efs, done := 0, rlt := i, wm := wm, seen := [] }
    let t := (({ v with tagCtr := v.tagCtr + 1 } : State).onMyCore fun k => { k with copies := k.copies ++ [cp] })
    let sent := storeItems ea ((List.range (countCode m.w)).flatMap fun k => leBytes 256 (t.vf.reg (m.w.vd.toNat + k)).toNat)
    m.copy c s = .ok
      (if store then t.onChunk fun q => { q with sig := sent.foldl sigAdd q.sig, engines := [.copy cp.idx] }
       else (t.onChunk fun q => { q with engines := [.copy cp.idx] }).onVf fun f =>
         (List.range (countCode m.w)).foldl (fun f k => f.setReg (m.w.vd.toNat + k) (f.reg (m.w.vd.toNat + k))) f) := by
  intro cp t sent
  subst hea hwho
  rw [Member.copy]
  simp only [← hstore, ← hwm]
  have hstall : (!store && (u.myCore.rltHit u.me.ctx false (s.x m.w.vs3).toNat ((s.x m.w.vs3).toNat + countCode m.w * 256)).isSome &&
      !u.myCore.marked u.me.ctx (s.x m.w.vs3) (countCode m.w * 256)) = false := by
    cases store with
    | true => rfl
    | false => rw [hfree rfl]; rfl
  cases wm with
  | none =>
    refine bind_of_ok hcheck ((if_neg (Bool.eq_false_iff.mp hstall)).trans (bind_of_ok hrange ?_))
    cases store <;> rfl
  | some k =>
    refine (if_neg (by simpa using hbound k rfl)).trans (bind_of_ok hcheck ((if_neg (Bool.eq_false_iff.mp hstall)).trans (bind_of_ok hrange ?_)))
    cases store <;> rfl

/-! Packets (R245-R251). -/

/-- The requests of a load of `regs` registers from `vd` through rt[r] at offset o, one for each element group (R250). -/
def State.requestGroups (s : State) (r o vd regs : Nat) : State :=
  (List.range (2 * regs)).foldl (fun u g => (u.send r (.vload (vd + g / 2) (g % 2)) (o + 128 * g) 128 []).2) s

theorem vrld_requests {m : Member} {s : State} {o : Nat} (ho : (s.x m.w.vs3).toNat = o) (hg : s.me.group = none)
    (hcheck : s.checkSend m.w.vs1.toNat [0, 1] .load o (256 * countCode m.w) 8 = .ok ()) :
    m.vrld s = .ok
      ((((s.requestGroups m.w.vs1.toNat o m.w.vd.toNat (countCode m.w)).onChunk fun q => { q with engines := [.fill] }).onMyCore
        fun k => k.awaitFill m.w.vd.toNat (countCode m.w) fun g =>
          .vrld ((BitVec.ofNat 64 s.tagCtr).toNat + g) m.w.vs1.toNat (o + 128 * g)).onVf fun f =>
        (List.range (countCode m.w)).foldl (fun f k => f.setReg (m.w.vd.toNat + k) (f.reg (m.w.vd.toNat + k))) f) := by
  subst ho
  unfold Member.vrld
  exact (forwarded_ok (v := [BitVec.ofNat 64 s.tagCtr]) (t := s.requestGroups m.w.vs1.toNat (s.x m.w.vs3).toNat m.w.vd.toNat (countCode m.w)) hg
    (bind_of_ok hcheck rfl)).trans rfl

/-- The packets of a copy between vector files, one for each element group, to the registers from `first` on (R251). -/
def State.sendGroups (s : State) (r o vd regs first : Nat) : State :=
  (List.range (2 * regs)).foldl (fun u g => (u.send r (.cprr (first + g / 2) (g % 2)) (o + 128 * g) 128
    (leBytes 128 (u.vf.group (vd + g / 2) (g % 2)).toNat)).2) s

theorem cprr_sends {m : Member} {s : State} {o : Nat} {t : Line} (ho : (s.x m.w.vs3).toNat = o) (ht : s.me.rt m.w.vs1.toNat = t)
    (hg : s.me.group = none)
    (hcheck : s.checkSend m.w.vs1.toNat [6] .store o (256 * countCode m.w) 256 = .ok ()) :
    m.cprr s = .ok (s.sendGroups m.w.vs1.toNat o m.w.vd.toNat (countCode m.w)
      ((tokWbase t + tokNoff t + o) / 256)) := by
  subst ho ht
  unfold Member.cprr
  exact (forwarded_ok (v := []) hg (bind_of_ok hcheck rfl)).trans rfl

theorem vrred_sends {m : Member} {c : Cvy} {s : State} {n o : Nat} (ho : (s.x m.w.vs3).toNat = o) (hg : s.me.group = none)
    (hcheck : s.checkSend m.w.vs1.toNat [3] .reduce o (m.dataBytes c s.vf).length 8 = .ok ()) :
    m.vrred c n s = .ok (if m.dataBytes c s.vf = [] then s
      else s.sendAll m.w.vs1.toNat (.reduce n c.t.fmt c.t.wcode) o (m.dataBytes c s.vf)) := by
  subst ho
  unfold Member.vrred
  refine (forwarded_ok (v := []) (t := if m.dataBytes c s.vf = [] then s
    else s.sendAll m.w.vs1.toNat (.reduce n c.t.fmt c.t.wcode) (s.x m.w.vs3).toNat (m.dataBytes c s.vf)) hg ?_).trans rfl
  refine bind_of_ok hcheck ?_
  by_cases hempty : m.dataBytes c s.vf = []
  · rw [if_pos hempty]
    exact if_pos (List.isEmpty_iff.mpr hempty)
  · rw [if_neg hempty]
    exact if_neg (mt List.isEmpty_iff.mp hempty)

/-! Striped sends (R246). -/

theorem forIn_ok {α : Type} {f : α → Except Exc Unit} {as : List α} (h : ∀ a ∈ as, f a = .ok ()) :
    (forIn as () fun a _ => do f a; pure (ForInStep.yield ())) = (.ok () : Except Exc Unit) := by
  induction as with
  | nil => rfl
  | cons a as ih =>
    rw [List.forIn_cons, h a (.head _)]
    exact ih fun b hb => h b (.tail _ hb)

/-- The stripes of a send through every live member of set n (R246, R320). -/
def State.stripeJob (s : State) (n o : Nat) (set : RSet) (data : List Byte) : SendJob :=
  { id := s.tagCtr, hart := s.cur, ctx := s.me.ctx, set := n, off := o, data := data,
    q := (set.members.filter fun r => decide (r ∉ set.failed)).flatMap fun r => List.replicate (tokStripe (s.me.rt r)) r, sent := 0,
    stripes := (data.length + 255) / 256, failed := set.failed, resend := [], resendPos := 0,
    tokens := set.members.foldl (fun t r => mapPut t r (s.me.rt r)) [] }

theorem vrsend_registers {m : Member} {c : Cvy} {s : State} {set : RSet} {o : Nat} (ho : (s.x m.w.vs3).toNat = o) (hg : s.me.group = none)
    (hset : mapFind? s.me.a.rsets m.w.vs1.toNat = some set) (hmem : set.members ≠ [])
    (hcheck : ∀ r ∈ set.members, s.checkSend r [0, 1] .store o (m.dataBytes c s.vf).length 8 = .ok ())
    (hlive : (set.members.filter fun r => decide (r ∉ set.failed)) ≠ []) (hdata : m.dataBytes c s.vf ≠ []) :
    m.vrsend c s = .ok { s with
      tagCtr := s.tagCtr + 1, jobs := s.jobs ++ [s.stripeJob m.w.vs1.toNat o set (m.dataBytes c s.vf)] } := by
  have hstripes : ((m.dataBytes c s.vf).length + 255) / 256 ≠ 0 := by
    have := List.length_pos_iff.mpr hdata
    omega
  subst ho
  unfold Member.vrsend
  refine (forwarded_ok (v := []) (t := { s with
    tagCtr := s.tagCtr + 1, jobs := s.jobs ++ [s.stripeJob m.w.vs1.toNat (s.x m.w.vs3).toNat set (m.dataBytes c s.vf)] }) hg ?_).trans rfl
  dsimp only
  rw [hset]
  obtain ⟨members, failed⟩ := set
  cases members with
  | nil => exact absurd rfl hmem
  | cons first rest =>
    exact bind_of_ok (forIn_ok hcheck) ((if_neg (mt List.isEmpty_iff.mp hlive)).trans (if_neg hstripes))

/-! Vector queues (R249). -/

/-- VENQ of whole elements: a first pass says whether any is accepted, and then the stores before it are performed (R249, R310). -/
theorem venq_accepts {m : Member} {c : Cvy} {s u t t' : State} {q k k' : Nat} {qva : Word} (hqva : s.x m.w.vs3 = qva)
    (hg : s.me.group = none) (hphase : s.phaseBad = false)
    (haddr : s.qAddr qva = .ok (q, u)) (hok : u.queueOk q .enq = true)
    (hwhole : (m.dataBytes c s.vf).length % (u.queueAt q).esize = 0)
    (hk : u.enqMany u.actor q (u.queueAt q).esize ((m.dataBytes c s.vf).length / (u.queueAt q).esize) (m.dataBytes c s.vf) = .ok (k, t))
    (hk' : (u.qRelease q).enqMany u.actor q (u.queueAt q).esize ((m.dataBytes c s.vf).length / (u.queueAt q).esize) (m.dataBytes c s.vf) =
      .ok (k', t'))
    (hlt : k' < 2 ^ 64) (hes : (u.queueAt q).esize < 2 ^ 64) :
    m.venq c s = .ok
      (if (if k = 0 then 0 else k' * (u.queueAt q).esize) < (m.dataBytes c s.vf).length then
        (if k = 0 then t else t').onVf fun f =>
          { f with vl := BitVec.ofNat 64 ((if k = 0 then 0 else k' * (u.queueAt q).esize) / (c.t.w / 8)), vpad := 0 }
       else if k = 0 then t else t') := by
  subst hqva
  unfold Member.venq
  refine (forwarded_ok (v := if k = 0 then [0, BitVec.ofNat 64 (u.queueAt q).esize] else [BitVec.ofNat 64 k', BitVec.ofNat 64 (u.queueAt q).esize])
    (t := if k = 0 then t else t') hg ?_).trans ?_
  · refine (if_neg (Bool.eq_false_iff.mp hphase)).trans (bind_of_ok haddr (bind_of_ok (homeCheck_ok rfl hok) (bind_of_ok (kindCheck_ok rfl hok)
      ((if_neg (not_not.mpr hwhole)).trans (bind_of_ok hk ?_)))))
    by_cases h0 : k = 0
    · rw [if_pos h0, if_pos h0]
      exact if_pos h0
    · rw [if_neg h0, if_neg h0]
      exact (if_neg h0).trans (bind_of_ok hk' rfl)
  · have hgot {r : List Word} (hr : r = if k = 0 then [0, BitVec.ofNat 64 (u.queueAt q).esize]
        else [BitVec.ofNat 64 k', BitVec.ofNat 64 (u.queueAt q).esize]) :
        (r.headD 0).toNat * (r.getD 1 0).toNat = if k = 0 then 0 else k' * (u.queueAt q).esize := by
      subst hr
      split
      · exact Nat.zero_mul _
      · show (BitVec.ofNat 64 k').toNat * (BitVec.ofNat 64 (u.queueAt q).esize).toNat = _
        rw [BitVec.toNat_ofNat, BitVec.toNat_ofNat, Nat.mod_eq_of_lt hlt, Nat.mod_eq_of_lt hes]
    dsimp only
    rw [hgot rfl]

end Sys2Proof.Machine

open Sys2Proof Sys2Proof.Machine

/-- R220-R222: the checks pass, and the copy is registered. -/
theorem vectorCopies : Clause.VectorCopies := by
  intro op w s u v a i hop hs hready b m c store ea regs n wm hbound hcheck hfree hrange
  have hwho : (s.wordState op w).who (s.wordState op w).cur = s.who s.cur := ((SameHart.openChunk s false).trans (SameHart.onChunk _ _)).who
  have hcore : (s.wordState op w).myCore = s.myCore := noting_myCore s [m]
  exact exec_copyWord hop hs hready (copy_registers (m := m) (store := store) (wm := wm) (x_noting s false [m] w.vs3) hwho rfl rfl
    (by rw [hcore]; exact hbound) hcheck hfree hrange)

/-- R245, R248, R250, R251: each sends its packets where its route checks pass. -/
theorem vectorSends : Clause.VectorSends := by
  intro op w s hs hready b m c v r o vd regs goes
  have hg : v.me.group = none := (noting_group s true [m]).trans (solo_group hs)
  have ho : (v.x m.w.vs3).toNat = o := congrArg BitVec.toNat (x_noting s true [m] w.vs3)
  refine ⟨?_, ?_, ?_, ?_⟩
  · rintro rfl
    exact exec_sendWord (by decide) hs hready rfl
  · rintro rfl hcheck t first
    exact exec_sendWord (by decide) hs hready (cprr_sends ho (rt_noting s true [m] r) hg hcheck)
  · intro n hn data hcheck
    have hred : m.vrred c n v = .ok (if data = [] then v else v.sendAll r (.reduce n c.t.fmt c.t.wcode) o data) := vrred_sends ho hg hcheck
    simp only [List.mem_cons, Prod.mk.injEq, List.not_mem_nil, or_false] at hn
    rcases hn with ⟨rfl, rfl⟩ | ⟨rfl, rfl⟩ | ⟨rfl, rfl⟩ <;> exact exec_sendWord (by decide) hs hready hred
  · rintro rfl hcheck u x
    exact exec_sendWord (by decide) hs hready (vrld_requests ho hg hcheck)

/-- R246, R249: the stripes are registered, and the whole elements go to the queue. -/
theorem vectorStripesAndQueues : Clause.VectorStripesAndQueues := by
  intro w s hs b
  constructor
  · intro hready m c v data set hset hmem hcheck live hlive hdata j
    obtain ⟨ha, -, -⟩ := noting_me s true [m]
    have hrt : v.me.rt = s.me.rt := funext (rt_noting s true [m])
    have hjob : v.stripeJob w.vs1.toNat (s.x w.vs3).toNat set data = j := by rw [State.stripeJob, hrt]
    have hsend := vrsend_registers (m := m) (c := c) (congrArg BitVec.toNat (x_noting s true [m] w.vs3)) ((noting_group s true [m]).trans (solo_group hs))
      (by rw [ha]; exact hset) hmem hcheck hlive hdata
    rw [← hjob]
    exact exec_sendWord (op := .vrsend) (by decide) hs hready hsend
  · intro hready m c v data q u hphase haddr hok es hwhole k t k' t' hk hk' taken x hlt hes
    exact exec_sendWord (op := .venq) (by decide) hs hready (venq_accepts (x_noting s true [m] w.vs3)
      ((noting_group s true [m]).trans (solo_group hs)) hphase haddr hok hwhole hk hk' hlt hes)

/-- Settles O49: the copies, the sends, and the stripes and queues, each through its convoy of one word. -/
theorem vectorSendForms : Obligations.VectorSendForms := ⟨vectorCopies, vectorSends, vectorStripesAndQueues⟩

end
section
/-! Proofs of the statement on the events of the fabric (spec/10 R235-R251, spec/16 R319, spec/17 R325-R339): each event, where the state enables it,
does what its rule says. -/

namespace Sys2Proof.Machine

/-! Switches (R319, R325, R339). -/

theorem hopCause_eq_none_iff (s : State) (p : Packet) (h : Nat) :
    s.hopCause p h = none ↔ tagOk s.fabricKey p.token = true ∧ s.gen (p.hop h).1 = (p.hop h).2 ∧ h < tokHops p.token := by
  by_cases htag : tagOk s.fabricKey p.token = true
  · by_cases hgen : s.gen (p.hop h).1 = (p.hop h).2
    · simp [State.hopCause, htag, hgen]
    · simp [State.hopCause, htag, hgen]
  · simp [State.hopCause, htag]

/-- What becomes of a packet at this device: answered with the cause of the check that it fails, or performed and answered (R327). -/
def State.judged (s : State) (p : Packet) : State :=
  match s.targetCheck p with
  | (.error c, u) => u.answerPacket p (tokHops p.token) (.rejected (BitVec.ofNat 8 c)) 0
  | (.ok e, u) => (u.performPacket p e.tctx).2.2.answerPacket p (tokHops p.token) (u.performPacket p e.tctx).1 (u.performPacket p e.tctx).2.1

theorem fits_bytes {op : PktOp} {b : List Byte} (h : op.fits (.bytes b) = true) : ∃ reg grp, op = .vload reg grp := by
  cases op with
  | vload reg grp => exact ⟨reg, grp, rfl⟩
  | _ => cases h

section
variable {s : State} {tag : Nat} {p : Packet} (hp : s.packet? tag = some p)
include hp

theorem packet?_tag : p.tag = tag := by simpa using List.find?_some hp

theorem switchForward_rejects {h c : Nat} (hat : p.at_ = .going h) (hc : s.hopCause p h = some c) (hlive : s.isOwn p = true ∨ p.orphan = false) :
    exec (.switchForward tag) s = .next (s.answerPacket p h (.rejected (BitVec.ofNat 8 c)) 0) := by
  show execSwitchForward tag s = _
  simp only [execSwitchForward, hp, hat, hc]
  exact if_neg (by rcases hlive with h | h <;> simp [h])

theorem switchForward_stale {h c : Nat} (hat : p.at_ = .going h) (hc : s.hopCause p h = some c) (hown : s.isOwn p = false)
    (horphan : p.orphan = true) : exec (.switchForward tag) s = .next ((s.countStale (p.hop h).1).dropPacket tag) := by
  show execSwitchForward tag s = _
  simp only [execSwitchForward, hp, hat, hc]
  exact if_pos (by simp [hown, horphan])

theorem switchForward_passes {h : Nat} (hat : p.at_ = .going h) (hc : s.hopCause p h = none) (hup : (p.hop h).1 ∉ s.portsDown) :
    exec (.switchForward tag) s =
      .next (s.putPacket { p with at_ := if tokHops p.token ≤ h + 1 then .target else .going (h + 1) }) := by
  show execSwitchForward tag s = _
  simp only [execSwitchForward, hp, hat, hc]
  exact if_neg hup

theorem replyHop_judged {n : Nat} (hat : p.at_ = .reply (n + 1)) :
    exec (.replyHop tag) s = if s.gen (p.hop n).1 ≠ (p.hop n).2 ∧ (p.hop n).1 ∉ p.grace then
        .next ((if s.isOwn p && !p.orphan then s.putPacket { p with at_ := .lost } else s.dropPacket tag).countStale (p.hop n).1)
      else .next (s.replyAt p n) := by
  show execReplyHop tag s = _
  simp only [execReplyHop, hp, hat]

/-- A reply that may pass goes on; at its end it is dropped where its sender waits for none. -/
theorem replyHop_passes {n : Nat} (hat : p.at_ = .reply (n + 1)) (hgen : s.gen (p.hop n).1 = (p.hop n).2 ∨ (p.hop n).1 ∈ p.grace) :
    (n ≠ 0 ∨ (s.isOwn p = true ∧ p.orphan = false) → exec (.replyHop tag) s = .next (s.putPacket { p with at_ := .reply n })) ∧
    (n = 0 → ¬ (s.isOwn p = true ∧ p.orphan = false) → exec (.replyHop tag) s = .next (s.dropPacket tag)) := by
  have hhop : exec (.replyHop tag) s = .next (s.replyAt p n) :=
    (replyHop_judged hp hat).trans (if_neg (by rintro ⟨hne, hout⟩; exact hgen.elim hne hout))
  rw [hhop, State.replyAt, packet?_tag hp]
  refine ⟨fun hgo => congrArg _ (if_neg ?_), fun h0 hnone => congrArg _ (if_pos ⟨h0, ?_⟩)⟩
  · rintro ⟨rfl, hdead⟩
    rcases hgo with h | ⟨hown, horphan⟩
    · exact h rfl
    · simp [hown, horphan] at hdead
  · cases hown : s.isOwn p <;> cases horphan : p.orphan <;> simp_all

theorem replyHop_stale {n : Nat} (hat : p.at_ = .reply (n + 1)) (hgen : s.gen (p.hop n).1 ≠ (p.hop n).2) (hout : (p.hop n).1 ∉ p.grace) :
    exec (.replyHop tag) s =
      .next ((if s.isOwn p && !p.orphan then s.putPacket { p with at_ := .lost } else s.dropPacket tag).countStale (p.hop n).1) :=
  (replyHop_judged hp hat).trans (if_pos ⟨hgen, hout⟩)

/-! The target (R235, R327, R337). -/

theorem targetPerform_moved {tctx line : Nat} (hat : p.at_ = .home tctx) (hmoved : s.movedLine p = some line) :
    exec (.targetPerform tag .here) s = .next (s.answerPacket p (tokHops p.token) (.moved line) 0) := by
  show execTargetPerform tag .here s = _
  simp only [execTargetPerform, hp, hat, hmoved]
  exact if_neg (not_not.mpr rfl)

/-- Performed at its home, and answered from the end of its path. -/
theorem targetPerform_home {tctx : Nat} (hat : p.at_ = .home tctx) (hstays : s.movedLine p = none) :
    exec (.targetPerform tag .here) s =
      .next ((s.performPacket p tctx).2.2.answerPacket p (tokHops p.token) (s.performPacket p tctx).1 (s.performPacket p tctx).2.1) := by
  show execTargetPerform tag .here s = _
  simp only [execTargetPerform, hp, hat, hstays]
  exact if_neg (not_not.mpr rfl)

section
variable (hat : p.at_ = .target) (hfirst : s.mustFollow p = false)
include hat hfirst

/-- Only a group of loaded data is answered with bytes (R250). -/
theorem targetPerform_away {bytes : List Byte} (haway : tokDevice p.token ≠ s.dev.id) (hfits : p.op.fits (.bytes bytes) = true) :
    exec (.targetPerform tag (.bytes bytes)) s = .next (s.answerPacket p (tokHops p.token) (.bytes bytes) 0) := by
  obtain ⟨reg, grp, hload⟩ := fits_bytes hfits
  show execTargetPerform tag (.bytes bytes) s = _
  rw [hload] at hfits
  simp only [execTargetPerform, hp, hat, hload]
  refine (if_neg (Bool.eq_false_iff.mp hfirst)).trans ((if_neg haway).trans ((if_pos hfits).trans ?_))
  rw [if_neg (by exact nofun)]

section
variable (hop : ∀ d t a, p.op ≠ .delegate d t a) (hhere : tokDevice p.token = s.dev.id) (hres : s.cprrAway p = false)
  (hlive : s.isOwn p = true ∨ p.orphan = false)
include hop hhere hres hlive

theorem targetPerform_judges : exec (.targetPerform tag .here) s = .next (s.judged p) := by
  have hstale : ¬ (!s.isOwn p && p.orphan) = true := by rcases hlive with h | h <;> simp [h]
  show execTargetPerform tag .here s = _
  simp only [execTargetPerform, hp, hat]
  refine (if_neg (Bool.eq_false_iff.mp hfirst)).trans ((if_pos hhere).trans ((if_neg (not_not.mpr rfl)).trans ((if_neg hstale).trans
    ((if_neg (Bool.eq_false_iff.mp hres)).trans ?_))))
  rw [State.judged]
  cases s.targetCheck p with
  | mk verdict u => cases verdict <;> rfl

end
end
end

/-! Answers (R241, R242, R246, R250). -/

section
variable {s : State} {tag : Nat} {p : Packet}

theorem remoteReplyArrival_waits {a : RemoteAnswer} (h : s.arrived tag = some (p, a)) (hwaits : p.op.waits = true)
    (hmoved : ∀ line, a ≠ .moved line) (hfirst : s.earlierRejection p = false ∨ ∀ c, a ≠ .rejected c) :
    exec (.remoteReplyArrival tag) s = .next (s.putPacket { p with at_ := .back }) := by
  show execRemoteReplyArrival tag s = _
  cases a with
  | moved line => exact absurd rfl (hmoved line)
  | rejected c =>
    have hearlier : s.earlierRejection p = false := hfirst.resolve_right fun hno => hno c rfl
    simp only [execRemoteReplyArrival, h]
    exact if_pos (by simp [hwaits, hearlier])
  | _ =>
    simp only [execRemoteReplyArrival, h]
    exact if_pos hwaits

theorem remoteAckArrival_posted {v : Word} (h : s.arrived tag = some (p, .performed v)) (hposted : p.op.waits = false) :
    let u := s.dropPacket tag
    let w := if p.flags = 0 then u else u.onReplicas p.sctx p.hart fun x => x.async fun a =>
      { a with csr := mapSet 0 a.csr Csr.fflags (mapGet 0 a.csr Csr.fflags ||| p.flags.setWidth 64) }
    exec (.remoteAckArrival tag) s = .next (match p.op with | .stripe j _ => w.endJob j | _ => w) := by
  intro u w
  show execRemoteAckArrival tag s = _
  simp only [execRemoteAckArrival, h]
  exact (if_neg (Bool.eq_false_iff.mp hposted)).trans rfl

end

/-! Timers (R241, R251, R339). -/

/-- The packet of an operation that the sender gives up: it goes on without it if it is under way, and is gone otherwise (R324, R339). -/
def State.giveUp (s : State) (p : Packet) : State :=
  match p.answer, p.at_ with
  | none, .going _ => s.putPacket { p with orphan := true }
  | none, .target => s.putPacket { p with orphan := true }
  | none, .home _ => s.putPacket { p with orphan := true }
  | some _, .reply (_ + 1) => s.putPacket { p with orphan := true }
  | _, _ => s.dropPacket p.tag

/-- The packet is on its way to its target, at it, or on its way back. -/
def Packet.underWay (p : Packet) : Prop :=
  (p.answer = none ∧ (p.at_ = .target ∨ (∃ h, p.at_ = .going h) ∨ ∃ c, p.at_ = .home c)) ∨
    (p.answer ≠ none ∧ ∃ n, p.at_ = .reply (n + 1))

theorem giveUp_underWay (s : State) {p : Packet} (h : p.underWay) : s.giveUp p = s.putPacket { p with orphan := true } := by
  rcases h with ⟨hans, hat | ⟨_, hat⟩ | ⟨_, hat⟩⟩ | ⟨hans, _, hat⟩
  · simp only [State.giveUp, hans, hat]
  · simp only [State.giveUp, hans, hat]
  · simp only [State.giveUp, hans, hat]
  · obtain ⟨a, ha⟩ := Option.ne_none_iff_exists'.mp hans
    simp only [State.giveUp, ha, hat]

theorem giveUp_done (s : State) {p : Packet} (h : ¬ p.underWay) : s.giveUp p = s.dropPacket p.tag := by
  rw [State.giveUp]
  split
  · next hans hat => exact absurd (.inl ⟨hans, .inr (.inl ⟨_, hat⟩)⟩) h
  · next hans hat => exact absurd (.inl ⟨hans, .inl hat⟩) h
  · next hans hat => exact absurd (.inl ⟨hans, .inr (.inr ⟨_, hat⟩)⟩) h
  · next hans hat => exact absurd (.inr ⟨by simp [hans], _, hat⟩) h
  · rfl

theorem remoteTimeout_gives_up {s : State} {tag : Nat} {p : Packet} (hp : s.packet? tag = some p) (hown : s.isOwn p = true)
    (horphan : p.orphan = false) (hat : p.at_ ≠ .back) (hlate : p.sentAt + 2000000 ≤ s.time) (hready : s.loadReady p = true) :
    let v := ({ s with tagCtr := s.tagCtr + 1 } : State).giveUp p
    let q : Packet := { p with tag := s.tagCtr }
    exec (.remoteTimeout tag) s = .next
      (if p.op.waits then { v with packets := v.packets ++ [{ q with answer := some (.rejected 0x09), at_ := .back }] }
       else v.posted q Cause.routeRevoked) := by
  intro v q
  have hdue : ¬ (!s.isOwn p || p.orphan || decide (p.at_ = .back) || decide (s.time < p.sentAt + 2000000) || !s.loadReady p) = true := by
    simp [hown, horphan, hat, hready, hlate]
  show execRemoteTimeout tag s = _
  simp only [execRemoteTimeout, hp]
  refine (if_neg hdue).trans ?_
  have htag := packet?_tag hp
  subst htag
  by_cases hwaits : p.op.waits = true
  · rw [if_pos hwaits, if_pos hwaits]
    rfl
  · rw [if_neg hwaits, if_neg hwaits]
    rfl

end Sys2Proof.Machine

open Sys2Proof Sys2Proof.Machine

/-- R319, R325, R339: a request through a switch, judged or passed, and a reply back. -/
theorem switchEvents : Clause.SwitchEvents := by
  intro s tag p hp
  refine ⟨fun h hat => ⟨fun c hc => ⟨switchForward_rejects hp hat hc, switchForward_stale hp hat hc⟩, switchForward_passes hp hat,
    hopCause_eq_none_iff s p h⟩, fun n hat => ⟨replyHop_passes hp hat, fun hgen hout => ⟨fun hmine => ?_, fun hmine => ?_⟩⟩⟩
  · obtain ⟨hown, horphan⟩ := hmine
    rw [replyHop_stale hp hat hgen hout, if_pos (by simp [hown, horphan])]
  · rw [replyHop_stale hp hat hgen hout, if_neg (by simpa using hmine)]

/-- R235, R240, R327, R337: this device judges and performs, or takes another module's answer. -/
theorem targetEvents : Clause.TargetEvents := by
  intro s tag p hp answered
  refine ⟨fun hat hfirst hop => ⟨fun hhere hres hlive => ⟨fun e u hcheck => ?_, fun c u hcheck => ?_⟩,
    fun bytes => targetPerform_away hp hat hfirst⟩, fun tctx hat => ⟨fun line => targetPerform_moved hp hat, targetPerform_home hp hat⟩⟩
  · rw [targetPerform_judges hp hat hfirst hop hhere hres hlive, State.judged, hcheck]
  · rw [targetPerform_judges hp hat hfirst hop hhere hres hlive, State.judged, hcheck]

/-- R241, R242, R246, R250, R319, R337: the tests that each event makes of an answer that has arrived. -/
theorem answerEvents : Clause.AnswerEvents := by
  intro s tag p
  refine ⟨fun a => remoteReplyArrival_waits, fun v => remoteAckArrival_posted, fun c h hposted hfirst hready => ?_, fun line h => ?_,
    fun b reg g h hload hall => ?_⟩
  · show execNegativeAckArrival tag s = _
    simp only [execNegativeAckArrival, h]
    exact if_neg (by simp [hposted, hfirst, hready])
  · show execMovedResend tag s = _
    simp only [execMovedResend, h]
  · show execVrldGroupArrival tag g s = _
    simp only [execVrldGroupArrival, h, hload]
    exact if_pos ⟨trivial, hall⟩

/-- R241, R251, R339: the armed group, the microsecond and the 2 ms. -/
theorem timerEvents : Clause.TimerEvents := by
  refine fun s => ⟨fun core reg grp h data howner hheld hreg hgrp harm => ?_, fun tag p hp hat hdue => ?_,
    fun tag p hp hown horphan hback hlate hready => ?_⟩
  · show execCprrGroupArrival core reg grp (s.hart h).ctx data s = _
    simp only [execCprrGroupArrival, howner]
    exact if_pos ⟨by simp, by simp [hheld], hreg, hgrp, harm⟩
  · show execCprrResendTimer tag s = _
    simp only [execCprrResendTimer, hp]
    exact if_pos ⟨hat, hdue⟩
  · intro underWay u q done
    have hgives := remoteTimeout_gives_up hp hown horphan hback hlate hready
    refine ⟨fun hunder => ?_, fun hunder => ?_⟩
    · rw [hgives, giveUp_underWay _ hunder]
    · rw [hgives, giveUp_done _ hunder, packet?_tag hp]

/-- R325, R328, R330, R332, R339: what stands in the way of each event is absent. -/
theorem linkEvents : Clause.LinkEvents := by
  refine fun s => ⟨fun port good hup hfew => if_neg (not_or.mpr ⟨hup, not_le.mpr hfew⟩), fun a b ha hb hab hfails => if_neg ?_,
    fun device ports hother hid hfaces => if_neg ?_, fun stream g hg hrekey => ?_⟩
  · rintro (h | h | h | ⟨h, h'⟩)
    · exact ha h
    · exact hb h
    · exact hab h
    · omega
  · simp only [List.any_eq_true, not_or, not_exists, not_and]
    exact ⟨hother, not_le.mpr hid, fun q hq => by simp [hfaces q hq]⟩
  · show execCipherRekey stream s = _
    simp only [execCipherRekey, hg]
    exact (if_neg (by simp [hrekey])).trans rfl

/-- Settles O52: the events of switches, targets, answers, timers and links, each where the state enables it. -/
theorem fabricEvents : Obligations.FabricEvents := ⟨switchEvents, targetEvents, answerEvents, timerEvents, linkEvents⟩

end
